-- ==== Sys2Proof/Word.lean ====
section
/-!
DEFINITION. The word types of the IL16-A (spec/00 R6, spec/03 R46) and nothing but plain arithmetic on them.
-/
namespace Sys2Proof

/-- A 64-bit word: a g or f register, an address, a special register (R46, R59). -/
abbrev Word := BitVec 64

/-- One byte of memory (R6). -/
abbrev Byte := BitVec 8

/-- A vector register (R46, R49). -/
abbrev Vec := BitVec 1024

/-- A mask register (R46). -/
abbrev KMask := BitVec 128

/-- A 64-byte line, byte 0 in bits 7:0 (R6, R63). -/
abbrev Line := BitVec 512

/-- The 96-bit internal word (R73). -/
abbrev IWord := BitVec 96

/-- The 64 bytes of a continuation record (R25). -/
abbrev Record := BitVec 512

/-- A 96-byte packet of a migration (R262). -/
abbrev Packet96 := BitVec 768

/-- A total map from Nat, written as a list of its entries that differ from a default (Machine/Maps.lean). -/
abbrev TMap (α : Type) := List (Nat × α)

end Sys2Proof
end

