-- ==== Sys2Proof/Config.lean ====
section
/-!
DEFINITION. What one package fixes and the values the manual leaves open. Each open value is an opaque constant:
nothing in Lean can evaluate it, so a statement about it holds for every value (logs 5, 6, 7).
-/
namespace Sys2Proof

/-- Free words, applied to the counter `State.fresh` (log 5). -/
opaque Config.freeWord : Nat → Word

/-- Free bits: a self-test's verdict and whether a spare stands ready (R332, log 5). -/
opaque Config.freeBit : Nat → Bool

/-- The index of the register-file bank that holds a register, by core, context and internal code (R332, log 5). -/
opaque Config.registerBank : Nat → Nat → Nat → Nat

/-- The set of a slice that a line falls in, of the 12,288 that 12 MiB of 16 ways make (R14, R139, log 46). -/
opaque Config.sliceSet : Nat → Nat

/-- The public key whose SHA-256 is fused in the package (R389; log 6). -/
opaque Config.fusedKey : List Byte

/-- The fused minimum major version of an agent kind (R389; log 6). -/
opaque Config.fusedMinVersion : Nat → BitVec 32

/-- Cores of the package (R15). -/
def Config.nCores : Nat := 4096

/-- Contexts of a core (R28). -/
def Config.nContexts : Nat := 16

end Sys2Proof
end

