-- ==== Sys2Proof/Syntax.lean ====
section
/-!
DEFINITION. The steps of the IL16-A: one constructor of `Instr` for each row of the opcode table. An instruction row
carries the fields of its internal word (R70, R73); an issue row carries what expansion left; an event row names the
agent, operation or packet that acts, and what the manual leaves to an outside agent.
-/
namespace Sys2Proof

/-- A source mark (R75): `?reg` is sync, `~reg` is last. -/
inductive Mark where
  | plain | sync | last
  deriving DecidableEq, Repr

/-- The fields of an internal word (R70, R73): register fields, marks, option bits, lookahead, extended immediate. -/
structure Fields where
  d : BitVec 6 := 0
  a : BitVec 6 := 0
  b : BitVec 6 := 0
  c : BitVec 6 := 0
  ma : Mark := .plain
  mb : Mark := .plain
  mc : Mark := .plain
  o : BitVec 2 := 0
  la : BitVec 4 := 0
  imm : BitVec 40 := 0
  deriving DecidableEq, Repr

/-- What a translation is made for (R353, R355). -/
inductive AccKind where
  | read | write | atomic | fetch | writeBack
  deriving DecidableEq, Repr

/-- A partition as the host asks for it (R319, R320, R335, R351, R365, R382): whole dies or whole clusters. -/
structure PartSpec where
  pid : Nat
  clusterGrain : Bool
  units : List Nat
  asids : List Nat
  hostAsid : Nat
  ctrl : Nat
  asdir : Nat
  /-- Bytes of the HDM range (R382). -/
  hdm : Nat := 0
  deriving DecidableEq, Repr

/-- The operands of an event row (the model's own, log 3): which core, context, operation, packet (`k`), engine entry
(`i`), round, router, key and so on acts, and what an outside agent presents: a host's request, an image. -/
structure EvArgs where
  core : Nat := 0
  ctx : Nat := 0
  op : Nat := 0
  k : Nat := 0
  i : Nat := 0
  cluster : Nat := 0
  pid : Nat := 0
  asid : Nat := 0
  seq : Nat := 0
  id : Nat := 0
  round : Nat := 0
  router : Nat := 0
  slice : Nat := 0
  slot : Nat := 0
  unit : Nat := 0
  key : Nat := 0
  n : Nat := 0
  lease : Nat := 0
  va : Word := 0
  acc : AccKind := .read
  user : Bool := true
  flag : Bool := false
  data : Option Word := none
  group : List (Nat × Nat) := []
  image : List Byte := []
  spec : Option PartSpec := none
  deriving DecidableEq, Repr

/-- One constructor per row of the opcode table. Rows with operand fields come first, in the table's order. Rows without
follow: instructions whose usual word has no field, the forms of an encoding that its option bits or register number select (their
fields stand in the internal word that issues, `State.iw`), and event rows (their operands stand in `State.ev`).
Lean's runtime builds no constructor with arguments past the 244th, which fixes this split (log 4). -/
inductive Instr where
  /-- ADD (R118). Writes ga + gb modulo 2^64 to gd. -/
  | add (f : Fields)
  /-- SUB (R118). Writes ga - gb modulo 2^64 to gd. -/
  | sub (f : Fields)
  /-- AND (R118). Writes the bitwise AND of ga and gb to gd. -/
  | and (f : Fields)
  /-- OR (R118). Writes the bitwise OR of ga and gb to gd. -/
  | or (f : Fields)
  /-- XOR (R118). Writes the bitwise XOR of ga and gb to gd. -/
  | xor (f : Fields)
  /-- ANDN (R118). Writes ga AND NOT gb to gd. -/
  | andn (f : Fields)
  /-- SHL (R118). Shifts ga left by gb bits 5:0. -/
  | shl (f : Fields)
  /-- SHR (R118). Shifts ga right by gb bits 5:0, unsigned. -/
  | shr (f : Fields)
  /-- SAR (R118). Shifts ga right by gb bits 5:0, signed. -/
  | sar (f : Fields)
  /-- ROTL (R118). Rotates ga left by gb bits 5:0. -/
  | rotl (f : Fields)
  /-- MUL (R118). Writes the low 64 bits of ga times gb. -/
  | mul (f : Fields)
  /-- MIN_I64 (R118). Writes the signed minimum of ga and gb. -/
  | minI64 (f : Fields)
  /-- MAX_I64 (R118). Writes the signed maximum of ga and gb. -/
  | maxI64 (f : Fields)
  /-- MIN_N64 (R118). Writes the unsigned minimum of ga and gb. -/
  | minN64 (f : Fields)
  /-- MAX_N64 (R118). Writes the unsigned maximum of ga and gb. -/
  | maxN64 (f : Fields)
  /-- CLZ (R119). Counts the leading zero bits of ga. -/
  | clz (f : Fields)
  /-- CTZ (R119). Counts the trailing zero bits of ga. -/
  | ctz (f : Fields)
  /-- POPC (R119). Counts the one bits of ga. -/
  | popc (f : Fields)
  /-- SEXT_I8 (R119). Sign-extends ga bits 7:0. -/
  | sextI8 (f : Fields)
  /-- SEXT_I16 (R119). Sign-extends ga bits 15:0. -/
  | sextI16 (f : Fields)
  /-- SEXT_I32 (R119). Sign-extends ga bits 31:0. -/
  | sextI32 (f : Fields)
  /-- ZEXT_N8 (R119). Zero-extends ga bits 7:0. -/
  | zextN8 (f : Fields)
  /-- ZEXT_N16 (R119). Zero-extends ga bits 15:0. -/
  | zextN16 (f : Fields)
  /-- ZEXT_N32 (R119). Zero-extends ga bits 31:0. -/
  | zextN32 (f : Fields)
  /-- CMP_EQ (R119). Writes 1 if ga equals gb, else 0. -/
  | cmpEq (f : Fields)
  /-- CMP_NE (R119). Writes 1 if ga differs from gb, else 0. -/
  | cmpNe (f : Fields)
  /-- CMP_LT (R119). Writes 1 if ga < gb signed, else 0. -/
  | cmpLt (f : Fields)
  /-- CMP_GE (R119). Writes 1 if ga >= gb signed, else 0. -/
  | cmpGe (f : Fields)
  /-- CMP_LO (R119). Writes 1 if ga < gb unsigned, else 0. -/
  | cmpLo (f : Fields)
  /-- CMP_HS (R119). Writes 1 if ga >= gb unsigned, else 0. -/
  | cmpHs (f : Fields)
  /-- MULH_I64 (R120). Writes bits 127:64 of the signed product. -/
  | mulhI64 (f : Fields)
  /-- MULH_N64 (R120). Writes bits 127:64 of the unsigned product. -/
  | mulhN64 (f : Fields)
  /-- DIV_I64 (R121). Detached signed divide completing 34 ck after issue. -/
  | divI64 (f : Fields)
  /-- DIV_N64 (R121). Detached unsigned divide completing 34 ck after issue. -/
  | divN64 (f : Fields)
  /-- REM_I64 (R121). Detached signed remainder completing 34 ck after issue. -/
  | remI64 (f : Fields)
  /-- REM_N64 (R121). Detached unsigned remainder completing 34 ck after issue. -/
  | remN64 (f : Fields)
  /-- SEL (R120). Writes gb if ga is nonzero, else gc. -/
  | sel (f : Fields)
  /-- BFX (R120). Extracts a bit field of ga described by gb, zero- or sign-extended. -/
  | bfx (f : Fields)
  /-- BFI (R120). Inserts the low bits of ga into a field of gc. -/
  | bfi (f : Fields)
  /-- ADDI (R122). Adds a signed immediate to ga. -/
  | addi (f : Fields)
  /-- LI (R122). Loads a signed immediate shifted by 16·o. -/
  | li (f : Fields)
  /-- LEA (R122). Forms a PC or byte address relative to the own line. -/
  | lea (f : Fields)
  /-- BR (R123). Branches unconditionally to a relative target. -/
  | br (f : Fields)
  /-- CALL (R123). Branches and writes the successor PC as link to gd. -/
  | call (f : Fields)
  /-- BZ (R123). Branches when ga is zero. -/
  | bz (f : Fields)
  /-- BNZ (R123). Branches when ga is nonzero. -/
  | bnz (f : Fields)
  /-- LOOP (R123). Decrements gd and branches while it is nonzero. -/
  | loop (f : Fields)
  /-- BC_EQ (R123). Branches when ga equals gd. -/
  | bcEq (f : Fields)
  /-- BC_NE (R123). Branches when ga differs from gd. -/
  | bcNe (f : Fields)
  /-- BC_LT (R123). Branches when ga < gd signed. -/
  | bcLt (f : Fields)
  /-- BC_GE (R123). Branches when ga >= gd signed. -/
  | bcGe (f : Fields)
  /-- BC_LO (R123). Branches when ga < gd unsigned. -/
  | bcLo (f : Fields)
  /-- BC_HS (R123). Branches when ga >= gd unsigned. -/
  | bcHs (f : Fields)
  /-- JR (R125). Jumps to ga, optionally writing a link to gd. -/
  | jr (f : Fields)
  /-- JT (R125). Table jump to gb + 64·min(ga, gc). -/
  | jt (f : Fields)
  /-- SPT (R126). Safe point: a nop, or a suspension writing the marked live registers when pre-emption is requested. -/
  | spt (f : Fields)
  /-- RDSR (R127). Reads a special register by number, checking privilege and assignment. -/
  | rdsr (f : Fields)
  /-- WRSR (R127). Writes a special register that has no behaviour of its own, checking privilege and assignment. -/
  | wrsr (f : Fields)
  /-- LD_B (R145). Detached 1-byte load, zero- or sign-extended. -/
  | ldB (f : Fields)
  /-- LD_H (R145). Detached 2-byte load, zero- or sign-extended. -/
  | ldH (f : Fields)
  /-- LD_W (R145). Detached 4-byte load, zero- or sign-extended. -/
  | ldW (f : Fields)
  /-- LD_D (R145). Detached 8-byte load into a g register. -/
  | ldD (f : Fields)
  /-- LD_F (R145). Detached 8- or 4-byte load into an f register, boxing FP32. -/
  | ldF (f : Fields)
  /-- ST_B (R145). Posted 1-byte store that fills the containing word. -/
  | stB (f : Fields)
  /-- ST_H (R145). Posted 2-byte store that fills the containing word. -/
  | stH (f : Fields)
  /-- ST_W (R145). Posted 4-byte store that fills the containing word. -/
  | stW (f : Fields)
  /-- ST_D (R145). Posted 8-byte store that fills the word. -/
  | stD (f : Fields)
  /-- ST_F (R145). Posted store of the raw bits of an f register. -/
  | stF (f : Fields)
  /-- PF (R146). Starts a line fill into L1 and the slice without faulting or waiting. -/
  | pf (f : Fields)
  /-- AMO_ADD (R150). Atomic integer add at the home returning the old value. -/
  | amoAdd (f : Fields)
  /-- AMO_AND (R150). Atomic AND at the home returning the old value. -/
  | amoAnd (f : Fields)
  /-- AMO_OR (R150). Atomic OR at the home returning the old value. -/
  | amoOr (f : Fields)
  /-- AMO_XOR (R150). Atomic XOR at the home returning the old value. -/
  | amoXor (f : Fields)
  /-- AMO_MIN (R150). Atomic minimum at the home returning the old value. -/
  | amoMin (f : Fields)
  /-- AMO_MAX (R150). Atomic maximum at the home returning the old value. -/
  | amoMax (f : Fields)
  /-- AMO_SWAP (R150). Atomic swap at the home returning the old value. -/
  | amoSwap (f : Fields)
  /-- AMO_CAS (R150). Atomic compare-and-swap at the home returning the old value. -/
  | amoCas (f : Fields)
  /-- AMO_ADD_F32 (R150). Atomic FP32 add at the home, rounded once. -/
  | amoAddF32 (f : Fields)
  /-- AMO_ADD_F64 (R150). Atomic FP64 add at the home, rounded once. -/
  | amoAddF64 (f : Fields)
  /-- FENCE (R154). Waits until earlier accesses are complete or performed at the scope, ordering later memory instructions. -/
  | fence (f : Fields)
  /-- WB (R155). Posted write-back of dirty cached lines of a range in a scope. -/
  | wb (f : Fields)
  /-- INV (R155). Posted write-back and drop of cached lines of a range, releasing pins. -/
  | inv (f : Fields)
  /-- DISC (R155). Posted discard zeroing a range and filling its words with no write-back. -/
  | disc (f : Fields)
  /-- LDFE_CLR (R147). Synchronising load performed when the word is full, emptying it. -/
  | ldfeClr (f : Fields)
  /-- LDFE_KEEP (R147). Synchronising load performed when the word is full, leaving it full. -/
  | ldfeKeep (f : Fields)
  /-- STFE_WAIT (R147). Synchronising store performed when the word is empty, filling it. -/
  | stfeWait (f : Fields)
  /-- STFE_FAIL (R147). Stores and fills only if the word is empty, reporting success. -/
  | stfeFail (f : Fields)
  /-- SETFE (R147). Posted operation making the word full. -/
  | setfe (f : Fields)
  /-- CLRFE (R147). Posted operation making the word empty. -/
  | clrfe (f : Fields)
  /-- SWARRIVE (R157). Releases and performs an arrival of gb bytes at a sync word, returning gen. -/
  | swarrive (f : Fields)
  /-- SWWAIT (R157). Acquire that completes when the sync word's generation passes gb. -/
  | swwait (f : Fields)
  /-- QBIND (R158). Binds a channel register q8-q15 from a descriptor. -/
  | qbind (f : Fields)
  /-- QMOV (R160). Pops and/or pushes queue registers, submitting engine commands on q0, q2, q4 and q6. -/
  | qmov (f : Fields)
  /-- FADD_F64 (R129). FP64 addition rounded once. -/
  | faddF64 (f : Fields)
  /-- FSUB_F64 (R129). FP64 subtraction rounded once. -/
  | fsubF64 (f : Fields)
  /-- FMUL_F64 (R129). FP64 multiplication rounded once. -/
  | fmulF64 (f : Fields)
  /-- FMIN_F64 (R129). FP64 minimumNumber. -/
  | fminF64 (f : Fields)
  /-- FMAX_F64 (R129). FP64 maximumNumber. -/
  | fmaxF64 (f : Fields)
  /-- FADD_F32 (R129). FP32 addition rounded once and boxed. -/
  | faddF32 (f : Fields)
  /-- FSUB_F32 (R129). FP32 subtraction rounded once and boxed. -/
  | fsubF32 (f : Fields)
  /-- FMUL_F32 (R129). FP32 multiplication rounded once and boxed. -/
  | fmulF32 (f : Fields)
  /-- FMIN_F32 (R129). FP32 minimumNumber. -/
  | fminF32 (f : Fields)
  /-- FMAX_F32 (R129). FP32 maximumNumber. -/
  | fmaxF32 (f : Fields)
  /-- FSGN_F64 (R129). Sets the sign of an FP64 value from b, its inverse or the XOR. -/
  | fsgnF64 (f : Fields)
  /-- FSGN_F32 (R129). Sets the sign of an FP32 value from b, its inverse or the XOR. -/
  | fsgnF32 (f : Fields)
  /-- FMV (R129). Moves 64 bits unchanged between f and g registers. -/
  | fmv (f : Fields)
  /-- FMA_F64 (R130). FP64 fused a·b + c. -/
  | fmaF64 (f : Fields)
  /-- FMS_F64 (R130). FP64 fused a·b - c. -/
  | fmsF64 (f : Fields)
  /-- FNMA_F64 (R130). FP64 fused -(a·b) + c. -/
  | fnmaF64 (f : Fields)
  /-- FMA_F32 (R130). FP32 fused a·b + c. -/
  | fmaF32 (f : Fields)
  /-- FMS_F32 (R130). FP32 fused a·b - c. -/
  | fmsF32 (f : Fields)
  /-- FNMA_F32 (R130). FP32 fused -(a·b) + c. -/
  | fnmaF32 (f : Fields)
  /-- FDIV_F64 (R131). Detached FP64 division completing 26 ck after issue. -/
  | fdivF64 (f : Fields)
  /-- FSQRT_F64 (R131). Detached FP64 square root completing 30 ck after issue. -/
  | fsqrtF64 (f : Fields)
  /-- FDIV_F32 (R131). Detached FP32 division completing 18 ck after issue. -/
  | fdivF32 (f : Fields)
  /-- FSQRT_F32 (R131). Detached FP32 square root completing 20 ck after issue. -/
  | fsqrtF32 (f : Fields)
  /-- FCMP_EQ_F64 (R132). FP64 equality compare to a g register. -/
  | fcmpEqF64 (f : Fields)
  /-- FCMP_LT_F64 (R132). FP64 less-than compare to a g register. -/
  | fcmpLtF64 (f : Fields)
  /-- FCMP_LE_F64 (R132). FP64 less-or-equal compare to a g register. -/
  | fcmpLeF64 (f : Fields)
  /-- FCMP_UN_F64 (R132). FP64 unordered compare to a g register. -/
  | fcmpUnF64 (f : Fields)
  /-- FCMP_EQ_F32 (R132). FP32 equality compare to a g register. -/
  | fcmpEqF32 (f : Fields)
  /-- FCMP_LT_F32 (R132). FP32 less-than compare to a g register. -/
  | fcmpLtF32 (f : Fields)
  /-- FCMP_LE_F32 (R132). FP32 less-or-equal compare to a g register. -/
  | fcmpLeF32 (f : Fields)
  /-- FCMP_UN_F32 (R132). FP32 unordered compare to a g register. -/
  | fcmpUnF32 (f : Fields)
  /-- FCLASS_F64 (R132). Writes the one-hot class mask of an FP64 value. -/
  | fclassF64 (f : Fields)
  /-- FCLASS_F32 (R132). Writes the one-hot class mask of an FP32 value. -/
  | fclassF32 (f : Fields)
  /-- FCVT (R133). Converts a scalar between floating and integer types. -/
  | fcvt (f : Fields)
  /-- VLD (R167). Detached contiguous vector load of active lanes. -/
  | vld (f : Fields)
  /-- VST (R167). Posted contiguous vector store of active lanes. -/
  | vst (f : Fields)
  /-- VLD_S (R167). Detached strided vector load. -/
  | vldS (f : Fields)
  /-- VST_S (R167). Posted strided vector store. -/
  | vstS (f : Fields)
  /-- VGATHER (R167). Detached gather by per-lane offsets. -/
  | vgather (f : Fields)
  /-- VSCATTER (R167). Posted scatter by per-lane offsets. -/
  | vscatter (f : Fields)
  /-- VADD (R170). Lane-wise addition. -/
  | vadd (f : Fields)
  /-- VSUB (R170). Lane-wise subtraction. -/
  | vsub (f : Fields)
  /-- VMUL (R170). Lane-wise multiplication. -/
  | vmul (f : Fields)
  /-- VMIN (R170). Lane-wise minimum. -/
  | vmin (f : Fields)
  /-- VMAX (R170). Lane-wise maximum. -/
  | vmax (f : Fields)
  /-- VABS (R170). Lane-wise absolute value. -/
  | vabs (f : Fields)
  /-- VNEG (R170). Lane-wise negation. -/
  | vneg (f : Fields)
  /-- VFMA (R171). Lane-wise fused a·b + d. -/
  | vfma (f : Fields)
  /-- VFMS (R171). Lane-wise fused a·b - d. -/
  | vfms (f : Fields)
  /-- VDIV (R171). Detached lane-wise division with fixed latency. -/
  | vdiv (f : Fields)
  /-- VSQRT (R171). Detached lane-wise square root with fixed latency. -/
  | vsqrt (f : Fields)
  /-- VAND (R172). Lane-wise AND. -/
  | vand (f : Fields)
  /-- VOR (R172). Lane-wise OR. -/
  | vor (f : Fields)
  /-- VXOR (R172). Lane-wise XOR. -/
  | vxor (f : Fields)
  /-- VSHL (R172). Lane-wise left shift. -/
  | vshl (f : Fields)
  /-- VSHR (R172). Lane-wise logical right shift. -/
  | vshr (f : Fields)
  /-- VSAR (R172). Lane-wise arithmetic right shift. -/
  | vsar (f : Fields)
  /-- VCMP_EQ (R173). Lane-wise equality compare into a mask. -/
  | vcmpEq (f : Fields)
  /-- VCMP_NE (R173). Lane-wise inequality compare into a mask. -/
  | vcmpNe (f : Fields)
  /-- VCMP_LT (R173). Lane-wise less-than compare into a mask. -/
  | vcmpLt (f : Fields)
  /-- VCMP_LE (R173). Lane-wise less-or-equal compare into a mask. -/
  | vcmpLe (f : Fields)
  /-- VCMP_UN (R173). Lane-wise unordered compare into a mask. -/
  | vcmpUn (f : Fields)
  /-- VSEL (R173). Selects each lane from a or b by the mask. -/
  | vsel (f : Fields)
  /-- VCVT (R174). Vector conversion, optionally block-scaled, with outlier appends. -/
  | vcvt (f : Fields)
  /-- VBCAST (R180). Broadcasts a scalar into active lanes. -/
  | vbcast (f : Fields)
  /-- VPERM (R180). Permutes lanes by indices in vb. -/
  | vperm (f : Fields)
  /-- VSLIDE_UP (R180). Slides lanes up by gb. -/
  | vslideUp (f : Fields)
  /-- VSLIDE_DN (R180). Slides lanes down by gb. -/
  | vslideDn (f : Fields)
  /-- VMOV (R180). Copies active lanes. -/
  | vmov (f : Fields)
  /-- VRED_ADD (R181). Pairwise-tree sum of active lanes. -/
  | vredAdd (f : Fields)
  /-- VRED_MIN (R181). Tree minimum of active lanes. -/
  | vredMin (f : Fields)
  /-- VRED_MAX (R181). Tree maximum of active lanes. -/
  | vredMax (f : Fields)
  /-- VSCAN (R181). Sequential prefix sum over active lanes. -/
  | vscan (f : Fields)
  /-- KAND (R182). Mask AND. -/
  | kand (f : Fields)
  /-- KOR (R182). Mask OR. -/
  | kor (f : Fields)
  /-- KXOR (R182). Mask XOR. -/
  | kxor (f : Fields)
  /-- KNOT (R182). Mask NOT. -/
  | knot (f : Fields)
  /-- KSET (R182). Sets a mask from two g registers or a lane count. -/
  | kset (f : Fields)
  /-- KPOP (R182). Counts the one bits of a mask. -/
  | kpop (f : Fields)
  /-- MMA_F64_F64 (R189). Tile multiply-accumulate, FP64 operands into FP64. -/
  | mmaF64F64 (f : Fields)
  /-- MMA_F32_F32 (R189). Tile multiply-accumulate, FP32 into FP32. -/
  | mmaF32F32 (f : Fields)
  /-- MMA_BF16_F32 (R189). Tile multiply-accumulate, BF16 into FP32. -/
  | mmaBf16F32 (f : Fields)
  /-- MMA_F16_F32 (R189). Tile multiply-accumulate, FP16 into FP32. -/
  | mmaF16F32 (f : Fields)
  /-- MMA_BF16_BF16 (R189). Tile multiply-accumulate, BF16 into BF16. -/
  | mmaBf16Bf16 (f : Fields)
  /-- MMA_F16_F16 (R189). Tile multiply-accumulate, FP16 into FP16. -/
  | mmaF16F16 (f : Fields)
  /-- MMA_E4M3_F32 (R189). Scaled tile multiply-accumulate, E4M3 into FP32. -/
  | mmaE4m3F32 (f : Fields)
  /-- MMA_E5M2_F32 (R189). Scaled tile multiply-accumulate, E5M2 into FP32. -/
  | mmaE5m2F32 (f : Fields)
  /-- MMA_E4M3_BF16 (R189). Scaled tile multiply-accumulate, E4M3 into BF16. -/
  | mmaE4m3Bf16 (f : Fields)
  /-- MMA_E5M2_BF16 (R189). Scaled tile multiply-accumulate, E5M2 into BF16. -/
  | mmaE5m2Bf16 (f : Fields)
  /-- MMA_DY8_F32 (R189). Tile multiply-accumulate, DY8 weights by BF16 into FP32. -/
  | mmaDy8F32 (f : Fields)
  /-- MMA_DY8_BF16 (R189). Tile multiply-accumulate, DY8 weights by BF16 into BF16. -/
  | mmaDy8Bf16 (f : Fields)
  /-- MMA_I8_I32 (R189). Tile integer multiply-accumulate, INT8 into INT32. -/
  | mmaI8I32 (f : Fields)
  /-- TLD (R198). Loads a tile from memory into the C buffer. -/
  | tld (f : Fields)
  /-- TST (R198). Stores a tile from the C buffer to memory. -/
  | tst (f : Fields)
  /-- TZERO (R198). Clears the enabled elements of a tile. -/
  | tzero (f : Fields)
  /-- TOUT (R199). Applies outlier-list corrections to a tile. -/
  | tout (f : Fields)
  /-- TPOST (R202). Posts a tile-task record to the cluster tile scheduler. -/
  | tpost (f : Fields)
  /-- TPROG (R200). Waits for earlier tile instructions and releases their stores, reporting outliers and flags. -/
  | tprog (f : Fields)
  /-- SDEF (R219). Reads and checks a stream descriptor, making the handle Defined. -/
  | sdef (f : Fields)
  /-- SOPEN (R219). Opens a stream as a release, resetting position and accumulator. -/
  | sopen (f : Fields)
  /-- SCLOSE (R219). Recalls and gives back the stream context. -/
  | sclose (f : Fields)
  /-- SATTACH (R219). Attaches an operation, initial accumulator and mode to a Defined stream. -/
  | sattach (f : Fields)
  /-- SSAVE (R222). Writes a stream's 64-byte save area. -/
  | ssave (f : Fields)
  /-- SLOAD (R222). Restores a stream from a save area. -/
  | sload (f : Fields)
  /-- SPOP (R220). Consumes and returns one stream element. -/
  | spop (f : Fields)
  /-- SSTEP (R220). Consumes up to a count of elements, folding them. -/
  | sstep (f : Fields)
  /-- SSINK (R220). Delivers the accumulator at the consume position. -/
  | ssink (f : Fields)
  /-- SFLOAT (R220). Clears a recall pin so the stream may float. -/
  | sfloat (f : Fields)
  /-- SRECALL (R220). Recalls the stream and pins it Home. -/
  | srecall (f : Fields)
  /-- SRES (R220). Resets position and accumulator, clearing a pending fault. -/
  | sres (f : Fields)
  /-- SSTAT (R221). Returns a snapshot of the stream's status. -/
  | sstat (f : Fields)
  /-- CPY (R227). Submits a single-run copy command. -/
  | cpy (f : Fields)
  /-- CPYB (R227). Submits a box copy command. -/
  | cpyb (f : Fields)
  /-- MCAST (R227). Submits a box copy delivered to every receiver of a table. -/
  | mcast (f : Fields)
  /-- HWAIT (R238). Waits until a buffer handle is in a state, as an acquire. -/
  | hwait (f : Fields)
  /-- HSET (R238). Moves a buffer handle to a reachable state after its stores are performed. -/
  | hset (f : Fields)
  /-- HFREE (R238). Moves a buffer handle to Free. -/
  | hfree (f : Fields)
  /-- HSTAT (R239). Returns a buffer handle's status word. -/
  | hstat (f : Fields)
  /-- RED_CFG (R240). Configures a collective id once no round is in progress. -/
  | redCfg (f : Fields)
  /-- RED_POST (R242). Posts a contribution to the next round, returning its number. -/
  | redPost (f : Fields)
  /-- RED_GET (R242). Takes the result of the oldest untaken round. -/
  | redGet (f : Fields)
  /-- BS_GET (R247). Consumes n bits from the transform input. -/
  | bsGet (f : Fields)
  /-- BS_PUT (R247). Appends n bits to the transform output. -/
  | bsPut (f : Fields)
  /-- BS_PEEK (R247). Reads n input bits without consuming them. -/
  | bsPeek (f : Fields)
  /-- BS_DEC (R248). Decodes one symbol through a table in W. -/
  | bsDec (f : Fields)
  /-- BS_ALIGN (R247). Aligns or empties the bit reader and writer. -/
  | bsAlign (f : Fields)
  /-- SPAWN (R256). Reads, checks and pushes a continuation record on the own deque. -/
  | spawn (f : Fields)
  /-- FORK (R257). Builds and pushes a record for a child strand. -/
  | fork (f : Fields)
  /-- JOIN (R259). Suspension point sending a record to the join counter. -/
  | join (f : Fields)
  /-- JINIT (R258). Posted store initialising a join counter. -/
  | jinit (f : Fields)
  /-- PARK (R261). Suspends the strand on a memory word's wait list. -/
  | park (f : Fields)
  /-- LD_M (R264). Migrating load that moves the strand to the owning core, or a plain load. -/
  | ldM (f : Fields)
  /-- MIG (R265). Migrates the strand to a named core. -/
  | mig (f : Fields)
  /-- PBIND (R269). Binds the strand to a coordinate register and tag. -/
  | pbind (f : Fields)
  /-- NBR (R271). Searches host and halo cells for neighbours within a radius. -/
  | nbr (f : Fields)
  /-- CELLQ (R272). Returns the core whose cell holds a coordinate. -/
  | cellq (f : Fields)
  /-- HNEW (R289). Creates an Open hypothesis node under a parent. -/
  | hnew (f : Fields)
  /-- HENTER (R290). Sets hyp.cur to a node. -/
  | henter (f : Fields)
  /-- HRES_C (R282). Confirms a node, merging its versions into its parent. -/
  | hresC (f : Fields)
  /-- HRES_R (R283). Refutes a node and its subtree, discarding versions. -/
  | hresR (f : Fields)
  /-- HNSTAT (R292). Reads the core's copy of a node entry. -/
  | hnstat (f : Fields)
  /-- TRAP (R325). Takes a TRAP fault with an immediate code. -/
  | trap (f : Fields)
  /-- IPI (R328). Sends an inter-processor interrupt message to a context. -/
  | ipi (f : Fields)
  /-- XINV (R326). Drops cached translations of a range in the current ASID. -/
  | xinv (f : Fields)
  /-- RMODE_COH (R327). Switches pages to coherent mode, sweeping caches. -/
  | rmodeCoh (f : Fields)
  /-- PMASK (R329). Sets a core's copy permission mask. -/
  | pmask (f : Fields)
  /-- SCSET (R330). Installs a scope table into scope.tab. -/
  | scset (f : Fields)
  /-- CELLSET (R331). Installs the partition's cell map. -/
  | cellset (f : Fields)
  /-- HWTEST (R332). Runs the self-test of one structure, retiring it on failure unless probing. -/
  | hwtest (f : Fields)
  /-- CTXSAVE (R333). Writes full/empty bits, special registers and channels to a save area. -/
  | ctxsave (f : Fields)
  /-- CTXLOAD (R333). Restores full/empty bits, special registers and channels from a save area. -/
  | ctxload (f : Fields)
  /-- NOP (R125). Does nothing but counts as an issued instruction. -/
  | nop
  /-- RET (R125). Jumps to g1 after the ALIGN check of R69. -/
  | ret
  /-- WRSR_HYP_RST (R323). A write of an ASID to hyp.rst discards its versions and frees every node of its table. -/
  | wrsrHypRst
  /-- WRSR_SPILL (R321). A write to spill waits until no arrival is Spilled, then sets the spill area, raising WINDOW if it overruns. -/
  | wrsrSpill
  /-- WRSR_KIPI (R321). A write of ones to kipi clears those pending message bits. -/
  | wrsrKipi
  /-- WRSR_PART (R320). A kernel write of part.asid changes the ASID, raising PERM for an ASID not allotted. -/
  | wrsrPart
  /-- WRSR_KVEC (R321). A write to kvec or dvec sets the trap vector, raising ALIGN on a bad PC. -/
  | wrsrKvec
  /-- QBIND_OFF (R158). Unbinds a channel register, discarding its elements. -/
  | qbindOff
  /-- TPOST_RES (R202). Resumes a paused tile task. -/
  | tpostRes
  /-- TPOST_CAN (R202). Cancels a paused tile task. -/
  | tpostCan
  /-- YIELD (R261). Suspends the strand to the old end of its deque. -/
  | yield
  /-- EXIT (R260). Ends the strand and decrements its join counter as a release. -/
  | exit
  /-- PUNBIND (R269). Removes the strand's position binding and entry. -/
  | punbind
  /-- PPUB (R269). Publishes the current coordinate as a release. -/
  | ppub
  /-- HNEW_RCL (R289). Reclaims a resolved node with no children. -/
  | hnewRcl
  /-- HLEAVE (R290). Sets hyp.cur to the link of the current node. -/
  | hleave
  /-- RETT (R373). Returns from a trap, replaying its record chain. -/
  | rett
  /-- HALT (R325). Ends the strand with no join decrement or release. -/
  | halt
  /-- XINV_ALL (R326). Drops cached translations of a range in every ASID of the partition. -/
  | xinvAll
  /-- RMODE_SW (R327). Switches pages to software-managed mode. -/
  | rmodeSw
  /-- CELLSET_OFF (R331). Removes the cell map when no strand is bound. -/
  | cellsetOff
  /-- ISSUE_ILLEGAL_OPCODE (R78). Issue of an 0xFFF internal word raises ILLEGAL. -/
  | issueIllegalOpcode
  /-- ISSUE_MALFORMED_LINE (R65). Issue of an 0xFFE internal word or a bad head index raises LINE. -/
  | issueMalformedLine
  /-- FETCH_FAULT (R67). A fetch problem at the PC is reported when the instruction would issue. -/
  | fetchFault
  /-- CONTEXT_BIND (R250). A Free context binds a sorus entry, deque entry or steal, loading registers. -/
  | contextBind
  /-- DETACHED_COMPLETION (R33). A detached operation completes, filling its destination and retiring. -/
  | detachedCompletion
  /-- MEMORY_REQUEST_AT_HOME (R134). An access is performed at its home in arrival order. -/
  | memoryRequestAtHome
  /-- PARK_NOTICE (R147). Arrival of a park notice moves the context to Parked. -/
  | parkNotice
  /-- WAKEUP_ARRIVAL (R38). A value from a filled word reaches a parked context, which becomes Ready. -/
  | wakeupArrival
  /-- WAIT_LIMIT_EXPIRY (R39). A context exceeding wlimit in Waiting or Parked traps or sends a withdrawal. -/
  | waitLimitExpiry
  /-- WITHDRAWAL_AT_HOME (R39). The home removes a parked waiter and replies withdrawn, or replies with the value. -/
  | withdrawalAtHome
  /-- POSTED_FAULT_REPORT (R144). A posted operation's later fault is reported to its strand. -/
  | postedFaultReport
  /-- TRAP_ENTRY (R368). A reported fault writes records and enters the handler at kvec or dvec. -/
  | trapEntry
  /-- SAFEPOINT_OVERDUE (R346). A victim exceeding 2,048 issues or waiting under a request takes the fallback trap. -/
  | safepointOverdue
  /-- PREEMPTION_REQUEST (R344). A core requests pre-emption of a lower-priority victim. -/
  | preemptionRequest
  /-- LEASE_EXPIRY_CHECK (R140). A cache line's expiry is checked and marked expired. -/
  | leaseExpiryCheck
  /-- DEQUE_ENTRY_TAKEABLE (R251). A pushed record becomes takeable once the pusher's stores are performed at scope 5. -/
  | dequeEntryTakeable
  /-- STEAL_PROBE (R252). A probe to a neighbour's deque is granted or fails. -/
  | stealProbe
  /-- SORUS_ARRIVAL (R263). A packet arriving at a core becomes Held or Spilled. -/
  | sorusArrival
  /-- SORUS_REFILL (R263). The oldest Spilled arrival moves to Held when room exists. -/
  | sorusRefill
  /-- SORUS_OFFER_EXPIRY (R309). A packet Offered beyond wlimit is withdrawn and its sender takes WAITLIMIT. -/
  | sorusOfferExpiry
  /-- JOIN_AT_COUNTER (R259). A join record decrements the counter, continuing or suspending. -/
  | joinAtCounter
  /-- JOIN_DECREMENT (R260). An exit decrement reaches the counter, resuming a waiting record at zero. -/
  | joinDecrement
  /-- PARK_RECORD_AT_HOME (R261). A park record joins a wait list or is served to the sorus. -/
  | parkRecordAtHome
  /-- CELL_SPLIT (R273). The Rhizoid splits an overfull cell to a standby core. -/
  | cellSplit
  /-- SYNC_WORD_ARRIVAL (R156). An arrival of n bytes advances a sync word and serves swwait waiters. -/
  | syncWordArrival
  /-- STREAM_FLOAT (R214). A Home stream floats to the slice of its next element. -/
  | streamFloat
  /-- STREAM_HOP (R214). A floating stream moves to the slice of its next unread element. -/
  | streamHop
  /-- STREAM_ELEMENT_READ (R215). A stream context reads and folds one element, or records a pending fault. -/
  | streamElementRead
  /-- CONSUME_MESSAGE (R215). A consume message updates p_ctx and triggers the report. -/
  | consumeMessage
  /-- STREAM_RECALL_ARRIVAL (R213). A recalled stream context arrives Home or closes. -/
  | streamRecallArrival
  /-- TILE_TASK_ACCEPT (R203). The scheduler checks a posted record and accepts or rejects it. -/
  | tileTaskAccept
  /-- TILE_TASK_DEPENDENCE_READY (R203). A task starts once its dependence words are full. -/
  | tileTaskDependenceReady
  /-- SUBTILE_COMPLETE (R203). A sub-tile finishes and is committed in number order. -/
  | subtileComplete
  /-- TILE_TASK_PAUSE (R204). A fault pauses a task and reports it to q3. -/
  | tileTaskPause
  /-- TILE_TASK_COMPLETE (R205). A task fills its done word and pushes its completion element. -/
  | tileTaskComplete
  /-- COPY_COMMAND_ACCEPT (R225). The copy engine accepts a command and reads its record. -/
  | copyCommandAccept
  /-- COPY_RUN_START (R228). A command takes a run slot and runs its runs. -/
  | copyRunStart
  /-- COPY_ARRIVAL_SEND (R234). After its writes, a command sends arrivals to receivers' sync words. -/
  | copyArrivalSend
  /-- COPY_COMPLETION (R233). A command produces its completion element. -/
  | copyCompletion
  /-- REDUCTION_CONTRIBUTION (R241). A router folds a contribution or child value toward the root. -/
  | reductionContribution
  /-- REDUCTION_RESULT_ARRIVAL (R242). A round's result reaches a poster. -/
  | reductionResultArrival
  /-- REDUCTION_TIMEOUT (R243). A round timer expires, discarding partial values. -/
  | reductionTimeout
  /-- RESOLVE_AT_SLICE (R284). A slice applies a broadcast resolve as one step. -/
  | resolveAtSlice
  /-- RESOLVE_AT_CORE (R284). A core updates its node-table copy and acknowledges. -/
  | resolveAtCore
  /-- IPI_DELIVERY (R328). A pending interrupt traps the target context with IPI. -/
  | ipiDelivery
  /-- LAUNCH_ACCEPT (R336). The master Rhizoid accepts the next launch record. -/
  | launchAccept
  /-- LAUNCH_SLOT_POLL (R336). A slot whose seq differs is reread every 1,024 ck. -/
  | launchSlotPoll
  /-- LAUNCH_ENTRY_PUSH (R341). A launch entry is pushed to a deque when room exists. -/
  | launchEntryPush
  /-- LAUNCH_PREFETCH (R343). The Rhizoids fetch a launch's prefetch ranges. -/
  | launchPrefetch
  /-- LAUNCH_END (R343). A launch with no strand applies its dead ranges. -/
  | launchEnd
  /-- EVENT_POST (R337). An event is written when the event ring has room. -/
  | eventPost
  /-- PAGE_WALK (R355). A controller walks the page table, faulting or installing a translation. -/
  | pageWalk
  /-- REMAP_FILTER_MISS (R357). A synonym access misses the remap filter and walks. -/
  | remapFilterMiss
  /-- DIRECTORY_READ_MISS (R359). The directory serves an L1 read miss. -/
  | directoryReadMiss
  /-- OWNERSHIP_REQUEST (R359). The directory serves an ownership request. -/
  | ownershipRequest
  /-- L1_WRITE_BACK (R359). A write-back merges at the slice by byte mask. -/
  | l1WriteBack
  /-- SLICE_EVICTION (R359). A slice recalls copies and writes a line back to memory. -/
  | sliceEviction
  /-- EXTENSION_REQUEST (R360). A privatised copy widens its mask or forces a merge. -/
  | extensionRequest
  /-- HOST_M2S_REQUEST (R365). A host CXL.mem request is served by the slice directory. -/
  | hostM2sRequest
  /-- H2D_SNOOP (R366). A host snoop invalidates or downgrades L1 copies. -/
  | h2dSnoop
  /-- EXPANDER_BISNP (R367). A back-invalidate snoop drops the line's copies. -/
  | expanderBisnp
  /-- SOFT_ERROR_DETECTED (R376). An error starts hwtest of the structure, retiring or sparing it. -/
  | softErrorDetected
  /-- CORE_RETIREMENT (R378). A running core's state is copied to the spare. -/
  | coreRetirement
  /-- TRANSPORT_PACKET_RECEIVE (R379). A receiver performs, drops or gap-requests a sequenced packet. -/
  | transportPacketReceive
  /-- TRANSPORT_RESEND_TIMEOUT (R379). An unacknowledged packet is resent after 2,048 ck. -/
  | transportResendTimeout
  /-- LANE_FAILURE (R386). A failed lane is spared, or the link narrows or retires. -/
  | laneFailure
  /-- COLD_RESET (R388). Each die boots, calibrates, tests and trains. -/
  | coldReset
  /-- HOST_PARTITION_CREATE (R388). Firmware creates a partition on host command. -/
  | hostPartitionCreate
  /-- FIRMWARE_SWITCH (R390). A staged image takes over one agent. -/
  | firmwareSwitch
  /-- POWER_SAMPLE (R391). Power is sampled every 1 µs into a 10 ms average. -/
  | powerSample
  /-- THROTTLE_STEP (R391). Every 10 µs the throttle applies or releases one step. -/
  | throttleStep
  /-- RHIZOID_FORCED_FALLBACK (R346). The Rhizoid forces the trap-based fallback on a group of contexts, each taking SAFEPOINT-OVERDUE with faulting address 1 at its next issue. -/
  | rhizoidForcedFallback
  /-- RECALIBRATION (R390). A service recalibration of one DRAM channel or one link lane holds only that channel's or lane's traffic while it runs. -/
  | recalibration
  /-- ASID_ALLOTMENT_END (R275). Firmware withdraws an ASID's allotment, discarding its node table and every version line of that ASID. -/
  | asidAllotmentEnd
  /-- HOST_BISNP_REPLY (R365). The host's reply to a BISnp arrives, so the directory clears the host bit and goes on with the grant or change it had held. -/
  | hostBisnpReply
  /-- LINE_FETCH_ARRIVAL (R143). A line read by a memory controller from device DRAM, far memory or host memory returns to its slice, completing the miss or reporting its fault. -/
  | lineFetchArrival
  deriving DecidableEq, Repr

end Sys2Proof
end

