-- ==== Sys2Proof/WellFormed.lean ====
section
/-!
DEFINITION. Which fields an instruction may hold: for every row, the class and use of its four register fields, the
marks it accepts, whether it detaches, and the values its option bits and immediate may take (R70 to R78 and the
encoding rules of the chapters that own the instructions).
-/
namespace Sys2Proof

/-- The class of a register field (R74); `raw` carries a small number, `none` must be zero. -/
inductive Cls where
  | none | g | f | v | k | s | q | raw
  deriving DecidableEq, Repr

/-- How many field values name a member of the class (R74). -/
def Cls.size : Cls → Nat
  | .none => 1
  | .g => 64
  | .f => 32
  | .v => 32
  | .k => 8
  | .s => 16
  | .q => 16
  | .raw => 64

/-- The internal code of a field (R74); an unused field is 0xFF, a raw one carries its value. -/
def Cls.code (c : Cls) (x : Nat) : Nat :=
  match c with
  | .none => 0xFF
  | .g => x
  | .f => 0x40 + x
  | .v => 0x60 + x
  | .k => 0x80 + x
  | .s => 0x90 + x
  | .q => 0xA0 + x
  | .raw => x

/-- Which marks a field accepts (R75, R164): none, any, or any unless it names member 0. -/
inductive MarkRule where
  | never | any | notZero
  deriving DecidableEq, Repr

/-- The use of one register field. -/
structure Fd where
  cls : Cls := .none
  rd : Bool := false
  wr : Bool := false
  mrk : MarkRule := .never
  deriving DecidableEq, Repr

/-- What one row accepts in its fields. -/
structure Shape where
  f : Fields
  op : Nat
  d : Fd := {}
  a : Fd := {}
  b : Fd := {}
  c : Fd := {}
  iLay : Bool := false
  sgn : Bool := false
  det : Bool := false
  ok : Bool := true
  deriving DecidableEq, Repr

namespace Enc

def gW : Fd := { cls := .g, wr := true }
/-- A g field that takes marks, on g0 too, where R47 gives them their meaning: the model's choice (log 59). -/
def gR : Fd := { cls := .g, rd := true, mrk := .any }
def gr : Fd := { cls := .g, rd := true }
def gRW : Fd := { cls := .g, rd := true, wr := true }
def fW : Fd := { cls := .f, wr := true }
def fR : Fd := { cls := .f, rd := true, mrk := .any }
def fr : Fd := { cls := .f, rd := true }
def vW : Fd := { cls := .v, wr := true }
def vR : Fd := { cls := .v, rd := true, mrk := .any }
def vr : Fd := { cls := .v, rd := true }
def vRW : Fd := { cls := .v, rd := true, wr := true }
def kW : Fd := { cls := .k, wr := true }
def kR : Fd := { cls := .k, rd := true, mrk := .notZero }
def kM : Fd := { cls := .k, rd := true, mrk := .notZero }
def sH : Fd := { cls := .s }
def qP : Fd := { cls := .q }
def q8 : Fd := { cls := .q }
def raw : Fd := { cls := .raw }
def no : Fd := {}

/-- Immediate bits `lo + len − 1 : lo`. -/
def immF (lo len : Nat) (f : Fields) : Nat := f.imm.toNat / 2 ^ lo % 2 ^ len

/-- Option bit `k`. -/
def oBit (k : Nat) (f : Fields) : Bool := f.o.getLsbD k

def o0 (f : Fields) : Bool := f.o == 0
def o0or (k : Nat) (f : Fields) : Bool := f.o == 0 || f.o.toNat == k
def oUpTo (k : Nat) (f : Fields) : Bool := decide (f.o.toNat ≤ k)
def i0 (f : Fields) : Bool := f.imm == 0
def z (f : Fields) : Bool := o0 f && i0 f

/-- The immediate is below `n`. -/
def immUpTo (n : Nat) (f : Fields) : Bool := decide (f.imm.toNat < n)

/-- A relative target names a head index of 0 to 30 (R68, R78). -/
def relOk (f : Fields) : Bool := immF 0 5 f != 31

/-- Numbers of special registers whose write is a row of its own. -/
def srOwn (n : Nat) : Bool := n == 0x101 || n == 0x102 || n == 0x104 || n == 0x110 || n == 0x111 || n == 0x112

/-- A rounding override that is not reserved (R76). -/
def rmOk (f : Fields) : Bool := immF 4 3 f == 0 || decide (4 ≤ immF 4 3 f)

/-- An immediate that holds a rounding override and nothing else (R116). -/
def rmOnly (f : Fields) : Bool := rmOk f && immF 0 4 f == 0 && immF 7 33 f == 0

/-- A lease field of 0 to 8 (R145). -/
def leaseOk (f : Fields) : Bool := decide (f.c.toNat ≤ 8)

/-- A scope id that is not reserved (R154). -/
def scopeOk (f : Fields) : Bool := decide (f.c.toNat < 32) && f.c != 7

/-- The immediate of an integer atomic (R149). -/
def amoOk (f : Fields) : Bool :=
  (immF 0 4 f == 2 || immF 0 4 f == 3 || immF 0 4 f == 6 || immF 0 4 f == 7) && immF 4 4 f == 0 &&
    immF 8 5 f != 7 && immF 13 27 f == 0

/-- The immediate of a floating atomic (R149). -/
def amoFOk (f : Fields) : Bool :=
  immF 0 4 f == 0 && rmOk f && immF 7 1 f == 0 && immF 8 5 f != 7 && immF 13 27 f == 0

/-- The type pair of `fcvt` (R133). -/
def fcvtOk (f : Fields) : Bool :=
  immF 11 29 f == 0 && decide (immF 0 4 f < 12) && decide (immF 7 4 f < 12) &&
    (decide (8 ≤ immF 0 4 f) || decide (8 ≤ immF 7 4 f))

/-- The immediate of a vector memory instruction (R166). -/
def vmemOk (f : Fields) : Bool :=
  decide (immF 4 4 f ≤ 8) && (oBit 1 f || immF 8 2 f == 0) && immF 10 30 f == 0

/-- The element type code of the vector majors (R162). -/
def vtOf (f : Fields) : Nat := immF 0 4 f ^^^ 8

/-- The element type lies in `lo` to `hi − 1` (R163). -/
def vtIn (lo hi : Nat) (f : Fields) : Bool := decide (lo ≤ vtOf f) && decide (vtOf f < hi)

/-- Width of a type code (R77). -/
def tyW (ty : Nat) : Nat :=
  if ty == 0 || ty == 4 || decide (12 ≤ ty) then 8
  else if ty == 1 || ty == 5 || ty == 10 || ty == 11 then 16
  else if ty == 2 || ty == 6 || ty == 9 then 32 else 64

/-- Whether a type code is E4M3, E5M2 or DY8. -/
def tyNarrow (ty : Nat) : Bool := ty == 12 || ty == 13 || ty == 14

/-- Whether a type code is FP64, FP32, FP16 or BF16. -/
def tyWide (ty : Nat) : Bool := decide (8 ≤ ty) && decide (ty < 12)

/-- The type pairs of `vcvt` (R175). -/
def vcvtPair (d s : Nat) : Bool :=
  (tyWide d && decide (s < 15)) || (tyWide s && decide (d < 15))

/-- The immediate of `vcvt` (R174, R175). -/
def vcvtOk (f : Fields) : Bool :=
  let d := immF 0 4 f
  let s := immF 7 4 f
  let bsz := immF 11 2 f
  vcvtPair d s && decide (immF 13 3 f < max (tyW d) (tyW s) / min (tyW d) (tyW s)) && immF 16 24 f == 0 &&
    bsz != 3 &&
    (bsz == 0 || (((tyNarrow d && tyWide s) || (tyNarrow s && tyWide d)) &&
      decide (8 * 2 ^ bsz ≤ 1024 / max (tyW d) (tyW s))))

/-- Field b of `vcvt` (R174, R176): absent, the scales written, or the scales read. -/
def vcvtB (f : Fields) : Fd := if immF 11 2 f == 0 then no else if tyNarrow (immF 0 4 f) then gW else gR

/-- Operand pairs lie in 1 to 54 (R185). -/
def pairA (f : Fields) : Bool := decide (1 ≤ f.a.toNat) && decide (f.a.toNat ≤ 54)
def pairAB (f : Fields) : Bool := pairA f && decide (1 ≤ f.b.toNat) && decide (f.b.toNat ≤ 54)

/-- Field c of a scaled tile instruction (R187, R197). -/
def scaleC (f : Fields) : Fd := if oBit 0 f then fr else no

/-- The accumulator types of major 0x2D (R197). -/
def tileC (ty : Nat) : Bool := tyWide ty || ty == 2

/-- The types of `tld` and `tst` (R197). -/
def tileTy (f : Fields) : Bool :=
  let c := immF 0 4 f
  let m := immF 9 4 f
  (tyWide c && decide (8 ≤ m) && decide (m < 15)) || (c == 2 && m == 2)

/-- The immediate of `sattach` (R209, R219). -/
def sattachOk (f : Fields) : Bool :=
  decide (immF 0 4 f < 12) && immF 7 33 f == 0 && rmOk f &&
    (immF 4 3 f == 0 || (decide (8 ≤ immF 0 4 f) && decide (f.o.toNat < 2)))

/-- The literal count of a bit-stream minor (R247). -/
def bsImm (f : Fields) : Bool := if f.o == 0 then i0 f else immUpTo 128 f

end Enc

open Enc

/-- The shape of every instruction row; none for issue and event rows. `g` are the fields of the internal word, for the
rows that carry none. Which fields carry marks is each chapter's word; that the ka and kb of major 0x28 (but for k0) and the g and
f value sources of `vbcast`, `vcvt` and `kset` carry them is the model's reading of R75 beside R164 (log 59). -/
def Instr.shape (g : Fields) : Instr → Option Shape
  | .add f => some { f, op := 0x000, d := gW, a := gR, b := gR, ok := z f }
  | .sub f => some { f, op := 0x001, d := gW, a := gR, b := gR, ok := z f }
  | .and f => some { f, op := 0x002, d := gW, a := gR, b := gR, ok := z f }
  | .or f => some { f, op := 0x003, d := gW, a := gR, b := gR, ok := z f }
  | .xor f => some { f, op := 0x004, d := gW, a := gR, b := gR, ok := z f }
  | .andn f => some { f, op := 0x005, d := gW, a := gR, b := gR, ok := z f }
  | .shl f => some { f, op := 0x006, d := gW, a := gR, b := gR, ok := z f }
  | .shr f => some { f, op := 0x007, d := gW, a := gR, b := gR, ok := z f }
  | .sar f => some { f, op := 0x008, d := gW, a := gR, b := gR, ok := z f }
  | .rotl f => some { f, op := 0x009, d := gW, a := gR, b := gR, ok := z f }
  | .mul f => some { f, op := 0x00A, d := gW, a := gR, b := gR, ok := z f }
  | .minI64 f => some { f, op := 0x00B, d := gW, a := gR, b := gR, ok := z f }
  | .maxI64 f => some { f, op := 0x00C, d := gW, a := gR, b := gR, ok := z f }
  | .minN64 f => some { f, op := 0x00D, d := gW, a := gR, b := gR, ok := z f }
  | .maxN64 f => some { f, op := 0x00E, d := gW, a := gR, b := gR, ok := z f }
  | .clz f => some { f, op := 0x010, d := gW, a := gR, ok := z f }
  | .ctz f => some { f, op := 0x011, d := gW, a := gR, ok := z f }
  | .popc f => some { f, op := 0x012, d := gW, a := gR, ok := z f }
  | .sextI8 f => some { f, op := 0x013, d := gW, a := gR, ok := z f }
  | .sextI16 f => some { f, op := 0x014, d := gW, a := gR, ok := z f }
  | .sextI32 f => some { f, op := 0x015, d := gW, a := gR, ok := z f }
  | .zextN8 f => some { f, op := 0x016, d := gW, a := gR, ok := z f }
  | .zextN16 f => some { f, op := 0x017, d := gW, a := gR, ok := z f }
  | .zextN32 f => some { f, op := 0x018, d := gW, a := gR, ok := z f }
  | .cmpEq f => some { f, op := 0x019, d := gW, a := gR, b := gR, ok := z f }
  | .cmpNe f => some { f, op := 0x01A, d := gW, a := gR, b := gR, ok := z f }
  | .cmpLt f => some { f, op := 0x01B, d := gW, a := gR, b := gR, ok := z f }
  | .cmpGe f => some { f, op := 0x01C, d := gW, a := gR, b := gR, ok := z f }
  | .cmpLo f => some { f, op := 0x01D, d := gW, a := gR, b := gR, ok := z f }
  | .cmpHs f => some { f, op := 0x01E, d := gW, a := gR, b := gR, ok := z f }
  | .mulhI64 f => some { f, op := 0x020, d := gW, a := gR, b := gR, ok := z f }
  | .mulhN64 f => some { f, op := 0x021, d := gW, a := gR, b := gR, ok := z f }
  | .divI64 f => some { f, op := 0x022, d := gW, a := gR, b := gR, det := true, ok := z f }
  | .divN64 f => some { f, op := 0x023, d := gW, a := gR, b := gR, det := true, ok := z f }
  | .remI64 f => some { f, op := 0x024, d := gW, a := gR, b := gR, det := true, ok := z f }
  | .remN64 f => some { f, op := 0x025, d := gW, a := gR, b := gR, det := true, ok := z f }
  | .sel f => some { f, op := 0x026, d := gW, a := gR, b := gR, c := gR, ok := z f }
  | .bfx f => some { f, op := 0x027, d := gW, a := gR, b := gR, ok := oUpTo 1 f && i0 f }
  | .bfi f => some { f, op := 0x028, d := gW, a := gR, b := gR, c := gR, ok := z f }
  | .addi f => some { f, op := 0x030, d := gW, a := gR, iLay := true, sgn := true, ok := o0 f }
  | .li f => some { f, op := 0x031, d := gW, iLay := true, sgn := true }
  | .lea f => some { f, op := 0x032, d := gW, iLay := true, sgn := true, ok := oUpTo 1 f && (f.o == 1 || relOk f) }
  | .br f => some { f, op := 0x040, iLay := true, sgn := true, ok := o0 f && relOk f }
  | .call f => some { f, op := 0x041, d := gW, iLay := true, sgn := true, ok := o0 f && relOk f }
  | .bz f => some { f, op := 0x042, a := gR, iLay := true, sgn := true, ok := o0 f && relOk f }
  | .bnz f => some { f, op := 0x043, a := gR, iLay := true, sgn := true, ok := o0 f && relOk f }
  | .loop f => some { f, op := 0x044, d := gRW, iLay := true, sgn := true, ok := o0 f && relOk f && f.d != 0 }
  | .bcEq f => some { f, op := 0x045, d := gr, a := gR, iLay := true, sgn := true, ok := o0 f && relOk f }
  | .bcNe f => some { f, op := 0x046, d := gr, a := gR, iLay := true, sgn := true, ok := o0 f && relOk f }
  | .bcLt f => some { f, op := 0x047, d := gr, a := gR, iLay := true, sgn := true, ok := o0 f && relOk f }
  | .bcGe f => some { f, op := 0x048, d := gr, a := gR, iLay := true, sgn := true, ok := o0 f && relOk f }
  | .bcLo f => some { f, op := 0x049, d := gr, a := gR, iLay := true, sgn := true, ok := o0 f && relOk f }
  | .bcHs f => some { f, op := 0x04A, d := gr, a := gR, iLay := true, sgn := true, ok := o0 f && relOk f }
  | .nop => some { f := g, op := 0x050, ok := z g }
  | .ret => some { f := g, op := 0x051, ok := z g }
  | .jr f => some { f, op := 0x052, d := gW, a := gR, ok := z f }
  | .jt f => some { f, op := 0x053, a := gR, b := gR, c := gR, ok := z f }
  | .spt f => some { f, op := 0x054, iLay := true, ok := o0 f && immUpTo (2 ^ 31) f }
  | .rdsr f => some { f, op := 0x055, d := gW, iLay := true, ok := o0 f && immUpTo 1024 f }
  | .wrsr f => some { f, op := 0x056, a := gR, iLay := true, ok := o0 f && immUpTo 1024 f && !srOwn (f.imm.toNat) }
  | .wrsrHypRst => some { f := g, op := 0x056, a := gR, iLay := true, ok := o0 g && g.imm == 0x112 }
  | .wrsrSpill => some { f := g, op := 0x056, a := gR, iLay := true, ok := o0 g && g.imm == 0x111 }
  | .wrsrKipi => some { f := g, op := 0x056, a := gR, iLay := true, ok := o0 g && g.imm == 0x104 }
  | .wrsrPart => some { f := g, op := 0x056, a := gR, iLay := true, ok := o0 g && g.imm == 0x110 }
  | .wrsrKvec => some { f := g, op := 0x056, a := gR, iLay := true, ok := o0 g && (g.imm == 0x101 || g.imm == 0x102) }
  | .ldB f => some { f, op := 0x100, d := gW, a := gR, b := gR, c := raw, det := true, ok := leaseOk f }
  | .ldH f => some { f, op := 0x101, d := gW, a := gR, b := gR, c := raw, det := true, ok := leaseOk f }
  | .ldW f => some { f, op := 0x102, d := gW, a := gR, b := gR, c := raw, det := true, ok := leaseOk f }
  | .ldD f => some { f, op := 0x103, d := gW, a := gR, b := gR, c := raw, det := true, ok := leaseOk f && !oBit 0 f }
  | .ldF f => some { f, op := 0x104, d := fW, a := gR, b := gR, c := raw, det := true, ok := leaseOk f }
  | .stB f => some { f, op := 0x105, d := gr, a := gR, b := gR, c := raw, ok := leaseOk f && !oBit 0 f }
  | .stH f => some { f, op := 0x106, d := gr, a := gR, b := gR, c := raw, ok := leaseOk f && !oBit 0 f }
  | .stW f => some { f, op := 0x107, d := gr, a := gR, b := gR, c := raw, ok := leaseOk f && !oBit 0 f }
  | .stD f => some { f, op := 0x108, d := gr, a := gR, b := gR, c := raw, ok := leaseOk f && !oBit 0 f }
  | .stF f => some { f, op := 0x109, d := fr, a := gR, b := gR, c := raw, ok := leaseOk f }
  | .pf f => some { f, op := 0x10A, a := gR, b := gR, c := raw, ok := leaseOk f && !oBit 0 f }
  | .amoAdd f => some { f, op := 0x110, d := gW, a := gR, b := gR, det := true, ok := o0 f && amoOk f }
  | .amoAnd f => some { f, op := 0x111, d := gW, a := gR, b := gR, det := true, ok := o0 f && amoOk f }
  | .amoOr f => some { f, op := 0x112, d := gW, a := gR, b := gR, det := true, ok := o0 f && amoOk f }
  | .amoXor f => some { f, op := 0x113, d := gW, a := gR, b := gR, det := true, ok := o0 f && amoOk f }
  | .amoMin f => some { f, op := 0x114, d := gW, a := gR, b := gR, det := true, ok := o0 f && amoOk f }
  | .amoMax f => some { f, op := 0x115, d := gW, a := gR, b := gR, det := true, ok := o0 f && amoOk f }
  | .amoSwap f => some { f, op := 0x116, d := gW, a := gR, b := gR, det := true, ok := o0 f && amoOk f }
  | .amoCas f => some { f, op := 0x117, d := gW, a := gR, b := gR, c := gR, det := true, ok := o0 f && amoOk f }
  | .amoAddF32 f => some { f, op := 0x118, d := fW, a := gR, b := fR, det := true, ok := o0 f && amoFOk f }
  | .amoAddF64 f => some { f, op := 0x119, d := fW, a := gR, b := fR, det := true, ok := o0 f && amoFOk f }
  | .fence f => some { f, op := 0x120, c := raw, ok := oUpTo 1 f && i0 f && scopeOk f }
  | .wb f => some { f, op := 0x121, a := gR, b := gR, c := raw, ok := z f && scopeOk f }
  | .inv f => some { f, op := 0x122, a := gR, b := gR, c := raw, ok := z f && scopeOk f }
  | .disc f => some { f, op := 0x123, a := gR, b := gR, ok := z f }
  | .ldfeClr f => some { f, op := 0x180, d := gW, a := gR, b := gR, det := true, ok := !oBit 0 f }
  | .ldfeKeep f => some { f, op := 0x181, d := gW, a := gR, b := gR, det := true, ok := !oBit 0 f }
  | .stfeWait f => some { f, op := 0x182, d := gr, a := gR, b := gR, det := true, ok := !oBit 0 f }
  | .stfeFail f => some { f, op := 0x183, d := gW, a := gR, b := gR, c := gR, det := true, ok := !oBit 0 f }
  | .setfe f => some { f, op := 0x184, a := gR, b := gR, ok := !oBit 0 f }
  | .clrfe f => some { f, op := 0x185, a := gR, b := gR, ok := !oBit 0 f }
  | .swarrive f => some { f, op := 0x190, d := gW, a := gR, b := gR, c := raw, det := true, ok := !oBit 0 f && scopeOk f }
  | .swwait f => some { f, op := 0x191, d := gW, a := gR, b := gR, det := true, ok := !oBit 0 f }
  | .qbind f => some { f, op := 0x192, d := q8, a := gR, ok := z f }
  | .qbindOff => some { f := g, op := 0x192, d := q8, ok := g.o == 1 && i0 g }
  | .qmov f => some { f, op := 0x193, d := (if f.o == 1 then gW else qP), a := (if f.o == 0 then gR else qP), ok := oUpTo 2 f && i0 f }
  | .faddF64 f => some { f, op := 0x1C0, d := fW, a := fR, b := fR, ok := o0 f && rmOnly f }
  | .fsubF64 f => some { f, op := 0x1C1, d := fW, a := fR, b := fR, ok := o0 f && rmOnly f }
  | .fmulF64 f => some { f, op := 0x1C2, d := fW, a := fR, b := fR, ok := o0 f && rmOnly f }
  | .fminF64 f => some { f, op := 0x1C3, d := fW, a := fR, b := fR, ok := z f }
  | .fmaxF64 f => some { f, op := 0x1C4, d := fW, a := fR, b := fR, ok := z f }
  | .faddF32 f => some { f, op := 0x1C5, d := fW, a := fR, b := fR, ok := o0 f && rmOnly f }
  | .fsubF32 f => some { f, op := 0x1C6, d := fW, a := fR, b := fR, ok := o0 f && rmOnly f }
  | .fmulF32 f => some { f, op := 0x1C7, d := fW, a := fR, b := fR, ok := o0 f && rmOnly f }
  | .fminF32 f => some { f, op := 0x1C8, d := fW, a := fR, b := fR, ok := z f }
  | .fmaxF32 f => some { f, op := 0x1C9, d := fW, a := fR, b := fR, ok := z f }
  | .fsgnF64 f => some { f, op := 0x1CA, d := fW, a := fR, b := fR, ok := oUpTo 2 f && i0 f }
  | .fsgnF32 f => some { f, op := 0x1CB, d := fW, a := fR, b := fR, ok := oUpTo 2 f && i0 f }
  | .fmv f => some { f, op := 0x1CC, d := (if oBit 0 f then gW else fW), a := (if oBit 1 f then gR else fR), ok := i0 f }
  | .fmaF64 f => some { f, op := 0x1D0, d := fW, a := fR, b := fR, c := fR, ok := o0 f && rmOnly f }
  | .fmsF64 f => some { f, op := 0x1D1, d := fW, a := fR, b := fR, c := fR, ok := o0 f && rmOnly f }
  | .fnmaF64 f => some { f, op := 0x1D2, d := fW, a := fR, b := fR, c := fR, ok := o0 f && rmOnly f }
  | .fmaF32 f => some { f, op := 0x1D3, d := fW, a := fR, b := fR, c := fR, ok := o0 f && rmOnly f }
  | .fmsF32 f => some { f, op := 0x1D4, d := fW, a := fR, b := fR, c := fR, ok := o0 f && rmOnly f }
  | .fnmaF32 f => some { f, op := 0x1D5, d := fW, a := fR, b := fR, c := fR, ok := o0 f && rmOnly f }
  | .fdivF64 f => some { f, op := 0x1D6, d := fW, a := fR, b := fR, det := true, ok := o0 f && rmOnly f }
  | .fsqrtF64 f => some { f, op := 0x1D7, d := fW, a := fR, det := true, ok := o0 f && rmOnly f }
  | .fdivF32 f => some { f, op := 0x1D8, d := fW, a := fR, b := fR, det := true, ok := o0 f && rmOnly f }
  | .fsqrtF32 f => some { f, op := 0x1D9, d := fW, a := fR, det := true, ok := o0 f && rmOnly f }
  | .fcmpEqF64 f => some { f, op := 0x1E0, d := gW, a := fR, b := fR, ok := z f }
  | .fcmpLtF64 f => some { f, op := 0x1E1, d := gW, a := fR, b := fR, ok := z f }
  | .fcmpLeF64 f => some { f, op := 0x1E2, d := gW, a := fR, b := fR, ok := z f }
  | .fcmpUnF64 f => some { f, op := 0x1E3, d := gW, a := fR, b := fR, ok := z f }
  | .fcmpEqF32 f => some { f, op := 0x1E4, d := gW, a := fR, b := fR, ok := z f }
  | .fcmpLtF32 f => some { f, op := 0x1E5, d := gW, a := fR, b := fR, ok := z f }
  | .fcmpLeF32 f => some { f, op := 0x1E6, d := gW, a := fR, b := fR, ok := z f }
  | .fcmpUnF32 f => some { f, op := 0x1E7, d := gW, a := fR, b := fR, ok := z f }
  | .fclassF64 f => some { f, op := 0x1E8, d := gW, a := fR, ok := z f }
  | .fclassF32 f => some { f, op := 0x1E9, d := gW, a := fR, ok := z f }
  | .fcvt f => some { f, op := 0x1F0, d := (if immF 0 4 f < 8 then gW else fW), a := (if immF 7 4 f < 8 then gR else fR), ok := o0 f && rmOk f && fcvtOk f }
  | .vld f => some { f, op := 0x200, d := vW, a := gr, b := gr, c := kM, det := true, ok := vmemOk f && !oBit 0 f }
  | .vst f => some { f, op := 0x201, d := vr, a := gr, b := gr, c := kM, ok := vmemOk f && !oBit 0 f }
  | .vldS f => some { f, op := 0x202, d := vW, a := gr, b := gr, c := kM, det := true, ok := vmemOk f && !oBit 0 f }
  | .vstS f => some { f, op := 0x203, d := vr, a := gr, b := gr, c := kM, ok := vmemOk f && !oBit 0 f }
  | .vgather f => some { f, op := 0x204, d := vW, a := gr, b := vR, c := kM, det := true, ok := vmemOk f }
  | .vscatter f => some { f, op := 0x205, d := vr, a := gr, b := vR, c := kM, ok := vmemOk f }
  | .vadd f => some { f, op := 0x210, d := vW, a := vR, b := vR, c := kM, ok := o0 f && vtIn 0 12 f && rmOk f && immF 7 9 f == 0 }
  | .vsub f => some { f, op := 0x211, d := vW, a := vR, b := vR, c := kM, ok := o0 f && vtIn 0 12 f && rmOk f && immF 7 9 f == 0 }
  | .vmul f => some { f, op := 0x212, d := vW, a := vR, b := vR, c := kM, ok := o0 f && vtIn 0 12 f && rmOk f && immF 7 9 f == 0 }
  | .vmin f => some { f, op := 0x213, d := vW, a := vR, b := vR, c := kM, ok := o0 f && vtIn 0 12 f && immF 4 12 f == 0 }
  | .vmax f => some { f, op := 0x214, d := vW, a := vR, b := vR, c := kM, ok := o0 f && vtIn 0 12 f && immF 4 12 f == 0 }
  | .vabs f => some { f, op := 0x215, d := vW, a := vR, c := kM, ok := o0 f && vtIn 0 12 f && immF 4 12 f == 0 }
  | .vneg f => some { f, op := 0x216, d := vW, a := vR, c := kM, ok := o0 f && vtIn 0 12 f && immF 4 12 f == 0 }
  | .vfma f => some { f, op := 0x220, d := vRW, a := vR, b := vR, c := kM, ok := o0 f && vtIn 8 12 f && rmOk f && immF 7 9 f == 0 }
  | .vfms f => some { f, op := 0x221, d := vRW, a := vR, b := vR, c := kM, ok := o0 f && vtIn 8 12 f && rmOk f && immF 7 9 f == 0 }
  | .vdiv f => some { f, op := 0x222, d := vW, a := vR, b := vR, c := kM, det := true, ok := o0 f && vtIn 8 12 f && rmOk f && immF 7 9 f == 0 }
  | .vsqrt f => some { f, op := 0x223, d := vW, a := vR, c := kM, det := true, ok := o0 f && vtIn 8 12 f && rmOk f && immF 7 9 f == 0 }
  | .vand f => some { f, op := 0x230, d := vW, a := vR, b := vR, c := kM, ok := o0 f && vtIn 0 8 f && immF 4 12 f == 0 }
  | .vor f => some { f, op := 0x231, d := vW, a := vR, b := vR, c := kM, ok := o0 f && vtIn 0 8 f && immF 4 12 f == 0 }
  | .vxor f => some { f, op := 0x232, d := vW, a := vR, b := vR, c := kM, ok := o0 f && vtIn 0 8 f && immF 4 12 f == 0 }
  | .vshl f => some { f, op := 0x233, d := vW, a := vR, b := vR, c := kM, ok := o0 f && vtIn 0 8 f && immF 4 12 f == 0 }
  | .vshr f => some { f, op := 0x234, d := vW, a := vR, b := vR, c := kM, ok := o0 f && vtIn 0 8 f && immF 4 12 f == 0 }
  | .vsar f => some { f, op := 0x235, d := vW, a := vR, b := vR, c := kM, ok := o0 f && vtIn 0 8 f && immF 4 12 f == 0 }
  | .vcmpEq f => some { f, op := 0x240, d := kW, a := vR, b := vR, c := kM, ok := o0 f && vtIn 0 12 f && immF 4 12 f == 0 }
  | .vcmpNe f => some { f, op := 0x241, d := kW, a := vR, b := vR, c := kM, ok := o0 f && vtIn 0 12 f && immF 4 12 f == 0 }
  | .vcmpLt f => some { f, op := 0x242, d := kW, a := vR, b := vR, c := kM, ok := o0 f && vtIn 0 12 f && immF 4 12 f == 0 }
  | .vcmpLe f => some { f, op := 0x243, d := kW, a := vR, b := vR, c := kM, ok := o0 f && vtIn 0 12 f && immF 4 12 f == 0 }
  | .vcmpUn f => some { f, op := 0x244, d := kW, a := vR, b := vR, c := kM, ok := o0 f && vtIn 8 12 f && immF 4 12 f == 0 }
  | .vsel f => some { f, op := 0x245, d := vW, a := vR, b := vR, c := kM, ok := o0 f && immF 4 12 f == 0 }
  | .vcvt f => some { f, op := 0x250, d := vW, a := vR, b := vcvtB f, c := kM, ok := o0 f && rmOk f && vcvtOk f }
  | .vbcast f => some { f, op := 0x260, d := vW, a := (if f.o == 1 then fR else gR), c := kM, ok := oUpTo 1 f && immF 4 12 f == 0 }
  | .vperm f => some { f, op := 0x261, d := vW, a := vR, b := vR, c := kM, ok := o0 f && immF 4 12 f == 0 }
  | .vslideUp f => some { f, op := 0x262, d := vW, a := vR, b := gr, c := kM, ok := o0 f && immF 4 12 f == 0 }
  | .vslideDn f => some { f, op := 0x263, d := vW, a := vR, b := gr, c := kM, ok := o0 f && immF 4 12 f == 0 }
  | .vmov f => some { f, op := 0x264, d := vW, a := vR, c := kM, ok := o0 f && immF 4 12 f == 0 }
  | .vredAdd f => some { f, op := 0x270, d := (if vtOf f < 8 then gW else fW), a := vR, c := kM, ok := o0 f && vtIn 0 12 f && rmOk f && immF 7 9 f == 0 }
  | .vredMin f => some { f, op := 0x271, d := (if vtOf f < 8 then gW else fW), a := vR, c := kM, ok := o0 f && vtIn 0 12 f && immF 4 12 f == 0 }
  | .vredMax f => some { f, op := 0x272, d := (if vtOf f < 8 then gW else fW), a := vR, c := kM, ok := o0 f && vtIn 0 12 f && immF 4 12 f == 0 }
  | .vscan f => some { f, op := 0x273, d := vW, a := vR, c := kM, ok := o0 f && vtIn 0 12 f && rmOk f && immF 7 9 f == 0 }
  | .kand f => some { f, op := 0x280, d := kW, a := kR, b := kR, ok := z f }
  | .kor f => some { f, op := 0x281, d := kW, a := kR, b := kR, ok := z f }
  | .kxor f => some { f, op := 0x282, d := kW, a := kR, b := kR, ok := z f }
  | .knot f => some { f, op := 0x283, d := kW, a := kR, ok := z f }
  | .kset f => some { f, op := 0x284, d := kW, a := (if f.o == 0 then gR else gr), b := (if f.o == 0 then gR else no), ok := oUpTo 1 f && i0 f }
  | .kpop f => some { f, op := 0x285, d := gW, a := kR, ok := z f }
  | .mmaF64F64 f => some { f, op := 0x2C0, d := gr, a := gr, b := gr, det := true, ok := o0or 2 f && pairAB f && immF 0 4 f == 0 && rmOk f && immF 9 4 f == 0 }
  | .mmaF32F32 f => some { f, op := 0x2C1, d := gr, a := gr, b := gr, det := true, ok := o0or 2 f && pairAB f && immF 0 4 f == 0 && rmOk f && immF 9 4 f == 0 }
  | .mmaBf16F32 f => some { f, op := 0x2C2, d := gr, a := gr, b := gr, det := true, ok := o0or 2 f && pairAB f && immF 0 4 f == 0 && rmOk f && immF 9 4 f == 0 }
  | .mmaF16F32 f => some { f, op := 0x2C3, d := gr, a := gr, b := gr, det := true, ok := o0or 2 f && pairAB f && immF 0 4 f == 0 && rmOk f && immF 9 4 f == 0 }
  | .mmaBf16Bf16 f => some { f, op := 0x2C4, d := gr, a := gr, b := gr, det := true, ok := o0or 2 f && pairAB f && immF 0 4 f == 0 && rmOk f && immF 9 4 f == 0 }
  | .mmaF16F16 f => some { f, op := 0x2C5, d := gr, a := gr, b := gr, det := true, ok := o0or 2 f && pairAB f && immF 0 4 f == 0 && rmOk f && immF 9 4 f == 0 }
  | .mmaE4m3F32 f => some { f, op := 0x2C6, d := gr, a := gr, b := gr, c := scaleC f, det := true, ok := pairAB f && immF 0 4 f == 0 && rmOk f && immF 9 4 f == 0 }
  | .mmaE5m2F32 f => some { f, op := 0x2C7, d := gr, a := gr, b := gr, c := scaleC f, det := true, ok := pairAB f && immF 0 4 f == 0 && rmOk f && immF 9 4 f == 0 }
  | .mmaE4m3Bf16 f => some { f, op := 0x2C8, d := gr, a := gr, b := gr, c := scaleC f, det := true, ok := pairAB f && immF 0 4 f == 0 && rmOk f && immF 9 4 f == 0 }
  | .mmaE5m2Bf16 f => some { f, op := 0x2C9, d := gr, a := gr, b := gr, c := scaleC f, det := true, ok := pairAB f && immF 0 4 f == 0 && rmOk f && immF 9 4 f == 0 }
  | .mmaDy8F32 f => some { f, op := 0x2CA, d := gr, a := gr, b := gr, c := scaleC f, det := true, ok := pairAB f && immF 0 4 f == 0 && rmOk f && immF 9 4 f == 0 }
  | .mmaDy8Bf16 f => some { f, op := 0x2CB, d := gr, a := gr, b := gr, c := scaleC f, det := true, ok := pairAB f && immF 0 4 f == 0 && rmOk f && immF 9 4 f == 0 }
  | .mmaI8I32 f => some { f, op := 0x2CC, d := gr, a := gr, b := gr, det := true, ok := o0or 2 f && pairAB f && immF 0 7 f == 0 && immF 9 4 f == 0 }
  | .tld f => some { f, op := 0x2D0, d := gr, a := gr, det := true, ok := o0 f && pairA f && tileTy f && rmOk f }
  | .tst f => some { f, op := 0x2D1, d := gr, a := gr, det := true, ok := o0 f && pairA f && tileTy f && rmOk f }
  | .tzero f => some { f, op := 0x2D2, d := gr, det := true, ok := o0 f && tileC (immF 0 4 f) && immF 4 3 f == 0 && immF 9 7 f == 0 }
  | .tout f => some { f, op := 0x2D3, d := gr, a := gr, b := gr, c := scaleC f, det := true, ok := oUpTo 1 f && pairA f && immF 0 4 f < 12 && rmOk f && immF 9 4 f == 0 }
  | .tpost f => some { f, op := 0x2D4, d := gW, a := gr, det := true, ok := z f }
  | .tpostRes => some { f := g, op := 0x2D4, d := gW, a := gr, det := true, ok := g.o == 1 && i0 g }
  | .tpostCan => some { f := g, op := 0x2D4, d := gW, a := gr, det := true, ok := g.o == 2 && i0 g }
  | .tprog f => some { f, op := 0x2D5, d := gW, c := raw, det := true, ok := z f && scopeOk f }
  | .sdef f => some { f, op := 0x320, d := sH, a := gr, det := true, ok := z f }
  | .sopen f => some { f, op := 0x321, d := sH, det := true, ok := oUpTo 1 f && i0 f }
  | .sclose f => some { f, op := 0x322, d := sH, det := true, ok := z f }
  | .sattach f => some { f, op := 0x323, d := sH, a := (if immF 0 4 f < 8 then gr else fr), ok := sattachOk f }
  | .ssave f => some { f, op := 0x324, d := sH, a := gr, det := true, ok := z f }
  | .sload f => some { f, op := 0x325, d := sH, a := gr, det := true, ok := z f }
  | .spop f => some { f, op := 0x330, d := (if f.o == 1 then fW else gW), a := sH, det := true, ok := oUpTo 1 f && i0 f }
  | .sstep f => some { f, op := 0x331, d := gW, a := sH, b := (if f.o == 0 then gr else no), det := true, ok := oUpTo 1 f && (f.o == 1 || i0 f) }
  | .ssink f => some { f, op := 0x332, d := (if f.o == 1 then fW else gW), a := sH, det := true, ok := oUpTo 1 f && i0 f }
  | .sfloat f => some { f, op := 0x333, a := sH, ok := z f }
  | .srecall f => some { f, op := 0x334, a := sH, det := true, ok := z f }
  | .sres f => some { f, op := 0x335, a := sH, b := gr, c := (if f.o == 1 then fr else gr), det := true, ok := oUpTo 1 f && i0 f }
  | .sstat f => some { f, op := 0x336, d := gW, a := sH, ok := z f }
  | .cpy f => some { f, op := 0x380, d := gW, a := gR, det := true, ok := z f }
  | .cpyb f => some { f, op := 0x381, d := gW, a := gR, det := true, ok := z f }
  | .mcast f => some { f, op := 0x382, d := gW, a := gR, det := true, ok := z f }
  | .hwait f => some { f, op := 0x390, a := gR, ok := i0 f }
  | .hset f => some { f, op := 0x391, a := gR, ok := i0 f }
  | .hfree f => some { f, op := 0x392, a := gR, ok := z f }
  | .hstat f => some { f, op := 0x393, d := gW, a := gR, ok := z f }
  | .redCfg f => some { f, op := 0x3A0, a := gR, det := true, ok := z f }
  | .redPost f => some { f, op := 0x3A1, d := gW, a := gR, b := vR, det := true, ok := z f }
  | .redGet f => some { f, op := 0x3A2, d := vW, a := gR, b := gW, det := true, ok := z f }
  | .bsGet f => some { f, op := 0x3B0, d := gW, b := (if f.o == 0 then gR else no), ok := oUpTo 1 f && bsImm f }
  | .bsPut f => some { f, op := 0x3B1, a := gR, b := (if f.o == 0 then gR else no), ok := oUpTo 1 f && bsImm f }
  | .bsPeek f => some { f, op := 0x3B2, d := gW, b := (if f.o == 0 then gR else no), ok := oUpTo 1 f && bsImm f }
  | .bsDec f => some { f, op := 0x3B3, d := gW, a := gR, ok := z f }
  | .bsAlign f => some { f, op := 0x3B4, ok := i0 f }
  | .spawn f => some { f, op := 0x3C0, a := gr, det := true, ok := z f }
  | .fork f => some { f, op := 0x3C1, d := gr, a := gr, iLay := true, sgn := true, ok := oUpTo 1 f && relOk f && decide (f.d.toNat < 51) }
  | .join f => some { f, op := 0x3C2, a := gr, b := gr, ok := z f }
  | .jinit f => some { f, op := 0x3C3, a := gr, b := gr, ok := z f }
  | .yield => some { f := g, op := 0x3C4, b := gr, ok := z g }
  | .park f => some { f, op := 0x3C5, a := gr, b := gr, ok := z f }
  | .exit => some { f := g, op := 0x3C6, ok := z g }
  | .ldM f => some { f, op := 0x3C7, d := gW, a := gr, b := gr, sgn := true, det := true }
  | .mig f => some { f, op := 0x3C8, a := gr, b := gr, ok := z f }
  | .pbind f => some { f, op := 0x3C9, d := gr, a := gr, b := gr, ok := z f && f.a != 0 && decide (f.a.toNat < 56) }
  | .punbind => some { f := g, op := 0x3CA, ok := z g }
  | .ppub => some { f := g, op := 0x3CB, ok := z g }
  | .nbr f => some { f, op := 0x3CC, d := gW, a := gr, b := gr, c := gr, det := true, ok := z f }
  | .cellq f => some { f, op := 0x3CD, d := gW, a := gr, ok := z f }
  | .hnew f => some { f, op := 0x3D0, d := gW, a := gR, det := true, ok := z f }
  | .hnewRcl => some { f := g, op := 0x3D0, d := gW, a := gR, det := true, ok := g.o == 1 && i0 g }
  | .henter f => some { f, op := 0x3D1, a := gR, ok := z f }
  | .hleave => some { f := g, op := 0x3D2, ok := z g }
  | .hresC f => some { f, op := 0x3D3, d := gW, a := gR, det := true, ok := oUpTo 1 f && i0 f }
  | .hresR f => some { f, op := 0x3D4, d := gW, a := gR, det := true, ok := z f }
  | .hnstat f => some { f, op := 0x3D5, d := gW, a := gR, ok := z f }
  | .trap f => some { f, op := 0x3E0, iLay := true, ok := o0 f && immUpTo 65536 f }
  | .rett => some { f := g, op := 0x3E1, ok := z g }
  | .halt => some { f := g, op := 0x3E2, ok := z g }
  | .ipi f => some { f, op := 0x3E3, d := gW, a := gr, b := gr, ok := z f }
  | .xinv f => some { f, op := 0x3E4, a := gr, b := gr, ok := z f }
  | .xinvAll => some { f := g, op := 0x3E4, a := gr, b := gr, ok := g.o == 1 && i0 g }
  | .rmodeCoh f => some { f, op := 0x3E5, a := gr, b := gr, ok := z f }
  | .rmodeSw => some { f := g, op := 0x3E5, a := gr, b := gr, ok := g.o == 1 && i0 g }
  | .pmask f => some { f, op := 0x3E6, a := gr, b := gr, ok := z f }
  | .scset f => some { f, op := 0x3E7, a := gr, ok := z f }
  | .cellset f => some { f, op := 0x3E8, d := gW, a := gr, ok := z f }
  | .cellsetOff => some { f := g, op := 0x3E8, d := gW, ok := g.o == 1 && i0 g }
  | .hwtest f => some { f, op := 0x3E9, d := gW, a := gr, ok := oUpTo 1 f && i0 f }
  | .ctxsave f => some { f, op := 0x3EA, a := gr, ok := z f }
  | .ctxload f => some { f, op := 0x3EB, a := gr, ok := z f }
  | _ => none

/-- A register field names a member of its class (R74). -/
def Fd.valOk (d : Fd) (x : BitVec 6) : Bool := decide (x.toNat < d.cls.size)

/-- A mark that the field accepts (R75). -/
def Fd.markOk (d : Fd) (x : BitVec 6) (m : Mark) : Bool :=
  m == .plain || d.mrk == .any || (d.mrk == .notZero && x != 0)

/-- The immediate is one the longest format can hold (R71, R76): sign- or zero-extended from 16 or 32 bits. -/
def Shape.immFits (s : Shape) : Bool :=
  let n := if s.iLay then 32 else 16
  if s.sgn then (BitVec.ofInt 40 ((s.f.imm.setWidth n).toInt)) == s.f.imm else decide (s.f.imm.toNat < 2 ^ n)

/-- A layout holds the fields: the I layout has no b, c or their marks (R70). -/
def Shape.layoutOk (s : Shape) : Bool :=
  !s.iLay || (s.f.b == 0 && s.f.c == 0 && s.f.mb == .plain && s.f.mc == .plain)

/-- Every field is one the row accepts. -/
def Shape.valid (s : Shape) : Bool :=
  s.d.valOk s.f.d && s.a.valOk s.f.a && s.b.valOk s.f.b && s.c.valOk s.f.c &&
  s.a.markOk s.f.a s.f.ma && s.b.markOk s.f.b s.f.mb && s.c.markOk s.f.c s.f.mc &&
  (s.det || s.f.la == 0) && s.immFits && s.layoutOk && s.ok &&
  (decide (s.op ≠ 0x192) || decide (8 ≤ s.f.d.toNat))

/-- A well-formed instruction: its fields are accepted (R78). Issue and event rows have no fields. -/
def Instr.wf (g : Fields) (i : Instr) : Bool :=
  match i.shape g with
  | some s => s.valid
  | none => true

end Sys2Proof
end

