-- ==== Sys2Proof/Decode.lean ====
section
/-!
DEFINITION. The decoder: code lines (R63 to R65), heads and tails (R64, R70, R71), the opcode map (R81), internal words
(R73 to R78), and the encoder of R72. Decoding is total: what is no instruction becomes an issue row that raises
ILLEGAL or LINE.
-/
namespace Sys2Proof

/-- Major 0x00 (R81). -/
def opTable00 : List (Nat × (Fields → Instr)) := [
  (0x000, .add),
  (0x001, .sub),
  (0x002, .and),
  (0x003, .or),
  (0x004, .xor),
  (0x005, .andn),
  (0x006, .shl),
  (0x007, .shr),
  (0x008, .sar),
  (0x009, .rotl),
  (0x00A, .mul),
  (0x00B, .minI64),
  (0x00C, .maxI64),
  (0x00D, .minN64),
  (0x00E, .maxN64)]

/-- Major 0x01 (R81). -/
def opTable01 : List (Nat × (Fields → Instr)) := [
  (0x010, .clz),
  (0x011, .ctz),
  (0x012, .popc),
  (0x013, .sextI8),
  (0x014, .sextI16),
  (0x015, .sextI32),
  (0x016, .zextN8),
  (0x017, .zextN16),
  (0x018, .zextN32),
  (0x019, .cmpEq),
  (0x01A, .cmpNe),
  (0x01B, .cmpLt),
  (0x01C, .cmpGe),
  (0x01D, .cmpLo),
  (0x01E, .cmpHs)]

/-- Major 0x02 (R81). -/
def opTable02 : List (Nat × (Fields → Instr)) := [
  (0x020, .mulhI64),
  (0x021, .mulhN64),
  (0x022, .divI64),
  (0x023, .divN64),
  (0x024, .remI64),
  (0x025, .remN64),
  (0x026, .sel),
  (0x027, .bfx),
  (0x028, .bfi)]

/-- Major 0x03 (R81). -/
def opTable03 : List (Nat × (Fields → Instr)) := [
  (0x030, .addi),
  (0x031, .li),
  (0x032, .lea)]

/-- Major 0x04 (R81). -/
def opTable04 : List (Nat × (Fields → Instr)) := [
  (0x040, .br),
  (0x041, .call),
  (0x042, .bz),
  (0x043, .bnz),
  (0x044, .loop),
  (0x045, .bcEq),
  (0x046, .bcNe),
  (0x047, .bcLt),
  (0x048, .bcGe),
  (0x049, .bcLo),
  (0x04A, .bcHs)]

/-- Major 0x05 (R81). -/
def opTable05 : List (Nat × (Fields → Instr)) := [
  (0x050, fun _ => .nop),
  (0x051, fun _ => .ret),
  (0x052, .jr),
  (0x053, .jt),
  (0x054, .spt),
  (0x055, .rdsr),
  (0x056, fun f => if f.imm == 0x112 then .wrsrHypRst else if f.imm == 0x111 then .wrsrSpill else if f.imm == 0x104 then .wrsrKipi else if f.imm == 0x110 then .wrsrPart else if (f.imm == 0x101 || f.imm == 0x102) then .wrsrKvec else .wrsr f)]

/-- Major 0x10 (R81). -/
def opTable10 : List (Nat × (Fields → Instr)) := [
  (0x100, .ldB),
  (0x101, .ldH),
  (0x102, .ldW),
  (0x103, .ldD),
  (0x104, .ldF),
  (0x105, .stB),
  (0x106, .stH),
  (0x107, .stW),
  (0x108, .stD),
  (0x109, .stF),
  (0x10A, .pf)]

/-- Major 0x11 (R81). -/
def opTable11 : List (Nat × (Fields → Instr)) := [
  (0x110, .amoAdd),
  (0x111, .amoAnd),
  (0x112, .amoOr),
  (0x113, .amoXor),
  (0x114, .amoMin),
  (0x115, .amoMax),
  (0x116, .amoSwap),
  (0x117, .amoCas),
  (0x118, .amoAddF32),
  (0x119, .amoAddF64)]

/-- Major 0x12 (R81). -/
def opTable12 : List (Nat × (Fields → Instr)) := [
  (0x120, .fence),
  (0x121, .wb),
  (0x122, .inv),
  (0x123, .disc)]

/-- Major 0x18 (R81). -/
def opTable18 : List (Nat × (Fields → Instr)) := [
  (0x180, .ldfeClr),
  (0x181, .ldfeKeep),
  (0x182, .stfeWait),
  (0x183, .stfeFail),
  (0x184, .setfe),
  (0x185, .clrfe)]

/-- Major 0x19 (R81). -/
def opTable19 : List (Nat × (Fields → Instr)) := [
  (0x190, .swarrive),
  (0x191, .swwait),
  (0x192, fun f => if f.o == 1 then .qbindOff else .qbind f),
  (0x193, .qmov)]

/-- Major 0x1C (R81). -/
def opTable1C : List (Nat × (Fields → Instr)) := [
  (0x1C0, .faddF64),
  (0x1C1, .fsubF64),
  (0x1C2, .fmulF64),
  (0x1C3, .fminF64),
  (0x1C4, .fmaxF64),
  (0x1C5, .faddF32),
  (0x1C6, .fsubF32),
  (0x1C7, .fmulF32),
  (0x1C8, .fminF32),
  (0x1C9, .fmaxF32),
  (0x1CA, .fsgnF64),
  (0x1CB, .fsgnF32),
  (0x1CC, .fmv)]

/-- Major 0x1D (R81). -/
def opTable1D : List (Nat × (Fields → Instr)) := [
  (0x1D0, .fmaF64),
  (0x1D1, .fmsF64),
  (0x1D2, .fnmaF64),
  (0x1D3, .fmaF32),
  (0x1D4, .fmsF32),
  (0x1D5, .fnmaF32),
  (0x1D6, .fdivF64),
  (0x1D7, .fsqrtF64),
  (0x1D8, .fdivF32),
  (0x1D9, .fsqrtF32)]

/-- Major 0x1E (R81). -/
def opTable1E : List (Nat × (Fields → Instr)) := [
  (0x1E0, .fcmpEqF64),
  (0x1E1, .fcmpLtF64),
  (0x1E2, .fcmpLeF64),
  (0x1E3, .fcmpUnF64),
  (0x1E4, .fcmpEqF32),
  (0x1E5, .fcmpLtF32),
  (0x1E6, .fcmpLeF32),
  (0x1E7, .fcmpUnF32),
  (0x1E8, .fclassF64),
  (0x1E9, .fclassF32)]

/-- Major 0x1F (R81). -/
def opTable1F : List (Nat × (Fields → Instr)) := [
  (0x1F0, .fcvt)]

/-- Major 0x20 (R81). -/
def opTable20 : List (Nat × (Fields → Instr)) := [
  (0x200, .vld),
  (0x201, .vst),
  (0x202, .vldS),
  (0x203, .vstS),
  (0x204, .vgather),
  (0x205, .vscatter)]

/-- Major 0x21 (R81). -/
def opTable21 : List (Nat × (Fields → Instr)) := [
  (0x210, .vadd),
  (0x211, .vsub),
  (0x212, .vmul),
  (0x213, .vmin),
  (0x214, .vmax),
  (0x215, .vabs),
  (0x216, .vneg)]

/-- Major 0x22 (R81). -/
def opTable22 : List (Nat × (Fields → Instr)) := [
  (0x220, .vfma),
  (0x221, .vfms),
  (0x222, .vdiv),
  (0x223, .vsqrt)]

/-- Major 0x23 (R81). -/
def opTable23 : List (Nat × (Fields → Instr)) := [
  (0x230, .vand),
  (0x231, .vor),
  (0x232, .vxor),
  (0x233, .vshl),
  (0x234, .vshr),
  (0x235, .vsar)]

/-- Major 0x24 (R81). -/
def opTable24 : List (Nat × (Fields → Instr)) := [
  (0x240, .vcmpEq),
  (0x241, .vcmpNe),
  (0x242, .vcmpLt),
  (0x243, .vcmpLe),
  (0x244, .vcmpUn),
  (0x245, .vsel)]

/-- Major 0x25 (R81). -/
def opTable25 : List (Nat × (Fields → Instr)) := [
  (0x250, .vcvt)]

/-- Major 0x26 (R81). -/
def opTable26 : List (Nat × (Fields → Instr)) := [
  (0x260, .vbcast),
  (0x261, .vperm),
  (0x262, .vslideUp),
  (0x263, .vslideDn),
  (0x264, .vmov)]

/-- Major 0x27 (R81). -/
def opTable27 : List (Nat × (Fields → Instr)) := [
  (0x270, .vredAdd),
  (0x271, .vredMin),
  (0x272, .vredMax),
  (0x273, .vscan)]

/-- Major 0x28 (R81). -/
def opTable28 : List (Nat × (Fields → Instr)) := [
  (0x280, .kand),
  (0x281, .kor),
  (0x282, .kxor),
  (0x283, .knot),
  (0x284, .kset),
  (0x285, .kpop)]

/-- Major 0x2C (R81). -/
def opTable2C : List (Nat × (Fields → Instr)) := [
  (0x2C0, .mmaF64F64),
  (0x2C1, .mmaF32F32),
  (0x2C2, .mmaBf16F32),
  (0x2C3, .mmaF16F32),
  (0x2C4, .mmaBf16Bf16),
  (0x2C5, .mmaF16F16),
  (0x2C6, .mmaE4m3F32),
  (0x2C7, .mmaE5m2F32),
  (0x2C8, .mmaE4m3Bf16),
  (0x2C9, .mmaE5m2Bf16),
  (0x2CA, .mmaDy8F32),
  (0x2CB, .mmaDy8Bf16),
  (0x2CC, .mmaI8I32)]

/-- Major 0x2D (R81). -/
def opTable2D : List (Nat × (Fields → Instr)) := [
  (0x2D0, .tld),
  (0x2D1, .tst),
  (0x2D2, .tzero),
  (0x2D3, .tout),
  (0x2D4, fun f => if f.o == 1 then .tpostRes else if f.o == 2 then .tpostCan else .tpost f),
  (0x2D5, .tprog)]

/-- Major 0x32 (R81). -/
def opTable32 : List (Nat × (Fields → Instr)) := [
  (0x320, .sdef),
  (0x321, .sopen),
  (0x322, .sclose),
  (0x323, .sattach),
  (0x324, .ssave),
  (0x325, .sload)]

/-- Major 0x33 (R81). -/
def opTable33 : List (Nat × (Fields → Instr)) := [
  (0x330, .spop),
  (0x331, .sstep),
  (0x332, .ssink),
  (0x333, .sfloat),
  (0x334, .srecall),
  (0x335, .sres),
  (0x336, .sstat)]

/-- Major 0x38 (R81). -/
def opTable38 : List (Nat × (Fields → Instr)) := [
  (0x380, .cpy),
  (0x381, .cpyb),
  (0x382, .mcast)]

/-- Major 0x39 (R81). -/
def opTable39 : List (Nat × (Fields → Instr)) := [
  (0x390, .hwait),
  (0x391, .hset),
  (0x392, .hfree),
  (0x393, .hstat)]

/-- Major 0x3A (R81). -/
def opTable3A : List (Nat × (Fields → Instr)) := [
  (0x3A0, .redCfg),
  (0x3A1, .redPost),
  (0x3A2, .redGet)]

/-- Major 0x3B (R81). -/
def opTable3B : List (Nat × (Fields → Instr)) := [
  (0x3B0, .bsGet),
  (0x3B1, .bsPut),
  (0x3B2, .bsPeek),
  (0x3B3, .bsDec),
  (0x3B4, .bsAlign)]

/-- Major 0x3C (R81). -/
def opTable3C : List (Nat × (Fields → Instr)) := [
  (0x3C0, .spawn),
  (0x3C1, .fork),
  (0x3C2, .join),
  (0x3C3, .jinit),
  (0x3C4, fun _ => .yield),
  (0x3C5, .park),
  (0x3C6, fun _ => .exit),
  (0x3C7, .ldM),
  (0x3C8, .mig),
  (0x3C9, .pbind),
  (0x3CA, fun _ => .punbind),
  (0x3CB, fun _ => .ppub),
  (0x3CC, .nbr),
  (0x3CD, .cellq)]

/-- Major 0x3D (R81). -/
def opTable3D : List (Nat × (Fields → Instr)) := [
  (0x3D0, fun f => if f.o == 1 then .hnewRcl else .hnew f),
  (0x3D1, .henter),
  (0x3D2, fun _ => .hleave),
  (0x3D3, .hresC),
  (0x3D4, .hresR),
  (0x3D5, .hnstat)]

/-- Major 0x3E (R81). -/
def opTable3E : List (Nat × (Fields → Instr)) := [
  (0x3E0, .trap),
  (0x3E1, fun _ => .rett),
  (0x3E2, fun _ => .halt),
  (0x3E3, .ipi),
  (0x3E4, fun f => if f.o == 1 then .xinvAll else .xinv f),
  (0x3E5, fun f => if f.o == 1 then .rmodeSw else .rmodeCoh f),
  (0x3E6, .pmask),
  (0x3E7, .scset),
  (0x3E8, fun f => if f.o == 1 then .cellsetOff else .cellset f),
  (0x3E9, .hwtest),
  (0x3EA, .ctxsave),
  (0x3EB, .ctxload)]

/-- The opcode map (R81): opcode and what its fields make. -/
def opTable : List (Nat × (Fields → Instr)) :=
  opTable00 ++ opTable01 ++ opTable02 ++ opTable03 ++ opTable04 ++ opTable05 ++ opTable10 ++ opTable11 ++
  opTable12 ++ opTable18 ++ opTable19 ++ opTable1C ++ opTable1D ++ opTable1E ++ opTable1F ++ opTable20 ++
  opTable21 ++ opTable22 ++ opTable23 ++ opTable24 ++ opTable25 ++ opTable26 ++ opTable27 ++ opTable28 ++
  opTable2C ++ opTable2D ++ opTable32 ++ opTable33 ++ opTable38 ++ opTable39 ++ opTable3A ++ opTable3B ++
  opTable3C ++ opTable3D ++ opTable3E

/-- Looks an opcode up. -/
def lookupOp : List (Nat × (Fields → Instr)) → Nat → Option (Fields → Instr)
  | [], _ => none
  | (k, c) :: l, op => if k = op then some c else lookupOp l op

/-- A mark field (R75); 3 is reserved. -/
def markOf (m : BitVec 2) : Option Mark :=
  if m = 0 then some .plain else if m = 1 then some .sync else if m = 2 then some .last else none

/-- The code of a mark (R75). -/
def Mark.code : Mark → BitVec 2
  | .plain => 0
  | .sync => 1
  | .last => 2

/-- Opcode of a head: major · 16 + minor (R64, R73). -/
def headOp (h : BitVec 16) : Nat := (h.extractLsb' 4 10).toNat

/-- Tail-length code of a head (R64). -/
def headTL (h : BitVec 16) : Nat := (h.extractLsb' 14 2).toNat

/-- The tail bits that are present (R71). -/
def tailMask (tl : Nat) (t : BitVec 48) : BitVec 48 := t &&& BitVec.ofNat 48 (2 ^ (16 * tl) - 1)

/-- The fields of the R layout (R70, R71, R76). -/
def fieldsR (sgn : Bool) (h : BitVec 16) (t : BitVec 48) : Option Fields := do
  let ma ← markOf (t.extractLsb' 8 2)
  let mb ← markOf (t.extractLsb' 16 2)
  let mc ← markOf (t.extractLsb' 28 2)
  let im : BitVec 16 := t.extractLsb' 32 16
  pure {
    d := (t.extractLsb' 0 2 ++ h.extractLsb' 0 4 : BitVec 6)
    a := t.extractLsb' 2 6
    b := (t.extractLsb' 14 2 ++ t.extractLsb' 10 4 : BitVec 6)
    c := t.extractLsb' 22 6
    ma, mb, mc
    o := t.extractLsb' 30 2
    la := t.extractLsb' 18 4
    imm := if sgn then im.signExtend 40 else im.setWidth 40 }

/-- The immediate of the I layout: 16 bits in HW, 32 in HL, extended from the highest bit present (R71, R76). -/
def immI (sgn : Bool) (tl : Nat) (t : BitVec 48) : BitVec 40 :=
  if tl = 3 then
    let im : BitVec 32 := t.extractLsb' 16 32
    if sgn then im.signExtend 40 else im.setWidth 40
  else
    let im : BitVec 16 := t.extractLsb' 16 16
    if sgn then im.signExtend 40 else im.setWidth 40

/-- The fields of the I layout (R70, R71, R76). -/
def fieldsI (sgn : Bool) (h : BitVec 16) (t : BitVec 48) : Option Fields := do
  let ma ← markOf (t.extractLsb' 8 2)
  pure {
    d := (t.extractLsb' 0 2 ++ h.extractLsb' 0 4 : BitVec 6)
    a := t.extractLsb' 2 6
    ma
    o := t.extractLsb' 14 2
    la := t.extractLsb' 10 4
    imm := immI sgn (headTL h) t }

/-- An internal word from its fields (R73). -/
def mkIw (op : BitVec 12) (d a b c mods : BitVec 8) (la : BitVec 4) (imm : BitVec 40) : IWord :=
  op ++ d ++ a ++ b ++ c ++ mods ++ la ++ imm

/-- The internal word of a head that is no instruction (R78). -/
def illegalIw (h : BitVec 16) (t : BitVec 48) : IWord :=
  mkIw 0xFFF 0xFF 0xFF 0xFF 0xFF 0 0 ((t.extractLsb' 0 24 : BitVec 24) ++ h)

/-- The internal word of a head of a malformed line (R65). -/
def malformedIw (h lineWord : BitVec 16) : IWord :=
  mkIw 0xFFE 0xFF 0xFF 0xFF 0xFF 0 0 ((0 : BitVec 8) ++ lineWord ++ h)

/-- The internal word of an instruction (R73, R74); the implicit source of `ret` stands in source 1. -/
def Shape.iw (s : Shape) : IWord :=
  let code (d : Fd) (x : BitVec 6) : BitVec 8 := BitVec.ofNat 8 (d.cls.code x.toNat)
  mkIw (BitVec.ofNat 12 s.op) (code s.d s.f.d) (if s.op = 0x051 then 1 else code s.a s.f.a) (code s.b s.f.b)
    (code s.c s.f.c) (s.f.o ++ s.f.mc.code ++ s.f.mb.code ++ s.f.ma.code) s.f.la s.f.imm

/-- The internal word of an instruction row; zero for other rows. -/
def Instr.iw (g : Fields) (i : Instr) : IWord :=
  match i.shape g with
  | some s => s.iw
  | none => 0

/-- The field value behind an internal code (R74). -/
def uncode (c : BitVec 8) : BitVec 6 :=
  let n := c.toNat
  if n < 0x40 then BitVec.ofNat 6 n
  else if n < 0x60 then BitVec.ofNat 6 (n - 0x40)
  else if n < 0x80 then BitVec.ofNat 6 (n - 0x60)
  else if n < 0x90 then BitVec.ofNat 6 (n - 0x80)
  else if n < 0xA0 then BitVec.ofNat 6 (n - 0x90)
  else if n < 0xB0 then BitVec.ofNat 6 (n - 0xA0)
  else 0

/-- The fields of an internal word (R73). -/
def iwFields (w : IWord) : Option Fields := do
  let ma ← markOf (w.extractLsb' 44 2)
  let mb ← markOf (w.extractLsb' 46 2)
  let mc ← markOf (w.extractLsb' 48 2)
  pure {
    d := uncode (w.extractLsb' 76 8)
    a := uncode (w.extractLsb' 68 8)
    b := uncode (w.extractLsb' 60 8)
    c := uncode (w.extractLsb' 52 8)
    ma, mb, mc
    o := w.extractLsb' 50 2
    la := w.extractLsb' 40 4
    imm := w.extractLsb' 0 40 }

/-- The fields an instruction row is made of, behind its internal word. -/
def fieldsOf (w : IWord) : Fields :=
  let f := (iwFields w).getD {}
  if w.extractLsb' 84 12 = 0x051 then { f with a := 0 } else f

/-- What issues for an internal word: an instruction, or the issue row of 0xFFF or 0xFFE (R65, R73, R78). A word that no
expansion makes counts as 0xFFF. -/
def ofIw (w : IWord) : Instr :=
  if w.extractLsb' 84 12 = 0xFFE then .issueMalformedLine
  else
    match lookupOp opTable (w.extractLsb' 84 12).toNat with
    | some c =>
      let f := fieldsOf w
      match (c f).shape f with
      | some s => if s.valid && s.iw == w then c f else .issueIllegalOpcode
      | none => .issueIllegalOpcode
    | none => .issueIllegalOpcode

/-- The internal word of a head and its tail, the tail's first byte lowest (R64, R70, R73, R78). -/
def expand (h : BitVec 16) (t : BitVec 48) : IWord :=
  let t := tailMask (headTL h) t
  match lookupOp opTable (headOp h) with
  | none => illegalIw h t
  | some c =>
    match (c {}).shape {} with
    | none => illegalIw h t
    | some s0 =>
      match (if s0.iLay then fieldsI s0.sgn h t else fieldsR s0.sgn h t) with
      | none => illegalIw h t
      | some f =>
        match (c f).shape f with
        | none => illegalIw h t
        | some s => if s.valid then s.iw else illegalIw h t

/-- The instruction of a head and its tail. -/
def decode (h : BitVec 16) (t : BitVec 48) : Instr := ofIw (expand h t)

/-- The line word (R63). -/
def lineWord (l : Line) : BitVec 16 := l.extractLsb' 0 16

/-- Head `k` of a line (R63). -/
def lineHead (l : Line) (k : Nat) : BitVec 16 := l.extractLsb' (16 + 16 * k) 16

/-- Tail bytes of heads 0 to `k − 1` (R63). -/
def tailSum (l : Line) : Nat → Nat
  | 0 => 0
  | k + 1 => tailSum l k + 2 * headTL (lineHead l k)

/-- The head count H (R63). -/
def lineH (l : Line) : Nat := (l.extractLsb' 0 5).toNat

/-- Whether a line is malformed (R65). -/
def malformed (l : Line) : Bool :=
  lineH l == 0 || (lineWord l).toNat / 32 != 0 || decide (64 < 2 + 2 * lineH l + tailSum l (lineH l))

/-- The tail of head `k`, in its low bits (R63). -/
def lineTail (l : Line) (k : Nat) : BitVec 48 :=
  let n := 2 * headTL (lineHead l k)
  l.extractLsb' (8 * (64 - tailSum l k - n)) 48

/-- The internal word at head `k` of a line (R65, R67): zero for a head index at or beyond H. -/
def iwAt (l : Line) (k : Nat) : IWord :=
  if decide (lineH l ≤ k) then 0
  else if malformed l then malformedIw (lineHead l k) (lineWord l)
  else expand (lineHead l k) (lineTail l k)

/-- What issues at head `k` of a line (R65, R67). -/
def decodeAt (l : Line) (k : Nat) : Instr :=
  if decide (lineH l ≤ k) then .issueMalformedLine else ofIw (iwAt l k)

/-- The tail bits of the fields, in the longest format (R70). -/
def tailOf (s : Shape) : BitVec 48 :=
  let f := s.f
  let d5 : BitVec 2 := f.d.extractLsb' 4 2
  if s.iLay then
    (f.imm.setWidth 32 : BitVec 32) ++ f.o ++ f.la ++ f.ma.code ++ f.a ++ d5
  else
    (f.imm.setWidth 16 : BitVec 16) ++ f.o ++ f.mc.code ++ f.c ++ f.la ++ f.mb.code ++
      (f.b.extractLsb' 4 2 : BitVec 2) ++ (f.b.extractLsb' 0 4 : BitVec 4) ++ f.ma.code ++ f.a ++ d5

/-- The shortest format that holds every nonzero field (R71, R72). -/
def shortest (s : Shape) : Nat :=
  let t := tailOf s
  let im := s.f.imm
  let short := if s.sgn then (im.setWidth 16).signExtend 40 == im else decide (im.toNat < 2 ^ 16)
  if t = 0 then 0
  else if t.toNat < 2 ^ 16 then 1
  else if s.iLay && im != 0 then (if short then 2 else 3)
  else if t.toNat < 2 ^ 32 then 2 else 3

/-- Head and tail of an instruction in its shortest format (R64, R70, R72); none for rows that are no instruction. -/
def encode (g : Fields) (i : Instr) : Option (BitVec 16 × BitVec 48) :=
  match i.shape g with
  | some s =>
    let tl := shortest s
    some ((BitVec.ofNat 2 tl ++ BitVec.ofNat 10 s.op ++ (s.f.d.extractLsb' 0 4 : BitVec 4) : BitVec 16),
      tailMask tl (tailOf s))
  | none => none

/-- A line that holds one instruction at head `k`, the heads before it being `nop` in H0 (R63). -/
def lineWith (k : Nat) (h : BitVec 16) (t : BitVec 48) : Line :=
  let n := 2 * headTL h
  let nops := (List.range k).foldl (fun l j => l ||| ((0x0500 : Line) <<< (16 + 16 * j))) (0 : Line)
  nops ||| BitVec.ofNat 512 (k + 1) ||| ((h.setWidth 512 : Line) <<< (16 + 16 * k)) |||
    (((tailMask (headTL h) t).setWidth 512 : Line) <<< (8 * (64 - n)))

/-- The instruction the decoder reads from a line that holds the word at head 0; none where it is no instruction. -/
def decodeTableWord (nbits w : Nat) : Option Instr :=
  let w := w % 2 ^ nbits
  match decodeAt (lineWith 0 (BitVec.ofNat 16 w) (BitVec.ofNat 48 (w / 2 ^ 16))) 0 with
  | .issueIllegalOpcode => none
  | .issueMalformedLine => none
  | i => some i

end Sys2Proof
end

