-- ==== Sys2Proof/Machine/Maps.lean ====
section
/-!
DEFINITION. Total maps from Nat kept as lists in one canonical form: keys strictly rising, and no entry equal to the
default, so that equal maps are equal lists. Lists by index, and bit and byte helpers that every layer uses.
-/
namespace Sys2Proof.Machine

/-- The value at `k`; `d` where nothing is listed. -/
def mget {α : Type} (d : α) : TMap α → Nat → α
  | [], _ => d
  | (j, v) :: m, k => if j = k then v else mget d m k

/-- Inserts an entry before the first larger key. -/
def mins {α : Type} (k : Nat) (v : α) : TMap α → TMap α
  | [] => [(k, v)]
  | (j, w) :: m => if k ≤ j then (k, v) :: (j, w) :: m else (j, w) :: mins k v m

/-- Drops every entry at `k`. -/
def mdel {α : Type} (m : TMap α) (k : Nat) : TMap α := m.filter (fun e => e.1 != k)

/-- Writes `v` at `k`; writing the default drops the entry. -/
def mset {α : Type} [DecidableEq α] (d : α) (m : TMap α) (k : Nat) (v : α) : TMap α :=
  if v = d then mdel m k else mins k v (mdel m k)

/-- The canonical form. -/
def mwf {α : Type} [DecidableEq α] (d : α) : TMap α → Bool
  | [] => true
  | (k, v) :: m => !(decide (v = d)) && m.all (fun e => decide (k < e.1)) && mwf d m

/-- Every entry changed, in canonical form. -/
def mmap {α : Type} [DecidableEq α] (d : α) (f : Nat → α → α) (m : TMap α) : TMap α :=
  (m.map (fun e => (e.1, f e.1 e.2))).filter (fun e => !(decide (e.2 = d)))

/-- The keys listed. -/
def mkeys {α : Type} (m : TMap α) : List Nat := m.map (·.1)

/-- The element at index `k`, if any. -/
def nth {α : Type} : List α → Nat → Option α
  | [], _ => none
  | x :: _, 0 => some x
  | _ :: l, k + 1 => nth l k

/-- The list with element `k` changed. -/
def updNth {α : Type} (f : α → α) : List α → Nat → List α
  | [], _ => []
  | x :: l, 0 => f x :: l
  | x :: l, k + 1 => x :: updNth f l k

/-- The list without element `k`. -/
def delNth {α : Type} : List α → Nat → List α
  | [], _ => []
  | _ :: l, 0 => l
  | x :: l, k + 1 => x :: delNth l k

/-- Index of the first element that satisfies `p`. -/
def findIdx {α : Type} (p : α → Bool) : List α → Option Nat
  | [] => none
  | x :: l => if p x then some 0 else (findIdx p l).map (· + 1)

/-- Changes every element that satisfies `p`. -/
def updIf {α : Type} (p : α → Bool) (f : α → α) (l : List α) : List α := l.map (fun x => if p x then f x else x)

/-- The least number from `from` on, below `from + fuel`, that satisfies `p`. -/
def firstFrom (p : Nat → Bool) : Nat → Nat → Option Nat
  | _, 0 => none
  | k, n + 1 => if p k then some k else firstFrom p (k + 1) n

/-- Bits `hi:lo` of a number. -/
def bits (x lo len : Nat) : Nat := x / 2 ^ lo % 2 ^ len

/-- Bits `lo + len − 1 : lo` of a word, as a number. -/
def fld {w : Nat} (x : BitVec w) (lo len : Nat) : Nat := (x.extractLsb' lo len).toNat

/-- One bit of a word. -/
def tst {w : Nat} (x : BitVec w) (k : Nat) : Bool := x.getLsbD k

/-- `x` with bits `lo + len − 1 : lo` replaced by the low bits of `v`. -/
def setFld {w : Nat} (x : BitVec w) (lo len : Nat) (v : Nat) : BitVec w :=
  let m : BitVec w := BitVec.ofNat w ((2 ^ len - 1) * 2 ^ lo)
  (x &&& ~~~m) ||| (BitVec.ofNat w (v % 2 ^ len * 2 ^ lo))

/-- The value of `len` bits read as two's complement (R83). -/
def signed (x len : Nat) : Int := if len = 0 then 0 else if x % 2 ^ len < 2 ^ (len - 1) then (x % 2 ^ len : Nat) else (x % 2 ^ len : Nat) - (2 ^ len : Nat)

/-- The residue of an integer modulo `2 ^ n` (R84). -/
def wrapI (x : Int) (n : Nat) : Nat := (x % (2 ^ n : Nat)).toNat

/-- Lane `i` of width `w` (R6, R49). -/
def lane {n : Nat} (x : BitVec n) (w i : Nat) : Nat := x.toNat / 2 ^ (w * i) % 2 ^ w

/-- The number whose lanes of width `w` are the list, lane 0 first. -/
def joinLanes (w : Nat) : List Nat → Nat
  | [] => 0
  | x :: l => x % 2 ^ w + 2 ^ w * joinLanes w l

/-- The `n` lanes of width `w` of a number. -/
def lanesOf (x w : Nat) : Nat → List Nat
  | 0 => []
  | n + 1 => x % 2 ^ w :: lanesOf (x / 2 ^ w) w n

/-- The bytes of a number, lowest first (R6). -/
def toBytes (x n : Nat) : List Nat := lanesOf x 8 n

/-- The number of a byte list, lowest first (R6). -/
def ofBytes (l : List Nat) : Nat := joinLanes 8 l

/-- The number of one bits among the low `n`. -/
def popc (x : Nat) : Nat → Nat
  | 0 => 0
  | n + 1 => x % 2 + popc (x / 2) n

/-- The positions of the one bits among the low `n`, from `k` on. -/
def onesFrom (x k : Nat) : Nat → List Nat
  | 0 => []
  | n + 1 => if x % 2 = 1 then k :: onesFrom (x / 2) (k + 1) n else onesFrom (x / 2) (k + 1) n

/-- Rounds up to a multiple of `k`. -/
def alignUp (x k : Nat) : Nat := (x + k - 1) / k * k

/-- The largest integer whose square is not above `n`, by bits from `2 ^ k` down. -/
def isqrtFrom (n : Nat) : Nat → Nat → Nat
  | 0, r => if (r + 1) * (r + 1) ≤ n then r + 1 else r
  | k + 1, r => isqrtFrom n k (if (r + 2 ^ (k + 1)) * (r + 2 ^ (k + 1)) ≤ n then r + 2 ^ (k + 1) else r)

/-- Integer square root. -/
def isqrt (n : Nat) : Nat := isqrtFrom n (Nat.log2 n / 2 + 1) 0

/-- Adds modulo 2^64. -/
def wadd (a : Word) (n : Int) : Word := BitVec.ofInt 64 (a.toNat + n)

end Sys2Proof.Machine
end

