-- ==== Sys2Proof/Machine/Float.lean ====
section
/-!
DEFINITION. The number formats and rounding of spec/05: exact values, Round (R91), the special values of R94 to R96,
the flags of R97, conversions (R84, R89, R90, R100), and the order of comparisons.
-/
namespace Sys2Proof.Machine

/-- A floating format (R85): exponent bits, fraction bits, bias, largest finite code, canonical NaN. -/
structure Fmt where
  eb : Nat
  fb : Nat
  bias : Nat
  maxCode : Nat
  canon : Nat
  inf : Bool := true
  deriving DecidableEq, Repr

def fp64 : Fmt := ⟨11, 52, 1023, 0x7FEFFFFFFFFFFFFF, 0x7FF8000000000000, true⟩
def fp32 : Fmt := ⟨8, 23, 127, 0x7F7FFFFF, 0x7FC00000, true⟩
def fp16 : Fmt := ⟨5, 10, 15, 0x7BFF, 0x7E00, true⟩
def bf16 : Fmt := ⟨8, 7, 127, 0x7F7F, 0x7FC0, true⟩
def e5m2 : Fmt := ⟨5, 2, 15, 0x7B, 0x7E, true⟩
def e4m3 : Fmt := ⟨4, 3, 7, 0x7E, 0x7F, false⟩

/-- Width of a format. -/
def Fmt.w (F : Fmt) : Nat := 1 + F.eb + F.fb

/-- The exact value of an operand: `fin neg m e` is (−1)^neg · m · 2^e. -/
inductive FVal where
  | nan (sig : Bool)
  | inf (neg : Bool)
  | fin (neg : Bool) (m : Nat) (e : Int)
  deriving DecidableEq, Repr

/-- Exception flags in the order of `fpflags` (R56, R97). -/
abbrev Flags := BitVec 5
def fNv : Flags := 1
def fDz : Flags := 2
def fOf : Flags := 4
def fUf : Flags := 8
def fNx : Flags := 16

/-- A flag, when the condition holds. -/
def flagIf (c : Bool) (f : Flags) : Flags := if c then f else 0

/-- Rounding modes by `fpmode`.rm (R56, R91): 0 RNE, 1 RTZ, 2 RDN, 3 RUP. -/
abbrev Mode := Nat

/-- The value a code denotes (R85, R86). -/
def unpack (F : Fmt) (x : Nat) : FVal :=
  let neg := bits x (F.eb + F.fb) 1 = 1
  let E := bits x F.fb F.eb
  let f := bits x 0 F.fb
  if F.inf ∧ E = 2 ^ F.eb - 1 then
    if f = 0 then .inf neg else .nan (decide (f < 2 ^ (F.fb - 1)))
  else if ¬ F.inf ∧ E * 2 ^ F.fb + f > F.maxCode then .nan false
  else if E = 0 then .fin neg f (1 - F.bias - F.fb) else .fin neg (2 ^ F.fb + f) ((E : Int) - F.bias - F.fb)

/-- Whether a magnitude with remainder is moved away from zero: `lsb` its last bit, `half` the comparison of the
remainder with one half (R91). -/
def roundsUp (mode : Mode) (neg lsb inexact : Bool) (half : Ordering) : Bool :=
  match mode with
  | 0 => half == .gt || (half == .eq && lsb)
  | 1 => false
  | 2 => inexact && neg
  | _ => inexact && !neg

/-- m · 2^e as a multiple of 2^q: the multiple, and whether it is inexact (R91). -/
def roundAt (mode : Mode) (neg : Bool) (m : Nat) (e q : Int) : Nat × Bool :=
  if q ≤ e then (m * 2 ^ (e - q).toNat, false)
  else
    let s := (q - e).toNat
    let n := m / 2 ^ s
    let r := m % 2 ^ s
    let up := roundsUp mode neg (n % 2 == 1) (r != 0) (compare (2 * r) (2 ^ s))
    (if up then n + 1 else n, r != 0)

/-- Floor of the base-2 logarithm of m · 2^e, for m ≠ 0. -/
def expOf (m : Nat) (e : Int) : Int := (Nat.log2 m : Int) + e

/-- The magnitude code of a finite value with the exponent range unbounded above, whether it is inexact, and whether it is
tiny after rounding (R91, R93, R100). -/
def roundMag (F : Fmt) (mode : Mode) (neg : Bool) (m : Nat) (e : Int) : Nat × Bool × Bool :=
  if m = 0 then (0, false, false)
  else
    let E := expOf m e
    let emin : Int := 1 - F.bias
    let qmin : Int := emin - F.fb
    let q := max (E - F.fb) qmin
    let (n, nx) := roundAt mode neg m e q
    let tiny := decide (E < emin - 1) ||
      (decide (E = emin - 1) && decide ((roundAt mode neg m e (E - F.fb)).1 < 2 ^ (F.fb + 1)))
    ((q - qmin).toNat * 2 ^ F.fb + n, nx, tiny)

/-- A magnitude code with its sign. -/
def withSign (F : Fmt) (neg : Bool) (code : Nat) : Nat := (if neg then 2 ^ (F.eb + F.fb) else 0) + code

/-- Round of an exact value into FP64, FP32, FP16 or BF16 with its flags (R91, R94, R97). -/
def round (F : Fmt) (mode : Mode) : FVal → Nat × Flags
  | .nan sig => (F.canon, flagIf sig fNv)
  | .inf neg => (withSign F neg (F.maxCode + 1), 0)
  | .fin neg m e =>
    let (c, nx, tiny) := roundMag F mode neg m e
    if c > F.maxCode then
      let toInf := mode == 0 || (mode == 2 && neg) || (mode == 3 && !neg)
      (withSign F neg (if toInf then F.maxCode + 1 else F.maxCode), fOf ||| fNx)
    else (withSign F neg c, flagIf nx fNx ||| flagIf (nx && tiny) fUf)

/-- Whether a value is a signalling NaN. -/
def FVal.isSig : FVal → Bool
  | .nan s => s
  | _ => false

/-- Whether a value is a NaN. -/
def FVal.isNan : FVal → Bool
  | .nan _ => true
  | _ => false

/-- The sign bit of a value; a NaN has none. -/
def FVal.neg : FVal → Bool
  | .nan _ => false
  | .inf n => n
  | .fin n _ _ => n

/-- The negated value. -/
def FVal.flip : FVal → FVal
  | .nan s => .nan s
  | .inf n => .inf (!n)
  | .fin n m e => .fin (!n) m e

/-- The magnitude. -/
def FVal.mag : FVal → FVal
  | .nan s => .nan s
  | .inf _ => .inf false
  | .fin _ m e => .fin false m e

/-- A finite value as an integer multiple of 2^e0, where e0 is not above its exponent. -/
def scaleI (neg : Bool) (m : Nat) (e e0 : Int) : Int :=
  let x : Int := ((m * 2 ^ (e - e0).toNat : Nat) : Int)
  if neg then -x else x

/-- The exact product (R94): result and nv. -/
def mulX (x y : FVal) : FVal × Flags :=
  match x, y with
  | .nan s, .nan t => (.nan false, flagIf (s || t) fNv)
  | .nan s, _ => (.nan false, flagIf s fNv)
  | _, .nan t => (.nan false, flagIf t fNv)
  | .inf n, .inf k => (.inf (n != k), 0)
  | .inf n, .fin k m _ => if m = 0 then (.nan false, fNv) else (.inf (n != k), 0)
  | .fin n m _, .inf k => if m = 0 then (.nan false, fNv) else (.inf (n != k), 0)
  | .fin n m e, .fin k m' e' => (.fin (n != k) (m * m') (e + e'), 0)

/-- The exact sum with the zero signs of R95: result and nv. -/
def addX (mode : Mode) (x y : FVal) : FVal × Flags :=
  match x, y with
  | .nan s, .nan t => (.nan false, flagIf (s || t) fNv)
  | .nan s, _ => (.nan false, flagIf s fNv)
  | _, .nan t => (.nan false, flagIf t fNv)
  | .inf n, .inf k => if n = k then (.inf n, 0) else (.nan false, fNv)
  | .inf n, .fin _ _ _ => (.inf n, 0)
  | .fin _ _ _, .inf k => (.inf k, 0)
  | .fin n m e, .fin k m' e' =>
    let e0 := min e e'
    let z := scaleI n m e e0 + scaleI k m' e' e0
    if z = 0 then (.fin (if m = 0 ∧ m' = 0 ∧ n = k then n else mode == 2) 0 0, 0)
    else (.fin (decide (z < 0)) z.natAbs e0, 0)

/-- The exact quotient, with a sticky bit below more bits than any format keeps (R130). -/
def divX (x y : FVal) : FVal × Flags :=
  match x, y with
  | .nan s, .nan t => (.nan false, flagIf (s || t) fNv)
  | .nan s, _ => (.nan false, flagIf s fNv)
  | _, .nan t => (.nan false, flagIf t fNv)
  | .inf _, .inf _ => (.nan false, fNv)
  | .inf n, .fin k _ _ => (.inf (n != k), 0)
  | .fin n _ _, .inf k => (.fin (n != k) 0 0, 0)
  | .fin n m e, .fin k m' e' =>
    if m' = 0 then if m = 0 then (.nan false, fNv) else (.inf (n != k), fDz)
    else if m = 0 then (.fin (n != k) 0 0, 0)
    else
      let s := Nat.log2 m' + 80
      let q := m * 2 ^ s / m'
      let r := m * 2 ^ s % m'
      (.fin (n != k) (2 * q + (if r = 0 then 0 else 1)) (e - e' - s - 1), 0)

/-- The exact square root, with a sticky bit (R130). -/
def sqrtX : FVal → FVal × Flags
  | .nan s => (.nan false, flagIf s fNv)
  | .inf n => if n then (.nan false, fNv) else (.inf false, 0)
  | .fin n m e =>
    if m = 0 then (.fin n 0 0, 0)
    else if n then (.nan false, fNv)
    else
      let (m, e) := if e % 2 = 0 then (m, e) else (2 * m, e - 1)
      let M := m * 2 ^ 160
      let r := isqrt M
      (.fin false (2 * r + (if r * r = M then 0 else 1)) (e / 2 - 80 - 1), 0)

/-- Fused ±(a·b) ± c, rounded once (R130): a product of 0·∞ sets nv, even with a NaN addend. -/
def fmaX (mode : Mode) (negP negC : Bool) (x y z : FVal) : FVal × Flags :=
  let (p, fl) := mulX x y
  let p := if negP then p.flip else p
  let (s, fl') := addX mode p (if negC then z.flip else z)
  (s, fl ||| fl')

/-- The order of two numbers; none if either is a NaN. -/
def cmpX (x y : FVal) : Option Ordering :=
  match x, y with
  | .nan _, _ => none
  | _, .nan _ => none
  | .inf n, .inf k => some (compare k.toNat n.toNat)
  | .inf n, .fin _ _ _ => some (if n then .lt else .gt)
  | .fin _ _ _, .inf k => some (if k then .gt else .lt)
  | .fin n m e, .fin k m' e' => let e0 := min e e'; some (compare (scaleI n m e e0) (scaleI k m' e' e0))

/-- Whether `x` is the smaller in the total order of R96, where −0 is less than +0. -/
def lessX (x y : FVal) : Bool :=
  match cmpX x y with
  | some .lt => true
  | some .eq => x.neg && !y.neg
  | _ => false

/-- minimumNumber or maximumNumber (R96). -/
def minMaxX (isMax : Bool) (x y : FVal) : FVal × Flags :=
  let fl := flagIf (x.isSig || y.isSig) fNv
  if x.isNan then (if y.isNan then .nan false else y, fl)
  else if y.isNan then (x, fl)
  else (if lessX x y != isMax then x else y, fl)

/-- A value rounded once, with the flags of its operation. -/
def roundWith (F : Fmt) (mode : Mode) (r : FVal × Flags) : Nat × Flags :=
  let (x, fl) := round F mode r.1
  (x, fl ||| r.2)

/-- A real rounded to an integer: the integer and whether it is inexact (R84, R91). -/
def roundInt (mode : Mode) (neg : Bool) (m : Nat) (e : Int) : Int × Bool :=
  let (n, nx) := roundAt mode neg m e 0
  (if neg then -(n : Int) else n, nx)

/-- Saturation of an integer into a format of width `n` (R84): value and whether it saturated. -/
def satInt (sgn : Bool) (n : Nat) (x : Int) : Int × Bool :=
  let lo : Int := if sgn then -((2 ^ (n - 1) : Nat) : Int) else 0
  let hi : Int := ((2 ^ (if sgn then n - 1 else n) : Nat) : Int) - 1
  if x < lo then (lo, true) else if x > hi then (hi, true) else (x, false)

/-- Conversion of a value into an integer format (R84). -/
def toInt (mode : Mode) (sgn : Bool) (n : Nat) : FVal → Int × Flags
  | .nan _ => (0, fNv)
  | .inf neg => (if neg then (satInt sgn n (-((2 ^ 70 : Nat) : Int))).1 else (satInt sgn n ((2 ^ 70 : Nat) : Int)).1, fNv)
  | .fin neg m e =>
    let (x, nx) := roundInt mode neg m e
    let (y, sat) := satInt sgn n x
    (y, if sat then fNv else flagIf nx fNx)

/-- The exact value of an integer. -/
def ofInt (x : Int) : FVal := .fin (decide (x < 0)) x.natAbs 0

/-- Conversion between floating formats (R133): NaNs canonical, infinities kept. -/
def cvtF (F : Fmt) (mode : Mode) (x : FVal) : Nat × Flags := round F mode x

/-- The class mask of R132. -/
def classify (F : Fmt) (x : Nat) : Nat :=
  match unpack F x with
  | .nan s => if s then 256 else 512
  | .inf n => if n then 1 else 128
  | .fin n m _ =>
    if m = 0 then (if n then 8 else 16)
    else if m < 2 ^ F.fb then (if n then 4 else 32) else (if n then 2 else 64)

/-- Sign of `a` set from `b` (R129): 0 b's sign, 1 its inverse, 2 the XOR of both. -/
def fsgn (F : Fmt) (o : Nat) (a b : Nat) : Nat × Flags :=
  let sb := bits b (F.eb + F.fb) 1 = 1
  let sa := bits a (F.eb + F.fb) 1 = 1
  match unpack F a with
  | .nan s => (F.canon, flagIf s fNv)
  | _ =>
    let s := if o = 0 then sb else if o = 1 then !sb else sa != sb
    (withSign F s (bits a 0 (F.eb + F.fb)), 0)

/-- 128 times the value of a DY8 code (R87). -/
def dy8I (c : Nat) : Int :=
  let t (s k : Nat) : Int := if s = 1 then -((2 ^ (7 - k) : Nat) : Int) else (2 ^ (7 - k) : Nat)
  t (bits c 7 1) (bits c 4 3) + t (bits c 3 1) (bits c 0 3)

/-- The value of a DY8 code (R87). A product with it is formed exactly, as one product with that value: the sign of a zero product
and an infinity times terms of opposite signs are the model's reading of R88 beside R95 (log 61). -/
def unpackDy8 (c : Nat) : FVal := let z := dy8I c; .fin (decide (z < 0)) z.natAbs (-7)

/-- Whether n / 128 is the magnitude of a DY8 value, or 257 / 128, the next value above 2 of R100. -/
def dy8Mag (n : Nat) : Bool :=
  n == 257 || (List.range 8).any (fun i => (List.range 8).any (fun j => n == 2 ^ i + 2 ^ j || n + 2 ^ j == 2 ^ i))

/-- The largest DY8 magnitude not above `n`. -/
def dy8Down : Nat → Nat
  | 0 => 0
  | n + 1 => if dy8Mag (n + 1) then n + 1 else dy8Down n

/-- The canonical code of z / 128 (R89). -/
def dy8Code (z : Int) : Nat :=
  let base := if z < 0 then 128 else 0
  (firstFrom (fun c => decide (dy8I c = z)) base 128).getD 8

/-- A finite value converted into DY8 (R89, R100): none for an outlier, else the code and flags. -/
def roundDy8 (mode : Mode) (neg : Bool) (m : Nat) (e : Int) : Option (Nat × Flags) :=
  let s := (-(e + 7)).toNat
  let y := m * 2 ^ (e + 7).toNat
  let n := y / 2 ^ s
  let r := y % 2 ^ s
  if n > 257 ∨ (n = 257 ∧ r ≠ 0) then none
  else
    let lo := dy8Down n
    let exact := decide (lo = n) && r == 0
    let hi := if exact then n else (firstFrom dy8Mag (n + 1) 258).getD 257
    let pick :=
      if exact then n
      else match mode with
        | 0 => if 2 * y ≤ (lo + hi) * 2 ^ s then lo else hi
        | 1 => lo
        | 2 => if neg then hi else lo
        | _ => if neg then lo else hi
    if pick = 257 then none
    else some (dy8Code (if neg then -(pick : Int) else pick),
      if exact then 0 else if pick = 0 then fUf ||| fNx else fNx)

/-- The narrow destinations of R100. -/
inductive Narrow where
  | e4m3 | e5m2 | dy8
  deriving DecidableEq, Repr

/-- The largest exponent of a narrow format (R85, R101). -/
def Narrow.emax : Narrow → Int
  | .e4m3 => 8
  | .e5m2 => 15
  | .dy8 => 0

/-- The code written for an outlier or a zero (R100, R101). -/
def Narrow.zero : Narrow → Nat
  | .dy8 => 8
  | _ => 0

/-- The code written under a NaN scale (R101). -/
def Narrow.nanCode : Narrow → Nat
  | .e4m3 => 0x7F
  | .e5m2 => 0x7E
  | .dy8 => 0

/-- A finite element under scale 2^k (R100): none for an outlier. For E4M3 under RTZ, RDN and RUP the prose of R101 and R100 decide,
not R101's table of thresholds: the model's choice between them (log 62). -/
def narrowFin (D : Narrow) (mode : Mode) (neg : Bool) (m : Nat) (e k : Int) : Option (Nat × Flags) :=
  let fp (F : Fmt) : Option (Nat × Flags) :=
    let (c, nx, tiny) := roundMag F mode neg m (e - k)
    if c > F.maxCode then none else some (withSign F neg c, flagIf nx fNx ||| flagIf (nx && tiny) fUf)
  match D with
  | .e4m3 => fp Machine.e4m3
  | .e5m2 => fp Machine.e5m2
  | .dy8 => roundDy8 mode neg m (e - k)

/-- An element converted unscaled (R100): none for an outlier. A NaN into E4M3 sets nv where it is signalling, as R100's table says;
R97 names every NaN: the model's choice between them (log 60). -/
def narrow (D : Narrow) (mode : Mode) : FVal → Option (Nat × Flags)
  | .fin neg m e => narrowFin D mode neg m e 0
  | .inf neg => some (match D with
    | .e5m2 => (if neg then 0xFC else 0x7C, 0)
    | .e4m3 => (if neg then 0xFF else 0x7F, fNv)
    | .dy8 => (if neg then 0x88 else 0x00, fNv))
  | .nan s => some (match D with
    | .e5m2 => (0x7E, flagIf s fNv)
    | .e4m3 => (0x7F, flagIf s fNv)
    | .dy8 => (0x00, fNv))

/-- A block's scale code and exponent (R101): code, exponent, and whether it was clamped below. -/
def blockScale (D : Narrow) (xs : List FVal) : Nat × Int × Bool :=
  let es := xs.filterMap (fun x => match x with | .fin _ m e => if m = 0 then none else some (expOf m e) | _ => none)
  match es with
  | [] => (0, 0, false)
  | x :: l =>
    let e := l.foldl max x - D.emax
    if e < -127 then (0, -127, true) else if e > 127 then (0xFE, 127, false) else ((e + 127).toNat, e, false)

/-- A block converted under its scale (R101): scale code, elements (none: outlier), flags, and the clamp of the scale. -/
def narrowBlock (D : Narrow) (mode : Mode) (xs : List FVal) : Nat × List (Option Nat) × Flags × Bool :=
  if xs.any (fun x => match x with | .fin _ _ _ => false | _ => true) then
    (0xFF, xs.map (fun _ => some D.nanCode), fNv, false)
  else
    let (code, k, clamp) := blockScale D xs
    if xs.all (fun x => match x with | .fin _ m _ => m == 0 | _ => false) then
      (0, xs.map (fun _ => some D.zero), 0, false)
    else
      let rs := xs.map (fun x => match x with | .fin n m e => narrowFin D mode n m e k | _ => none)
      (code, rs.map (Option.map Prod.fst), rs.foldl (fun a r => a ||| (r.map Prod.snd).getD 0) 0, clamp)

/-- The value of a code of floating type `ty` (R77), FP64 to DY8. -/
def unpackTy (ty x : Nat) : FVal :=
  match ty with
  | 8 => unpack fp64 x
  | 9 => unpack fp32 x
  | 10 => unpack fp16 x
  | 11 => unpack bf16 x
  | 12 => unpack e4m3 x
  | 13 => unpack e5m2 x
  | _ => unpackDy8 x

/-- The format of a floating type code (R77). -/
def fmtTy (ty : Nat) : Fmt :=
  match ty with
  | 8 => fp64
  | 9 => fp32
  | 10 => fp16
  | 11 => bf16
  | 12 => e4m3
  | _ => e5m2

/-- Element width in bits of a type code (R77). -/
def tyBits (ty : Nat) : Nat :=
  match ty with
  | 0 | 4 | 12 | 13 | 14 | 15 => 8
  | 1 | 5 | 10 | 11 => 16
  | 2 | 6 | 9 => 32
  | _ => 64

/-- Whether a type code is an integer type (R77). -/
def tyInt (ty : Nat) : Bool := ty < 8

/-- Whether a type code is a signed integer type (R77). -/
def tySigned (ty : Nat) : Bool := ty < 4

/-- The exact integer a code of an integer type denotes (R83). -/
def intTy (ty x : Nat) : Int := if tySigned ty then signed x (tyBits ty) else (x % 2 ^ tyBits ty : Nat)

/-- A value held in an f register, read as a narrower format through the box check of R48. -/
def unbox (ty : Nat) (x : Word) : Nat :=
  let w := tyBits ty
  if w = 64 then x.toNat
  else if x.toNat / 2 ^ w = 2 ^ (64 - w) - 1 then x.toNat % 2 ^ w else (fmtTy ty).canon

/-- A value written boxed (R48). -/
def box (ty : Nat) (x : Nat) : Word :=
  let w := tyBits ty
  BitVec.ofNat 64 (x % 2 ^ w + (2 ^ 64 - 2 ^ w))

end Sys2Proof.Machine
end

