-- ==== Sys2Proof/Machine/State.lean ====
section
/-!
DEFINITION. The state of the IL16-A as plain data, the reasons a step can stop, and the state after cold reset.
Every field names the rule that gives it; a field that is the model's own says so.
-/
namespace Sys2Proof.Machine

/-- Why a step stops with a fault. -/
inductive Fault where
  /-- Raised by an instruction row executed on a context that holds no strand (R29: a Free context issues nothing).
  `step` never does this; safe: no run of the hardware is cut short. -/
  | noStrand
  deriving DecidableEq, Repr

/-- Why a row has no meaning. -/
inductive Refusal where
  /-- A row not modelled yet, raised by its arm of `exec` alone; safe. -/
  | notModelled (mnemonic : String)
  deriving DecidableEq, Repr

/-- Why a context is Waiting (R29). -/
inductive WaitWhy where
  /-- A register it reads is empty (R37); the code is that of R74. -/
  | reg (code : Nat)
  /-- The lookahead of operation `op` is used up (R34). -/
  | lookahead (op : Nat)
  /-- Eight detached operations are outstanding (R34). -/
  | limit
  /-- It writes the destination of an outstanding operation (R34). -/
  | dest (code : Nat)
  /-- 32 posted operations are not yet performed (R144). -/
  | posted
  /-- Nothing may be outstanding: `exit`, `halt`, `rett` (R57, R144, R373). -/
  | drain
  /-- Nor any command pushed to a queue: another suspension point (R53, R57, R144). -/
  | settle
  /-- Earlier loads, or earlier stores, must be performed first: a fence or a release (R154, R296). -/
  | order (loads stores : Bool)
  /-- The same at a scope of the own core alone (R153, R154, R297). -/
  | orderNear (loads stores : Bool)
  /-- An acquire is outstanding (R150, R157, R285, R296). -/
  | acquire
  /-- Queue `q` is empty, or queue `q − 16` is full (R52). -/
  | queue (q : Nat)
  /-- A buffer handle is in another state (R238). -/
  | handle (h st : Nat)
  /-- An earlier operation on this stream handle is outstanding (R212). -/
  | stream (h : Nat)
  /-- All 32 stream contexts are in use (R206). -/
  | streamPool
  /-- The matrix unit holds 16 tile instructions (R191). -/
  | tileQueue
  /-- The copy engine has no room (R224). -/
  | engine
  /-- The tile scheduler holds 16 tasks (R202). -/
  | tasks
  /-- Arrivals of the core are Spilled (R321 `spill`). -/
  | spilled
  /-- Four rounds of a collective are posted and not taken (R242). -/
  | rounds (id : Nat)
  /-- Input bits, or room for that many output words, are missing (R247). -/
  | bits (n : Nat) (out : Bool)
  /-- The packet of a migration is Offered (R263). -/
  | offered
  /-- A record has been sent to a home and its reply is awaited (R259, R261). -/
  | atHome
  /-- The outlier reservation of a `vcvt` is awaited (R178). -/
  | reserve
  /-- A split is in progress (R331). -/
  | split
  /-- Operations younger than a reported fault have still to end (R368). -/
  | younger (id : Nat)
  /-- The release of a system instruction: its strand's earlier accesses are not all performed (R324). -/
  | system
  /-- Commands pushed to queues are not complete (R333). -/
  | pushed
  /-- Posted operations of a handler are not performed: `rett` (R373). -/
  | handler
  /-- Messages of the core are still on their way, ahead of an access that the instruction makes itself (R134, R178). -/
  | path
  /-- Streams have yet to read what lies on the lines of a write (R216). -/
  | unread (lines : List Nat)
  /-- Tile instructions are outstanding (R56). -/
  | tiles
  /-- A change of a node table is being broadcast (R284, R323). -/
  | resolves
  deriving DecidableEq, Repr

/-- The state of a context (R29). Busy is `busyTill` of the context. -/
inductive CtxSt where
  | free
  | ready
  | waiting (why : WaitWhy) (since : Nat)
  | parked (op : Nat) (since : Nat)
  deriving DecidableEq, Repr

/-- What travels beside a record and is not visible to software: launch, priority, level, steal domain (R250, R318). -/
structure Meta where
  pid : Nat := 0
  seq : Nat := 0
  prio : Nat := 0
  lvl : Nat := 0
  dom : Nat := 0
  /-- The cores on which the strand has been bound: its program order spans them (R295). -/
  past : List Nat := []
  deriving DecidableEq, Repr

/-- What travels beside the record of a new strand of the same launch (R250). -/
def Meta.child (m : Meta) : Meta := { m with past := [] }

/-- Captured operands (R35, R369, R371), each as wide as a v register. -/
structure Caps where
  o1 : Vec := 0
  o2 : Vec := 0
  o3 : Vec := 0
  od : Vec := 0
  deriving DecidableEq, Repr

/-- The progress of an operation that left the pipeline. -/
inductive OpSt where
  | pending
  | done
  | fault (code : Nat) (addr aux : Word) (fpx : BitVec 5)
  deriving DecidableEq, Repr

/-- A position-table entry (R268): tag, position, and the context that holds the strand. -/
structure PosEnt where
  tag : BitVec 32
  pos : Word
  ctx : Nat
  deriving DecidableEq, Repr

/-- A detached operation that is outstanding (R33 to R36). -/
structure DetOp where
  id : Nat
  i : Instr
  iw : IWord := 0
  pc : Word
  issuedAt : Nat
  /-- Instructions of the strand issued since (R34). -/
  since : Nat := 0
  /-- Younger instructions retired since (R372). -/
  yret : Nat := 0
  caps : Caps := {}
  asid : Nat := 0
  lvl : Nat := 0
  node : Nat := 0
  /-- Rounding mode fixed at issue (R92). -/
  mode : Nat := 0
  /-- Destination codes (R74), empty from issue. -/
  dests : List Nat := []
  st : OpSt := .pending
  /-- Values that have come back, by lane; results by destination code for units that form them at once. -/
  vals : List (Nat × Vec) := []
  flags : BitVec 5 := 0
  /-- Requests of the operation not yet answered. -/
  left : Nat := 0
  /-- The lowest lane that faulted, with its fault (R169). -/
  laneFault : Option (Nat × Nat × Word) := none
  /-- Earliest completion in ck. -/
  due : Nat := 0
  /-- Later memory instructions wait for it (R296). -/
  acq : Bool := false
  /-- Row block or entry reached by a tile operation (R189, R199), elements asked for by a consuming instruction. -/
  prog : Nat := 0
  /-- The matrix unit has started it (R195): `left` then counts the row blocks or entries still to do. -/
  started : Bool := false
  /-- The strand is Parked on it or has had its park notice (R147). -/
  parked : Bool := false
  /-- Of a `tst`: as for a request (R216). Of an `nbr`: the coordinate it read at issue (R271). -/
  snap : List (Nat × Nat) := []
  /-- Of an `nbr`: the tables still to be read, by core, and the entries found so far with their host cores (R271). -/
  tabs : List Nat := []
  found : List (Nat × PosEnt) := []
  deriving DecidableEq, Repr

/-- A posted operation that is not yet performed (R144). -/
structure PostOp where
  id : Nat
  i : Instr
  iw : IWord := 0
  pc : Word
  caps : Caps := {}
  asid : Nat := 0
  lvl : Nat := 0
  node : Nat := 0
  yret : Nat := 0
  left : Nat := 0
  st : OpSt := .pending
  laneFault : Option (Nat × Nat × Word) := none
  /-- A plain store to virtual memory: the own core's requests to its home come after it (R134, R153). -/
  virt : Bool := false
  deriving DecidableEq, Repr

/-- A fault that is reported and not yet taken (R36, R144, R368). -/
structure FaultInfo where
  code : Nat
  addr : Word := 0
  aux : Word := 0
  id : Nat := 0
  pc : Word := 0
  iw : IWord := 0
  post : Bool := false
  skip : Bool := false
  fpx : BitVec 5 := 0
  wide : Bool := false
  caps : Caps := {}
  lvl : Nat := 0
  yret : Nat := 0
  cyc : Nat := 0
  /-- A `qmov` had popped its source (R36, R52): op1 is the element. -/
  pop : Bool := false
  /-- Registers by code that a replay reads live, since no value of theirs was captured: those the instruction waited for, or those
  that fail their check (R374). -/
  await : List Nat := []
  deriving DecidableEq, Repr

/-- A position binding (R267): coordinate register, tag, live set. -/
structure PosBind where
  crd : Nat
  tag : BitVec 32
  live : Word
  /-- The host cell was left: the strand departs (R270), once its handlers of deeper entries than `depth` have returned. -/
  departing : Bool := false
  depth : Nat := 0
  /-- A split has moved its position to another core: it departs at its next retirement (R273). -/
  moved : Bool := false
  deriving DecidableEq, Repr

/-- The record chain that a `rett` is replaying (R373). -/
structure RettSt where
  /-- The record to replay next, already read; none between records. -/
  now : Option FaultInfo
  chn : Bool
  rpc : Word
  deriving DecidableEq, Repr

/-- A posted round that its context has not taken (R242): collective, round and configuration, the queue form, the
`red.get` that takes it, and what arrived: result and flags, or the time-out (R243). -/
structure PostedRound where
  id : Nat
  num : Nat
  ep : Nat
  queue : Bool := false
  op : Option Nat := none
  res : Option Vec := none
  flags : BitVec 5 := 0
  failed : Bool := false
  deriving DecidableEq, Repr

/-- A `vcvt` that has issued and awaits its reservation (R104, R178): its number, its internal word with its line's head count, and the
operands that it read. -/
structure Reserved where
  id : Nat
  iw : IWord
  h : Nat
  caps : Caps
  deriving DecidableEq, Repr

/-- One context of a core (R28, R46, R54, R321). -/
structure Ctx where
  st : CtxSt := .free
  busyTill : Nat := 0
  /-- When it was last bound (R344), and the first ck at which it is eligible (R31). -/
  boundAt : Nat := 0
  eligAt : Nat := 0
  pc : Word := 0
  g : TMap Word := []
  f : TMap Word := []
  v : TMap Vec := []
  k : TMap KMask := []
  /-- Full/empty bits by register code (R74); default full. -/
  fe : TMap Bool := []
  /-- Registers that fail their check bits (R377, R378), by code. -/
  bad : TMap Bool := []
  wlimit : BitVec 32 := 0
  fpmode : BitVec 7 := 0
  fpflags : BitVec 5 := 0
  tprog : BitVec 17 := 0
  outl : Word := 0
  hypCur : BitVec 8 := 0
  scopeTab : Word := 0
  /-- Bitmaps captured by `scset`, by scope id (R152, R330). -/
  scopes : TMap (Option (BitVec 4096)) := []
  lvl : BitVec 2 := 2
  plvl : BitVec 2 := 0
  depth : BitVec 4 := 0
  ipend : Bool := false
  ien : Bool := false
  sat : Bool := false
  frec : Word := 0
  kipi : Word := 0
  kscr : Word := 0
  asid : BitVec 10 := 0
  mt : Meta := {}
  orph : Bool := false
  jn : Bool := false
  jword : BitVec 20 := 0
  jcl : BitVec 8 := 0
  outst : List DetOp := []
  posted : List PostOp := []
  faults : List FaultInfo := []
  nextId : Nat := 1
  sinceSpt : Nat := 0
  /-- Wheel position owned while paced (R31, R341). -/
  paced : Option Nat := none
  /-- Stream handle to stream context, plus one; 0 is Closed (R206). -/
  strm : TMap Nat := []
  /-- Channel descriptors of q8 to q15 (R158). -/
  chans : TMap (Option Word) := []
  q1 : List Word := []
  q3 : List Word := []
  q5 : List Word := []
  /-- Commands pushed to q0, q2, q4, q6 and not completed (R53). -/
  pushed : Nat := 0
  /-- Posted rounds not taken, oldest first (R242). -/
  rounds : List PostedRound := []
  pos : Option PosBind := none
  rett : Option RettSt := none
  /-- The `join`, `park`, `ld.m` or `mig` whose message is under way, as its fault would record it, and where the strand goes on
  (R259, R261, R263). -/
  sent : Option (FaultInfo × Word) := none
  /-- The `vcvt` whose reservation is awaited (R178). -/
  reserved : Option Reserved := none
  tileOut : BitVec 32 := 0
  tileFlags : BitVec 5 := 0
  /-- Tile state that fails its check bits (R378): bit 0 `tprog`, bit 1 what `tprog gd` counts. -/
  badTile : BitVec 2 := 0
  /-- The Rhizoid forces the fallback at the next issue (R346). -/
  forced : Bool := false
  /-- The queue's control block gave no fault-record region (R342). -/
  noFrec : Bool := false
  /-- The strand ends as `halt` does at its next issue: firmware's answer to an escalated fault (R368). -/
  ending : Bool := false
  deriving DecidableEq, Repr

/-- One deque entry: its slot in K, what is kept beside it, and the posted operations that must be performed first (R249 to R251). -/
structure DqEnt where
  slot : Nat
  mt : Meta := {}
  takeable : Bool := true
  after : List (Nat × Nat × Nat) := []
  /-- One of those has faulted: core and context of its strand, and the depth down to which the handlers have to return (R251). -/
  owe : Option (Nat × Nat × Nat) := none
  /-- A launch entry, which also gets g3 and may bind paced (R299 of chapter 15, R341). -/
  launchEntry : Bool := false
  /-- Where `spawn` read the record: the address that its rejection names (R26, R251, R256); none: the slot itself. -/
  ra : Option Nat := none
  deriving DecidableEq, Repr

/-- A Held arrival: its slot in K (R263). `held` is kept beside the packet: the fault its strand takes first when its
`park` word failed (R261), or, with code 0, the `ld.m` that a kind 0 packet completes (R263, R264). -/
structure SorEnt where
  slot : Nat
  mt : Meta := {}
  held : Option FaultInfo := none
  /-- Where the record of a kind 3 packet stood: the address that its rejection names (R26, R260); 0: the sorus slot itself. -/
  ra : Nat := 0
  /-- When a Spilled arrival stands in the spill area (R263). -/
  ready : Nat := 0
  deriving DecidableEq, Repr

/-- An Offered arrival, with the sender that waits for it (R263); `held` as in a Held one. -/
structure Offer where
  src : Nat
  sender : Option Nat := none
  pkt : Packet96
  mt : Meta := {}
  since : Nat := 0
  held : Option FaultInfo := none
  ra : Nat := 0
  /-- Its transport (R379): the packet is lost; how often it was sent again, and when last. -/
  lost : Bool := false
  resends : Nat := 0
  again : Nat := 0
  deriving DecidableEq, Repr

/-- The states of a stream's context (R213); `taken`: allocated to a Closed handle whose `sdef` or `sload` reads memory (R206). -/
inductive StrmSt where
  | taken | defined | home | floating | hopping | recalling | sinking
  deriving DecidableEq, Repr

/-- One stream context (R206 to R222). -/
structure Strm where
  ctx : Nat
  handle : Nat
  /-- Bits 203:0 of the descriptor (R207). -/
  desc : BitVec 256
  op : Nat := 0
  att : Bool := false
  mode : Nat := 0
  homeOnly : Bool := false
  pin : Bool := false
  /-- Consume position of completed consumption, and in program order (R210, R216). -/
  pos : Nat := 0
  pIss : Nat := 0
  /-- The consume position the context has been told (R215, R300 of chapter 15). -/
  pCtx : Nat := 0
  node : Nat := 0
  pid : Nat := 0
  asid : Nat := 0
  user : Bool := true
  acc : Word := 0
  init : Word := 0
  /-- Elements read and not yet consumed, from `pos` on. -/
  vals : List Word := []
  st : StrmSt := .defined
  slice : Nat := 0
  /-- The fault pending at element `pos + |vals|`, and whether it was reported (R215). -/
  flt : Option (Nat × Word) := none
  seen : Bool := false
  /-- The model's own: which opening or restart of the core's streams this is, for the alias filter (R216). -/
  gen : Nat := 0
  /-- After arrival Home: close. -/
  closing : Bool := false
  /-- When the transit under way ends, and when the next element may be read (R214). -/
  due : Nat := 0
  ready : Nat := 0
  /-- When the core's recall reaches the context, which acts on it once Floating; whether it rolled back what was read (R213, R216). -/
  asked : Option Nat := none
  rolled : Bool := false
  hops : BitVec 8 := 0
  recalls : BitVec 8 := 0
  floats : BitVec 8 := 0
  deriving DecidableEq, Repr

/-- The states of an L1 copy (R358, R360). -/
inductive LineSt where
  | S | E | M | O | P
  deriving DecidableEq, Repr

/-- A line of an L1 data cache (R139, R140, R360). -/
structure L1Line where
  st : LineSt
  /-- Bytes the copy may read and write in state P; all ones otherwise. -/
  mask : BitVec 64
  dirty : BitVec 64 := 0
  data : Line
  expiry : BitVec 8 := 0
  expired : Bool := false
  pinned : Bool := false
  used : Nat := 0
  /-- Words that fail their check (R377). -/
  bad : BitVec 8 := 0
  deriving DecidableEq, Repr

/-- Directory states (R358). -/
inductive DirSt where
  | I | S | E | M | O | P
  deriving DecidableEq, Repr

/-- A memory-side cache line with its directory entry (R139, R358). -/
structure SLine where
  data : Line
  dirty : BitVec 64 := 0
  /-- Full/empty bits of the eight words (R141), and words that fail their check (R377). -/
  fe : BitVec 8 := 255
  bad : BitVec 8 := 0
  dir : DirSt := .I
  /-- Up to four sharer pointers, the owner among them; with more sharers none, and the dies that hold a copy (R358). -/
  sharers : List Nat := []
  dies : BitVec 16 := 0
  owner : Option Nat := none
  hostBit : Bool := false
  /-- A grant held until the host's reply to a BISnp (R365). -/
  snooping : Option Nat := none
  expiry : BitVec 8 := 0
  expired : Bool := false
  pinned : Bool := false
  used : Nat := 0
  /-- The bytes that the line holds: a confirmed version's alone, until an access needs the others (R364). -/
  valid : BitVec 64 := BitVec.allOnes 64
  /-- The leaf it was brought under, which goes on serving it after an unmapping (R326); none: it came of a confirmation (R364). -/
  leaf : Option Word := none
  /-- A class 0 access alone has it, and it goes once that is performed (R139). -/
  passing : Bool := false
  /-- Its place in device DRAM, where it came from there: a control block may lie in it (R335). -/
  frame : Option Nat := none
  deriving DecidableEq, Repr

/-- A version line of one node (R279). -/
structure VLine where
  data : Line
  mask : BitVec 64
  fe : BitVec 8
  /-- Words that fail their check (R377). -/
  bad : BitVec 8 := 0
  deriving DecidableEq, Repr

/-- One write to a core-shared register or core-scope special register that is not visible yet, or the clear of a marked source
at retirement (R37, R40, R56). -/
structure Late where
  due : Nat
  ctx : Nat
  /-- A register's internal code (R74); 0x1000 + number for a special register. -/
  code : Nat
  /-- None for the clear of a mark (R37). -/
  val : Option Word
  /-- The clear of a `?` read, which claims a shared register until then, and the operation it belongs to (R41). -/
  claim : Bool := false
  op : Nat := 0
  deriving DecidableEq, Repr

/-- What an instruction does beyond its own context when it retires (R9). -/
inductive RetAct where
  /-- A `fork` pushes its record (R251, R257). -/
  | fork (rcd : Record) (ent : DqEnt)
  /-- A `qmov` fills the place that it has reserved (R160). -/
  | push (q : Nat) (v : Word)
  /-- `hset` or `hfree` gives a handle a state (R238). -/
  | handle (h st : Nat) (free : Bool)
  /-- `ipi` reaches its target (R328), and register `dst` gets its result. -/
  | ipi (core ctx : Nat) (mask : Word) (dst : Nat)
  deriving DecidableEq, Repr

/-- Such an instruction in the pipeline, with when its effect shows, and as its fault would record it. -/
structure Retiring where
  due : Nat
  ctx : Nat
  act : RetAct
  info : FaultInfo
  deriving DecidableEq, Repr

/-- What is kept of a fault record beside its bytes: whether a `qmov` had popped its source (R36, R160), and the registers that
its replay reads live (R374). -/
structure RecMeta where
  pop : Bool := false
  await : List Nat := []
  deriving DecidableEq, Repr

/-- A written host event, by the key of its line and the byte at which it stands there (R337). -/
structure EvLine where
  key : Nat
  off : Nat
  pid : Nat
  num : Nat
  deriving DecidableEq, Repr

/-- One core (R18, R46, R54, R321). -/
structure Core where
  ctxs : TMap Ctx := []
  shg : TMap Word := []
  shfe : TMap Bool := []
  late : List Late := []
  sorusDepth : BitVec 7 := 64
  spawnLim : BitVec 9 := 256
  scaleUflow : BitVec 32 := 0
  kvec : Word := 0
  dvec : Word := 0
  spillOff : BitVec 23 := 0
  spillCap : BitVec 13 := 0
  /-- The copy permission mask; none is the mask of cold reset, which names only the core itself (R329). -/
  pmask : Option (BitVec 4096) := none
  /-- A mask installed in this ck, which runs that start later check (R334). -/
  pmaskNew : Option (BitVec 4096) := none
  lastRr : Nat := 15
  /-- One more than the last ck in which the core issued; 0 = none (R30). -/
  issuedAt : Nat := 0
  boundIn : Nat := 0
  deque : List DqEnt := []
  /-- Instructions in the pipeline whose effect shows at their retirement, in order of issue (R9). -/
  retiring : List Retiring := []
  /-- One more than the last ck in which the deque's port served a pop or a grant (R252). -/
  portAt : Nat := 0
  sorus : List SorEnt := []
  offers : List Offer := []
  /-- Spilled arrivals, oldest first: slots of the spill area (R263). -/
  spilled : List SorEnt := []
  /-- When the refill under way completes (R263, R309). -/
  refill : Option Nat := none
  streams : TMap (Option Strm) := []
  /-- The model's own: openings and restarts of the core's streams so far (R216). -/
  opens : Nat := 0
  l1 : TMap (Option L1Line) := []
  icache : TMap (Option Line) := []
  /-- Words of instruction-cache lines, and core-shared registers, that fail their check (R377). -/
  icBad : List (Nat × Nat) := []
  shbad : TMap Bool := []
  /-- The lines of the instruction cache, the oldest fill first (R18). -/
  icFill : List Nat := []
  /-- The input and output queues of context 15 (R245). -/
  qin : List Word := []
  /-- Which context pushed each word of the input queue: its command is complete once the reader has taken the word (R53). -/
  qinOf : List Nat := []
  qout : List Word := []
  /-- Bits left of the word being read, and their number; bits passed modulo 8 (R246). -/
  rdBits : Word := 0
  rdLeft : Nat := 0
  rdCount : BitVec 3 := 0
  wrBits : Word := 0
  wrLen : Nat := 0
  wrCount : BitVec 3 := 0
  /-- Channel elements by pushing end: 8·context + queue register − 8 (R158). -/
  chan : TMap (List Word) := []
  postab : List PosEnt := []
  /-- Context that a pre-emption request names, and occupied save blocks by address and partition (R344, R345). -/
  preempt : Option Nat := none
  /-- When that request was made (R346), and that a victim has met one, whose entry is still to be bound (R349). -/
  preemptAt : Nat := 0
  preemptMet : Bool := false
  svb : TMap Bool := []
  /-- Tile instructions of the matrix unit in issue order: context and operation (R191). -/
  mtx : List (Nat × Nat) := []
  /-- C-buffer bytes that a stopped tile instruction of a context keeps from others until its replay (R194): context, first
  offset, the one after the last. -/
  cStop : List (Nat × Nat × Nat) := []
  /-- Messages held in the spill ring (R348): ticket of the task, slot. -/
  ring : List (Nat × Nat) := []
  /-- Next direction of the steal probe: 0 east, 1 south, 2 west, 3 north (R252). -/
  probe : Nat := 0
  unavailable : Bool := false
  /-- Queue elements that fail their check bits (R378): the queue, as 16·context + queue register, or 256 + the key of its channel; and
  the element's place in it. -/
  badQ : List (Nat × Nat) := []
  deriving DecidableEq, Repr

/-- The progress of a copy command (R224 to R235). -/
inductive CopySt where
  | accepted | read | running | arriving | done
  deriving DecidableEq, Repr

/-- One write of a run under way: address, length, value, whether the mask found at the run's start allows it (R329), receiver. -/
structure CopyPiece where
  addr : Nat
  n : Nat
  v : Nat
  ok : Bool
  rcv : Nat
  deriving DecidableEq, Repr

/-- A command accepted by a copy engine (R224, R225). -/
structure CopyCmd where
  core : Nat
  ctx : Nat
  /-- The detached operation that submitted it; none for a push to q0. -/
  op : Option Nat
  minor : Nat
  addr : Word
  mode : Nat := 0
  node : Nat := 0
  pid : Nat := 0
  asid : Nat := 0
  user : Bool := true
  st : CopySt := .accepted
  rcd : BitVec 1024 := 0
  /-- Receiver table: destination and sync word (R229). -/
  recv : List (Word × Word) := []
  run : Nat := 0
  started : Bool := false
  status : Nat := 0
  flags : BitVec 5 := 0
  /-- Its number at the engine. -/
  cid : Nat := 0
  /-- When it was submitted, and the record as it stood before a later store to it (R225). -/
  sentAt : Nat := 0
  held : Option (BitVec 1024) := none
  /-- Earliest next step of it (R236), and the writes of the run under way (R228). -/
  due : Nat := 0
  pend : List CopyPiece := []
  /-- Arrivals refused: receiver and status (R234). -/
  fails : List (Nat × Nat) := []
  sent : Nat := 0
  arrived : Nat := 0
  /-- Operations of the submitter below this number are performed before the command is sent (R159, R235). -/
  after : Nat := 0
  /-- An earlier access has faulted: its replay is over when the strand's depth is down to this (R159). -/
  owe : Option Nat := none
  /-- The submitter's strand has left its context: its element is discarded (R53). -/
  gone : Bool := false
  /-- The submitter's launch (R337, R391). -/
  mt : Meta := {}
  deriving DecidableEq, Repr

/-- The progress of a tile task (R203 to R205). -/
inductive TaskSt where
  | posted | accepted | running | paused | committed | ended
  deriving DecidableEq, Repr

/-- A sub-tile on a matrix unit (R203): number, core, operand messages sent to the unit and arrived there, next row block. -/
structure SubTile where
  num : Nat
  core : Nat
  sent : Nat := 0
  got : Nat := 0
  row : Nat := 0
  deriving DecidableEq, Repr

/-- A task held by a tile scheduler (R201, R203). -/
structure TileTask where
  ticket : Nat
  core : Nat
  ctx : Nat
  addr : Word
  mode : Nat := 0
  node : Nat := 0
  pid : Nat := 0
  asid : Nat := 0
  user : Bool := true
  st : TaskSt := .posted
  rcd : BitVec 1024 := 0
  /-- The detached operation that posted it; none for a push to q2. -/
  op : Option Nat := none
  commit : Nat := 0
  /-- Sub-tiles on units, the next one to assign, and the operand panels fetched: 2p of A, 2q + 1 of B (R203). -/
  subs : List SubTile := []
  next : Nat := 0
  pans : List (Nat × List Nat) := []
  /-- Its dependences were met (R203). -/
  run : Bool := false
  /-- Cores that host a sub-tile of it and that a fallback has reached (R348). -/
  fb : List Nat := []
  flags : BitVec 5 := 0
  status : Nat := 0
  faddr : Word := 0
  /-- As for a copy command. -/
  after : Nat := 0
  owe : Option Nat := none
  gone : Bool := false
  mt : Meta := {}
  deriving DecidableEq, Repr

/-- One cluster: copy engine, tile scheduler, spare core (R15, R202, R224). -/
structure Cluster where
  cmds : List CopyCmd := []
  tasks : List TileTask := []
  nextCmd : Nat := 1
  nextTicket : Nat := 1
  /-- One more than the last ck in which the copy engine started a command (R224). -/
  copyAt : Nat := 0
  spareUsed : Bool := false
  deriving DecidableEq, Repr

/-- The state of a hypothesis node (R276). -/
inductive NodeSt where
  | free | openNode | confirmed | refuted
  deriving DecidableEq, Repr

/-- A node-table entry (R275, R276). -/
structure Node where
  st : NodeSt := .free
  link : Nat := 0
  depth : Nat := 0
  deriving DecidableEq, Repr

/-- A change of a node table that is being broadcast (R284, R289): the table before it, and who has not applied it. -/
structure Resolve where
  asid : Nat
  node : Nat
  /-- 0 hnew or reclaim, 1 confirm, 2 confirm with excl, 3 refute. -/
  kind : Nat
  old : TMap Node
  slicesLeft : List Nat
  coresLeft : List Nat
  core : Nat
  ctx : Nat
  op : Nat
  deriving DecidableEq, Repr

/-- Who waits for a round's result: core, context, and for the queue form the block's address (R242, R244). -/
structure Poster where
  core : Nat
  ctx : Nat
  block : Option Word := none
  pid : Nat := 0
  asid : Nat := 0
  user : Bool := true
  node : Nat := 0
  gone : Bool := false
  /-- The launch whose block the result replaces (R337). -/
  mt : Meta := {}
  /-- When the router of its cluster accepted it (R303). -/
  came : Nat := 0
  deriving DecidableEq, Repr

/-- A round of a collective (R240 to R243): how many rounds came before it since its configuration, and which that was. -/
structure Round where
  num : Nat
  ep : Nat := 0
  /-- The configuration that it runs under, also while its result is under way (R240). -/
  cfg : BitVec 128 := 0
  /-- Contributions by cluster. -/
  contrib : TMap (Option Vec) := []
  /-- Values that routers have passed on: cluster routers by cluster number, die routers by 256 + die. -/
  passed : TMap (Option Vec) := []
  /-- When they stood there: a contribution by cluster, what a router passes on by 512 + router (R241, R303). -/
  times : TMap Nat := []
  posters : List Poster := []
  result : Option Vec := none
  failed : Bool := false
  flags : BitVec 5 := 0
  started : Nat := 0
  /-- When its result was published, or it failed. -/
  endAt : Nat := 0
  deriving DecidableEq, Repr

/-- A collective id (R240). -/
structure Coll where
  on : Bool := false
  cfg : BitVec 128 := 0
  mode : Nat := 0
  cfgDie : Nat := 0
  /-- The round a cluster contributes to next, and how often the id was configured. -/
  joined : TMap Nat := []
  ep : Nat := 0
  rounds : List Round := []
  deriving DecidableEq, Repr

/-- A cell of the cell map (R268, R331): the hosting core and its corners as R267 packs them. -/
structure Cell where
  core : Nat
  lo : Word
  hi : Word
  deriving DecidableEq, Repr

/-- A cell map (R268, R331). -/
structure CellMap where
  cells : List Cell
  standby : List Nat
  halo : Nat
  split : Nat
  deriving DecidableEq, Repr

/-- A host event that is not yet written (R337). -/
structure HostEvt where
  kind : Nat
  status : Nat := 0
  flags : BitVec 5 := 0
  lseq : Nat := 0
  addr : Word := 0
  data : Word := 0
  deriving DecidableEq, Repr

/-- A partition (R319, R335, R351). -/
structure Part where
  spec : PartSpec
  /-- Master node tables, by 256·ASID + id (R275). -/
  nodes : TMap Node := []
  resolves : List Resolve := []
  colls : TMap Coll := []
  cells : Option CellMap := none
  splitting : Bool := false
  events : List HostEvt := []
  /-- Launch numbers completed or rejected whose event is written, not yet covered by `completed` (R335). -/
  doneSeqs : List Nat := []
  deriving DecidableEq, Repr

/-- An accepted launch (R338 to R343). -/
structure Launch where
  rcd : BitVec 1024
  /-- The listed cores, by strand; empty with placement "any" (R338). -/
  place : List Nat := []
  pushed : Nat := 0
  flags : BitVec 5 := 0
  prefetched : Bool := false
  ended : Bool := false
  deriving DecidableEq, Repr

/-- What a memory request does at the home (R145 to R147, R150, R155 to R157). -/
inductive ReqKind where
  | load | store | pf | ldfeClr | ldfeKeep | stfeWait | stfeFail | setfe | clrfe
  | amo (op ty mode : Nat)
  | disc | wb | inv | swarrive | swwait
  /-- The reservation of a `vcvt`, with which its entries are written (R104, R178). -/
  | reserve
  /-- The overwriting of a position-table entry (R269). -/
  | ppub
  deriving DecidableEq, Repr

/-- A memory request of a strand (R134). -/
structure MemReq where
  kind : ReqKind
  ea : Word
  n : Nat
  data : Word := 0
  cmp : Word := 0
  lane : Nat := 0
  pid : Nat := 0
  asid : Nat := 0
  user : Bool := true
  node : Nat := 0
  lease : Nat := 3
  posted : Bool := false
  /-- A lane of a vector access, whose faults name its own address (R169). -/
  vec : Bool := false
  /-- Consume positions of the core's open streams at issue, by opening (R216). -/
  snap : List (Nat × Nat) := []
  deriving DecidableEq, Repr

/-- What a packet carries. -/
inductive Msg where
  | mem (core ctx op : Nat) (r : MemReq)
  | parkNotice (core ctx op : Nat)
  | wake (core ctx op lane : Nat) (val : Word)
  /-- `why`: 0 for WAITLIMIT, 1 for SAFEPOINT-OVERDUE, 2 for IPI (R39, R328, R346). -/
  | withdraw (core ctx op why : Nat)
  | join (core ctx : Nat) (addr : Word) (rcd : Record) (mt : Meta)
  | decrement (core : Nat) (addr : Word) (mt : Meta)
  | parkRec (core ctx : Nat) (r : MemReq) (rcd : Record) (mt : Meta)
  | arrive (cluster cmd rcv : Nat) (addr : Word) (n : Nat)
  deriving DecidableEq, Repr

/-- A write to host memory that not every core has seen (R295, R366): the bytes before it, who made it, who has seen it. -/
structure HostWr where
  key : Nat
  mask : BitVec 64
  old : Line
  core : Nat
  /-- The launch that it was made for. -/
  seq : Nat := 0
  seen : List Nat
  deriving DecidableEq, Repr

/-- A packet in flight between one source and one home (R134), with its transport state (R379). -/
structure Pkt where
  src : Nat
  dst : Nat
  body : Msg
  seq : BitVec 16 := 0
  /-- Earliest ck at which it can be performed. -/
  due : Nat := 0
  sentAt : Nat := 0
  received : Bool := false
  resends : Nat := 0
  /-- When it was last sent again (R379). -/
  again : Nat := 0
  /-- Its translation and its line have been waited for (R144, R356). -/
  walked : Bool := false
  /-- A store whose line its core's L1 owns and has written, before other copies of it are gone (R153, R295): the scopes in which it can no
  longer be seen absent, by id and captured bitmap; none before that. -/
  own : Option (List (Nat × Option (BitVec 4096))) := none
  deriving DecidableEq, Repr

/-- What a waiter at a home waits for (R148, R157, R261). -/
inductive WaitKind where
  | ldfeClr | ldfeKeep | stfeWait | park | swwait
  deriving DecidableEq, Repr

/-- A request on the wait list of a word (R147, R148). -/
structure Waiter where
  loc : Nat
  kind : WaitKind
  core : Nat
  ctx : Nat
  op : Nat
  r : MemReq
  rcd : Record := 0
  mt : Meta := {}
  deriving DecidableEq, Repr

/-- A leaf translation held by a controller (R356). -/
structure TlbEnt where
  die : Nat
  pid : Nat
  asid : Nat
  level : Nat
  page : Nat
  leaf : Word
  pteAddr : Nat
  deriving DecidableEq, Repr

/-- An upper table entry held by a controller's walk cache (R356). -/
structure WalkEnt where
  die : Nat
  pid : Nat
  asid : Nat
  level : Nat
  page : Nat
  entry : Word
  deriving DecidableEq, Repr

/-- An entry of a remap filter (R357). -/
structure RemapEnt where
  home : Nat
  pid : Nat
  asid : Nat
  level : Nat
  page : Nat
  primAsid : Nat
  primVa : Word
  /-- The secondary's leaf with the permissions of both, where it stands, and whether its a and d bits have been written. -/
  leaf : Word := 0
  pteAddr : Nat := 0
  aSet : Bool := false
  dSet : Bool := false
  deriving DecidableEq, Repr

/-- A physical memory: bytes, full/empty bits of its words (listed when empty), words that fail their check (R141, R377). -/
structure Mem where
  cells : List Host.Cell := []
  fe : TMap Bool := []
  bad : TMap Bool := []
  deriving DecidableEq, Repr

/-- A line of the device log (R376, R379, R380, R388). -/
structure LogEnt where
  kind : Nat
  what : Nat
  deriving DecidableEq, Repr

/-- A packet that was received and whose acknowledgement is lost (R379): its pair, its number, and when it was last sent. -/
structure Unacked where
  src : Nat
  dst : Nat
  seq : BitVec 16
  sentAt : Nat
  deriving DecidableEq, Repr

/-- What firmware reports to the host when it has created a partition (R382, R383). -/
structure Reply where
  pid : Nat
  ctrl : Nat
  asdir : Nat
  decoders : List (BitVec 128)
  deriving DecidableEq, Repr

/-- A staged image that is to take over its agent (R390): where it stands in device DRAM, and its bytes. -/
structure FwReq where
  agent : Nat
  addr : Nat
  len : Nat
  deriving DecidableEq, Repr

/-- One choice of the environment and the hardware (the model's own, log 3). -/
inductive Sched where
  /-- An event row happens, with its operands. -/
  | event (i : Instr) (e : EvArgs)
  /-- The core takes its issue slot (R31). -/
  | issue (core : Nat)
  /-- The ck ends. -/
  | tick
  deriving DecidableEq, Repr

/-- The whole package. -/
structure State where
  /-- ck since cold reset (R56). -/
  cycles : Nat := 0
  /-- The model's own: core and context that the step acts for. -/
  cur : Nat := 0
  cx : Nat := 0
  /-- The internal word in the issue stage (R73). -/
  iw : IWord := 0
  /-- Head count of the line it came from (R63, R66). -/
  iwH : Nat := 31
  /-- The model's own: the operands of the event row that happens (log 3). -/
  ev : EvArgs := {}
  /-- The model's own: the choices still to be taken (log 3). -/
  schedule : List Sched := []
  /-- The model's own: the counter the free values are applied to (log 5). -/
  fresh : Nat := 0
  cores : TMap Core := []
  clusters : TMap Cluster := []
  parts : TMap (Option Part) := []
  /-- By partition · 2^32 + launch number. -/
  launches : TMap (Option Launch) := []
  /-- Local and cluster memory by window address (R59, R60). -/
  win : Mem := {}
  dram : Mem := {}
  far : Mem := {}
  host : Mem := {}
  slices : TMap (Option SLine) := []
  /-- By line key · 2^18 + 256 · ASID + node (R279). -/
  vers : TMap (Option VLine) := []
  /-- Writes to host memory that some core may still not see, oldest first (R295). -/
  hostWr : List HostWr := []
  /-- Software-managed pages by page key (R327). -/
  swPages : TMap Bool := []
  /-- What each page maps, target and frame, as walks have found it: a page newly mapped has full words (R141). -/
  pages : TMap (Option Nat) := []
  /-- Fault records not yet taken by `rett`, by the key of their first line: fields of access HW keep what hardware wrote (R7,
  R369). -/
  recs : TMap (Option RecMeta) := []
  /-- Where the events of the rings stand that hardware has written: line, place in it, partition and number (R7, R337). -/
  evLines : List EvLine := []
  /-- The rotating priority pointer of each slice (R361). -/
  rot : TMap Nat := []
  tlb : List TlbEnt := []
  wcache : List WalkEnt := []
  remap : List RemapEnt := []
  waiters : List Waiter := []
  net : List Pkt := []
  /-- Next sequence number and next expected number by pair (R379). -/
  pairSeq : TMap (BitVec 16) := []
  unacked : List Unacked := []
  /-- What is kept beside a record that a `join` wrote to a slot, by counter address (R260). -/
  joinMeta : TMap (Option Meta) := []
  devId : BitVec 20 := 0
  /-- Firmware versions: agents 0 to 15 are the Rhizoids (R321, R389). -/
  fwVer : TMap Word := []
  links : TMap Word := []
  /-- Lanes of each Mirrin link that failed with no spare left (R386). -/
  lostLanes : TMap Nat := []
  edges : TMap Word := []
  hdm : TMap (BitVec 128) := []
  /-- Creation replies on the host command queue, oldest first (R382, R383). -/
  replies : List Reply := []
  /-- Switches of firmware asked for and not yet made, in order of arrival (R390). -/
  fwPending : List FwReq := []
  /-- The image that the recovery function of CXL.io has loaded for die 1 (R388). -/
  recovery : Option (List Byte) := none
  /-- Bring-up step finished by each die, 16 + the step at which a held die failed (R388); 0 before bring-up. -/
  bring : TMap Nat := []
  granularity : Bool := false
  /-- Structures whose self-test is pending, by selector (R376). -/
  tests : List Word := []
  log : List LogEnt := []
  /-- Steps of the throttle that apply, and when it last moved; power samples in mW, newest first, and when the last was taken
  (R391). -/
  throttle : Nat := 0
  throttledAt : Nat := 0
  power : List Nat := []
  sampledAt : Nat := 0
  /-- Agents, channels and lanes held by a service operation (R390). -/
  holds : List Nat := []
  deriving DecidableEq, Repr

/-- The machine right after cold reset: contexts Free at device level (R318), registers and special registers at the
values of their field maps (R56, R321), every other register at the value log 2 names, memory with nothing listed. -/
def State.reset : State := {}

end Sys2Proof.Machine
end

