-- ==== Sys2Proof/Machine/Operands.lean ====
section
/-!
DEFINITION. Where the machine's parts are found in the state; registers with their full/empty bits (R37, R40, R41, R46,
R47), the operands of the instruction that issues or is replayed (R35, R75, R373), and special registers (R54, R56, R321).
-/
namespace Sys2Proof.Machine

/-! Parts of the state. -/

def State.core (s : State) (c : Nat) : Core := mget {} s.cores c
def State.setCore (s : State) (c : Nat) (k : Core) : State := { s with cores := mset {} s.cores c k }
def State.updCore (s : State) (c : Nat) (f : Core → Core) : State := s.setCore c (f (s.core c))
def State.ctx (s : State) (c x : Nat) : Ctx := mget {} (s.core c).ctxs x
def State.setCtx (s : State) (c x : Nat) (k : Ctx) : State :=
  s.updCore c (fun co => { co with ctxs := mset {} co.ctxs x k })
def State.updCtx (s : State) (c x : Nat) (f : Ctx → Ctx) : State := s.setCtx c x (f (s.ctx c x))

/-- The context the step acts for. -/
def State.me (s : State) : Ctx := s.ctx s.cur s.cx
def State.updMe (s : State) (f : Ctx → Ctx) : State := s.updCtx s.cur s.cx f
def State.myCore (s : State) : Core := s.core s.cur
def State.updMyCore (s : State) (f : Core → Core) : State := s.updCore s.cur f
def State.cluster (s : State) (n : Nat) : Cluster := mget {} s.clusters n
def State.updCluster (s : State) (n : Nat) (f : Cluster → Cluster) : State :=
  { s with clusters := mset {} s.clusters n (f (s.cluster n)) }
def State.part (s : State) (p : Nat) : Option Part := mget none s.parts p
def State.updPart (s : State) (p : Nat) (f : Part → Part) : State :=
  { s with parts := mset none s.parts p ((s.part p).map f) }

/-- Cluster and die of a core id (R16). -/
def clusterOf (c : Nat) : Nat := c / 16
def dieOf (c : Nat) : Nat := c / 256

/-- Grid coordinates of a core id (R17). -/
def gridX (c : Nat) : Nat := 16 * (c / 256 % 4) + 4 * (c / 16 % 4) + c % 4
def gridY (c : Nat) : Nat := 16 * (c / 1024) + 4 * (c / 64 % 4) + c / 4 % 4

/-- Whether a partition holds a core (R319). -/
def specHas (p : PartSpec) (c : Nat) : Bool := p.units.contains (if p.clusterGrain then clusterOf c else dieOf c)

/-- The partition of a core (R319, R321): that of the first partition that holds it, 0 where none does. -/
def State.pidOf (s : State) (c : Nat) : Nat :=
  match s.parts.find? (fun e => match e.2 with | some p => specHas p.spec c | none => false) with
  | some e => e.1
  | none => 0

/-- The cores of a partition; the whole package where the partition is not created. -/
def State.inPart (s : State) (pid c : Nat) : Bool :=
  match s.part pid with
  | some p => specHas p.spec c
  | none => decide (c < Config.nCores)

/-- Whether a core is reported unavailable (R15). -/
def State.unavail (s : State) (c : Nat) : Bool := (s.core c).unavailable

/-! Registers. -/

/-- g56 to g63 exist once per core (R40). -/
def isShared (code : Nat) : Bool := decide (56 ≤ code) && decide (code < 64)

/-- g0 and k0 are fixed and full (R47). -/
def isFixed (code : Nat) : Bool := code == 0 || code == 0x80

/-- The value a register holds (R46, R47). -/
def State.reg (s : State) (c x code : Nat) : Vec :=
  if code = 0 then 0
  else if code = 0x80 then (BitVec.allOnes 128).setWidth 1024
  else if isShared code then (mget 0 (s.core c).shg code).setWidth 1024
  else if code < 0x40 then (mget 0 (s.ctx c x).g code).setWidth 1024
  else if code < 0x60 then (mget 0 (s.ctx c x).f code).setWidth 1024
  else if code < 0x80 then mget 0 (s.ctx c x).v code
  else (mget 0 (s.ctx c x).k code).setWidth 1024

/-- Writes a register and clears its failing check bits; g0 and k0 discard (R47, R377). -/
def State.putReg (s : State) (c x code : Nat) (v : Vec) : State :=
  if isFixed code then s
  else if isShared code then s.updCore c (fun k => { k with
    shg := mset 0 k.shg code (v.setWidth 64), shbad := mset false k.shbad code false })
  else s.updCtx c x (fun k =>
    let k := { k with bad := mset false k.bad code false }
    if code < 0x40 then { k with g := mset 0 k.g code (v.setWidth 64) }
    else if code < 0x60 then { k with f := mset 0 k.f code (v.setWidth 64) }
    else if code < 0x80 then { k with v := mset 0 k.v code v }
    else { k with k := mset 0 k.k code (v.setWidth 128) })

/-- A register's full/empty bit (R37, R47). -/
def State.full (s : State) (c x code : Nat) : Bool :=
  if isFixed code then true
  else if isShared code then mget true (s.core c).shfe code
  else mget true (s.ctx c x).fe code

/-- Sets a full/empty bit; g0 and k0 stay full (R47). -/
def State.setFull (s : State) (c x code : Nat) (b : Bool) : State :=
  if isFixed code then s
  else if isShared code then s.updCore c (fun k => { k with shfe := mset true k.shfe code b })
  else s.updCtx c x (fun k => { k with fe := mset true k.fe code b })

/-- Whether another context's `?` read has claimed a shared register (R41). -/
def State.claimed (s : State) (c x code : Nat) : Bool :=
  (s.core c).late.any (fun l => l.claim && l.code == code && l.ctx != x)

/-- One more late write of a core. -/
def State.later (s : State) (c : Nat) (l : Late) : State := s.updCore c (fun k => { k with late := k.late ++ [l] })

/-- A completion's write (R33): value and full. A shared register shows it at the end of the ck (R40). -/
def State.fill (s : State) (c x code : Nat) (v : Vec) : State :=
  if isShared code then s.later c { due := s.cycles + 1, ctx := x, code, val := some (v.setWidth 64) }
  else (s.putReg c x code v).setFull c x code true

/-- The clears of marks of context `x` that `p` picks go (R37, R41). -/
def Core.dropClears (k : Core) (x : Nat) (p : Late → Bool) : Core :=
  { k with late := k.late.filter (fun l => !(l.val.isNone && l.ctx == x && p l)) }

/-- A retiring instruction's write: shared registers show it 8 ck after issue (R40), others at once, and full; it stands over
the clear of the same register as the instruction's own marked source. -/
def State.retireReg (s : State) (c x code : Nat) (v : Vec) : State :=
  if isShared code then s.later c { due := s.cycles + 8, ctx := x, code, val := some (v.setWidth 64) }
  else (s.fill c x code v).updCore c (fun k => k.dropClears x (fun l => l.code == code))

/-- A retiring instruction's clear of a marked source (R37); a `?` read claims a shared register until then (R41). -/
def State.retireClear (s : State) (c x code : Nat) (claim : Bool) : State :=
  if isFixed code then s
  else s.later c { due := s.cycles + 8, ctx := x, code, val := none, claim := claim && isShared code, op := (s.ctx c x).nextId }

/-! Operands of the instruction that issues. -/

/-- The record that a `rett` of this context is replaying (R373). -/
def State.replay (s : State) : Option FaultInfo :=
  match s.me.rett with
  | some r => r.now
  | none => none

/-- The fields of an instruction row, for rows that carry none from the internal word that issues. -/
def State.flds (s : State) : Fields := fieldsOf s.iw

/-- A captured operand (R371, R373): 1 to 3 the sources, 0 a d field that is read. -/
def Caps.at (k : Caps) (role : Nat) : Vec :=
  match role with
  | 1 => k.o1
  | 2 => k.o2
  | 3 => k.o3
  | _ => k.od

/-- Whether a replay reads some register live (R374): that of a wait on a register which ended in WAITLIMIT or was released for
SAFEPOINT-OVERDUE or IPI, which waits again, and of an uncorrectable register (code 0x70, aux kind 1), which reads the new value. -/
def FaultInfo.live (r : FaultInfo) : Bool := !r.await.isEmpty

/-- The operand in `role`, a register by code: in a replay the record's value (R373), but for a register whose value the record does
not have (R374). -/
def State.opnd (s : State) (role code : Nat) : Vec :=
  match s.replay with
  | some r => if r.await.contains code then s.reg s.cur s.cx code else r.caps.at role
  | none => s.reg s.cur s.cx code

/-- The level an instruction of the context runs at: in a replay, that of the faulted instruction, as `rett` returns to plvl only after
the last one (R369, R373; log 68). -/
def Ctx.level (k : Ctx) : BitVec 2 :=
  match k.rett.bind (·.now) with
  | some r => BitVec.ofNat 2 r.lvl
  | none => k.lvl

/-- Operands by class: the value of the register field `x` in `role`. -/
def State.gOp (s : State) (role : Nat) (x : BitVec 6) : Word := (s.opnd role x.toNat).setWidth 64
def State.fOp (s : State) (role : Nat) (x : BitVec 6) : Word := (s.opnd role (0x40 + x.toNat)).setWidth 64
def State.vOp (s : State) (role : Nat) (x : BitVec 6) : Vec := s.opnd role (0x60 + x.toNat)
def State.kOp (s : State) (role : Nat) (x : BitVec 6) : KMask := (s.opnd role (0x80 + x.toNat)).setWidth 128

/-- A g register read beside the captured operands: strides, carried registers. -/
def State.gReg (s : State) (n : Nat) : Word := (s.reg s.cur s.cx n).setWidth 64

/-- A register field as internal code, with its mark, when it is read (R34, R74, R75). -/
def readOf (d : Fd) (x : BitVec 6) (m : Mark) : List (Nat × Mark) := if d.rd then [(d.cls.code x.toNat, m)] else []

/-- The registers an instruction reads and waits for (R34, R37, R74): the second register of an operand pair (R185), the implicit g1 of
`ret` and the six that `fork` carries (R257) among them. The registers that a live mask names are no fields of it, and the spec does
not say that they are waited for: an empty one is carried with the value it holds (log 69). -/
def readsOf (s : Shape) : List (Nat × Mark) :=
  let pair (x : BitVec 6) := [(x.toNat + 1, Mark.plain)]
  readOf s.a s.f.a s.f.ma ++ readOf s.b s.f.b s.f.mb ++ readOf s.c s.f.c s.f.mc ++ readOf s.d s.f.d .plain ++
    (if s.op = 0x051 then [(1, Mark.plain)] else []) ++
    (if s.op / 16 = 0x2C then pair s.f.a ++ pair s.f.b else []) ++
    (if (s.op / 16 = 0x2C ∨ (0x2D0 ≤ s.op ∧ s.op ≤ 0x2D3)) ∧ fld s.f.imm 7 2 ≠ 0 then
      [(0x80 + 2 * fld s.f.imm 7 2, .plain), (0x81 + 2 * fld s.f.imm 7 2, .plain)] else []) ++
    (if s.op = 0x2D0 ∨ s.op = 0x2D1 ∨ s.op = 0x2D3 then pair s.f.a else []) ++
    (if s.op = 0x3C1 ∧ s.f.d ≠ 0 then (List.range 5).map (fun j => (s.f.d.toNat + 1 + j, Mark.plain)) else [])

/-- The registers an instruction writes (R34, R74); a write to g0 or k0 is discarded, and nothing waits for it (R47). -/
def writesOf (s : Shape) : List Nat :=
  let w (d : Fd) (x : BitVec 6) : List Nat := if d.wr then [d.cls.code x.toNat] else []
  (w s.d s.f.d ++ w s.b s.f.b).filter (fun c => !isFixed c)

/-- The operands as stages 3 and 4 read them (R35, R369): in a replay, those of the record. -/
def State.capture (s : State) (sh : Shape) : Caps :=
  let v (role : Nat) (d : Fd) (x : BitVec 6) : Vec := if d.rd then s.opnd role (d.cls.code x.toNat) else 0
  { o1 := if sh.op = 0x051 then s.opnd 1 1 else v 1 sh.a sh.f.a
    o2 := v 2 sh.b sh.f.b
    o3 := v 3 sh.c sh.f.c
    od := if !sh.d.wr || sh.d.cls == .v then v 0 sh.d sh.f.d else 0 }

/-- Whether an instruction's captured operands go to the wide area (R371). -/
def isWide (sh : Shape) : Bool :=
  let w (d : Fd) : Bool := d.rd && (d.cls == .v || d.cls == .k)
  w sh.a || w sh.b || w sh.c || (w sh.d && sh.d.cls == .v)

/-! Special registers. -/

/-- `kstat` (R321). -/
def Ctx.kstat (k : Ctx) : Word :=
  BitVec.ofNat 64 (k.lvl.toNat + 4 * k.plvl.toNat + 16 * k.depth.toNat + 256 * k.ipend.toNat + 512 * k.ien.toNat + 1024 * k.sat.toNat)

/-- Whether a special register's number is assigned (R54, R321). -/
def srAssigned (n : Nat) : Bool :=
  decide (n < 0x0D) || (decide (0x100 ≤ n) && decide (n ≤ 0x105)) || (decide (0x110 ≤ n) && decide (n ≤ 0x112)) ||
  (decide (0x120 ≤ n) && decide (n < 0x162)) || (decide (0x170 ≤ n) && decide (n < 0x1A8)) ||
  (decide (0x1B0 ≤ n) && decide (n < 0x1C0))

/-- Whether a number needs device level (R321). -/
def srDevice (n : Nat) : Bool := n == 0x102

/-- `avail.n` (R15, R321). -/
def State.avail (s : State) (n : Nat) : Word :=
  BitVec.ofNat 64 (joinLanes 1 ((List.range 64).map (fun b => (!s.unavail (64 * n + b)).toNat)))

/-- A Mirrin link before bring-up trains it: no lanes, not trained (R387; log 2). -/
def linkReset : Word := 0x180

/-- The value `rdsr` delivers (R7, R56, R127, R321). -/
def State.sr (s : State) (c x n : Nat) : Word :=
  let k := s.ctx c x
  let co := s.core c
  let w (v : Nat) : Word := BitVec.ofNat 64 v
  if n = 0x000 then w x
  else if n = 0x001 then w (c + 2 ^ 12 * gridX c + 2 ^ 18 * gridY c)
  else if n = 0x002 then w s.cycles
  else if n = 0x003 then k.wlimit.setWidth 64
  else if n = 0x004 then k.fpmode.setWidth 64
  else if n = 0x005 then k.fpflags.setWidth 64
  else if n = 0x006 then k.tprog.setWidth 64
  else if n = 0x007 then k.outl
  else if n = 0x008 then co.sorusDepth.setWidth 64
  else if n = 0x009 then co.spawnLim.setWidth 64
  else if n = 0x00A then k.hypCur.setWidth 64
  else if n = 0x00B then k.scopeTab
  else if n = 0x00C then co.scaleUflow.setWidth 64
  else if n = 0x100 then k.kstat
  else if n = 0x101 then co.kvec
  else if n = 0x102 then co.dvec
  else if n = 0x103 then k.frec
  else if n = 0x104 then k.kipi
  else if n = 0x105 then k.kscr
  else if n = 0x110 then w (s.pidOf c + 256 * s.granularity.toNat + 2 ^ 16 * k.asid.toNat)
  else if n = 0x111 then w (co.spillOff.toNat + 2 ^ 32 * co.spillCap.toNat)
  else if n = 0x112 then 0
  else if 0x120 ≤ n ∧ n < 0x160 then s.avail (n - 0x120)
  else if n = 0x160 then s.devId.setWidth 64
  else if n = 0x161 then mget 0 s.fwVer (dieOf c)
  else if 0x170 ≤ n ∧ n < 0x190 then mget linkReset s.links (n - 0x170)
  else if 0x190 ≤ n ∧ n < 0x1A8 then mget 0 s.edges (n - 0x190)
  else if 0x1B0 ≤ n ∧ n < 0x1C0 then (mget 0 s.hdm ((n - 0x1B0) / 2)).extractLsb' (64 * (n % 2)) 64
  else 0

/-- Bits `hi:lo` of a written value, in place; the others zero. -/
def keep (v : Word) (lo len : Nat) : Word := BitVec.ofNat 64 (fld v lo len * 2 ^ lo)

/-- The effect of a `wrsr` on a core-scope register, applied when it becomes visible (R56, R321). -/
def Core.srSet (co : Core) (n : Nat) (v : Word) : Core :=
  if n = 0x008 then
    let d := fld v 0 7
    { co with sorusDepth := BitVec.ofNat 7 (if d = 0 then 1 else if d > 64 then 64 else d) }
  else if n = 0x009 then { co with spawnLim := BitVec.ofNat 9 (min (fld v 0 9) 256) }
  else if n = 0x00C then { co with scaleUflow := v.setWidth 32 }
  else if n = 0x101 then { co with kvec := keep v 1 51 }
  else if n = 0x102 then { co with dvec := keep v 1 51 }
  else if n = 0x111 then { co with spillOff := BitVec.ofNat 23 (fld v 5 18 * 32), spillCap := BitVec.ofNat 13 (fld v 32 13) }
  else co

/-- The effect of a `wrsr` on a context-scope register (R55, R56, R321); RO, HW and RSV fields ignore writes (R7). -/
def Ctx.srSet (k : Ctx) (n : Nat) (v : Word) : Ctx :=
  if n = 0x003 then { k with wlimit := v.setWidth 32 }
  else if n = 0x004 then { k with fpmode := v.setWidth 7 }
  else if n = 0x005 then { k with fpflags := v.setWidth 5 }
  else if n = 0x006 then { k with tprog := v.setWidth 17, badTile := k.badTile &&& 2 }
  else if n = 0x007 then { k with outl := keep v 4 48 }
  else if n = 0x100 then
    { k with plvl := BitVec.ofNat 2 (min (fld v 2 2) 2), ien := tst v 9 }
  else if n = 0x103 then { k with frec := keep v 11 41, noFrec := false }
  else if n = 0x104 then { k with kipi := k.kipi &&& ~~~v }
  else if n = 0x105 then { k with kscr := v }
  else if n = 0x110 then { k with asid := BitVec.ofNat 10 (fld v 16 10) }
  else k

/-- Whether a special register exists once per core (R54, R321). -/
def srCore (n : Nat) : Bool := n == 0x008 || n == 0x009 || n == 0x00C || n == 0x101 || n == 0x102 || n == 0x111

/-- Whether a special register of a context is also written beside the context's instructions: `fpflags` and `tprog` by detached
operations, `kipi` by interrupts. -/
def srBeside (n : Nat) : Bool := n == 0x005 || n == 0x006 || n == 0x104

/-- A retiring `wrsr` (R30, R56, R127): its value shows 8 ck after issue; at once in a register of the context that nothing else writes,
since the context's next instruction comes no sooner. -/
def State.srWrite (s : State) (c x n : Nat) (v : Word) : State :=
  if srCore n || srBeside n then
    s.updCore c (fun k => { k with late := k.late ++ [{ due := s.cycles + 8, ctx := x, code := 0x1000 + n, val := some v }] })
  else s.updCtx c x (fun k => k.srSet n v)

/-- The code under which a late write counts scale underflows (R56, R178). -/
def uflowCode : Nat := 0x2000

/-- One late write becomes visible (R37, R40, R56). A write that lands fills the register anew: claims on it end (R41). -/
def Core.applyLate (co : Core) (l : Late) : Core :=
  match l.val with
  | none =>
    if isShared l.code then { co with shfe := mset true co.shfe l.code false }
    else
      let k : Ctx := mget {} co.ctxs l.ctx
      { co with ctxs := mset {} co.ctxs l.ctx { k with fe := mset true k.fe l.code false } }
  | some v =>
    if l.code < 0x1000 then { co with
      shg := mset 0 co.shg l.code v, shfe := mset true co.shfe l.code true, shbad := mset false co.shbad l.code false
      late := co.late.filter (fun m => !(m.claim && m.code == l.code)) }
    else if l.code = uflowCode then { co with scaleUflow := BitVec.ofNat 32 (min (co.scaleUflow.toNat + v.toNat) (2 ^ 32 - 1)) }
    else if srBeside (l.code - 0x1000) then
      { co with ctxs := mset {} co.ctxs l.ctx ((mget ({} : Ctx) co.ctxs l.ctx).srSet (l.code - 0x1000) v) }
    else co.srSet (l.code - 0x1000) v

/-- A late write among those of its ck, which are in order of context (R40, R56). R40 orders two completions of one ck; that a write or a
clear of a retiring instruction stands in the same order beside a completion of that ck is the model's choice (log 70). -/
def insLate (l : Late) : List Late → List Late
  | [] => [l]
  | m :: r => if l.ctx < m.ctx then l :: m :: r else m :: insLate l r

/-- Every late write that is due becomes visible; of one ck, the lower context's first, and a context's own in order (R40, R56). -/
def Core.applyDue (co : Core) (now : Nat) : Core :=
  let due := (co.late.filter (fun l => decide (l.due ≤ now))).foldl (fun r l => insLate l r) []
  let co := { co with late := co.late.filter (fun l => !decide (l.due ≤ now)) }
  due.foldl Core.applyLate co

end Sys2Proof.Machine
end

