-- ==== Sys2Proof/Machine/Memory.lean ====
section
/-!
DEFINITION. Memory as bytes in one canonical form, the address map with its refusals (R59 to R62, R136, R137, R249), and
the homes of addresses (R134, R138, R350).
-/
namespace Sys2Proof.Machine

/-! Fault codes (R370). -/

def cIllegal : Nat := 0x01
def cLine : Nat := 0x02
def cPriv : Nat := 0x03
def cTrap : Nat := 0x04
def cIpi : Nat := 0x05
def cXlate : Nat := 0x10
def cPerm : Nat := 0x11
def cWindow : Nat := 0x12
def cAlign : Nat := 0x13
def cWaitLimit : Nat := 0x20
def cOverdue : Nat := 0x21
def cSpawnLimit : Nat := 0x22
def cFpx : Nat := 0x30
def cOutlier : Nat := 0x31
def cHypRefuted : Nat := 0x40
def cHypCapacity : Nat := 0x41
def cRedTimeout : Nat := 0x50
def cHandle : Nat := 0x51
def cUncorrectable : Nat := 0x70
def cTransport : Nat := 0x71

/-- A fault with its address (R143). -/
abbrev Flt := Nat × Word

/-! Bytes. -/

/-- The byte at an address; an unlisted one reads 0 (log 1). -/
def Mem.byte (m : Mem) (a : Nat) : Byte := mget 0 m.cells a

/-- Writes one byte. -/
def Mem.put (m : Mem) (a : Nat) (b : Byte) : Mem := { m with cells := mset 0 m.cells a b }

/-- The number the `n` bytes from `a` on hold (R6). -/
def Mem.read (m : Mem) (a : Nat) : Nat → Nat
  | 0 => 0
  | n + 1 => (m.byte a).toNat + 256 * m.read (a + 1) n

/-- Writes the low `n` bytes of `v` from `a` on (R6). -/
def Mem.write (m : Mem) (a v : Nat) : Nat → Mem
  | 0 => m
  | n + 1 => (m.put a (BitVec.ofNat 8 v)).write (a + 1) (v / 256) n

/-- The full/empty bit of the word that holds `a` (R141). -/
def Mem.full (m : Mem) (a : Nat) : Bool := mget true m.fe (a / 8)

/-- Sets the full/empty bit of the word that holds `a`. -/
def Mem.setFull (m : Mem) (a : Nat) (b : Bool) : Mem := { m with fe := mset true m.fe (a / 8) b }

/-- Whether the word that holds `a` fails its check (R377). -/
def Mem.isBad (m : Mem) (a : Nat) : Bool := mget false m.bad (a / 8)

/-- Clears or sets the failing check of the word that holds `a`. -/
def Mem.setBad (m : Mem) (a : Nat) (b : Bool) : Mem := { m with bad := mset false m.bad (a / 8) b }

/-- The words, by number, that `n` bytes from `a` on touch. -/
def wordsOf (a n : Nat) : List Nat := if n = 0 then [] else (List.range ((a + n - 1) / 8 - a / 8 + 1)).map (· + a / 8)

/-- Makes every word that `n` bytes from `a` on touch full (R141). -/
def Mem.fillWords (m : Mem) (a n : Nat) : Mem := (wordsOf a n).foldl (fun m w => m.setFull (8 * w) true) m

/-- Makes every word of a page full (R141). -/
def Mem.allFull (m : Mem) (a n : Nat) : Mem := { m with fe := m.fe.filter (fun e => !(decide (a ≤ 8 * e.1) && decide (8 * e.1 < a + n))) }

/-- The first word of a range that fails its check (R377). -/
def Mem.firstBad (m : Mem) (a n : Nat) : Option Nat := (wordsOf a n).find? (fun w => m.isBad (8 * w)) |>.map (8 * ·)

/-- A store of `n` bytes: the bytes, and every word they touch full; a word written whole passes its check (R141, R377). -/
def Mem.store (m : Mem) (a v n : Nat) : Mem :=
  let m := (m.write a v n).fillWords a n
  (wordsOf a n).foldl (fun m w => if a ≤ 8 * w ∧ 8 * w + 8 ≤ a + n then m.setBad (8 * w) false else m) m

/-- The canonical form of a memory: bytes, full/empty bits and check bits, each listed only where it differs. -/
abbrev Mem.wf (m : Mem) : Prop := mwf (0 : Byte) m.cells = true ∧ mwf true m.fe = true ∧ mwf false m.bad = true

/-! The address map. -/

/-- The spaces of R59 and R60. -/
inductive Space where
  | virt
  | clus (n : Nat)
  | loc (core : Nat) (buf : Nat)
  | none
  deriving DecidableEq, Repr

def clusBase : Nat := 0xFE00000000000000
def locBase : Nat := 0xFF00000000000000

/-- Size of a typed buffer: 0 W, 1 A, 2 C, 3 K (R60). -/
def bufSize (buf : Nat) : Nat := if buf = 0 then 0x30000 else if buf = 3 then 0x8000 else 0x18000

/-- Base address of a core's typed buffer (R59, R60). -/
def bufAddr (core buf : Nat) : Nat := locBase + core * 2 ^ 20 + buf * 0x40000

/-- The space of an address (R59, R60). -/
def spaceOf (a : Nat) : Space :=
  if a < 2 ^ 52 then .virt
  else if clusBase ≤ a ∧ a < clusBase + 2 ^ 31 then .clus ((a - clusBase) / 2 ^ 23)
  else if locBase ≤ a ∧ a < locBase + 2 ^ 32 then
    let off := (a - locBase) % 2 ^ 20
    if off % 0x40000 < bufSize (off / 0x40000) then .loc ((a - locBase) / 2 ^ 20) (off / 0x40000) else .none
  else .none

/-- Whether an address is mapped: existing, and not of an unavailable core or of a cluster without a core (R61). -/
def State.mapped (s : State) (a : Nat) : Bool :=
  match spaceOf a with
  | .virt => true
  | .clus n => (List.range 16).any (fun k => !s.unavail (16 * n + k))
  | .loc c _ => !s.unavail c
  | .none => false

/-- The end of the mapped range that holds an address: the first address beyond it (R59, R60). -/
def spaceEnd (a : Nat) : Nat :=
  match spaceOf a with
  | .virt => 2 ^ 52
  | .clus n => clusBase + (n + 1) * 2 ^ 23
  | .loc c b => bufAddr c b + bufSize b
  | .none => a

/-- The first byte of `n` bytes from `a` on that no mapping holds (R61, R62); adjacent clusters' memories join. -/
def State.windowFault (s : State) (a n : Nat) : Option Word :=
  if !s.mapped a then some (BitVec.ofNat 64 a)
  else if n = 0 then none
  else
    let e := spaceEnd a
    if a + n ≤ e then none
    else
      match spaceOf a with
      | .clus c =>
        ((List.range (256 - c)).map (fun j => clusBase + (c + 1 + j) * 2 ^ 23)).find? (fun b => decide (b < a + n) && !s.mapped b)
          |>.map (BitVec.ofNat 64 ·)
      | _ => some (BitVec.ofNat 64 e)

/-- The units that touch memory (R136). -/
inductive Unit4 where
  | strand | vector | matrix | stream
  deriving DecidableEq, Repr

/-- Who accesses memory: core, partition, ASID, level, node, unit (R136, R278, R319, R320). -/
structure Who where
  core : Nat := 0
  pid : Nat := 0
  asid : Nat := 0
  user : Bool := false
  node : Nat := 0
  unit : Unit4 := .strand
  /-- An engine outside the core, which sees no L1 copy of a software-managed page (R327). -/
  engine : Bool := false
  /-- The launch that it acts for. -/
  seq : Nat := 0
  deriving DecidableEq, Repr

/-- Whether a core's unit may touch a typed buffer (R136, R137, R186, R208, R249). -/
def bufOk (w : Who) (core buf off : Nat) (write : Bool) : Bool :=
  if buf = 3 then
    core == w.core && w.unit == .strand && !(w.user && decide (off < 0x6200))
  else
    match w.unit with
    | .strand => true
    | .vector => true
    | .matrix => core == w.core && (!write || buf == 2)
    | .stream => core == w.core && (!write || buf == 1)

/-- Whether a partition holds a core of a cluster, and so its memory (R61). -/
def State.clusterIn (s : State) (pid n : Nat) : Bool := (List.range 16).any (fun k => s.inPart pid (16 * n + k))

/-- PERM of windows and typed buffers for `n` bytes from `a` on (R61, R136, R137): each cluster of the range is the partition's. -/
def State.windowPerm (s : State) (w : Who) (a n : Nat) (write : Bool) : Bool :=
  match spaceOf a with
  | .clus c => (List.range ((a + max n 1 - 1 - clusBase) / 2 ^ 23 - c + 1)).all (fun j => s.clusterIn w.pid (c + j))
  | .loc c b => s.inPart w.pid c && bufOk w c b (a - bufAddr c b) write
  | _ => true

/-- The first word of window memory that a read, or a write of less than a word, cannot use for its failing check (R143, R377). -/
def State.windowBad (s : State) (a n : Nat) (write : Bool) : Option Word :=
  if decide (2 ^ 52 ≤ a) && (!write || decide (n < 8)) then (s.win.firstBad a n).map (BitVec.ofNat 64 ·) else none

/-- The issue-time faults of an access that its address decides, in the order of R143: ALIGN, WINDOW, window PERM; a hypothesis write
to window memory is PERM as well (R143, R278). -/
def State.accessFault (s : State) (w : Who) (ea : Word) (n align : Nat) (write : Bool) : Option Flt :=
  let a := ea.toNat
  if a % align != 0 then some (cAlign, ea)
  else
    match s.windowFault a n with
    | some b => some (cWindow, b)
    | none => if !s.windowPerm w a n write || (write && w.node != 0 && decide (2 ^ 52 ≤ a)) then some (cPerm, ea) else none

/-- The issue-time faults of an access (R143): those, and of window memory DATA-UNCORRECTABLE. -/
def State.issueFault (s : State) (w : Who) (ea : Word) (n align : Nat) (write : Bool) : Option Flt :=
  match s.accessFault w ea n align write with
  | some f => some f
  | none => (s.windowBad ea.toNat n write).map (fun b => (cUncorrectable, b))

/-! Homes. -/

/-- The dies that hold a core of the partition, in ascending number (R350). -/
def State.diesOf (s : State) (pid : Nat) : List Nat :=
  match s.part pid with
  | some p =>
    (List.range 16).filter (fun d =>
      if p.spec.clusterGrain then p.spec.units.any (fun u => u / 16 == d) else p.spec.units.contains d)
  | none => List.range 16

/-- The home slice of a virtual address: 32 · die + slice (R350). -/
def State.homeSlice (s : State) (pid va : Nat) : Nat :=
  let b := va / 256
  let dies := s.diesOf pid
  let k := (b % 32 + b / 32 % 32 + b / 1024 % 32) % 32
  32 * ((nth dies (va / 2 ^ 24 % max dies.length 1)).getD 0) + k

/-- The home of an address as one number (R134, R138, R350): slices from 0, banks from 1024, cores from 8192. -/
def State.homeOf (s : State) (pid a : Nat) : Nat :=
  match spaceOf a with
  | .virt => s.homeSlice pid a
  | .clus n => 1024 + 16 * n + (a - clusBase - n * 2 ^ 23) / 64 % 16
  | .loc c _ => 8192 + c
  | .none => 0

/-- The address space a key belongs to. -/
def spaceKey (pid asid : Nat) : Nat := pid * 1024 + asid

/-- The tag of a line: partition, ASID and virtual line address (R139). -/
def lineKey (pid asid va : Nat) : Nat := spaceKey pid asid * 2 ^ 46 + va / 64 % 2 ^ 46
def keyVa (key : Nat) : Nat := key % 2 ^ 46 * 64
def keySpace (key : Nat) : Nat := key / 2 ^ 46
def keyPid (key : Nat) : Nat := keySpace key / 1024
def keyAsid (key : Nat) : Nat := keySpace key % 1024

/-- One name for each location that a wait list can stand at (R148). -/
def locOf (pid asid a : Nat) : Nat := if a < 2 ^ 52 then 2 ^ 64 + spaceKey pid asid * 2 ^ 52 + a / 8 * 8 else a / 8 * 8

/-- The unloaded completion figure of an access (R144): own local 12, own cluster 40, another core's local memory of the
cluster 44, an L1 hit 12, a slice of the own die 48; other places by a figure of the model (log 9). -/
def State.figure (s : State) (w : Who) (a : Nat) (l1 : Bool) : Nat :=
  match spaceOf a with
  | .loc c _ => if c = w.core then 12 else 44
  | .clus n => if n = clusterOf w.core then 40 else 48
  | .virt => if l1 then 12 else if s.homeSlice w.pid a / 32 = dieOf w.core then 48 else 72
  | .none => 12

/-- The part of that figure that the reply takes (R312): 8 from the own core's memories, 12 from another core's; for other
places the model's (log 9). -/
def State.backTime (_ : State) (w : Who) (a : Nat) (l1 : Bool) : Nat :=
  match spaceOf a with
  | .loc c _ => if c = w.core then 8 else 12
  | .virt => if l1 then 8 else 12
  | _ => 12

/-- When a request reaches its home (R312). -/
def State.reachTime (s : State) (w : Who) (a : Nat) (l1 : Bool) : Nat := s.figure w a l1 - s.backTime w a l1

/-- How long a wake-up takes from its home (R312): 4 in the own core. -/
def State.wakeTime (s : State) (w : Who) (a : Nat) : Nat :=
  match spaceOf a with
  | .loc c _ => if c = w.core then 4 else s.backTime w a false
  | _ => s.backTime w a false

/-- The pieces of a range, none of which crosses a 64-byte line: address and length. -/
def pieces : Nat → Nat → Nat → List (Nat × Nat)
  | 0, _, _ => []
  | fuel + 1, a, n =>
    if n = 0 then []
    else
      let k := min n (64 - a % 64)
      (a, k) :: pieces fuel (a + k) (n - k)

/-- The pieces of `n` bytes from `a` on. -/
def linePieces (a n : Nat) : List (Nat × Nat) := pieces (n / 64 + 2) a n

end Sys2Proof.Machine
end

