-- ==== Sys2Proof/Machine/Flags.lean ====
section
/-!
DEFINITION. Rounding modes and exception flags of instructions (R55, R92, R97 to R99).
-/
namespace Sys2Proof.Machine

/-- Bits of the immediate that name a rounding mode (R76). -/
def rmOf (f : Fields) : Nat := fld f.imm 4 3

/-- The mode an operation rounds with (R76, R92): the override, or `fpmode`.rm. -/
def State.modeOf (s : State) (rm : Nat) : Mode := if rm = 0 then fld s.me.fpmode 0 2 else rm % 4

/-- The flags whose enable bit is 1 (R56, R99). -/
def enabled (k : Ctx) (fl : Flags) : Flags := fl &&& k.fpmode.extractLsb' 2 5

/-- Whether flags trap as FPX (R99). -/
def fpx (k : Ctx) (fl : Flags) : Bool := enabled k fl != 0

/-- ORs flags into `fpflags` (R98). -/
def State.addFlags (s : State) (c x : Nat) (fl : Flags) : State :=
  s.updCtx c x (fun k => { k with fpflags := k.fpflags ||| fl })

/-- The key of a launch (R335). -/
def launchKey (pid seq : Nat) : Nat := pid * 2 ^ 32 + seq
def State.launch (s : State) (m : Meta) : Option Launch := mget none s.launches (launchKey m.pid m.seq)
def State.updLaunch (s : State) (m : Meta) (f : Launch → Launch) : State :=
  { s with launches := mset none s.launches (launchKey m.pid m.seq) ((s.launch m).map f) }

/-- A suspension point ORs `fpflags` into the launch's flag word and clears it (R55). -/
def State.flushFlags (s : State) (c x : Nat) : State :=
  let k := s.ctx c x
  (s.updLaunch k.mt (fun l => { l with flags := l.flags ||| k.fpflags })).updCtx c x (fun k => { k with fpflags := 0 })

end Sys2Proof.Machine
end

