-- ==== Sys2Proof/Machine/Cache.lean ====
section
/-!
DEFINITION. Virtual memory: page walks and translation caches (R351 to R356), synonyms (R357), memory-side slices and L1
copies with their directory (R139, R140, R358 to R363), versions of hypothesis nodes (R277 to R280), and the access of one
unit to any memory, performed at the home.
-/
namespace Sys2Proof.Machine

/-! Translation. -/

/-- Physical memory of a target: 0 device DRAM, 1 far, 2 host (R353). -/
def State.phys (s : State) (tgt : Nat) : Mem := if tgt = 0 then s.dram else if tgt = 1 then s.far else s.host
def State.setPhys (s : State) (tgt : Nat) (m : Mem) : State :=
  if tgt = 0 then { s with dram := m } else if tgt = 1 then { s with far := m } else { s with host := m }

/-- Lowest virtual address bit that a level indexes (R352). -/
def lvlShift (l : Nat) : Nat := 7 + 9 * l

/-- A leaf as a walk finds it: entry, level, place. -/
structure Leaf where
  e : Word
  level : Nat
  pte : Nat
  deriving DecidableEq, Repr

/-- Whether an entry breaks a rule of R353 or R355 at its level: RSV bits, the leaf bit of level 1, a misaligned frame, a
table at or above 2^40. -/
def badEntry (e : Word) (level : Nat) : Bool :=
  if !tst e 1 then
    level == 1 || fld e 2 10 != 0 || fld e 52 12 != 0 || decide (2 ^ 40 ≤ fld e 12 40 * 4096)
  else
    tst e 6 || tst e 11 || fld e 62 2 != 0 ||
      (if fld e 9 2 = 3 then fld e 12 4 != 0 else fld e 52 10 != 0) || fld e 12 40 * 4096 % 2 ^ lvlShift level != 0

/-- A walk from a table at `level` down (R352, R355): the leaf, and the upper entries read; or XLATE, or DATA-UNCORRECTABLE where an entry
that it reads fails its check (R377). Upper entries a walk cache holds are not read again (R356). -/
def walkFrom (s : State) (die pid asid va : Nat) : Nat → Nat → Except Nat (Leaf × List WalkEnt)
  | 0, _ => .error cXlate
  | level + 1, table =>
    let l := level + 1
    let pte := table + 8 * (va / 2 ^ lvlShift l % 512)
    let page := va / 2 ^ lvlShift l
    let held := s.wcache.find? (fun w =>
      w.die == die && w.pid == pid && w.asid == asid && w.level == l && w.page == page)
    let e : Word := match held with
      | some w => w.entry
      | none => BitVec.ofNat 64 (s.dram.read pte 8)
    if held.isNone && s.dram.isBad pte then .error cUncorrectable
    else if !tst e 0 || badEntry e l then .error cXlate
    else if tst e 1 then .ok (⟨e, l, pte⟩, [])
    else
      match walkFrom s die pid asid va level (fld e 12 40 * 4096) with
      | .error c => .error c
      | .ok (lf, ups) => .ok (lf, { die, pid, asid, level := l, page, entry := e } :: ups)

/-- Whether an ASID is allotted to a partition (R320). -/
def State.allotted (s : State) (pid asid : Nat) : Bool :=
  match s.part pid with
  | some p => p.spec.asids.contains asid
  | none => false

/-- The walk for an address from its directory entry (R351, R352). -/
def walk (s : State) (die pid asid va : Nat) : Except Nat (Leaf × List WalkEnt) :=
  match s.part pid with
  | none => .error cXlate
  | some p =>
    if !p.spec.asids.contains asid then .error cXlate
    else
      let d : Word := BitVec.ofNat 64 (s.dram.read (p.spec.asdir + 8 * asid) 8)
      if s.dram.isBad (p.spec.asdir + 8 * asid) then .error cUncorrectable
      else if !tst d 0 || fld d 1 11 != 0 || fld d 52 12 != 0 || decide (2 ^ 40 ≤ fld d 12 40 * 4096) then .error cXlate
      else walkFrom s die pid asid va 4 (fld d 12 40 * 4096)

/-- The newest `n` entries of a first-in first-out list. -/
def lastN {α : Type} (n : Nat) (l : List α) : List α := l.drop (l.length - n)

/-- A cache that all dies share a list for, each with room for `n` entries (R356): die `d`'s newest `n` stay, and all of the others. -/
def lastNOf {α : Type} (n d : Nat) (die : α → Nat) (l : List α) : List α :=
  let extra := (l.filter (fun e => die e == d)).length - n
  if extra = 0 then l else l.filter (fun e => die e != d) ++ lastN n (l.filter (fun e => die e == d))

/-- Frame and target of a leaf, as one number (R353). -/
def leafFrame (e : Word) : Nat := fld e 12 40 * 4 + fld e 9 2

/-- A page by space, number and level. -/
def pageKey (pid asid level page : Nat) : Nat := (spaceKey pid asid * 2 ^ 40 + page) * 8 + level

/-- A walk that finds a page newly mapped makes its words full (R141). -/
def State.newPage (s : State) (pid asid va : Nat) (lf : Leaf) : State :=
  let k := pageKey pid asid lf.level (va / 2 ^ lvlShift lf.level)
  if mget none s.pages k = some (leafFrame lf.e) then s
  else
    let s := { s with pages := mset none s.pages k (some (leafFrame lf.e)) }
    let tgt := fld lf.e 9 2
    if 2 ≤ tgt then s else s.setPhys tgt ((s.phys tgt).allFull (fld lf.e 12 40 * 4096) (2 ^ lvlShift lf.level))

/-- A walk that finds no page: none of its size is mapped there. -/
def State.noPage (s : State) (pid asid va : Nat) : State :=
  { s with pages := [1, 2, 3, 4].foldl (fun m l => mset none m (pageKey pid asid l (va / 2 ^ lvlShift l)) none) s.pages }

/-- The leaf of an address: from the die's leaf cache, or by a walk that is then held (R356); else the fault code of the walk. -/
def State.leaf (s : State) (pid asid va : Nat) : State × Except Nat Leaf :=
  let die := s.homeSlice pid va / 32
  match s.tlb.find? (fun t => t.die == die && t.pid == pid && t.asid == asid && t.page == va / 2 ^ lvlShift t.level) with
  | some t => (s, .ok ⟨t.leaf, t.level, t.pteAddr⟩)
  | none =>
    match walk s die pid asid va with
    | .error c => (if c = cXlate then s.noPage pid asid va else s, .error c)
    | .ok (lf, ups) =>
      let s := s.newPage pid asid va lf
      let ent : TlbEnt :=
        { die, pid, asid, level := lf.level, page := va / 2 ^ lvlShift lf.level, leaf := lf.e, pteAddr := lf.pte }
      let ups := ups.filter (fun u => !s.wcache.contains u)
      ({ s with tlb := lastNOf 4096 die (·.die) (s.tlb ++ [ent]), wcache := lastNOf 256 die (·.die) (s.wcache ++ ups) }, .ok lf)

/-- Whether a leaf lets an access through (R355). -/
def leafOk (e : Word) (acc : AccKind) (user : Bool) : Bool :=
  (match acc with
    | .read => tst e 2
    | .write => tst e 3
    | .atomic => tst e 2 && tst e 3
    | .fetch => tst e 4
    | .writeBack => tst e 3) && (!user || tst e 5)

/-- The die that carries downstream port `n` (R21). -/
def portDie (n : Nat) : Nat := [4, 7, 8, 11].getD n 11

/-- Whether a downstream port is in service: its die was not held before step 6 of bring-up (R21, R388). -/
def State.portUp (s : State) (n : Nat) : Bool := let b := mget 0 s.bring (portDie n); !(decide (17 ≤ b) && decide (b ≤ 22))

/-- Whether a decoder covers a far physical address (R383); with the reserved value 3 in ways it covers none (log 65). -/
def decodes (d : BitVec 128) (pa : Nat) : Bool :=
  tst d 0 && fld d 1 2 != 3 && decide (fld d 30 14 * 2 ^ 30 ≤ pa) && decide (pa < (fld d 30 14 + fld d 64 15) * 2 ^ 30)

/-- The downstream port of a decoder that serves an address: ways are interleaved at 256 bytes (R383). -/
def portOf (d : BitVec 128) (pa : Nat) : Nat :=
  fld d (8 + 2 * ((pa - fld d 30 14 * 2 ^ 30) / 256 % 2 ^ fld d 1 2)) 2

/-- Whether a far physical address lies inside a decoder (R354, R383), the lowest that covers it serving it, at a port in service. -/
def State.farOk (s : State) (pa : Nat) : Bool :=
  match (List.range 8).find? (fun i => decodes (mget 0 s.hdm i) pa) with
  | some i => s.portUp (portOf (mget 0 s.hdm i) pa)
  | none => false

/-- Whether a physical address is not refused (R354). -/
def State.frameOk (s : State) (tgt pa : Nat) : Bool :=
  if tgt = 0 then decide (pa < 2 ^ 40) && decide (pa % 2 ^ 36 < 2 ^ 36 - 2 ^ 26)
  else if tgt = 1 then decide (pa < 2 ^ 44) && s.farOk pa
  else decide (pa < 2 ^ 52)

/-- Sets a, and d for a write, in a leaf where they are clear (R353): in DRAM, and in the copies the controllers hold. -/
def State.setAD (s : State) (pte : Nat) (d : Bool) : State :=
  let e : Word := BitVec.ofNat 64 (s.dram.read pte 8)
  let m : Word := if d then 0x180 else 0x80
  if e &&& m = m then s
  else
    { s with
      dram := s.dram.write pte (e ||| m).toNat 8
      tlb := updIf (fun t => t.pteAddr == pte) (fun t => { t with leaf := t.leaf ||| m }) s.tlb }

/-- Whether an access kind writes. -/
def isWrite (acc : AccKind) : Bool :=
  match acc with
  | .read => false
  | .fetch => false
  | _ => true

/-- Translation of an address that is no synonym (R352 to R355): target and physical address, or the fault code. -/
def State.translate (s : State) (pid asid va : Nat) (acc : AccKind) (user : Bool) : State × Except Nat (Nat × Nat) :=
  match s.leaf pid asid va with
  | (s, .error c) => (s, .error c)
  | (s, .ok lf) =>
    let tgt := fld lf.e 9 2
    if tgt = 3 then (s, .error cXlate)
    else if !leafOk lf.e acc user then (s, .error cPerm)
    else
      let pa := fld lf.e 12 40 * 4096 + va % 2 ^ lvlShift lf.level
      if !s.frameOk tgt pa then (s, .error cPerm)
      else (s.setAD lf.pte (isWrite acc), .ok (tgt, pa))

/-- The primary page that a secondary leaf names, once it is checked (R355, R357); else the fault code of the walk. -/
def State.primary (s : State) (pid : Nat) (lf : Leaf) : State × Except Nat (Nat × Nat × Word) :=
  let pasid := fld lf.e 52 10
  let pva := fld lf.e 16 36 * 2 ^ 16
  match s.leaf pid pasid pva with
  | (s, .error c) => (s, .error c)
  | (s, .ok p) =>
    if fld p.e 9 2 = 3 || p.level != lf.level || pva % 2 ^ lvlShift lf.level != 0 then (s, .error cXlate)
    else (s, .ok (pasid, pva, p.e))

/-- The line with a key, in its slice. -/
def State.slice (s : State) (key : Nat) : Option SLine := mget none s.slices key

/-- Whether the leaf a held line was brought under serves an access without a walk (R326, R353): its rights let it through, and
a write finds d set. -/
def SLine.serves (sl : SLine) (acc : AccKind) (user : Bool) : Bool :=
  match sl.leaf with
  | some e => leafOk e acc user && (!isWrite acc || tst e 8)
  | none => false

/-- A line that its slice holds, and serves under the leaf it came by while its ASID is allotted, whatever the tables have become since
(R275, R326). -/
def State.heldLine (s : State) (pid asid va : Nat) (acc : AccKind) (user : Bool) : Option SLine :=
  (s.slice (lineKey pid asid va)).filter (fun sl => s.allotted pid asid && sl.serves acc user)

/-- Where an access is performed (R326, R357): its own address where its line is held, else that or the primary's, by the remap filter or
a walk. A store that brings its line through a synonym needs r of both leaves (R353, R357). -/
def State.redirect (s : State) (pid asid va : Nat) (acc : AccKind) (user : Bool) : State × Except Nat (Nat × Nat) :=
  let home := s.homeSlice pid va
  let hit (r : RemapEnt) : Bool :=
    r.home == home && r.pid == pid && r.asid == asid && r.page == va / 2 ^ lvlShift r.level
  let go (s : State) (r : RemapEnt) : State × Except Nat (Nat × Nat) :=
    let va' := r.primVa.toNat + va % 2 ^ lvlShift r.level
    let fills := acc = .write ∧ (s.slice (lineKey pid r.primAsid va')).isNone
    if !leafOk r.leaf (if fills then .atomic else acc) user then (s, .error cPerm)
    else
      let d := isWrite acc
      let s := if r.aSet && (!d || r.dSet) then s
        else { s.setAD r.pteAddr d with remap := updIf hit (fun r => { r with aSet := true, dSet := r.dSet || d }) s.remap }
      (s, .ok (r.primAsid, va'))
  match s.heldLine pid asid va acc user, s.remap.find? hit with
  | some _, _ => (s, .ok (asid, va))
  | none, some r => go s r
  | none, none =>
    match s.leaf pid asid va with
    | (s, .error c) => (s, .error c)
    | (s, .ok lf) =>
      if fld lf.e 9 2 != 3 then (s, .ok (asid, va))
      else
        match s.primary pid lf with
        | (s, .error c) => (s, .error c)
        | (s, .ok (pasid, pva, pe)) =>
          let r : RemapEnt :=
            { home, pid, asid, level := lf.level, page := va / 2 ^ lvlShift lf.level, primAsid := pasid,
              primVa := BitVec.ofNat 64 pva, leaf := lf.e &&& (pe ||| ~~~0x3C), pteAddr := lf.pte }
          let own := s.remap.filter (fun x => x.home == home)
          let rest := if own.length < 256 then s.remap
            else s.remap.filter (fun x => x.home != home) ++ own.drop 1
          go { s with remap := rest ++ [r] } r

/-- The ASID and address a virtual access is performed under (R357): a synonym's are its primary's; a held line's are its own. -/
def State.truePlace (s : State) (pid asid a : Nat) : Nat × Nat :=
  if (s.slice (lineKey pid asid a)).isSome && s.allotted pid asid then (asid, a)
  else
    match (s.leaf pid asid a).2 with
    | .error _ => (asid, a)
    | .ok lf =>
      match (if fld lf.e 9 2 = 3 then (s.primary pid lf).2 else .error cXlate) with
      | .error _ => (asid, a)
      | .ok (pasid, pva, _) => (pasid, pva + a % 2 ^ lvlShift lf.level)

/-- The home at which a request is performed: a synonym's is its primary's, so that both names keep one order (R134, R357). -/
def State.trueHome (s : State) (pid asid a : Nat) : Nat :=
  if a < 2 ^ 52 then s.homeSlice pid (s.truePlace pid asid a).2 else s.homeOf pid a

/-- One number for the line of an address, whichever name it has (R216, R357). -/
def State.lineLoc (s : State) (pid asid a : Nat) : Nat :=
  if a < 2 ^ 52 then 2 ^ 64 + (let (asid, va) := s.truePlace pid asid a; lineKey pid asid va) else a / 64

/-- Table entries that a walk from a table at `level` down reads, as far as it comes (R356). -/
def readsFrom (s : State) (die pid asid va : Nat) : Nat → Nat → Nat
  | 0, _ => 0
  | level + 1, table =>
    let l := level + 1
    let page := va / 2 ^ lvlShift l
    let held := s.wcache.find? (fun w => w.die == die && w.pid == pid && w.asid == asid && w.level == l && w.page == page)
    let e : Word := match held with
      | some w => w.entry
      | none => BitVec.ofNat 64 (s.dram.read (table + 8 * (page % 512)) 8)
    (if held.isSome then 0 else 1) +
      (if !tst e 0 || badEntry e l || tst e 1 then 0 else readsFrom s die pid asid va level (fld e 12 40 * 4096))

/-- Table entries that the translation of one address reads (R356): none where its leaf is held. -/
def State.tableReads (s : State) (pid asid va : Nat) : Nat :=
  let die := s.homeSlice pid va / 32
  match s.part pid with
  | none => 0
  | some p =>
    let d : Word := BitVec.ofNat 64 (s.dram.read (p.spec.asdir + 8 * asid) 8)
    if s.tlb.any (fun t => t.die == die && t.pid == pid && t.asid == asid && t.page == va / 2 ^ lvlShift t.level) ||
        !p.spec.asids.contains asid || !tst d 0 then 0
    else readsFrom s die pid asid va 4 (fld d 12 40 * 4096)

/-- Table entries that an access reads on its way, a synonym's primary included (R356, R357). -/
def State.pathReads (s : State) (pid asid va : Nat) : Nat :=
  let (pasid, pva) := s.truePlace pid asid va
  (if s.remap.any (fun r => r.home == s.homeSlice pid va && r.pid == pid && r.asid == asid && r.page == va / 2 ^ lvlShift r.level) then 0
    else s.tableReads pid asid va) +
  (if pasid = asid ∧ pva = va then 0 else s.tableReads pid pasid pva)

/-! Lines, masks, leases. -/

/-- The byte mask of `n` bytes from offset `off` on. -/
def byteMask (off n : Nat) : BitVec 64 := BitVec.ofNat 64 ((2 ^ n - 1) * 2 ^ off)

/-- A byte mask as a bit mask of the line. -/
def lineMask (m : BitVec 64) : Line :=
  BitVec.ofNat 512 (joinLanes 8 ((List.range 64).map (fun i => if m.getLsbD i then 255 else 0)))

/-- `new` where the mask has ones, `old` elsewhere. -/
def mergeLine (m : BitVec 64) (new old : Line) : Line :=
  let e := lineMask m
  (new &&& e) ||| (old &&& ~~~e)

/-- `n` bytes of a line from offset `off` on. -/
def lineGet (l : Line) (off n : Nat) : Nat := l.toNat / 2 ^ (8 * off) % 2 ^ (8 * n)

/-- A line whose bytes from `off` on are those of `v`. -/
def lineAt (v off n : Nat) : Line := BitVec.ofNat 512 (v % 2 ^ (8 * n) * 2 ^ (8 * off))

/-- The words of a line that `n` bytes from `off` on touch, as a mask of eight. -/
def wordMask (off n : Nat) : BitVec 8 :=
  if n = 0 then 0 else BitVec.ofNat 8 ((2 ^ ((off + n - 1) / 8 - off / 8 + 1) - 1) * 2 ^ (off / 8))

/-- The lowest word of a mask. -/
def firstOne (m : BitVec 8) : Nat := (onesFrom m.toNat 0 8).headD 0

/-- The words of a line that `n` bytes from `off` on cover whole. -/
def wholeWords (off n : Nat) : BitVec 8 :=
  BitVec.ofNat 8 (joinLanes 1 ((List.range 8).map (fun w => if off ≤ 8 * w ∧ 8 * w + 8 ≤ off + n then 1 else 0)))

/-- Bits of the eight words of a line. -/
def wordBits (f : Nat → Bool) : BitVec 8 := BitVec.ofNat 8 (joinLanes 1 ((List.range 8).map (fun w => (f w).toNat)))

/-- The words that a byte mask touches, and the bytes of a mask of words. -/
def touched (m : BitVec 64) : BitVec 8 := wordBits (fun w => fld m (8 * w) 8 != 0)
def bytesOf (m : BitVec 8) : BitVec 64 :=
  BitVec.ofNat 64 (joinLanes 8 ((List.range 8).map (fun w => if m.getLsbD w then 255 else 0)))

/-- L1 and slice duration of a lease class in ticks (R139); none: does not allocate; 0: pinned. -/
def leaseL1 (c : Nat) : Option Nat :=
  match c with
  | 1 => some 2
  | 2 => some 8
  | 3 => some 16
  | 4 => some 32
  | 5 => some 127
  | 7 => some 0
  | _ => none
def leaseSlice (c : Nat) : Option Nat :=
  match c with
  | 1 => some 8
  | 2 => some 32
  | 3 => some 64
  | 4 => some 127
  | 5 => some 127
  | 6 => some 127
  | 7 => some 0
  | _ => none

/-- The lease clock (R140). -/
def State.tick8 (s : State) : BitVec 8 := BitVec.ofNat 8 (s.cycles / 1024)

/-- The expiry after an access: now + duration, unless the line's remaining life is larger (R140). -/
def newExpiry (now old : BitVec 8) (dur : Nat) (fresh : Bool) : BitVec 8 :=
  let left := (old - now).toNat
  if !fresh && decide (left < 128) && decide (dur < left) then old else now + BitVec.ofNat 8 dur

/-! Slices. -/

def State.putSlice (s : State) (key : Nat) (l : Option SLine) : State := { s with slices := mset none s.slices key l }
def State.l1 (s : State) (c key : Nat) : Option L1Line := mget none (s.core c).l1 key
def State.putL1 (s : State) (c key : Nat) (l : Option L1Line) : State :=
  s.updCore c (fun k => { k with l1 := mset none k.l1 key l })

/-- Whether an address hits the core's L1 (R144). -/
def State.l1Hit (s : State) (w : Who) (a : Nat) : Bool := decide (a < 2 ^ 52) && (s.l1 w.core (lineKey w.pid w.asid a)).isSome

/-- Whether the page of a line is software-managed (R327). -/
def State.swManaged (s : State) (key : Nat) : Bool := mget false s.swPages (keySpace key * 2 ^ 36 + keyVa key / 2 ^ 16)

/-- The cores whose copies a directory entry stands for (R358): those it points to, or with a die mask every core of a marked die in the
partition; of these only such as have a copy, since nothing happens in the others. -/
def State.holders (s : State) (key : Nat) (sl : SLine) : List Nat :=
  if sl.dies = 0 then sl.sharers
  else (s.cores.map (·.1)).filter (fun c => sl.dies.getLsbD (dieOf c) && s.inPart (keyPid key) c && (s.l1 c key).isSome)

/-- One more sharer (R358): the fifth turns the pointers into a die mask. -/
def SLine.addSharer (sl : SLine) (c : Nat) : SLine :=
  if sl.dies = 0 && decide (sl.sharers.length < 4) then { sl with sharers := sl.sharers ++ [c] }
  else { sl with sharers := [], dies := (sl.sharers ++ [c]).foldl (fun m c => m ||| BitVec.ofNat 16 (2 ^ dieOf c)) sl.dies }

/-- Whether a directory entry names no copy. -/
def SLine.alone (sl : SLine) : Bool := sl.sharers.isEmpty && sl.dies == 0

/-- The slice's data with the dirty bytes of every tracked L1 copy (R359, R360). -/
def State.view (s : State) (key : Nat) (sl : SLine) : Line :=
  (s.holders key sl).foldl (fun d c => match s.l1 c key with
    | some l => mergeLine l.dirty l.data d
    | none => d) sl.data

/-- Every tracked copy's dirty bytes merged into the slice line (R359). -/
def State.pulled (s : State) (key : Nat) (sl : SLine) : SLine :=
  { sl with
    data := s.view key sl
    dirty := (s.holders key sl).foldl (fun m c => match s.l1 c key with
      | some l => m ||| l.dirty
      | none => m) sl.dirty }

/-- A host event of a partition waits to be written (R337). -/
def State.post (s : State) (pid : Nat) (e : HostEvt) : State := s.updPart pid (fun p => { p with events := p.events ++ [e] })

/-- The words of a line's newest bytes that fail their check (R377): the slice's, and those of dirty copies. -/
def State.viewBad (s : State) (key : Nat) (sl : SLine) : BitVec 8 :=
  (s.holders key sl).foldl (fun m c => match s.l1 c key with
    | some l => m ||| (l.bad &&& touched l.dirty)
    | none => m) sl.bad

/-- Copy `c`'s dirty bytes are to be written back: where one of its words fails its check they are dropped, and a kind 4 event
names the line (R377). -/
def State.shed (s : State) (key c : Nat) : State :=
  match s.l1 c key with
  | some l => if l.dirty != 0 && l.bad != 0 then
      (s.putL1 c key (some { l with dirty := 0 })).post (keyPid key) { kind := 4, status := cUncorrectable, addr := BitVec.ofNat 64 (keyVa key) }
    else s
  | none => s

/-- Every tracked copy but `c`'s is to be written back. -/
def State.shedOthers (s : State) (key c : Nat) : State :=
  (((s.slice key).map (s.holders key)).getD []).foldl (fun s k => if k = c then s else s.shed key k) s

/-- Every L1 copy written back and dropped, the directory entry Idle (R359). -/
def State.recall (s : State) (key : Nat) : State :=
  let s := s.shedOthers key Config.nCores
  match s.slice key with
  | none => s
  | some sl =>
    let sl' := s.pulled key sl
    let s := (s.holders key sl).foldl (fun s c => s.putL1 c key none) s
    s.putSlice key (some { sl' with dir := .I, sharers := [], dies := 0, owner := none })

/-- The target of a line's page (R354, R366): of the leaf it is held under, else by a walk. -/
def State.lineTgt? (s : State) (key : Nat) : Option Nat :=
  match (s.slice key).bind (·.leaf) with
  | some e => some (fld e 9 2)
  | none => match (s.leaf (keyPid key) (keyAsid key) (keyVa key)).2 with
    | .ok lf => some (fld lf.e 9 2)
    | .error _ => none
def State.lineTgt (s : State) (key : Nat) : Nat := (s.lineTgt? key).getD 0

/-! Control blocks (R335). -/

/-- The bytes from `a` on of `v`, `n` of them, with those of the 64 at `f` put over them. -/
def putOver (v a n : Nat) (l f : Nat) : Nat :=
  joinLanes 8 ((List.range n).map (fun j => if f ≤ a + j ∧ a + j < f + 64 then bits l (8 * (a + j - f)) 8 else bits v (8 * j) 8))

/-- The slice lines that hold bytes of a range of device DRAM: key and place. -/
def State.dramLines (s : State) (a n : Nat) : List (Nat × Nat) :=
  s.slices.filterMap (fun e => match e.2.bind (·.frame) with
    | some f => if f < a + n ∧ a < f + 64 then some (e.1, f) else none
    | none => none)

/-- A range of device DRAM as every reader finds it: in its slices, else in the memory. -/
def State.dramRead (s : State) (a n : Nat) : Nat :=
  (s.dramLines a n).foldl (fun v e => match s.slice e.1 with
    | some sl => putOver v a n (s.view e.1 sl).toNat e.2
    | none => v) (s.dram.read a n)

/-- A partition's control block (R335). -/
def State.ctrlBlock (s : State) (a : Nat) : Nat := s.dramRead a 64

/-- A field of a partition's control block (R335). -/
def State.ctrl (s : State) (pid lo len : Nat) : Nat :=
  match s.part pid with
  | some p => bits (s.ctrlBlock p.spec.ctrl) lo len
  | none => 0

/-! Fields of access HW (R7). -/

/-- The bits of a fault record's two lines that hardware alone writes (R369): all but skip, op1 to op3, opd and hyp. -/
def recHw0 : Line := BitVec.ofNat 512 (2 ^ 320 - 1 - 2 ^ 15)
def recHw1 : Line := BitVec.ofNat 512 (2 ^ 512 - 1 - (2 ^ 64 - 1) - 255 * 2 ^ 256)

/-- The bytes of a control block that hardware alone writes (R335): accepted, completed, evposted. -/
def ctrlHw : List Nat := [16, 17, 18, 19, 20, 21, 22, 23, 36, 37, 38, 39]

/-- The bits that hardware alone writes in the DRAM line at `f`: those of the control blocks in it. -/
def State.ctrlBits (s : State) (f : Nat) : Line :=
  s.parts.foldl (fun m e => match e.2 with
    | some p => if f < p.spec.ctrl + 64 ∧ p.spec.ctrl < f + 64 then
        ctrlHw.foldl (fun m j => if f ≤ p.spec.ctrl + j ∧ p.spec.ctrl + j < f + 64 then m ||| lineMask (byteMask (p.spec.ctrl + j - f) 1) else m) m
      else m
    | none => m) 0

/-- Whether a written event stands in its ring until the host has taken it (R335, R337). -/
def State.evLive (s : State) (e : EvLine) : Bool :=
  let posted := s.ctrl e.pid 288 32
  decide ((posted + 2 ^ 32 - e.num) % 2 ^ 32 < (posted + 2 ^ 32 - s.ctrl e.pid 320 32) % 2 ^ 32)

/-- The bytes of a task record that the scheduler alone writes (R201): status, commit, faddr. -/
def taskHw : List Nat := [96, 100, 101, 102, 103, 104, 105, 106, 107, 108, 109, 110, 111]

/-- The task records that a scheduler holds: partition, ASID, address. -/
def State.taskRecs (s : State) : List (Nat × Nat × Nat) :=
  s.clusters.flatMap (fun e => e.2.tasks.filterMap (fun t => if t.st == .ended then none else some (t.pid, t.asid, t.addr.toNat)))

/-- The hardware's bytes of those records that lie in a line. -/
def State.taskBits (s : State) (key : Nat) : Line :=
  s.taskRecs.foldl (fun m t =>
    let place := s.truePlace t.1 t.2.1 (t.2.2 + 64)
    if t.2.2 < 2 ^ 52 ∧ lineKey t.1 place.1 place.2 = key then taskHw.foldl (fun m j => m ||| lineMask (byteMask (j - 64) 1)) m else m) 0

/-- The bits of a line that software's writes leave as they are (R7, R8, R374): those of fault records, events, control blocks and task
records. -/
def State.hwBits (s : State) (key : Nat) : Line :=
  (if (mget none s.recs key).isSome then recHw0
  else if key != 0 && (mget none s.recs (key - 1)).isSome then recHw1 else 0) |||
  (s.evLines.foldl (fun m e => if e.key = key ∧ s.evLive e then m ||| lineMask (byteMask e.off 32) else m) 0) ||| s.taskBits key |||
  (match (s.slice key).bind (·.frame) with
    | some f => s.ctrlBits f
    | none => 0)

/-- A line that software has written: hardware's fields keep what they held (R7). -/
def State.shield (s : State) (key : Nat) (new old : Line) : Line :=
  if s.recs.isEmpty && s.evLines.isEmpty && s.taskRecs.isEmpty && ((s.slice key).bind (·.frame)).isNone then new
  else
    let m := s.hwBits key
    (new &&& ~~~m) ||| (old &&& m)

/-- A slice line's dirty bytes and full/empty bits written to memory under the current tables; those of control blocks that
hardware alone writes stand there already (R7); discarded with a kind 4 event where no valid writable leaf exists (R363); a dirty line that fails its check is dropped likewise with status 0x70
(R377). -/
def State.toMemory (s : State) (key : Nat) (sl : SLine) : State :=
  if sl.dirty = 0 then s
  else if sl.bad != 0 then
    s.post (keyPid key) { kind := 4, status := cUncorrectable, addr := BitVec.ofNat 64 (keyVa key) }
  else
    match s.translate (keyPid key) (keyAsid key) (keyVa key) .writeBack false with
    | (s, .error _) => s.post (keyPid key) { kind := 4, status := cXlate, addr := BitVec.ofNat 64 (keyVa key) }
    | (s, .ok (tgt, pa)) =>
      let m := s.phys tgt
      let old : Line := BitVec.ofNat 512 (m.read pa 64)
      let hw := if tgt = 0 then s.ctrlBits pa else 0
      let m := m.write pa ((mergeLine sl.dirty sl.data old &&& ~~~hw) ||| (old &&& hw)).toNat 64
      let m := if tgt = 2 then m
        else (List.range 8).foldl (fun m w => if fld sl.valid (8 * w) 8 = 0 then m else m.setFull (pa + 8 * w) (sl.fe.getLsbD w)) m
      let m := (List.range 8).foldl (fun m w => if fld sl.dirty (8 * w) 8 = 255 then m.setBad (pa + 8 * w) false else m) m
      s.setPhys tgt m

/-- Eviction of a slice line: recall, then write-back, then gone (R359, R363). A pinned line stays (R140). -/
def State.evict (s : State) (key : Nat) : State :=
  let s := s.recall key
  match s.slice key with
  | none => s
  | some sl => (s.toMemory key sl).putSlice key none

/-- The victim among lines of a set: an expired one, else the least recently used; a pinned one never (R140). Lines are given
with whether they are pinned, whether expired, and when last used. -/
def victimOf (ls : List (Nat × Bool × Bool × Nat)) : Option Nat :=
  let free := ls.filter (fun e => !e.2.1)
  let old := free.filter (fun e => e.2.2.1)
  let pick := if old.isEmpty then free else old
  (pick.foldl (fun (b : Option (Nat × Nat)) e => match b with
    | none => some (e.1, e.2.2.2)
    | some x => if e.2.2.2 < x.2 then some (e.1, e.2.2.2) else some x) none).map (·.1)

/-- Whether one more line of a set may be pinned: twelve may (R140). -/
def pinRoom (ls : List (Nat × Bool × Bool × Nat)) : Bool := decide ((ls.filter (fun e => e.2.1)).length < 12)

/-- The other lines of a line's set in its slice (R14, R139); a slice with fewer than 12 lines in all fills no set. -/
def State.sliceSet (s : State) (key : Nat) : List (Nat × Bool × Bool × Nat) :=
  if s.slices.length < 12 then []
  else
    let h := s.homeSlice (keyPid key) (keyVa key)
    s.slices.filterMap (fun e => match e.2 with
      | some l =>
        if e.1 != key && s.homeSlice (keyPid e.1) (keyVa e.1) == h && Config.sliceSet e.1 % 12288 == Config.sliceSet key % 12288
        then some (e.1, l.pinned, l.expired, l.used) else none
      | none => none)

/-- Retention of a slice line on an access (R139, R140): class 0 changes nothing; a class 7 access to a set that holds 12
pinned lines counts as class 5. -/
def State.retain (s : State) (key lease : Nat) (fresh : Bool) (sl : SLine) : SLine :=
  match leaseSlice lease with
  | none => sl
  | some d =>
    let sl := { sl with used := s.cycles + 1, passing := false }
    if d = 0 && (sl.pinned || pinRoom (s.sliceSet key)) then { sl with pinned := true, expired := false }
    else { sl with expiry := newExpiry s.tick8 sl.expiry (if d = 0 then 127 else d) fresh, expired := false }

/-- A set of a slice makes room for one more line (R139, R140): a line that the host may hold goes last, since the host is asked first; its
reply is then taken within the step (R365, log 12). -/
def State.sliceRoom (s : State) (key : Nat) : State :=
  let set := s.sliceSet key
  let own := set.filter (fun e => !((s.slice e.1).map (·.hostBit)).getD false)
  if set.length < 16 then s
  else match (victimOf own).orElse (fun _ => victimOf set) with
    | some k => s.evict k
    | none => s

/-- A line with the bytes it lacks taken from memory at `pa` (R364), and with what hardware alone writes there (R7). -/
def State.filled (s : State) (tgt pa : Nat) (sl : SLine) : SLine :=
  let m := s.phys tgt
  let has (w : Nat) : Bool := fld sl.valid (8 * w) 8 != 0
  { sl with
    data := (if tgt = 0 ∧ sl.valid ≠ 0 then
        let hw := s.ctrlBits pa
        (mergeLine sl.valid sl.data (BitVec.ofNat 512 (m.read pa 64)) &&& ~~~hw) ||| (BitVec.ofNat 512 (m.read pa 64) &&& hw)
      else mergeLine sl.valid sl.data (BitVec.ofNat 512 (m.read pa 64)))
    fe := wordBits (fun w => if has w || tgt == 2 then sl.fe.getLsbD w else m.full (pa + 8 * w))
    bad := wordBits (fun w => if fld sl.valid (8 * w) 8 = 255 then sl.bad.getLsbD w else m.isBad (pa + 8 * w))
    valid := BitVec.allOnes 64 }

/-- The DRAM line of a physical address; none elsewhere. -/
def frameOf (tgt pa : Nat) : Option Nat := if tgt = 0 then some (pa / 64 * 64) else none

/-- A line that class 0 accesses alone have brought is allocated by one of another class (R139). -/
def State.settleLine (s : State) (key lease : Nat) : State :=
  if ((s.slice key).map (·.passing)).getD false && (leaseSlice lease).isSome then s.sliceRoom key else s

/-- The line in its slice, fetched from memory where it is missing (R143, R359): the fault code of the walk otherwise. A held line
that serves the access is not translated (R326); another access is (R353, R355), a store that brings its line for a fill as well. -/
def State.bringLine (s : State) (pid asid va : Nat) (acc : AccKind) (user : Bool) (lease : Nat) : State × Except Nat Unit :=
  let key := lineKey pid asid va
  match s.heldLine pid asid va acc user with
  | some sl => ((s.settleLine key lease).putSlice key (some (s.retain key lease false sl)), .ok ())
  | none =>
    match s.translate pid asid va (if acc = .write ∧ (s.slice key).isNone then .atomic else acc) user with
    | (s, .error c) => (s, .error c)
    | (s, .ok (tgt, pa)) =>
      let leaf := (s.leaf pid asid va).2.toOption.map (·.e)
      match s.slice key with
      | some sl =>
        ((s.settleLine key lease).putSlice key (some { s.retain key lease false (s.filled tgt (pa / 64 * 64) sl) with leaf, frame := frameOf tgt pa }), .ok ())
      | none =>
        let s := if (leaseSlice lease).isNone then s else s.sliceRoom key
        let sl : SLine := s.retain key lease true
          { s.filled tgt (pa / 64 * 64) { data := 0, valid := 0 } with passing := true }
        (s.putSlice key (some { sl with leaf, frame := frameOf tgt pa }), .ok ())

/-- After a class 0 access a line that it alone has brought goes (R139). -/
def State.letPass (s : State) (key : Nat) : State :=
  match s.slice key with
  | some sl => if sl.passing && sl.alone && !sl.hostBit then s.evict key else s
  | none => s

/-! The check of leases. -/

/-- Whether a lease has run out (R140). -/
def leaseOver (now expiry : BitVec 8) : Bool := let d := (expiry - now).toNat; d == 0 || decide (127 < d)

/-- A line that the check finds expired is marked so until its next access (R140). -/
def SLine.checked (l : SLine) (now : BitVec 8) : SLine := if !l.pinned && leaseOver now l.expiry then { l with expired := true } else l
def L1Line.checked (l : L1Line) (now : BitVec 8) : L1Line := if !l.pinned && leaseOver now l.expiry then { l with expired := true } else l

/-- Every line is checked (R140): the machine does it every 64 ticks, and may check a line at other times. -/
def State.leaseSweep (s : State) : State :=
  if s.cycles % 65536 ≠ 0 then s
  else { s with
    slices := s.slices.map (fun e => (e.1, e.2.map (·.checked s.tick8)))
    cores := mmap {} (fun _ k => { k with l1 := k.l1.map (fun e => (e.1, e.2.map (·.checked s.tick8))) }) s.cores }

/-! L1 copies and the directory. -/

/-- The slice line that a copy's dirty bytes are merged into (R327, R363): a copy of a software-managed page is not tracked, and
its line may have been evicted, so it is brought back; without a writable leaf the bytes are discarded with a kind 4 event. -/
def State.mergeHome (s : State) (key : Nat) (dirty : BitVec 64) : State :=
  if dirty = 0 || (s.slice key).isSome then s
  else match s.bringLine (keyPid key) (keyAsid key) (keyVa key) .writeBack false 3 with
    | (s, .ok ()) => s
    | (s, .error _) => s.post (keyPid key) { kind := 4, status := cXlate, addr := BitVec.ofNat 64 (keyVa key) }

/-- A slice line with a copy's dirty bytes written back (R359); hardware's fields keep what the home holds (R7). -/
def State.written (s : State) (key : Nat) (sl : SLine) (l : L1Line) : SLine := { sl with
  data := s.shield key (mergeLine l.dirty l.data sl.data) sl.data, dirty := sl.dirty ||| l.dirty, valid := sl.valid ||| l.dirty }

/-- Writes an L1 copy of a software-managed page back, or drops it (R327); a tracked copy answers to its directory. -/
def State.l1Drop (s : State) (c key : Nat) : State :=
  let s := s.shed key c
  match s.l1 c key with
  | none => s
  | some l =>
    let s := (s.putL1 c key none).mergeHome key l.dirty
    match s.slice key with
    | none => s
    | some sl =>
      let sharers := sl.sharers.filter (· != c)
      let owner := if sl.owner = some c then none else sl.owner
      let dir := if sharers.isEmpty && sl.dies == 0 then .I else if sl.dir == .P then .P else if owner.isNone then .S else sl.dir
      s.putSlice key (some { s.written key sl l with sharers, owner, dir })

/-- A copy's dirty bytes merged at the slice, the copy staying valid and clean (R155, R359). -/
def State.l1Clean (s : State) (c key : Nat) : State :=
  let s := s.shed key c
  let s := s.mergeHome key (((s.l1 c key).map (·.dirty)).getD 0)
  match s.l1 c key, s.slice key with
  | some l, some sl =>
    let s := s.putL1 c key (some { l with dirty := 0, st := if l.st == .M then .E else if l.st == .O then .S else l.st })
    let dir := if sl.dir == .M then .E else if sl.dir == .O then .S else sl.dir
    let own := sl.owner == some c
    s.putSlice key (some { s.written key sl l with
      dir := if own then dir else sl.dir
      owner := if own && dir == .S then none else sl.owner })
  | _, _ => s

/-- The other lines of a line's L1 set (R139). -/
def State.l1Set (s : State) (c key : Nat) : List (Nat × Bool × Bool × Nat) :=
  (s.core c).l1.filterMap (fun e => if e.1 % 64 = key % 64 ∧ e.1 ≠ key then e.2.map (fun l => (e.1, l.pinned, l.expired, l.used)) else none)

/-- Retention of an L1 copy on an access (R139, R140), as for a slice line: a class that allocates none here changes nothing. -/
def State.retainL1 (s : State) (c key lease : Nat) (fresh : Bool) (l : L1Line) : L1Line :=
  match leaseL1 lease with
  | none => l
  | some d =>
    let l := { l with used := s.cycles + 1 }
    if d = 0 && (l.pinned || pinRoom (s.l1Set c key)) then { l with pinned := true, expired := false }
    else { l with expiry := newExpiry s.tick8 l.expiry (if d = 0 then 127 else d) fresh, expired := false }

/-- A copy installed in an L1, its set making room first (R139, R140); `old` is the copy that it takes the place of, whose
retention it keeps. -/
def State.l1Put (s : State) (c key lease : Nat) (l : L1Line) (old : Option L1Line) : State :=
  let set := s.l1Set c key
  let s := if (s.l1 c key).isSome || set.length < 16 then s
    else match victimOf set with
      | some k => s.l1Drop c k
      | none => s
  let l : L1Line := match old with
    | some o => { l with expiry := o.expiry, expired := o.expired, pinned := o.pinned }
    | none => l
  s.putL1 c key (some (s.retainL1 c key lease old.isNone l))

def State.l1Alloc (s : State) (c key lease : Nat) (l : L1Line) : State := s.l1Put c key lease l (s.l1 c key)

/-- A hit: recency and retention (R140). -/
def State.l1Touch (s : State) (c key lease : Nat) : State :=
  match s.l1 c key with
  | none => s
  | some l => s.putL1 c key (some (s.retainL1 c key lease false l))

/-- The merge of a privatised line: every copy writes its bytes back and is invalidated, and the requester receives the
line in M (R360). -/
def State.mergeP (s : State) (c key lease : Nat) : State :=
  let old := s.l1 c key
  let s := s.recall key
  match s.slice key with
  | none => s
  | some sl =>
    let s := s.putSlice key (some { sl with dir := .M, sharers := [c], dies := 0, owner := some c })
    s.l1Put c key lease { st := .M, mask := BitVec.allOnes 64, data := sl.data } old

/-- The masks of the other copies of a privatised line (R360). -/
def State.otherMasks (s : State) (c key : Nat) (sl : SLine) : BitVec 64 :=
  ((s.holders key sl).filter (· != c)).foldl (fun m k => match s.l1 k key with
    | some l => m ||| l.mask
    | none => m) 0

/-- An extension request (R360): the mask widens where no other copy holds the byte, else the copies merge. -/
def State.extend (s : State) (c key : Nat) (mask : BitVec 64) (lease : Nat) : State :=
  match s.slice key, s.l1 c key with
  | some sl, some l =>
    if sl.dir != .P || l.mask &&& mask = mask then s
    else if s.otherMasks c key sl &&& mask = 0 then
      s.putL1 c key (some { l with mask := l.mask ||| mask, data := mergeLine (mask &&& ~~~l.mask) (s.view key sl) l.data })
    else s.mergeP c key lease
  | _, _ => s

/-- A read miss at the directory (R359); a line in P merges first (R360). -/
def State.readMiss (s : State) (c key lease : Nat) : State :=
  match s.slice key with
  | none => s
  | some sl =>
    if (s.holders key sl).contains c then s
    else
      let data := s.view key sl
      let copy (st : LineSt) : L1Line := { st, mask := BitVec.allOnes 64, data, bad := s.viewBad key sl }
      let put (s : State) (dir : DirSt) (owner : Option Nat) : State :=
        s.putSlice key (some { sl.addSharer c with dir, owner })
      let down (s : State) (f : LineSt → LineSt) : State := match sl.owner with
        | some o => match s.l1 o key with
          | some l => s.putL1 o key (some { l with st := f l.st })
          | none => s
        | none => s
      match sl.dir with
      | .I => (put s .E (some c)).l1Alloc c key lease (copy .E)
      | .S => (put s .S none).l1Alloc c key lease (copy .S)
      | .E => (put (down s (fun _ => .S)) .S none).l1Alloc c key lease (copy .S)
      | .M => (put (down s (fun _ => .O)) .O sl.owner).l1Alloc c key lease (copy .S)
      | .O => (put s .O sl.owner).l1Alloc c key lease (copy .S)
      | .P => s.mergeP c key lease

/-- An ownership request for the bytes of `mask` (R359, R360). -/
def State.ownLine (s : State) (c key : Nat) (mask : BitVec 64) (lease : Nat) : State :=
  match s.slice key with
  | none => s
  | some sl =>
    let full := BitVec.allOnes 64
    let toM (s : State) : State :=
      let s := s.shedOthers key c
      let data := s.view key sl
      let dirty := ((s.l1 c key).map (·.dirty)).getD 0
      let bad := ((s.l1 c key).map (·.bad)).getD 0
      let s := s.putSlice key (some (s.pulled key sl))
      let s := ((s.holders key sl).filter (· != c)).foldl (fun s k => s.putL1 k key none) s
      let s := match s.slice key with
        | some x => s.putSlice key (some { x with dir := .M, sharers := [c], dies := 0, owner := some c })
        | none => s
      s.l1Alloc c key lease { st := .M, mask := full, dirty, data, bad }
    match sl.dir with
    | .I => toM s
    | .S => toM s
    | .E => toM s
    | .P =>
      if (s.holders key sl).contains c then s.extend c key mask lease
      else if s.otherMasks c key sl &&& mask = 0 then
        let data := s.view key sl
        (s.putSlice key (some (sl.addSharer c))).l1Alloc c key lease { st := .P, mask, data }
      else s.mergeP c key lease
    | _ =>
      match sl.owner with
      | none => toM s
      | some o =>
        match (s.shedOthers key c).l1 o key with
        | none => toM s
        | some l =>
          if o = c || l.dirty &&& mask != 0 then toM s
          else
            let s := s.shedOthers key c
            let data := s.view key sl
            let s := ((s.holders key sl).filter (fun k => k != o)).foldl (fun s k => s.putL1 k key none) s
            let s := s.putL1 o key (some { l with st := .P, mask := l.dirty, data })
            let s := s.putSlice key (some { s.pulled key sl with dir := .P, sharers := [o, c], dies := 0, owner := none })
            s.l1Alloc c key lease { st := .P, mask, data }

/-! Hypothesis nodes and versions. -/

/-- The key of a node in a table. -/
def nodeKey (asid n : Nat) : Nat := 256 * asid + n

/-- The node table a slice goes by: the one before a change that it has not applied yet (R284). -/
def State.nodesAtSlice (s : State) (pid slice : Nat) : TMap Node :=
  match s.part pid with
  | none => []
  | some p =>
    match p.resolves with
    | r :: _ => if r.slicesLeft.contains slice then r.old else p.nodes
    | [] => p.nodes

/-- The node table a core goes by (R275, R284, R289). -/
def State.nodesAtCore (s : State) (pid core : Nat) : TMap Node :=
  match s.part pid with
  | none => []
  | some p =>
    match p.resolves with
    | r :: _ => if r.coresLeft.contains core then r.old else p.nodes
    | [] => p.nodes

/-- The effective node (R277); none: REFUTED. Links of live nodes never form a cycle, and 256 links end every chain. -/
def effFrom (t : TMap Node) (asid : Nat) : Nat → Nat → Option Nat
  | 0, _ => some 0
  | fuel + 1, n =>
    if n = 0 then some 0
    else
      let d := mget {} t (nodeKey asid n)
      match d.st with
      | .openNode => some n
      | .confirmed => effFrom t asid fuel d.link
      | .refuted => none
      | .free => some 0

/-- The effective node of `n` (R277). -/
def eff (t : TMap Node) (asid n : Nat) : Option Nat := effFrom t asid 256 n

/-- The chain e, link(e), … of R280. -/
def chainFrom (t : TMap Node) (asid : Nat) : Nat → Nat → List Nat
  | 0, _ => []
  | fuel + 1, n => if n = 0 then [] else n :: chainFrom t asid fuel (mget {} t (nodeKey asid n)).link

def verKey (key node : Nat) : Nat := key * 2 ^ 18 + node
def State.ver (s : State) (key node : Nat) : Option VLine := mget none s.vers (verKey key node)
def State.putVer (s : State) (key node : Nat) (v : Option VLine) : State :=
  { s with vers := mset none s.vers (verKey key node) v }

/-- The slice of a version line. -/
def State.verSlice (s : State) (vk : Nat) : Nat := s.homeSlice (keyPid (vk / 2 ^ 18)) (keyVa (vk / 2 ^ 18))

/-- A line as a read under effective node `e` sees it (R280): the nearest version on the chain, byte by byte. -/
def State.overlay (s : State) (t : TMap Node) (key asid e : Nat) (base : Line) : Line :=
  (chainFrom t asid 16 e).reverse.foldl (fun l n => match s.ver key (nodeKey asid n) with
    | some v => mergeLine v.mask v.data l
    | none => l) base

/-! Accesses performed at the home. -/

/-- What an access at its home comes to. -/
inductive Res where
  | ok (v : Nat)
  | flt (code : Nat) (addr : Word)
  /-- It is held: a host snoop is open (R365). -/
  | hold
  deriving DecidableEq, Repr

/-- The word of an address. -/
def wordAddr (a : Nat) : Word := BitVec.ofNat 64 (a / 8 * 8)

/-- Redirects a virtual access and brings its line (R143, R355, R357): the key it is performed under. -/
def State.reach (s : State) (w : Who) (va : Nat) (acc : AccKind) (lease : Nat) : State × Except Nat (Nat × Nat) :=
  match s.redirect w.pid w.asid va acc w.user with
  | (s, .error c) => (s, .error c)
  | (s, .ok (asid, va')) =>
    match s.bringLine w.pid asid va' acc w.user lease with
    | (s, .error c) => (s, .error c)
    | (s, .ok ()) => (s, .ok (lineKey w.pid asid va', va'))

/-- The place of an access that does not need its line (R279, R364): redirected, and translated unless its line is held. -/
def State.letIn (s : State) (w : Who) (va : Nat) (acc : AccKind) : State × Except Nat (Nat × Nat) :=
  match s.redirect w.pid w.asid va acc w.user with
  | (s, .error c) => (s, .error c)
  | (s, .ok (asid, va')) =>
    if (s.heldLine w.pid asid va' acc w.user).isSome then (s, .ok (asid, va'))
    else match s.translate w.pid asid va' acc w.user with
      | (s, .error c) => (s, .error c)
      | (s, .ok _) => (s, .ok (asid, va'))

/-- What a write of `v` to `n` bytes of window memory leaves there: the fields of task records that hardware alone writes stand (R7, R201). -/
def State.winKeep (s : State) (a v n : Nat) : Nat :=
  let hw := s.taskRecs.flatMap (fun t => if t.2.2 < 2 ^ 52 then [] else taskHw.map (t.2.2 + ·))
  if hw.any (fun b => decide (a ≤ b) && decide (b < a + n)) then
    joinLanes 8 ((List.range n).map (fun j => if hw.contains (a + j) then (s.win.byte (a + j)).toNat else bits v (8 * j) 8))
  else v

/-- A store to window memory; one to a join counter's word drops what is kept beside its record (R260). -/
def State.winStore (s : State) (a v n : Nat) : State :=
  let v := s.winKeep a v n
  { s with win := s.win.store a v n, joinMeta := s.joinMeta.filter (fun e => !(wordsOf a n).contains (e.1 / 8)) }

/-- The node table that an access goes by: that of the slice where it is performed (R279, R284, R357). -/
def State.tabAt (s : State) (w : Who) (a : Nat) : TMap Node :=
  if w.node = 0 then [] else s.nodesAtSlice w.pid (s.trueHome w.pid w.asid a)

/-- The bytes that versions on a chain hold (R280). -/
def State.covered (s : State) (t : TMap Node) (key asid e : Nat) : BitVec 64 :=
  (chainFrom t asid 16 e).foldl (fun m n => match s.ver key (nodeKey asid n) with
    | some v => m ||| v.mask
    | none => m) 0

/-- The bytes that a read of a chain takes from words of versions that fail their check (R280, R377). -/
def State.verBad (s : State) (t : TMap Node) (key asid e : Nat) : BitVec 64 :=
  (chainFrom t asid 16 e).reverse.foldl (fun m n => match s.ver key (nodeKey asid n) with
    | some v => (m &&& ~~~v.mask) ||| (v.mask &&& bytesOf v.bad)
    | none => m) 0

/-- The words of the committed line that fail their check, as a reader finds them (R377); `own`: in its core's copy. -/
def State.lineBad (s : State) (w : Who) (key : Nat) (sl : SLine) (own : Bool) : BitVec 8 :=
  s.viewBad key sl ||| (if own then ((s.l1 w.core key).map (·.bad)).getD 0 else 0)

/-- The words that fail their check and give bytes to a read of `n` bytes under effective node `e` (R280, R377). -/
def State.readBad (s : State) (w : Who) (t : TMap Node) (key e : Nat) (sl : SLine) (own : Bool) (off n : Nat) : BitVec 8 :=
  let need := byteMask off n
  (s.lineBad w key sl own &&& touched (need &&& ~~~(s.covered t key w.asid e))) ||| touched (need &&& s.verBad t key w.asid e)

/-- The own copy of a software-managed page that a unit of a core reads (R327): its directory does not track it. -/
def State.ownCopy (s : State) (w : Who) (key : Nat) : Option L1Line :=
  if !w.engine && s.swManaged key && s.allotted (keyPid key) (keyAsid key) then s.l1 w.core key else none

/-- A host line as a core sees it (R295, R366): which of the writes that it has not seen it sees now, oldest first, the spec
leaves open, a free value (log 5). -/
def State.hostView (s : State) (key c : Nat) (l : Line) : State × Line :=
  let new := s.hostWr.filter (fun e => e.key == key && !e.seen.contains c)
  if new.isEmpty then (s, l)
  else
    let k := (Config.freeWord s.fresh).toNat % (new.length + 1)
    let now := new.take k
    ({ s with
        fresh := s.fresh + 1
        hostWr := updIf (fun e => now.contains e) (fun e => { e with seen := c :: e.seen }) s.hostWr },
      (new.drop k).reverse.foldl (fun l e => mergeLine e.mask e.old l) l)

/-- A write to a host line that the other cores have yet to see (R295); its own core has seen what it writes over (R298). -/
def State.hostNote (s : State) (w : Who) (tgt key off n : Nat) (old : Line) : State :=
  if tgt != 2 then s
  else
    let m := byteMask off n
    let upto := (s.hostWr.reverse.dropWhile (fun e => !(e.key == key && e.mask &&& m != 0))).length
    { s with hostWr := updIf (fun e => e.key == key) (fun e => { e with seen := w.core :: e.seen }) (s.hostWr.take upto) ++ s.hostWr.drop upto ++
        [{ key, mask := m, old, core := w.core, seq := w.seq, seen := [w.core] }] }

/-- The writes to host memory that some cores have made are seen by all (R153, R295). -/
def State.hostSeen (s : State) (cs : List Nat) : State := { s with hostWr := s.hostWr.filter (fun e => !cs.contains e.core) }

/-- So are those of a launch, before its event is written (R337). -/
def State.hostSeenOf (s : State) (pid seq : Nat) : State :=
  { s with hostWr := s.hostWr.filter (fun e => !(keyPid e.key == pid && e.seq == seq)) }

/-- A strand that is bound on core `c` sees there what it has written on other cores (R295, R298). -/
def State.hostOwn (s : State) (c : Nat) (m : Meta) : State :=
  { s with hostWr := updIf (fun e => m.past.contains e.core && !e.seen.contains c) (fun e => { e with seen := c :: e.seen }) s.hostWr }

/-- A read of `n` bytes that cross no line, performed at the home (R134, R145, R280, R359). `alloc`: the reader's L1 may
take a copy. A word that fails its check faults (R377). Under a refuted node no version exists, so the committed bytes are seen. -/
def State.load (s : State) (w : Who) (a n lease : Nat) (alloc : Bool) : State × Res :=
  if 2 ^ 52 ≤ a then
    match s.win.firstBad a n with
    | some b => (s, .flt cUncorrectable (BitVec.ofNat 64 b))
    | none => (s, .ok (s.win.read a n))
  else
    let off := a % 64
    let t := s.tabAt w a
    let e := (eff t w.asid w.node).getD 0
    let alloc := alloc && eff t w.asid w.node == some 0
    let ownKey := lineKey w.pid w.asid a
    match s.ownCopy w ownKey with
    | some l =>
      let bad := s.readBad w t ownKey e { data := l.data } true off n
      if bad != 0 then (s, .flt cUncorrectable (wordAddr (a / 64 * 64 + 8 * firstOne bad)))
      else (if alloc then s.l1Touch w.core ownKey lease else s, .ok (lineGet (s.overlay t ownKey w.asid e l.data) off n))
    | none =>
      match s.reach w a .read lease with
      | (s, .error c) => (s, .flt c (BitVec.ofNat 64 a))
      | (s, .ok (key, va)) =>
        match s.slice key with
        | none => (s, .hold)
        | some sl =>
          let bad := s.readBad w t key e sl alloc off n
          let sw := s.swManaged key
          let base := match s.ownCopy w key with
            | some l => l.data
            | none => if sw then sl.data else s.view key sl
          if bad != 0 then (s, .flt cUncorrectable (wordAddr (va / 64 * 64 + 8 * firstOne bad)))
          else
            let behind := s.hostWr.any (fun h => h.key == key && !h.seen.contains w.core)
            let (s, base) := s.hostView key w.core base
            let v := lineGet (s.overlay t key w.asid e base) off n
            let prim := key == ownKey && !behind
            if !alloc || !prim || (leaseL1 lease).isNone then
              (if (s.holders key sl).contains w.core then s else s.letPass key, .ok v)
            else if sw then (s.l1Alloc w.core key lease { st := .S, mask := BitVec.allOnes 64, data := sl.data, bad := sl.bad }, .ok v)
            else if (s.holders key sl).contains w.core then
              let s := if sl.dir == .P then s.extend w.core key (byteMask off n) lease else s
              (s.l1Touch w.core key lease, .ok v)
            else (s.readMiss w.core key lease, .ok v)

/-- Writes bytes, full words and check bits into the slice line itself, after a recall. -/
def State.sliceWrite (s : State) (key off n v : Nat) : State :=
  let s := s.recall key
  match s.slice key with
  | none => s
  | some sl =>
    s.putSlice key (some { sl with
      data := s.shield key (mergeLine (byteMask off n) (lineAt v off n) sl.data) sl.data
      dirty := sl.dirty ||| byteMask off n
      fe := sl.fe ||| wordMask off n
      bad := sl.bad &&& ~~~(wholeWords off n) })

/-- A hypothesis write into the version line of an Open node, named with its ASID (R279); none: no version line is free. -/
def State.verWrite (s : State) (key e off n v : Nat) : Option State :=
  let put (l : VLine) : State := s.putVer key e (some
    { data := mergeLine (byteMask off n) (lineAt v off n) l.data, mask := l.mask ||| byteMask off n, fe := l.fe ||| wordMask off n
      bad := l.bad &&& ~~~(wholeWords off n) })
  match s.ver key e with
  | some l => some (put l)
  | none =>
    let home := s.homeSlice (keyPid key) (keyVa key)
    if 4096 ≤ (s.vers.filter (fun x => s.verSlice x.1 == home)).length then none
    else some (put { data := 0, mask := 0, fe := 255 })

/-- A line of an L1 with bytes written. -/
def L1Line.write (l : L1Line) (s : State) (key off n v : Nat) : L1Line :=
  { l with
    data := s.shield key (mergeLine (byteMask off n) (lineAt v off n) l.data) l.data
    dirty := l.dirty ||| byteMask off n
    bad := l.bad &&& ~~~(wholeWords off n) }

/-- A store to a software-managed page by a core (R327): in its L1, which the home does not track; of a class that allocates
none, at the home, and in the copy the core holds, which then has nothing newer there. The home makes the words full (R141), and their
bytes count as dirty there, so the bits reach memory (log 10). -/
def State.swStore (s : State) (w : Who) (key off n v lease : Nat) (sl : SLine) : State :=
  let held := s.ownCopy w key
  if w.engine || (leaseL1 lease).isNone then
    let s := s.sliceWrite key off n v
    match held with
    | some l =>
      let m : L1Line := l.write s key off n v
      s.putL1 w.core key (some { m with dirty := m.dirty &&& ~~~(byteMask off n) })
    | none => s
  else
    let s := match held with
      | some _ => s.l1Touch w.core key lease
      | none => s.l1Alloc w.core key lease { st := .S, mask := BitVec.allOnes 64, data := sl.data, bad := sl.bad }
    let s := match s.l1 w.core key with
      | some l => s.putL1 w.core key (some (l.write s key off n v))
      | none => s
    s.putSlice key (some { sl with fe := sl.fe ||| wordMask off n, dirty := sl.dirty ||| bytesOf (wordMask off n) })

/-- A write of `n` bytes that cross no line, performed at the home; every word it touches becomes full (R141, R145, R279,
R359). `alloc`: it is performed in the writer's L1 once that owns the line. -/
def State.store (s : State) (w : Who) (a n v lease : Nat) (alloc : Bool) : State × Res :=
  if 2 ^ 52 ≤ a then
    match (if n < 8 then s.win.firstBad a n else none) with
    | some b => (s, .flt cUncorrectable (BitVec.ofNat 64 b))
    | none => (s.winStore a v n, .ok 0)
  else
    let off := a % 64
    match eff (s.tabAt w a) w.asid w.node with
    | none => (s, .ok 0)
    | some (e + 1) =>
      match s.letIn w a .write with
      | (s, .error c) => (s, .flt c (BitVec.ofNat 64 a))
      | (s, .ok (asid, va)) =>
        let key := lineKey w.pid asid va
        if s.lineTgt key = 2 then (s, .flt cPerm (BitVec.ofNat 64 a))
        else if ((s.ver key (nodeKey w.asid (e + 1))).map (·.bad)).getD 0 &&& wordMask off n &&& ~~~(wholeWords off n) != 0 then
          (s, .flt cUncorrectable (wordAddr va))
        else
          match s.verWrite key (nodeKey w.asid (e + 1)) off n v with
          | some s => (s, .ok 0)
          | none => (s, .flt cHypCapacity (BitVec.ofNat 64 a))
    | some 0 =>
      match s.reach w a .write lease with
      | (s, .error c) => (s, .flt c (BitVec.ofNat 64 a))
      | (s, .ok (key, va)) =>
        match s.slice key with
        | none => (s, .hold)
        | some sl =>
          if w.node != 0 && decide (s.lineTgt key = 2) then (s, .flt cPerm (BitVec.ofNat 64 a))
          else if s.lineBad w key sl (alloc || s.swManaged key) &&& wordMask off n &&& ~~~(wholeWords off n) != 0 then (s, .flt cUncorrectable (wordAddr va))
          else if sl.hostBit then (s.putSlice key (some { sl with snooping := some w.core }), .hold)
          else if s.swManaged key then
            (((s.swStore w key off n v (if alloc then lease else 0) sl)).letPass key, .ok 0)
          else if !alloc || (leaseL1 lease).isNone then
            (((s.hostNote w (s.lineTgt key) key off n (s.view key sl)).sliceWrite key off n v).letPass key, .ok 0)
          else
            let s := s.hostNote w (s.lineTgt key) key off n (s.view key sl)
            let s := s.ownLine w.core key (byteMask off n) lease
            match s.l1 w.core key, s.slice key with
            | some l, some sl =>
              let s := s.putL1 w.core key (some { l.write s key off n v with st := if l.st == .P then .P else .M })
              (s.putSlice key (some { sl with fe := sl.fe ||| wordMask off n, bad := sl.bad &&& ~~~(wholeWords off n) }), .ok 0)
            | _, _ => (s.sliceWrite key off n v, .ok 0)

/-- The place of a word at its home, for operations that no cache performs (R147, R150, R155). -/
inductive HLoc where
  | win (a : Nat)
  | line (key off : Nat)
  deriving DecidableEq, Repr

/-- Reaches a word at its home with every L1 copy recalled (R150), the requester's own of a software-managed page too (R134). -/
def State.atHome (s : State) (w : Who) (a : Nat) (acc : AccKind) (lease : Nat) : State × Except Nat HLoc :=
  if 2 ^ 52 ≤ a then (s, .ok (.win a))
  else
    match s.reach w a acc lease with
    | (s, .error c) => (s, .error c)
    | (s, .ok (key, va)) =>
      let s := if (s.ownCopy w key).isSome then s.l1Drop w.core key else s
      (s.recall key, .ok (.line key (va % 64)))

def State.hRead (s : State) (h : HLoc) (n : Nat) : Nat :=
  match h with
  | .win a => s.win.read a n
  | .line key off => match s.slice key with
    | some sl => lineGet (s.view key sl) off n
    | none => 0

/-- Writes bytes and nothing else of a word: full/empty bits stay (R141, R150). -/
def State.hWrite (s : State) (h : HLoc) (v n : Nat) : State :=
  match h with
  | .win a => { s with win := s.win.write a (s.winKeep a v n) n, joinMeta := s.joinMeta.filter (fun e => !(wordsOf a n).contains (e.1 / 8)) }
  | .line key off => match s.slice key with
    | some sl => s.putSlice key (some { sl with
        data := s.shield key (mergeLine (byteMask off n) (lineAt v off n) sl.data) sl.data, dirty := sl.dirty ||| byteMask off n })
    | none => s

/-- Hardware's own write to a field of access HW (R7), of `n` bytes that cross no line; nothing where the place cannot be written. -/
def State.hwWrite (s : State) (w : Who) (a n v : Nat) : State :=
  match s.atHome w a .write 3 with
  | (s, .error _) => s
  | (s, .ok (.win a)) => { s with win := s.win.store a v n }
  | (s, .ok (.line key off)) => match s.slice key with
    | some sl => s.putSlice key (some { sl with
        data := mergeLine (byteMask off n) (lineAt v off n) sl.data, dirty := sl.dirty ||| byteMask off n
        fe := sl.fe ||| wordMask off n, bad := sl.bad &&& ~~~(wholeWords off n), hostBit := false, snooping := none })
    | none => s

/-- A word's whole-unit write passes its check from then on (R377). -/
def State.hGood (s : State) (h : HLoc) : State :=
  match h with
  | .win a => { s with win := s.win.setBad a false }
  | .line key off => match s.slice key with
    | some sl => s.putSlice key (some { sl with bad := sl.bad &&& ~~~(wordMask (off / 8 * 8) 8) })
    | none => s

def State.hFull (s : State) (h : HLoc) : Bool :=
  match h with
  | .win a => s.win.full a
  | .line key off => match s.slice key with
    | some sl => sl.fe.getLsbD (off / 8)
    | none => true

/-- Sets a full/empty bit at the home; the word's bytes count as dirty, so the bit reaches memory with them (log 10). -/
def State.hSetFull (s : State) (h : HLoc) (b : Bool) : State :=
  match h with
  | .win a => { s with win := s.win.setFull a b }
  | .line key off => match s.slice key with
    | some sl =>
      let m := wordMask (off / 8 * 8) 8
      s.putSlice key (some { sl with fe := if b then sl.fe ||| m else sl.fe &&& ~~~m, dirty := sl.dirty ||| byteMask (off / 8 * 8) 8 })
    | none => s

def State.hBad (s : State) (h : HLoc) (n : Nat) : Bool :=
  match h with
  | .win a => (s.win.firstBad a n).isSome
  | .line key off => match s.slice key with
    | some sl => sl.bad &&& wordMask off n != 0
    | none => false

end Sys2Proof.Machine
end

