-- ==== Sys2Proof/Machine/Home.lean ====
section
/-!
DEFINITION. Requests performed at their homes (R134): loads, stores, full/empty operations with their wait lists (R147,
R148), atomics (R150), sync words (R156, R157), range operations (R155), and what their replies do to the operation that
sent them.
-/
namespace Sys2Proof.Machine

/-! Packets. -/

/-- Sends a packet (R134, R379): last in its pair's order, performed at `due` or later. -/
def State.send (s : State) (src dst due : Nat) (body : Msg) : State :=
  let pk := src * 2 ^ 16 + dst
  let n := mget 0 s.pairSeq pk
  { s with
    net := s.net ++ [{ src, dst, body, seq := n, due, sentAt := s.cycles, received := true }]
    pairSeq := mset 0 s.pairSeq pk (n + 1) }

/-- Whether packet `k` may be performed: arrived, due, and first of its pair (R134, R379). -/
def State.performable (s : State) (k : Nat) : Bool :=
  match nth s.net k with
  | none => false
  | some p => p.received && decide (p.due ≤ s.cycles) && (s.net.take k).all (fun q => q.src != p.src || q.dst != p.dst)

def State.dropPkt (s : State) (k : Nat) : State := { s with net := delNth s.net k }

/-! Operations that wait for replies. -/

def State.det (s : State) (c x id : Nat) : Option DetOp := (s.ctx c x).outst.find? (fun d => d.id == id)
def State.updDet (s : State) (c x id : Nat) (f : DetOp → DetOp) : State :=
  s.updCtx c x (fun k => { k with outst := updIf (fun d => d.id == id) f k.outst })
def State.updPost (s : State) (c x id : Nat) (f : PostOp → PostOp) : State :=
  s.updCtx c x (fun k => { k with posted := updIf (fun d => d.id == id) f k.posted })

/-- The lower-numbered lane's fault stands (R169). -/
def lowerFault (old : Option (Nat × Nat × Word)) (lane code : Nat) (a : Word) : Option (Nat × Nat × Word) :=
  match old with
  | some (l, c, b) => if l ≤ lane then some (l, c, b) else some (lane, code, a)
  | none => some (lane, code, a)

/-- The state of an operation once every reply is in: done, or the fault of the lowest lane. -/
def opEnd (f : Option (Nat × Nat × Word)) : OpSt :=
  match f with
  | some (_, c, a) => .fault c a 0 0
  | none => .done

/-- A reply reaches its operation no sooner than `due` (R144, R312). -/
def DetOp.backBy (d : DetOp) (due : Nat) : DetOp := { d with due := max d.due due }

/-- A reply with a value for one lane (R33, R165). -/
def DetOp.reply (d : DetOp) (lane : Nat) (v : Vec) (fl : Flags) : DetOp :=
  let d := { d with vals := d.vals ++ [(lane, v)], left := d.left - 1, flags := d.flags ||| fl }
  if d.left = 0 then { d with st := opEnd d.laneFault } else d

/-- A reply with a fault for one lane (R36, R169). -/
def DetOp.replyFault (d : DetOp) (lane code : Nat) (a : Word) : DetOp :=
  let d := { d with left := d.left - 1, laneFault := lowerFault d.laneFault lane code a }
  if d.left = 0 then { d with st := opEnd d.laneFault } else d

def PostOp.reply (d : PostOp) : PostOp :=
  let d := { d with left := d.left - 1 }
  if d.left = 0 then { d with st := opEnd d.laneFault } else d

def PostOp.replyFault (d : PostOp) (lane code : Nat) (a : Word) : PostOp :=
  let d := { d with left := d.left - 1, laneFault := lowerFault d.laneFault lane code a }
  if d.left = 0 then { d with st := opEnd d.laneFault } else d

/-- Performed posted operations are forgotten (R144). -/
def State.sweepPosted (s : State) (c x : Nat) : State :=
  s.updCtx c x (fun k => { k with posted := k.posted.filter (fun p => p.st != .done) })

/-- When the reply to a request that is performed now arrives (R144, R312). -/
def State.replyAt (s : State) (c : Nat) (r : MemReq) : Nat :=
  let w : Who := { core := c }
  s.cycles + s.backTime w r.ea.toNat (decide (r.ea.toNat < 2 ^ 52) && r.node == 0 && (s.l1 c (lineKey r.pid r.asid r.ea.toNat)).isSome)

/-- The reply to a request: value, or fault, which arrives at `due` (R36, R144). -/
def State.answer (s : State) (c x op : Nat) (r : MemReq) (v : Nat) (fl : Flags) : State :=
  if r.posted then (s.updPost c x op PostOp.reply).sweepPosted c x
  else s.updDet c x op (fun d => (d.reply r.lane (BitVec.ofNat 1024 v) fl).backBy (s.replyAt c r))

def State.answerFault (s : State) (c x op : Nat) (r : MemReq) (code : Nat) (a : Word) (due : Nat) : State :=
  let a := if r.vec then r.ea else a
  if r.posted then s.updPost c x op (fun d => d.replyFault r.lane code a)
  else s.updDet c x op (fun d => (d.replyFault r.lane code a).backBy due)

/-! Atomics. -/

/-- The new value and its flags (R150): 0 add, 1 and, 2 or, 3 xor, 4 min, 5 max, 6 swap, 7 cas, 8 add.f32, 9 add.f64. -/
def amoNew (op ty mode old b c : Nat) : Nat × Flags :=
  let n := if op = 8 then 32 else if op = 9 then 64 else tyBits ty
  let b := b % 2 ^ n
  let lt := decide (intTy ty b < intTy ty old)
  match op with
  | 0 => ((old + b) % 2 ^ n, 0)
  | 1 => (old &&& b, 0)
  | 2 => (old ||| b, 0)
  | 3 => (old ^^^ b, 0)
  | 4 => (if lt then b else old, 0)
  | 5 => (if lt then old else b, 0)
  | 6 => (b, 0)
  | 7 => (if old = c % 2 ^ n then b else old, 0)
  | 8 => roundWith fp32 mode (addX mode (unpack fp32 old) (unpack fp32 b))
  | _ => roundWith fp64 mode (addX mode (unpack fp64 old) (unpack fp64 b))

/-! Wait lists. -/

/-- The packet of a resumed or woken record (R262): kind 3, the record's selectors and values. -/
def kind3 (r : Record) : Packet96 :=
  let rn := r.toNat
  BitVec.ofNat 768 (bits rn 0 64 + bits rn 64 28 * 2 ^ 128 + 3 * 2 ^ 164 + bits rn 92 36 * 2 ^ 168 + bits rn 128 384 * 2 ^ 256)

/-- Offers an arrival to a core (R263). -/
def State.offer (s : State) (core : Nat) (o : Offer) : State := s.updCore core (fun k => { k with offers := k.offers ++ [o] })

/-- Serves one waiter whose condition holds (R148, R157, R261); `bad`: the word that it reads fails its check (R377). -/
def State.serve (s : State) (w : Waiter) (v : Nat) (bad : Bool) : State :=
  match w.kind with
  | .park =>
    let held : Option FaultInfo := if bad then some
      { code := cUncorrectable, addr := w.r.ea, pc := BitVec.ofNat 64 w.r.n, iw := BitVec.ofNat 96 w.r.lane
        caps := { o1 := w.r.data.setWidth 1024, o2 := w.r.cmp.setWidth 1024 } } else none
    s.offer w.core { src := w.core, pkt := kind3 w.rcd, mt := w.mt, since := s.cycles, held }
  | _ =>
    if bad then s.updDet w.core w.ctx w.op (fun d =>
      (d.replyFault w.r.lane cUncorrectable (wordAddr w.r.ea.toNat)).backBy (s.cycles + s.wakeTime { core := w.core } w.r.ea.toNat))
    else s.send (8192 + w.core) (8192 + w.core) (s.cycles + s.wakeTime { core := w.core } w.r.ea.toNat) (.wake w.core w.ctx w.op w.r.lane (BitVec.ofNat 64 v))

/-- One pass over a word's wait list, oldest first, after a change of its full/empty bit (R148). -/
def servePass (h : HLoc) : List Waiter → State → List Waiter × State
  | [], s => ([], s)
  | w :: l, s =>
    let keepIt (s : State) : List Waiter × State := let (ws, s) := servePass h l s; (w :: ws, s)
    let full := s.hFull h
    match w.kind with
    | .ldfeKeep => if full then servePass h l (s.serve w (s.hRead h 8) (s.hBad h 8)) else keepIt s
    | .park => if full || s.hBad h 8 then servePass h l (s.serve w 0 (s.hBad h 8)) else keepIt s
    | .ldfeClr =>
      if full then servePass h l (if s.hBad h 8 then s.serve w 0 true else (s.serve w (s.hRead h 8) false).hSetFull h false) else keepIt s
    | .stfeWait =>
      if full then keepIt s else servePass h l ((((s.serve w 0 false).hWrite h w.r.data.toNat 8).hGood h).hSetFull h true)
    | .swwait => keepIt s

/-- A line whose words a pass looks at is in its slice, whole (R148, R364). -/
def State.holdLine (s : State) (h : HLoc) : State :=
  match h with
  | .win _ => s
  | .line key _ =>
    if ((s.slice key).map (fun sl => sl.valid == BitVec.allOnes 64)).getD false then s
    else (s.bringLine (keyPid key) (keyAsid key) (keyVa key) .writeBack false 0).1

/-- The pass at a location (R148). A line that is here for the pass alone goes after it (R139). -/
def State.pass (s : State) (h : HLoc) (loc : Nat) : State :=
  let mine := s.waiters.filter (fun w => w.loc == loc)
  if mine.isEmpty then s
  else
    let rest := s.waiters.filter (fun w => w.loc != loc)
    let (ws, s) := servePass h mine (s.holdLine h)
    let s : State := { s with waiters := rest ++ ws }
    match h with
    | .win _ => s
    | .line key _ => s.letPass key

/-- The places of the words a store touches, for the passes that follow it. -/
def State.passStore (s : State) (w : Who) (a n : Nat) : State :=
  if s.waiters.isEmpty then s
  else
    (wordsOf a n).foldl (fun s k =>
      let wa := 8 * k
      if 2 ^ 52 ≤ wa then s.pass (.win wa) wa
      else
        match s.redirect w.pid w.asid wa .write false with
        | (s, .ok (asid, va)) => s.pass (.line (lineKey w.pid asid va) (va % 64)) (locOf w.pid asid va)
        | (s, .error _) => s) s

/-! Stores that their core owns and has written (R153, R295). -/

/-- The cores of a scope for a core of a partition (R152): 8 to 31 by the captured bitmap, or the partition. -/
def State.scopeHas (s : State) (core id : Nat) (map : Option (BitVec 4096)) (c : Nat) : Bool :=
  match id with
  | 0 => c == core
  | 1 => c == core
  | 2 => clusterOf c == clusterOf core
  | 3 => dieOf c == dieOf core
  | 4 => true
  | 6 => true
  | _ => match map with
    | some m => m.getLsbD c
    | none => s.inPart (s.pidOf core) c

/-- Who a request of a strand acts for. -/
def MemReq.who (r : MemReq) (core : Nat) (unit : Unit4) : Who :=
  { core, pid := r.pid, asid := r.asid, user := r.user, node := r.node, unit }

/-- Packet `k`, whose line its core owns, is performed: no other copy is left (R153). It faults no more; where its page has gone meanwhile
its bytes are discarded with a kind 4 event, as those of a dirty copy are (R363, R377). -/
def State.performOwned (s : State) (k : Nat) : State :=
  match nth s.net k with
  | some { body := .mem c x op r, .. } =>
    let w : Who := { r.who c .strand with seq := (s.ctx c x).mt.seq }
    let a := r.ea.toNat
    let go (s : State) : State × Res := s.store w a r.n r.data.toNat r.lease true
    let res := match go s with
      | (t, .hold) => match t.slice (lineKey w.pid (t.truePlace w.pid w.asid a).1 (t.truePlace w.pid w.asid a).2) with
        | some sl => go (t.putSlice (lineKey w.pid (t.truePlace w.pid w.asid a).1 (t.truePlace w.pid w.asid a).2) (some { sl with hostBit := false, snooping := none }))
        | none => (t, .hold)
      | q => q
    let t := match res with
      | (t, .flt code _) => t.post r.pid { kind := 4, status := code, addr := BitVec.ofNat 64 (a / 64 * 64) }
      | (t, _) => t.passStore w a r.n
    (t.dropPkt k).answer c x op r 0 0
  | _ => s

/-- Whether packet `p` is a store to a line that core `d` can no longer see absent (R153). -/
def State.ownedFrom (s : State) (p : Pkt) (d line : Nat) : Bool :=
  match p.body, p.own with
  | .mem c _ _ r, some l => s.lineLoc r.pid r.asid r.ea.toNat == line && l.any (fun m => s.scopeHas c m.1 m.2 d)
  | _, _ => false

/-- Before a unit of a core accesses a line, the stores to it that the core can no longer see absent are performed (R153, R301). -/
def State.afterOwned (s : State) (w : Who) (a : Nat) : State :=
  if s.net.all (fun p => p.own.isNone) then s
  else
    let line := s.lineLoc w.pid w.asid a
    (List.range s.net.length).reverse.foldl (fun s k =>
      if ((nth s.net k).map (fun p => s.ownedFrom p w.core line)).getD false then s.performOwned k else s) s

/-! Accesses of units (R134). -/

/-- The value a range read delivers, piece by piece (R134): number, or the first fault. -/
def readPieces (s : State) (w : Who) (lease : Nat) (alloc : Bool) : List (Nat × Nat) → State × Except Flt Nat
  | [] => (s, .ok 0)
  | (a, n) :: l =>
    match (s.afterOwned w a).load w a n lease alloc with
    | (s, .flt c b) => (s, .error (c, b))
    | (s, .hold) => (s, .error (cXlate, BitVec.ofNat 64 a))
    | (s, .ok v) =>
      match readPieces s w lease alloc l with
      | (s, .error f) => (s, .error f)
      | (s, .ok r) => (s, .ok (v + 2 ^ (8 * n) * r))

/-- A unit's read of `n` bytes from `a` on, at the homes. -/
def State.readAt (s : State) (w : Who) (a n lease : Nat) : State × Except Flt Nat :=
  readPieces s w lease false (linePieces a n)

/-- The host's reply to a BISnp that a unit's own write needs, taken within the step (R365, log 12). -/
def State.clearHost (s : State) (w : Who) (va : Nat) : State :=
  match s.redirect w.pid w.asid va .write w.user with
  | (s, .error _) => s
  | (s, .ok (asid, va')) =>
    let key := lineKey w.pid asid va'
    match s.slice key with
    | some sl => s.putSlice key (some { sl with hostBit := false, snooping := none })
    | none => s

/-! Records of commands that the copy engine has yet to read (R225). -/

/-- Who a command acts for: no unit that may touch a K buffer. -/
def CopyCmd.who (d : CopyCmd) : Who :=
  { core := d.core, pid := d.pid, asid := d.asid, user := d.user, node := d.node, unit := .vector, engine := true, seq := d.mt.seq }

/-- The commands submitted before `now` whose record lies on a line and has not been read, with their clusters. -/
def State.recordsOn (s : State) (line now : Nat) : List (Nat × CopyCmd) :=
  s.clusters.flatMap (fun e => (e.2.cmds.filter (fun d => d.st == .accepted && d.held.isNone && decide (d.sentAt < now) &&
    (line == s.lineLoc d.pid d.asid d.addr.toNat || line == s.lineLoc d.pid d.asid (d.addr.toNat + 64)))).map (fun d => (e.1, d)))

/-- Whether the submitter of a command has stores before it that are not performed. -/
def State.recordAwaits (s : State) (d : CopyCmd) : Bool :=
  let k := s.ctx d.core d.ctx
  k.posted.any (fun p => decide (p.id < d.after) && p.st == .pending) || k.outst.any (fun o => decide (o.id < d.after) && fld o.iw 84 12 == 0x2D1)

/-- The engine takes the record of a command as it stands. -/
def State.takeRecord (s : State) (e : Nat × CopyCmd) : State :=
  let w : Who := { e.2.who with unit := .strand }
  match (match s.issueFault w e.2.addr 128 128 false with
    | some f => (s, Except.error f)
    | none => s.readAt w e.2.addr.toNat 128 3) with
  | (s, .ok v) => s.updCluster e.1 (fun c => { c with
      cmds := updIf (fun d => d.cid == e.2.cid) (fun d => { d with held := some (BitVec.ofNat 1024 v) }) c.cmds })
  | _ => s

/-- Whether a write to a line, which comes after a submission, has to wait until a record on it can be taken (R225). -/
def State.recordHeld (s : State) (line now : Nat) : Bool := (s.recordsOn line now).any (fun e => s.recordAwaits e.2)

/-- Before a line is written, the records on it are taken that such a write is to have no effect on (R225). -/
def State.keepRecords (s : State) (line now : Nat) : State :=
  ((s.recordsOn line now).filter (fun e => !s.recordAwaits e.2)).foldl State.takeRecord s

/-- The line of a unit's write is ready for it (R153, R225). -/
def State.beforeWrite (s : State) (w : Who) (a : Nat) : State :=
  let s := s.afterOwned w a
  if s.clusters.all (fun e => e.2.cmds.isEmpty) then s else s.keepRecords (s.lineLoc w.pid w.asid a) s.cycles

/-- A unit's store within one line, the host asked first where its bit is set (R365). -/
def State.unitStore (s : State) (w : Who) (a n v lease : Nat) : State × Res :=
  match (s.beforeWrite w a).store w a n v lease false with
  | (s, .hold) => (s.clearHost w a).store w a n v lease false
  | r => r

/-- Writes piece by piece; the first fault stops it. -/
def writePieces (s : State) (w : Who) (lease : Nat) : Nat → List (Nat × Nat) → State × Option Flt
  | _, [] => (s, none)
  | v, (a, n) :: l =>
    match s.unitStore w a n v lease with
    | (s, .flt c b) => (s, some (c, b))
    | (s, _) => writePieces (s.passStore w a n) w lease (v / 2 ^ (8 * n)) l

/-- A unit's write of `n` bytes from `a` on, at the homes. -/
def State.writeAt (s : State) (w : Who) (a n v lease : Nat) : State × Option Flt :=
  writePieces s w lease v (linePieces a n)

/-- Writes `n` words from `a` on and leaves their full/empty bits (R253); the first fault stops it. -/
def State.writeKeep (s : State) (w : Who) (a v : Nat) : Nat → State × Option Flt
  | 0 => (s, none)
  | n + 1 =>
    match ((s.beforeWrite w a).clearHost w a).atHome w a .write 3 with
    | (s, .error c) => (s, some (c, BitVec.ofNat 64 a))
    | (s, .ok h) => ((s.hWrite h v 8).hGood h).writeKeep w (a + 8) (v / 2 ^ 64) n

/-- Full order of R143 for a unit that checks when it accesses: ALIGN, WINDOW and window PERM, then the access. -/
def State.readChecked (s : State) (w : Who) (a : Word) (n align lease : Nat) : State × Except Flt Nat :=
  match s.issueFault w a n align false with
  | some f => (s, .error f)
  | none => s.readAt w a.toNat n lease

def State.writeChecked (s : State) (w : Who) (a : Word) (n align v lease : Nat) : State × Option Flt :=
  match s.issueFault w a n align true with
  | some f => (s, some f)
  | none => s.writeAt w a.toNat n v lease

/-! Sync words. -/

/-- Whether a generation lies after `b` (R157). -/
def swAfter (gen b : Nat) : Bool :=
  let d := (gen + 2 ^ 32 - b % 2 ^ 32) % 2 ^ 32
  decide (1 ≤ d) && decide (d < 2 ^ 31)

/-- The arrival of `n` bytes at a sync word (R156): the word after, and gen. -/
def swArrive (w n : Nat) : Nat × Nat :=
  let target := bits w 0 32
  let sum := bits w 32 32 + n
  let (k, count) := if target = 0 then (1, 0) else (sum / target, sum % target)
  let gen := (bits w 64 32 + k) % 2 ^ 32
  let phase := (bits w 96 1 + k) % 2
  (target + count * 2 ^ 32 + gen * 2 ^ 64 + phase * 2 ^ 96, gen)

/-- Serves the `swwait` waiters of a sync word whose condition holds, oldest first (R156). -/
def State.swPass (s : State) (a gen : Nat) : State :=
  let ok (w : Waiter) : Bool := w.loc == a && w.kind == .swwait && swAfter gen w.r.data.toNat
  let s' := (s.waiters.filter ok).foldl (fun s w => s.serve w gen false) s
  { s' with waiters := s.waiters.filter (fun w => !ok w) }

/-- A sync-word arrival (R156): none when an RSV field is nonzero. -/
def State.syncArrive (s : State) (a n : Nat) : Option (State × Nat) :=
  let w := s.win.read a 16
  if bits w 97 31 != 0 then none
  else
    let (w', gen) := swArrive w n
    some (({ s with win := s.win.write a w' 16 }).swPass a gen, gen)

/-! The C footprint of tile instructions (R183, R192). -/

/-- Size of the C element of a tile instruction by opcode (R188, R197). -/
def tileSc (op ty : Nat) : Nat :=
  let fmt (m : Nat) : Nat := if m = 0 then 8 else if m = 4 ∨ m = 5 ∨ m = 8 ∨ m = 9 ∨ m = 11 then 2 else 4
  if op / 16 = 0x2C then fmt (op % 16) else if op = 0x2D3 then fmt ty else tyBits ty / 8

/-- The footprint of a shape word: first C offset and the one after the last (R183). -/
def footprint (shape : Word) (sc : Nat) : Nat × Nat :=
  let coff := fld shape 32 17
  (coff, coff + 64 * fld shape 49 11 * (fld shape 0 8 - 1) + sc * fld shape 8 8)

/-- Whether an outstanding tile instruction or sub-tile covers bytes of a core's C buffer (R192, R203). One that waits for this access,
since its own strand has sent it before, does not, nor what stands behind that one in the unit. -/
def State.cBusy (s : State) (core off n sent by_ x : Nat) : Bool :=
  let covers (e : Nat × Nat) (f : DetOp → Bool) : Bool :=
    match s.det core e.1 e.2 with
    | some d =>
      let op := fld d.iw 84 12
      let (lo, hi) := footprint (d.caps.od.setWidth 64) (tileSc op (fld d.iw 0 4))
      f d && decide (lo < off + n) && decide (off < hi)
    | none => false
  let awaits (e : Nat × Nat) : Bool := by_ == core && e.1 == x && covers e (fun d => decide (sent < d.issuedAt))
  ((s.core core).mtx.takeWhile (fun e => !awaits e)).any (fun e => covers e (fun _ => true))

/-- Whether the accumulators of a sub-tile that runs on a core cover bytes of its C buffer (R192, R203); those of a paused task
are the save routine's (R348). -/
def State.subBusy (s : State) (core off n : Nat) : Bool :=
  (s.cluster (clusterOf core)).tasks.any (fun t =>
    t.st == .running && t.fb.isEmpty && t.subs.any (fun b => b.core == core) && decide (fld t.rcd 448 17 < off + n) &&
      decide (off < fld t.rcd 448 17 + 1024 * tileSc (0x2C0 + fld t.rcd 416 4) 0))

/-- Whether an access of context `x` of core `by_` must wait at the C buffer port (R192, R194); 16 stands for an engine. -/
def State.cHeld (s : State) (a n sent by_ x : Nat) : Bool :=
  match spaceOf a with
  | .loc c 2 =>
    let off := a - bufAddr c 2
    s.cBusy c off n sent by_ x || s.subBusy c off n || (s.core c).cStop.any (fun e =>
      (e.1 != x || c != by_) && decide (e.2.1 < off + n) && decide (off < e.2.2))
  | _ => false

/-! Requests. -/

/-- The fill of a prefetch (R146): nothing where a load would fault, in windows and in host memory. -/
def State.prefetch (s : State) (w : Who) (a lease : Nat) : State :=
  let place := s.truePlace w.pid w.asid a
  if 2 ^ 52 ≤ a || s.lineTgt (lineKey w.pid place.1 place.2) == 2 then s
  else
    match s.load w (a / 64 * 64) 64 lease true with
    | (t, .ok _) => t
    | _ => s

/-- What performing a request comes to. -/
inductive Done where
  | ok (v : Nat) (fl : Flags)
  | flt (code : Nat) (a : Word)
  /-- It joins the word's wait list (R147). -/
  | wait (loc : Nat)
  /-- It is held at the home and stays (R192, R365). -/
  | hold
  deriving DecidableEq, Repr

/-- Whether the word an access names lies in host memory, where a synchronising access raises PERM (R141). -/
def State.isHost (s : State) (h : HLoc) : Bool :=
  match h with
  | .win _ => false
  | .line key _ => s.lineTgt key == 2

def HLoc.loc (h : HLoc) : Nat :=
  match h with
  | .win a => a / 8 * 8
  | .line key off => locOf (keyPid key) (keyAsid key) (keyVa key + off)

/-- A change at the home of a line that the host may hold asks the host first (R365): it is held meanwhile. -/
def State.askHost (s : State) (h : HLoc) (c : Nat) : Option State :=
  match h with
  | .win _ => none
  | .line key _ => match s.slice key with
    | some sl => if sl.hostBit then some (s.putSlice key (some { sl with snooping := some c })) else none
    | none => none

/-- A full/empty operation at the home (R147, R148); under a node it is PERM (R278). -/
def performFe (s : State) (w : Who) (r : MemReq) : State × Done :=
  let acc : AccKind := match r.kind with
    | .ldfeClr => .read
    | .ldfeKeep => .read
    | _ => .write
  match s.atHome w r.ea.toNat acc 3 with
  | (s, .error c) => (s, .flt c r.ea)
  | (s, .ok h) =>
    if s.isHost h || r.node != 0 then (s, .flt cPerm r.ea)
    else
      let fin (s : State) (v : Nat) : State × Done := (s.pass h h.loc, .ok v 0)
      let full := s.hFull h
      let changes := match r.kind with
        | .ldfeClr => full
        | .ldfeKeep => false
        | .stfeWait => !full
        | .stfeFail => !full
        | _ => true
      match (if changes then s.askHost h w.core else none), r.kind with
      | some s, _ => (s, .hold)
      | none, .ldfeClr =>
        if !full then (s, .wait h.loc)
        else if s.hBad h 8 then (s, .flt cUncorrectable (wordAddr r.ea.toNat))
        else let v := s.hRead h 8; fin (s.hSetFull h false) v
      | none, .ldfeKeep =>
        if !full then (s, .wait h.loc)
        else if s.hBad h 8 then (s, .flt cUncorrectable (wordAddr r.ea.toNat))
        else (s, .ok (s.hRead h 8) 0)
      | none, .stfeWait => if full then (s, .wait h.loc) else fin (((s.hWrite h r.data.toNat 8).hGood h).hSetFull h true) 0
      | none, .stfeFail => if full then (s, .ok 0 0) else fin (((s.hWrite h r.data.toNat 8).hGood h).hSetFull h true) 1
      | none, .clrfe => fin (s.hSetFull h false) 0
      | none, _ => fin (s.hSetFull h true) 0

/-- The `n` bytes at `h` as an operation at the home under effective node `e` finds them (R280); none: a word of them fails its check
(R377). -/
def State.hSees (s : State) (w : Who) (t : TMap Node) (h : HLoc) (e n : Nat) : Option Nat :=
  match h, e with
  | .line key off, e + 1 =>
    let base : Line := ((s.slice key).map (fun sl => s.view key sl)).getD 0
    if ((s.slice key).map (fun sl => s.readBad w t key (e + 1) sl false off n)).getD 0 != 0 then none
    else some (lineGet (s.overlay t key w.asid (e + 1) base) off n)
  | h, _ => if s.hBad h n then none else some (s.hRead h n)

/-- An atomic at the home (R150, R279, R280). Under a refuted node it reads the committed value and its write is dropped; a
`cas` whose comparison fails writes nothing. -/
def performAmo (s : State) (w : Who) (r : MemReq) (op ty mode : Nat) : State × Done :=
  let a := r.ea.toNat
  let t := if 2 ^ 52 ≤ a then [] else s.tabAt w a
  let eff := if 2 ^ 52 ≤ a then some 0 else eff t w.asid w.node
  match s.atHome w a .atomic 3 with
  | (s, .error c) => (s, .flt c r.ea)
  | (s, .ok h) =>
    let new (old : Nat) : Nat × Flags := amoNew op ty mode old r.data.toNat r.cmp.toNat
    let same (old : Nat) : Bool := op == 7 && old != r.cmp.toNat % 2 ^ (8 * r.n)
    if s.isHost h || (r.node != 0 && decide (2 ^ 52 ≤ a)) then (s, .flt cPerm r.ea)
    else
      match s.hSees w t h (eff.getD 0) r.n with
      | none => (s, .flt cUncorrectable (wordAddr a))
      | some old =>
        if eff.isNone || same old then (s, .ok old (new old).2)
        else
          match h, eff with
          | .line key off, some (e + 1) =>
            match s.verWrite key (nodeKey w.asid (e + 1)) off r.n (new old).1 with
            | some s => (s, .ok old (new old).2)
            | none => (s, .flt cHypCapacity r.ea)
          | _, _ =>
            match s.askHost h w.core with
            | some s => (s, .hold)
            | none => (s.hWrite h (new old).1 r.n, .ok old (new old).2)

/-- A line leaves every cache with nothing written back (R155). -/
def State.dropLine (s : State) (key : Nat) : State :=
  { s with
    cores := mmap {} (fun _ k => { k with l1 := mset none k.l1 key none, icache := mset none k.icache key none }) s.cores
    slices := mset none s.slices key none }

/-- A discarded line in its memory (R155): zero bytes and full words; hardware's fields stand (R7). -/
def State.zeroLine (s : State) (key tgt pa : Nat) (old : Line) : State :=
  let m := (s.phys tgt).store pa (s.shield key 0 old).toNat 64
  s.setPhys tgt m

/-- The discard of one line, or of 64 bytes of a window (R155, R279): at the home and in every cache; no cache holds the line afterwards
(R392). One that its slice still holds under a mapping that is gone has no memory left to be zeroed (R326, R363). -/
def performDisc (s : State) (w : Who) (r : MemReq) : State × Done :=
  let a := r.ea.toNat
  if 2 ^ 52 ≤ a then
    let s := s.winStore a 0 64
    (s.passStore w a 64, .ok 0 0)
  else
    match eff (s.tabAt w a) w.asid w.node with
    | none => (s, .ok 0 0)
    | some e =>
      match s.letIn w a .write with
      | (s, .error c) => (s, .flt c r.ea)
      | (s, .ok (asid, va)) =>
        let key := lineKey w.pid asid va
        if s.lineTgt key = 2 then (s, .flt cPerm r.ea)
        else if e != 0 then
          match s.verWrite key (nodeKey w.asid e) 0 64 0 with
          | some s => (s, .ok 0 0)
          | none => (s, .flt cHypCapacity r.ea)
        else
          match s.askHost (.line key 0) w.core with
          | some s => (s, .hold)
          | none =>
            let s := match s.translate w.pid asid va .write false with
              | (s, .error _) => s.dropLine key
              | (s, .ok (tgt, pa)) =>
                let pa := pa / 64 * 64
                let old : Line := ((s.slice key).map (s.view key)).getD (BitVec.ofNat 512 ((s.phys tgt).read pa 64))
                (s.zeroLine key tgt pa old).dropLine key
            (s.passStore { w with asid } (va / 64 * 64) 64, .ok 0 0)

/-- The cores of a scope for a context (R152). -/
def State.inScope (s : State) (k : Ctx) (core id c : Nat) : Bool := s.scopeHas core id (mget none k.scopes id) c

/-- A write-back of one line (R155): dirty copies in the scope's L1s, and with scope 6 the slice's copy to memory. -/
def performWb (s : State) (scope : Nat → Bool) (six : Bool) (key : Nat) : State :=
  let s := (s.cores.map (·.1)).foldl (fun s c => if scope c then
      (match s.l1 c key with
        | some l => if l.dirty != 0 then s.l1Clean c key else s
        | none => s) else s) s
  match (if six then s.slice key else none) with
  | none => s
  | some sl =>
    let s := s.shedOthers key Config.nCores
    let sl := s.pulled key sl
    let s := s.toMemory key sl
    match s.slice key with
    | some x => s.putSlice key (some { x with data := sl.data, dirty := 0 })
    | none => s

/-- An invalidation of one line (R155, R80): copies in the scope's L1 and instruction caches written back and dropped. -/
def performInv (s : State) (scope : Nat → Bool) (key : Nat) : State :=
  let s := (s.cores.map (·.1)).foldl (fun s c => if scope c then
      (s.l1Drop c key).updCore c (fun k => { k with icache := mset none k.icache key none }) else s) s
  match s.slice key with
  | some sl => s.putSlice key (some { sl with pinned := false })
  | none => s

/-- The keys of an address space's cached lines that overlap a range and have their home at `home` (R155). -/
def State.keysIn (s : State) (pid asid a n home : Nat) : List Nat :=
  let ok (k : Nat) : Bool :=
    keyPid k == pid && keyAsid k == asid && decide (a / 64 * 64 ≤ keyVa k) && decide (keyVa k < a + n) &&
      s.homeSlice pid (keyVa k) == home
  (s.slices.map (·.1) ++ s.cores.flatMap (fun e => e.2.l1.map (·.1) ++ e.2.icache.map (·.1))).filter ok

/-- Performs a request of a strand at its home (R134). -/
def State.perform (s : State) (core ctx sent : Nat) (unit : Unit4) (r : MemReq) : State × Done :=
  let w : Who := { r.who core unit with seq := (s.ctx core ctx).mt.seq }
  let a := r.ea.toNat
  if s.cHeld a r.n sent core ctx then (s, .hold)
  else
    match r.kind with
    | .load =>
      match s.load w a r.n r.lease true with
      | (s, .ok v) => (s, .ok v 0)
      | (s, .flt c b) => (s, .flt c b)
      | (s, .hold) => (s, .hold)
    | .store =>
      match s.store w a r.n r.data.toNat r.lease true with
      | (s, .ok _) => (s.passStore w a r.n, .ok 0 0)
      | (s, .flt c b) => (s, .flt c b)
      | (s, .hold) => (s, .hold)
    | .pf => (s.prefetch w a r.lease, .ok 0 0)
    | .ppub => (s.updCore core (fun k => { k with postab := k.postab.map (fun e => if e.ctx = ctx then { e with pos := r.data } else e) }), .ok 0 0)
    | .amo op ty mode => performAmo s w r op ty mode
    | .disc => performDisc s w r
    | .wb =>
      let sc := s.inScope (s.ctx core ctx) core r.cmp.toNat
      ((s.keysIn r.pid r.asid a r.data.toNat r.lane).foldl (fun s k => performWb s sc (r.cmp.toNat == 6) k) s, .ok 0 0)
    | .inv =>
      let sc := s.inScope (s.ctx core ctx) core r.cmp.toNat
      ((s.keysIn r.pid r.asid a r.data.toNat r.lane).foldl (fun s k => performInv s sc k) s, .ok 0 0)
    | .swarrive => if (s.win.firstBad a 16).isSome then (s, .flt cUncorrectable r.ea) else
      match s.syncArrive a r.data.toNat with
      | some (s, gen) => (s, .ok gen 0)
      | none => (s, .flt cIllegal r.ea)
    | .swwait =>
      let word := s.win.read a 16
      if (s.win.firstBad a 16).isSome then (s, .flt cUncorrectable r.ea)
      else if bits word 97 31 != 0 then (s, .flt cIllegal r.ea)
      else if swAfter (bits word 64 32) r.data.toNat then (s, .ok (bits word 64 32) 0)
      else (s, .wait a)
    | _ => performFe s w r

/-- The access kind of a request; none for a range operation. -/
def ReqKind.acc (k : ReqKind) : Option AccKind :=
  match k with
  | .load => some .read
  | .ldfeClr => some .read
  | .ldfeKeep => some .read
  | .amo _ _ _ => some .atomic
  | .store => some .write
  | .stfeWait => some .write
  | .stfeFail => some .write
  | .setfe => some .write
  | .clrfe => some .write
  | .disc => some .write
  | .pf => some .read
  | _ => none

/-- ck that a request which has arrived waits for its translation and its line (R144, R356): 80 for each table entry that the walk
reads, 112 for a line that its slice does not hold. One whose walk finds no leaf waits for nothing: its fault has a time of its own. -/
def State.awaits (s : State) (c : Nat) (r : MemReq) : Nat :=
  let va := r.ea.toNat
  let place := s.truePlace r.pid r.asid va
  if 2 ^ 52 ≤ va ∨ r.kind.acc = none ∨ (s.l1Hit (r.who c .strand) va && r.node == 0) = true ∨ (s.slice (lineKey r.pid place.1 place.2)).isSome = true ∨
      (s.leaf r.pid r.asid va).2.toOption = none then 0
  else 80 * s.pathReads r.pid r.asid va + 112

/-- The translation of the request that packet `k` brings is held, and its wait begins (R356). -/
def State.walkTo (s : State) (k c : Nat) (r : MemReq) : State :=
  let t := (s.leaf r.pid r.asid r.ea.toNat).1
  { t with net := updNth (fun p => if p.walked then p else { p with walked := true, due := s.cycles + s.awaits c r }) t.net k }

/-- When the fault of a request reaches its strand (R144, R356): one of its translation 16 ck after issue and 80 for each table entry
read. -/
def State.faultAt (s : State) (c sent : Nat) (r : MemReq) (code : Nat) : Nat :=
  if r.ea.toNat < 2 ^ 52 ∧ (code = cXlate ∨ code = cPerm) then sent + 16 + 80 * s.pathReads r.pid r.asid r.ea.toNat else s.replyAt c r

/-- The wait kind of a request that joins a list. -/
def ReqKind.waitKind (k : ReqKind) : WaitKind :=
  match k with
  | .ldfeClr => .ldfeClr
  | .ldfeKeep => .ldfeKeep
  | .swwait => .swwait
  | _ => .stfeWait

end Sys2Proof.Machine
end

