-- ==== Sys2Proof/Machine/Ops.lean ====
section
/-!
DEFINITION. The named operations every meaning is built from: the instruction in the issue stage and its successor (R66,
R67), taking an exception (R322, R368 to R372) and returning from one (R373), what keeps an instruction from issuing
(R29, R34, R37, R375), retirement, and the operations that leave the pipeline (R33, R144).
-/
namespace Sys2Proof.Machine

/-! The instruction in the issue stage. -/

/-- Its PC; in a replay, that of the record (R373). -/
def State.pcNow (s : State) : Word :=
  match s.replay with
  | some r => r.pc
  | none => s.me.pc

/-- The sequential successor of a PC in a line of `h` heads (R66). -/
def nextPc (pc : Word) (h : Nat) : Word := if fld pc 1 5 < h then pc + 2 else (pc &&& ~~~63) + 66

/-- Where the strand goes on after the instruction (R66); in a replay, rpc (R373). -/
def State.succ (s : State) : Word :=
  match s.me.rett with
  | some r => r.rpc
  | none => nextPc s.me.pc s.iwH

/-- The check of R69: bit 0 zero and bits 5:1 nonzero. -/
def pcOk (pc : Word) : Bool := !tst pc 0 && fld pc 1 5 != 0

/-- The target of a relative branch or of `lea` (R68, R122). -/
def relTarget (pc : Word) (imm : BitVec 40) : Word :=
  wadd (pc &&& ~~~63) (64 * (imm.sshiftRight 5).toInt + 2 * (fld imm 0 5 + 1))

/-- Who the strand's accesses act for. -/
def State.whoOf (s : State) (c x : Nat) (unit : Unit4) : Who :=
  let k := s.ctx c x
  { core := c, pid := s.pidOf c, asid := k.asid.toNat, user := k.level == 0, node := k.hypCur.toNat, unit, seq := k.mt.seq }
def State.myWho (s : State) (unit : Unit4) : Who := s.whoOf s.cur s.cx unit

/-- Who the core's hardware acts for when it handles a strand's own records: kernel level, committed state. -/
def State.hwWho (s : State) (c x : Nat) : Who := { s.whoOf c x .strand with user := false, node := 0 }

/-- Expanded internal words of 96 bits that an instruction cache of 64 KiB holds (R18). -/
def icWords : Nat := 5461

/-- Lines leave a cache of internal words, the oldest fill first, until the rest fit (R18; which line makes room the spec leaves
open, log 46). -/
def icTrim (m : TMap (Option Line)) : List Nat → TMap (Option Line) × List Nat
  | [] => (m, [])
  | k :: l =>
    if (m.map (fun e => match e.2 with
      | some l => lineH l
      | none => 0)).sum ≤ icWords then (m, k :: l)
    else icTrim (mset none m k none) l

/-- A filled line enters an instruction cache (R18, R80). -/
def Core.icPut (k : Core) (key : Nat) (l : Line) : Core :=
  let (m, f) := icTrim (mset none k.icache key (some l)) (k.icFill.filter (fun j => j != key && (mget none k.icache j).isSome) ++ [key])
  { k with icache := m, icFill := f, icBad := k.icBad.filter (fun e => e.1 != key) }

/-- A line of an instruction cache, as a fetch finds it: one with a word that fails its check is not delivered (R377). -/
def State.icLine (s : State) (c key : Nat) : Option (Except Flt Line) :=
  (mget none (s.core c).icache key).map (fun l => match (s.core c).icBad.find? (fun e => e.1 == key) with
    | some e => .error (cUncorrectable, wordAddr (keyVa key + 8 * e.2))
    | none => .ok l)

/-- The code line at a context's PC (R67, R80): from the instruction cache, or filled whole from its home. A cached line is
issued until `inv`, `disc` or a fill that needs its room drops it; how long the older expansion stays is the model's choice
(log 46). -/
def State.fetch (s : State) (c x : Nat) : State × Except Flt Line :=
  let k := s.ctx c x
  let pc := k.pc
  let w := s.whoOf c x .strand
  if 2 ^ 52 ≤ pc.toNat then (s, .error (cWindow, pc))
  else if !pcOk pc then (s, .error (cAlign, pc))
  else
    match s.icLine c (lineKey w.pid w.asid pc.toNat) with
    | some r => (s, r)
    | none =>
      match s.reach w pc.toNat .fetch 3 with
      | (s, .error e) => (s, .error (e, pc))
      | (s, .ok (key, va)) =>
        match s.icLine c key, s.slice key with
        | some r, _ => (s, r)
        | none, none => (s, .error (cXlate, pc))
        | none, some sl =>
          let bad := s.viewBad key sl
          if bad != 0 then (s, .error (cUncorrectable, wordAddr (va / 64 * 64 + 8 * firstOne bad)))
          else
            let l := s.view key sl
            (s.updCore c (fun k => k.icPut key l), .ok l)

/-! Effects at retirement. -/

/-- Pushes to queue register `q` whose places are reserved and not yet filled (R160). -/
def Core.pushing (k : Core) (q : Nat) : Nat := (k.retiring.filter (fun r => match r.act with
  | .push p _ => p == q
  | _ => false)).length

/-! Fault records. -/

/-- The internal code in `role` of an internal word (R73): 1 to 3 the sources, 0 the d field. -/
def codeAt (iw : IWord) (role : Nat) : Nat :=
  match role with
  | 1 => fld iw 68 8
  | 2 => fld iw 60 8
  | 3 => fld iw 52 8
  | _ => fld iw 76 8

/-- Whether a code names a v or k register, whose values go to the wide area (R371). -/
def wideCode (c : Nat) : Bool := decide (0x60 ≤ c) && decide (c < 0x88)

/-- The 128 bytes of a fault record (R369). -/
def FaultInfo.pack (f : FaultInfo) (core ctx : Nat) (chn : Bool) (rpc : Word) (hyp : Nat) : Nat :=
  let op (role : Nat) : Nat := if wideCode (codeAt f.iw role) then 0 else (f.caps.at role).toNat % 2 ^ 64
  f.code + ctx * 2 ^ 8 + f.lvl * 2 ^ 12 + f.post.toNat * 2 ^ 14 + f.skip.toNat * 2 ^ 15 + f.fpx.toNat * 2 ^ 16 +
  f.wide.toNat * 2 ^ 21 + chn.toNat * 2 ^ 22 + f.yret % 2 ^ 16 * 2 ^ 32 + core * 2 ^ 48 + f.pc.toNat * 2 ^ 64 +
  f.iw.toNat * 2 ^ 128 + f.addr.toNat * 2 ^ 256 + op 1 * 2 ^ 320 + op 2 * 2 ^ 384 + op 3 * 2 ^ 448 + op 0 * 2 ^ 512 +
  f.cyc % 2 ^ 64 * 2 ^ 576 + f.aux.toNat * 2 ^ 640 + rpc.toNat * 2 ^ 704 + hyp * 2 ^ 768

/-- Address of record slot `n`, and of its wide area (R369, R371). -/
def recAddr (k : Ctx) (n : Nat) : Nat := k.frec.toNat + 128 * n
def wideAddr (k : Ctx) (n : Nat) : Nat := k.frec.toNat + 6144 + 512 * n

/-- Writes the wide operands of a record (R371); none where every write is done. -/
def writeWide (s : State) (w : Who) (a : Nat) (f : FaultInfo) : List Nat → State × Option Flt
  | [] => (s, none)
  | r :: l =>
    if f.wide && wideCode (codeAt f.iw r) then
      match s.writeAt w (a + 128 * (if r = 0 then 3 else r - 1)) 128 (f.caps.at r).toNat 3 with
      | (s, none) => writeWide s w a f l
      | (s, some e) => (s, some e)
    else writeWide s w a f l

/-- The lines of the record at an address, marked as a record or no longer one (R7, R369): each by the key of its first line. -/
def State.markRec (s : State) (w : Who) (a : Nat) (v : Option RecMeta) : State :=
  match s.redirect w.pid w.asid a .read false with
  | (s, .ok (asid, va)) => { s with recs := mset none s.recs (lineKey w.pid asid va) v }
  | (s, .error _) => s

/-- What is kept beside the record at an address. -/
def State.recMeta (s : State) (w : Who) (a : Nat) : Option RecMeta :=
  match (s.redirect w.pid w.asid a .read false).2 with
  | .ok (asid, va) => mget none s.recs (lineKey w.pid asid va)
  | .error _ => none

/-- Writes one record into its slot; from then on its fields of access HW are hardware's until `rett` takes it (R7). WINDOW where the
record, or the wide area that it needs, passes the end of virtual space (R62, R368). -/
def State.writeRecord (s : State) (f : FaultInfo) (slot : Nat) (chn : Bool) (rpc : Word) : State × Option Flt :=
  let w := s.hwWho s.cur s.cx
  let s := s.markRec w (recAddr s.me slot) none
  if 2 ^ 52 < (if f.wide then wideAddr s.me slot + 512 else recAddr s.me slot + 128) then
    (s, some (cWindow, BitVec.ofNat 64 (recAddr s.me slot)))
  else
  match s.writeAt w (recAddr s.me slot) 128 (f.pack s.cur s.cx chn rpc s.me.hypCur.toNat) 3 with
  | (s, some e) => (s, some e)
  | (s, none) => writeWide (s.markRec w (recAddr s.me slot) (some { pop := f.pop, await := f.await })) w (wideAddr s.me slot) f [1, 2, 3, 0]

/-- Writes a chain, oldest first, the youngest into slot `d` (R372). -/
def writeChain (s : State) (d : Nat) (link : Bool) (rpc : Word) : List FaultInfo → State × Option Flt
  | [] => (s, none)
  | f :: l =>
    match s.writeRecord f (d + l.length) (if l.isEmpty then link else true) rpc with
    | (s, some e) => (s, some e)
    | (s, none) => writeChain s d link rpc l

/-- A record as `rett` reads it (R373, R374): what to replay, chn, rpc, hyp. -/
structure RecIn where
  f : FaultInfo
  chn : Bool
  rpc : Word
  hyp : BitVec 8
  deriving DecidableEq, Repr

/-- Reads the wide operands of a record back. -/
def readWide (s : State) (w : Who) (a : Nat) (iw : IWord) : List Nat → Caps → State × Except Flt Caps
  | [], c => (s, .ok c)
  | r :: l, c =>
    if wideCode (codeAt iw r) then
      match s.readAt w (a + 128 * (if r = 0 then 3 else r - 1)) 128 3 with
      | (s, .error e) => (s, .error e)
      | (s, .ok v) =>
        let v : Vec := BitVec.ofNat 1024 v
        readWide s w a iw l (match r with
          | 1 => { c with o1 := v }
          | 2 => { c with o2 := v }
          | 3 => { c with o3 := v }
          | _ => { c with od := v })
    else readWide s w a iw l c

/-- Reads the record in a slot (R369, R371). -/
def State.readRecord (s : State) (slot : Nat) : State × Except Flt RecIn :=
  let w := s.hwWho s.cur s.cx
  match s.readAt w (recAddr s.me slot) 128 3 with
  | (s, .error e) => (s, .error e)
  | (s, .ok v) =>
    let code := bits v 0 8
    let aux : Word := BitVec.ofNat 64 (bits v 640 64)
    let m : RecMeta := (s.recMeta w (recAddr s.me slot)).getD { await :=
      if code = cUncorrectable then (if fld aux 0 8 = 1 then [bits v 256 8] else []) else if aux = 0 then [] else [fld aux 0 8] }
    let s := s.markRec w (recAddr s.me slot) none
    let iw : IWord := BitVec.ofNat 96 (bits v 128 96)
    let op (lo : Nat) : Vec := BitVec.ofNat 1024 (bits v lo 64)
    let caps : Caps := { o1 := op 320, o2 := op 384, o3 := op 448, od := op 512 }
    let mk (caps : Caps) : RecIn :=
      { f := { code, addr := BitVec.ofNat 64 (bits v 256 64), aux, lvl := bits v 12 2
               pc := BitVec.ofNat 64 (bits v 64 64), iw, skip := bits v 15 1 == 1, wide := bits v 21 1 == 1, caps
               pop := m.pop, await := m.await }
        chn := bits v 22 1 == 1, rpc := BitVec.ofNat 64 (bits v 704 64), hyp := BitVec.ofNat 8 (bits v 768 8) }
    if bits v 21 1 = 0 then (s, .ok (mk caps))
    else
      match readWide s w (wideAddr s.me slot) iw [1, 2, 3, 0] caps with
      | (s, .error e) => (s, .error e)
      | (s, .ok caps) => (s, .ok (mk caps))

/-! Taking an exception. -/

/-- Firmware's answer to a fault that no handler can take (R368): a kind 4 event, and the strand ends as `halt` does. -/
def State.escalate (s : State) (f : FaultInfo) : State :=
  let k := s.me
  let s := s.post (s.pidOf s.cur)
    { kind := 4, status := f.code, flags := ((s.launch k.mt).map (·.flags)).getD 0, lseq := k.mt.seq, addr := f.addr
      data := BitVec.ofNat 64 (s.cur + s.cx * 2 ^ 12) }
  s.updMe (fun k => { k with st := .ready, ending := true, faults := [], rett := none, lvl := 2 })

/-- The selector of the structure that holds a word of memory (R332): the bank of cluster memory, which its address fixes (R138); the
core, for its own buffers and tile state; for a virtual address a way of the core's L1, the bank of its slice, or a row block of
DRAM. Which of these three, and which index, the spec leaves open (log 5). -/
def State.memSel (s : State) (pid : Nat) (addr free : Word) : Word :=
  let a := addr.toNat
  let sel (kind number index : Nat) : Word := BitVec.ofNat 64 (kind + number % 2 ^ 12 * 2 ^ 8 + index % 2 ^ 12 * 2 ^ 20)
  match spaceOf a with
  | .clus n => sel 4 n ((a - clusBase - n * 2 ^ 23) / 64 % 16)
  | .loc c _ => sel 0 c (fld free 0 12)
  | _ =>
    match fld free 12 2 with
    | 0 => sel 2 s.cur (fld free 0 12)
    | 1 => sel 6 (fld free 16 4) (fld free 0 12)
    | _ => sel 3 (s.homeSlice pid a) (fld free 0 12)

/-- Trap entry (R322, R368, R372) with the records `fs`, oldest first: records at `frec`, `kstat`, `hyp.cur`, the vector.
`rpc` is the PC of the first instruction not yet issued. While a `rett` has records left, the new chain stands above
them, or in the slot of the record whose replay faults (`own`), and links to what stands below (R373). -/
def State.enterTrap (s : State) (fs : List FaultInfo) (rpc : Word) (own : Bool) : State :=
  let free := fs.any (fun f => f.code == cUncorrectable && f.aux == 0)
  let fs := fs.map (fun f => if f.code = cUncorrectable ∧ f.aux = 0 then
    { f with aux := s.memSel (s.pidOf s.cur) f.addr (Config.freeWord s.fresh) } else f)
  let s := if free then { s with fresh := s.fresh + 1 } else s
  let k := s.me
  let n := fs.length
  let (d, link, rpc) := match k.rett with
    | none => (k.depth.toNat, false, rpc)
    | some r => if own then (k.depth.toNat, r.chn, r.rpc) else (k.depth.toNat + 1, true, r.rpc)
  match fs with
  | [] => s
  | f :: _ =>
    if k.sat || k.noFrec || decide (16 < d + n) then s.escalate f
    else
      match writeChain s d link rpc fs with
      | (s, some _) => s.escalate f
      | (s, none) =>
        let dev := k.level == 2 || decide (d + n = 16)
        let co := s.myCore
        s.updMe (fun k => { k with
          plvl := k.level
          lvl := if dev then 2 else 1
          ien := false
          depth := BitVec.ofNat 4 (min (d + n) 15)
          sat := decide (d + n = 16)
          hypCur := 0
          pc := if dev then co.dvec else co.kvec
          st := .ready
          busyTill := s.cycles + 8
          rett := none })

/-- The registers read that fail their check bits (R377), by internal code; in a replay only those it reads live. -/
def State.badRegs (s : State) (sh : Shape) : List Nat :=
  ((readsOf sh).filter (fun e => mget false (if isShared e.1 then s.myCore.shbad else s.me.bad) e.1 &&
    (s.replay.map (fun r => r.await.contains e.1)).getD true)).map (·.1)

/-- A fault of the instruction in the issue stage (R143, R369); a popped element stays with it (R36, R160). -/
def State.issueFaultInfo (s : State) (sh : Option Shape) (code : Nat) (addr aux : Word) (fx : Flags) : FaultInfo :=
  { code, addr, aux, id := s.me.nextId, pc := s.pcNow, iw := s.iw, fpx := fx, lvl := s.me.level.toNat, cyc := s.cycles
    wide := (sh.map isWide).getD false
    await := if code = cUncorrectable ∧ fld aux 0 8 = 1 then (sh.map s.badRegs).getD [] else []
    caps := match s.replay.filter (·.pop) with
      | some r => { o1 := r.caps.o1 }
      | none => (sh.map s.capture).getD {}
    pop := (s.replay.map (·.pop)).getD false }

/-- An event taken before the instruction issues (R286, R346, R328): outside a replay, nothing is replayed and the strand
goes on at the same PC; a pending replay keeps its record. `stopped` are the records of operations that it has stopped (R196). -/
def State.beforeIssue (s : State) (code : Nat) (addr : Word) (stopped : List FaultInfo) : State :=
  let f : FaultInfo := { code, addr, id := s.me.nextId, pc := s.pcNow, lvl := s.me.level.toNat, cyc := s.cycles }
  match s.replay with
  | some r => s.enterTrap (stopped ++ [{ r with code, addr, aux := if r.live then r.aux else 0, cyc := s.cycles }]) s.me.pc true
  | none => s.enterTrap (stopped ++ [f]) s.me.pc false

/-- The core has issued from context `x` (R30, R31). -/
def State.coreSlot (s : State) (c x : Nat) (paced : Bool) : State :=
  s.updCore c (fun k => { k with issuedAt := s.cycles + 1, lastRr := if paced then k.lastRr else x })

/-- The core's issue slot of this ck goes to the current context (R30, R31). -/
def State.mySlot (s : State) : State := s.coreSlot s.cur s.cx s.me.paced.isSome

/-- The instruction in the issue stage does something beyond its context at its retirement (R9). -/
def State.atRetire (s : State) (sh : Shape) (act : RetAct) : State :=
  s.updMyCore (fun k => { k with retiring := k.retiring ++
    [{ due := s.cycles + 8, ctx := s.cx, act, info := s.issueFaultInfo (some sh) 0 0 0 0 }] })

/-- The trap of an instruction in the issue stage, which has taken the core's slot. -/
def State.issueTrap (s : State) (sh : Option Shape) (code : Nat) (addr aux : Word) (fx : Flags) : State :=
  s.mySlot.enterTrap [s.issueFaultInfo sh code addr aux fx] s.succ true

/-- A fault that replays nothing and resumes at the same PC: an instruction that was not fetched (R67). -/
def State.fetchTrap (s : State) (code : Nat) (addr : Word) : State :=
  let f : FaultInfo := { code, addr, id := s.me.nextId, pc := s.me.pc, lvl := s.me.level.toNat, cyc := s.cycles }
  s.mySlot.enterTrap [f] s.me.pc true

/-- Faults in issue order. -/
def insFault (f : FaultInfo) : List FaultInfo → List FaultInfo
  | [] => [f]
  | g :: l => if f.id < g.id then f :: g :: l else g :: insFault f l

/-- A fault is reported to its strand (R36, R144). -/
def State.report (s : State) (c x : Nat) (f : FaultInfo) : State :=
  s.updCtx c x (fun k => { k with faults := insFault { f with cyc := s.cycles } k.faults })

/-- Depth of a strand's stack of records (R321). -/
def Ctx.trapDepth (k : Ctx) : Nat := if k.sat then 16 else k.depth.toNat

/-- Whether a fault is the withdrawal of a wait, not of the access (R39, R328, R346). -/
def FaultInfo.withdrawn (f : FaultInfo) : Bool := f.code == cWaitLimit || f.code == cOverdue || f.code == cIpi

/-- Commands that a strand has pushed and that are not accepted wait for the replay of the earlier accesses that now trap (R159);
an access that was only withdrawn from its wait holds none back (log 56). So does a pushed record become takeable (R251). -/
def State.owing (s : State) (fs : List FaultInfo) : State :=
  let ids := (fs.filter (fun f => !f.withdrawn)).map (·.id)
  let d := s.me.trapDepth
  let hits (core ctx after : Nat) (owe : Option Nat) : Bool :=
    core == s.cur && ctx == s.cx && owe.isNone && ids.any (fun i => decide (i < after))
  let late (e : DqEnt) : Bool := e.owe.isNone && e.after.any (fun a => a.1 == s.cur && a.2.1 == s.cx && ids.contains a.2.2)
  let s := if s.myCore.deque.any late then
      s.updMyCore (fun k => { k with deque := updIf late (fun e => { e with owe := some (s.cur, s.cx, d) }) k.deque }) else s
  let cl := s.cluster (clusterOf s.cur)
  if ids.isEmpty || (cl.cmds.isEmpty && cl.tasks.isEmpty) then s
  else s.updCluster (clusterOf s.cur) (fun c => { c with
    cmds := updIf (fun d => d.st == .accepted && hits d.core d.ctx d.after d.owe) (fun e => { e with owe := some d }) c.cmds
    tasks := updIf (fun d => d.st == .posted && hits d.core d.ctx d.after d.owe) (fun e => { e with owe := some d }) c.tasks })

/-- A replay has issued: what it does comes before the commands (R159) and the records (R251) that wait for it. -/
def State.owed (s : State) : State :=
  let n := s.me.nextId
  let late (e : DqEnt) : Bool := (e.owe.map (fun o => o.1 == s.cur && o.2.1 == s.cx)).getD false
  let s := if s.myCore.deque.any late then
      s.updMyCore (fun k => { k with deque := updIf late (fun e => { e with
        after := (s.me.posted.map (·.id) ++ s.me.outst.map (·.id)).map (fun j => (s.cur, s.cx, j)) }) k.deque }) else s
  let mine (core ctx : Nat) (owe : Option Nat) : Bool := core == s.cur && ctx == s.cx && owe.isSome
  let cl := s.cluster (clusterOf s.cur)
  if cl.cmds.isEmpty && cl.tasks.isEmpty then s
  else s.updCluster (clusterOf s.cur) (fun c => { c with
    cmds := updIf (fun d => mine d.core d.ctx d.owe) (fun d => { d with after := n }) c.cmds
    tasks := updIf (fun d => mine d.core d.ctx d.owe) (fun d => { d with after := n }) c.tasks })

/-- Entry for reported faults (R144, R368, R372, R375), once the younger operations have ended: the oldest, and in one chain with it the
younger detached ones that faulted while it was pending; a younger posted one has a trap of its own. -/
def State.trapEntry (s : State) : State :=
  match s.me.faults with
  | [] => s
  | f :: rest =>
    if s.me.outst.any (fun d => decide (f.id < d.id)) then s.updMe (fun k => { k with st := .waiting (.younger f.id) s.cycles })
    else
      let mine := f :: rest.filter (fun g => !g.post)
      let left := rest.filter (fun g => g.post)
      ((s.updMe (fun k => { k with faults := left })).owing mine).enterTrap mine s.me.pc false

/-! Returning from an exception. -/

/-- The end of `rett` (R373): the level returns, ien is set, and the strand goes on. -/
def Ctx.returned (k : Ctx) (rpc : Word) : Ctx := { k with rett := none, lvl := k.plvl, ien := true, pc := rpc }

/-- Pops records until one has to be replayed, or the chain ends (R373). -/
def State.popRecords (s : State) : Nat → State × Option Flt
  | 0 => (s, none)
  | n + 1 =>
    let top := if s.me.sat then 16 else s.me.depth.toNat
    let slot := top - 1
    match s.readRecord slot with
    | (s, .error e) => (s, some e)
    | (s, .ok r) =>
      let s := s.updMe (fun k => { k with sat := false, depth := BitVec.ofNat 4 slot, hypCur := r.hyp })
      if r.f.skip || r.f.iw == 0 then
        if r.chn then s.popRecords n
        else (s.updMe (fun k => k.returned r.rpc), none)
      else (s.updMe (fun k => { k with rett := some { now := some r.f, chn := r.chn, rpc := r.rpc } }), none)

/-- A replay has retired (R373): the next record of the chain, or the end of it. -/
def State.replayDone (s : State) : State :=
  match s.me.rett with
  | none => s
  | some r =>
    let s := s.owed
    if !r.chn then s.updMe (fun k => k.returned r.rpc)
    else
      let s := s.updMe (fun k => { k with rett := none })
      match s.popRecords 16 with
      | (s, none) => s
      | (s, some (c, a)) => s.fetchTrap c a

/-! What keeps an instruction from issuing. -/

/-- Memory instructions, which an outstanding acquire holds back (R150, R154, R157, R285, R296). -/
def isMemOp (op : Nat) : Bool :=
  [0x10, 0x11, 0x12, 0x18, 0x19, 0x20, 0x2C, 0x2D, 0x32, 0x33, 0x38, 0x3A, 0x3C].contains (op / 16)

/-- The lookahead of an outstanding operation (R34, R73). -/
def DetOp.la (d : DetOp) : Nat := fld d.iw 40 4

/-- The registers read that an instruction waits for, by code (R37): empty, or claimed for its `?` read (R41); in a replay only those it
reads live (R373, R374). -/
def State.emptyRegs (s : State) (sh : Shape) : List Nat :=
  ((readsOf sh).filter (fun e => e.2 != .last && !(s.full s.cur s.cx e.1 && !(e.2 == .sync && s.claimed s.cur s.cx e.1)) &&
    (s.replay.map (fun r => r.await.contains e.1)).getD true)).map (·.1)

/-- What an instruction waits for before it may issue (R34, R37, R41, R296). -/
def State.blocked (s : State) (sh : Shape) : Option WaitWhy :=
  let k := s.me
  match k.outst.find? (fun d => decide (d.la ≤ d.since)) with
  | some d => some (.lookahead d.id)
  | none =>
    if 8 ≤ k.outst.length then some .limit
    else if isMemOp sh.op && k.outst.any (·.acq) then some .acquire
    else
      match (writesOf sh).find? (fun c => k.outst.any (fun d => d.dests.contains c)) with
      | some c => some (.dest c)
      | none =>
        (s.emptyRegs sh).head?.map .reg

/-- Whether a strand has nothing outstanding and nothing posted (R57, R144, R154, R296). -/
def Ctx.drained (k : Ctx) : Bool := k.outst.isEmpty && k.posted.isEmpty

/-- Whether nothing keeps a strand from suspending (R53, R57, R144). -/
def Ctx.settled (k : Ctx) : Bool := k.drained && k.pushed == 0

/-- What a fence or a release counts as loads and as stores among detached operations (R154, R210, R296): loads of every kind,
`ldfe`, atomics and `swwait`; `sdef` and `sload` (R219), `tld`, `spawn` and `nbr`, which read memory; `stfe` and `swarrive`, and
the stores of `tst`, `ssave` (R219) and `nbr`. -/
def isLoadOp (op : Nat) : Bool :=
  op / 16 == 0x10 || op / 16 == 0x11 || op == 0x180 || op == 0x181 || op == 0x191 || op / 16 == 0x20 || op / 16 == 0x33 ||
    op == 0x3C7 || op == 0x320 || op == 0x325 || op == 0x2D0 || op == 0x3C0
def isStoreOp (op : Nat) : Bool := op == 0x182 || op == 0x183 || op == 0x190 || op == 0x3CC || op == 0x2D1 || op == 0x324

/-- Whether an opcode is a tile instruction of the matrix unit (R191): major 0x2C and minors 0 to 3 of 0x2D. R183 calls `tpost`
and `tprog` tile instructions too, R200 and R56 speak of these alone: that a read of `tprog` waits for no outstanding `tpost` or
`tprog` is the model's reading (log 52). -/
def isTile (op : Nat) : Bool := op / 16 == 0x2C || (decide (0x2D0 ≤ op) && decide (op ≤ 0x2D3))

/-- Opcode of an outstanding operation. -/
def DetOp.op (d : DetOp) : Nat := fld d.iw 84 12

/-- Whether the accesses a fence or a release orders are performed (R153, R154, R296). -/
def Ctx.ordered (k : Ctx) (loads stores : Bool) : Bool :=
  !(loads && k.outst.any (fun d => isLoadOp d.op)) && !(stores && (!k.posted.isEmpty || k.outst.any (fun d => isStoreOp d.op)))

/-- Whether a posted operation is performed for a scope within the device: a store to virtual memory whose lines its core owns and has
written, which faults no more (R144, R153). -/
def State.owned (s : State) (c x : Nat) (p : PostOp) : Bool :=
  p.virt && p.st == .pending && p.laneFault.isNone && s.net.all (fun q => match q.body with
    | .mem d y op _ => !(d == c && y == x && op == p.id) || q.own.isSome
    | _ => true)

/-- The same at a scope within the device (R153, R297). -/
def State.orderedNear (s : State) (c x : Nat) (loads stores : Bool) : Bool :=
  let k := s.ctx c x
  !(loads && k.outst.any (fun d => isLoadOp d.op)) &&
    !(stores && (k.posted.any (fun p => !s.owned c x p) || k.outst.any (fun d => isStoreOp d.op)))

/-- Whether no message of a core is on its way (R134). -/
def State.pathClear (s : State) (c : Nat) : Bool := s.net.all (fun p => p.src != 8192 + c)

/-- A context enters Waiting (R29, R39); it takes no issue position. -/
def State.enterWait (s : State) (why : WaitWhy) : State := s.updMe (fun k => { k with st := .waiting why s.cycles })

/-- Clears a source, unless it is plain (R37); `?` claims a shared register (R41). -/
def State.clearMark (s : State) (e : Nat × Mark) : State :=
  if e.2 == .plain then s else s.retireClear s.cur s.cx e.1 (e.2 == .sync)

/-- Clears the marked sources. -/
def State.clearMarks (s : State) (sh : Shape) : State := (readsOf sh).foldl State.clearMark s

/-- One more instruction of the strand issues (R34, R45); `ret` says that it retires at stage 8 (R372). -/
def State.countIssue (s : State) (ret : Bool) : State :=
  let n := ret.toNat
  s.updMe (fun k => { k with
    outst := k.outst.map (fun d => { d with since := d.since + 1, yret := d.yret + n })
    posted := k.posted.map (fun d => { d with yret := d.yret + n })
    faults := k.faults.map (fun d => { d with yret := d.yret + n })
    sinceSpt := k.sinceSpt + 1 })

/-- One more instruction of the strand retires that issued before (R178, R372). -/
def State.countRetire (s : State) : State :=
  s.updMe (fun k => { k with
    outst := k.outst.map (fun d => { d with yret := d.yret + 1 })
    posted := k.posted.map (fun d => { d with yret := d.yret + 1 })
    faults := k.faults.map (fun d => { d with yret := d.yret + 1 }) })

/-- The issue slot is used, and the context is Busy for the eight stages (R30). -/
def State.useSlot (s : State) : State :=
  s.mySlot.updMe (fun k => { k with busyTill := s.cycles + 8, st := .ready })

/-- What an instruction that may issue comes to. -/
inductive Eff where
  /-- A fault found at issue (R143): code, faulting address, aux, flags. -/
  | trap (code : Nat) (addr aux : Word) (fx : Flags)
  /-- A fault found at issue after a pop (R36, R160): the element stands in op1, and `s` is the state after the pop. -/
  | popTrap (v : Word) (code : Nat) (addr : Word) (s : State)
  /-- There is no instruction: what the fetch came to (R67). -/
  | noFetch (code : Nat) (addr : Word)
  /-- The fallback of pre-emption is taken at a safepoint (R346). -/
  | overdue (addr : Word)
  /-- It waits (R29). -/
  | wait (why : WaitWhy)
  /-- It has issued and leaves stage 8 without retiring, until the reservation of `n` entries at the descriptor has replied (R178). -/
  | reserve (desc : Word) (n : Nat)
  /-- It retires, and the strand goes on at its successor. -/
  | done (s : State)
  /-- It retires and transfers control. -/
  | jump (s : State) (target : Word)
  /-- The strand leaves the context, or what comes next is already set. -/
  | left (s : State)
  deriving Repr

/-- A fault with an address and nothing else. -/
def Eff.flt (code : Nat) (addr : Word) : Eff := .trap code addr 0 0

/-- Whether a wait is that of a suspension, which satisfies a pre-emption request itself (R45, R349), or of a trap. -/
def WaitWhy.suspends (w : WaitWhy) : Bool :=
  match w with
  | .drain => true
  | .settle => true
  | .offered => true
  | .atHome => true
  | .younger _ => true
  | _ => false

/-- Whether a pending interrupt is taken (R328). -/
def State.ipiDue (s : State) : Bool := s.me.ipend && s.me.ien && s.cx != 15

/-- Whether the fallback is taken at this issue (R45, R346): its faulting address. -/
def State.overdue (s : State) : Option Word :=
  if s.me.forced then some 1
  else if s.myCore.preempt == some s.cx && decide (2047 ≤ s.me.sinceSpt) then some 0 else none

/-- Levels at which a minor of major 0x3E is legal (R324, R326). -/
def needLevel (sh : Shape) : Nat :=
  if sh.op / 16 = 0x3E then
    if sh.op = 0x3E0 then 0 else if sh.op = 0x3E9 ∨ (sh.op = 0x3E4 ∧ sh.f.o = 1) then 2 else 1
  else 0

/-- Whether a context may run a major (R245): context 15 its list, the others everything but bit streams. A word that is no
instruction takes its own fault everywhere (R65, R78). -/
def legalHere (x op : Nat) : Bool :=
  let m := op / 16
  if x = 15 then
    decide (m < 6) || decide (0xFFE ≤ op) || decide (0x10 ≤ m ∧ m ≤ 0x12) || m == 0x18 || m == 0x19 || m == 0x39 || m == 0x3B || op == 0x3C6
  else m != 0x3B

/-- The effective node of the strand at its core (R277, R286); none: it is an orphan. -/
def State.myEff (s : State) : Option Nat :=
  eff (s.nodesAtCore (s.pidOf s.cur) s.cur) s.me.asid.toNat s.me.hypCur.toNat

/-- What is due before the instruction in the issue stage (R375). -/
inductive Gate where
  | go
  /-- A reported fault is taken. -/
  | faults
  /-- The strand ends as `halt` does (R368). -/
  | ends
  /-- An orphan with orph = 1 exits (R286). -/
  | silent
  /-- An orphan with orph = 0 takes HYP-REFUTED (R286). -/
  | refuted
  /-- The strand departs (R270). -/
  | departs
  | wait (why : WaitWhy)
  deriving DecidableEq, Repr

/-- Whether a Departing strand has only to leave (R270): a handler that it has entered since then, and its replays, come first. -/
def Ctx.leaving (k : Ctx) : Bool := (k.pos.map (fun b => b.departing && decide (k.trapDepth ≤ b.depth) && k.rett.isNone)).getD false

/-- What is due before the instruction (R270, R286, R368, R375). -/
def State.gate (s : State) (sh : Shape) : Gate :=
  let k := s.me
  if k.ending then (if k.drained then .ends else .wait .drain)
  else if !k.faults.isEmpty then .faults
  else if k.leaving then (if k.settled then .departs else .wait .settle)
  else
    match s.myEff with
    | none => if k.orph then (if k.drained then .silent else .wait .drain) else .refuted
    | some _ =>
      match s.blocked sh with
      | some w => .wait w
      | none => .go

end Sys2Proof.Machine
end

