-- ==== Sys2Proof/Machine/Strand.lean ====
section
/-!
DEFINITION. Strands at rest: continuation records and spill blocks (R25, R26, R253), packets (R262), binding (R26, R55,
R250, R342), leaving a context (R27, R55, R57, R217), the deque and the sorus (R249 to R251, R263), position bindings (R267 to
R270).
-/
namespace Sys2Proof.Machine

/-! Continuation records. -/

/-- The g registers a live mask names, in ascending order (R255). -/
def liveRegs (m : Word) : List Nat := (onesFrom (m.toNat / 2) 1 55)

/-- Bits 63:0 of a record or packet (R25, R262). -/
def headBits (pc : Word) (orph spl jn : Bool) (hyp : Nat) : Nat :=
  pc.toNat % 2 ^ 52 + orph.toNat * 2 ^ 52 + spl.toNat * 2 ^ 53 + jn.toNat * 2 ^ 54 + hyp * 2 ^ 56

/-- Selectors and values of carried registers, from bit `ls` and bit `lv` on. -/
def selBits (ls lv : Nat) : List (Nat × Word) → Nat → Nat
  | [], _ => 0
  | (r, v) :: l, j => r * 2 ^ (ls + 6 * j) + v.toNat * 2 ^ (lv + 64 * j) + selBits ls lv l (j + 1)

/-- A continuation record (R25). -/
def mkRecord (pc : Word) (orph spl jn : Bool) (hyp jword jcl : Nat) (regs : List (Nat × Word)) (val5 : Word) : Record :=
  BitVec.ofNat 512 (headBits pc orph spl jn hyp + jword * 2 ^ 64 + jcl * 2 ^ 84 + selBits 92 128 regs 0 +
    (if spl then val5.toNat * 2 ^ 448 else 0))

def recSel (r : Record) (j : Nat) : Nat := fld r (92 + 6 * j) 6
def recVal (r : Record) (j : Nat) : Word := r.extractLsb' (128 + 64 * j) 64
def recPc (r : Record) : Word := (r.extractLsb' 0 52).setWidth 64

/-- The registers a record names in its slots. -/
def recRegs (r : Record) : List (Nat × Word) :=
  (List.range 6).filterMap (fun j => if recSel r j = 0 then none else some (recSel r j, recVal r j))

/-- Whether no number stands twice in a list. -/
def noDup : List Nat → Bool
  | [] => true
  | x :: l => !l.contains x && noDup l

/-- The rejection conditions of R26. -/
def recReject (r : Record) : Bool :=
  let sels := (recRegs r).map (·.1)
  tst r 55 || !pcOk (recPc r) || sels.any (fun j => decide (56 ≤ j)) || !noDup sels || (tst r 53 && recSel r 5 != 0)

/-- What a spill block holds (R253): registers by code. -/
abbrev Spill := List (Nat × Vec)

/-- Byte length of a held register by code. -/
def codeLen (c : Nat) : Nat := if c < 0x60 then 8 else if c < 0x80 then 128 else 16

/-- The codes of a spill block in the order of its values (R253). -/
def spillCodes (h : Nat) : List Nat :=
  onesFrom (bits h 0 64) 0 64 ++ onesFrom (bits h 64 32) 0x40 32 ++ onesFrom (bits h 128 8) 0x80 8 ++ onesFrom (bits h 96 32) 0x60 32

/-- Whether a spill block's header is one that binding rejects (R253). -/
def spillReject (h : Nat) (r : Record) : Bool :=
  bits h 136 376 != 0 || bits h 0 1 != 0 || bits h 56 8 != 0 || bits h 128 1 != 0 ||
    (recRegs r).any (fun e => bits h e.1 1 == 1)

/-- Reads the values of a spill block. -/
def readSpill (s : State) (w : Who) : Nat → List Nat → State × Except Flt Spill
  | _, [] => (s, .ok [])
  | a, c :: l =>
    match s.readAt w a (codeLen c) 3 with
    | (s, .error e) => (s, .error e)
    | (s, .ok v) =>
      match readSpill s w (a + codeLen c) l with
      | (s, .error e) => (s, .error e)
      | (s, .ok r) => (s, .ok ((c, BitVec.ofNat 1024 v) :: r))

/-- The spill block of a record; none: it is rejected (R253), or its memory faults (log 11). -/
def State.spillOf (s : State) (w : Who) (r : Record) : State × Option Spill :=
  if !tst r 53 then (s, some [])
  else
    let a := recVal r 5
    match s.readChecked w a 64 64 3 with
    | (s, .error _) => (s, none)
    | (s, .ok h) =>
      if spillReject h r then (s, none)
      else
        match readSpill s w (a.toNat + 64) (spillCodes h) with
        | (s, .error _) => (s, none)
        | (s, .ok l) => (s, some l)

/-- Writes a spill block: header, then the values in order (R253). -/
def State.writeSpill (s : State) (w : Who) (a : Nat) (codes : List Nat) (val : Nat → Vec) : State × Option Flt :=
  let bit (lo hi : Nat) : Nat := codes.foldl (fun n c => if lo ≤ c ∧ c < hi then n + 2 ^ (c - lo) else n) 0
  let head := bit 0 64 + bit 0x40 0x60 * 2 ^ 64 + bit 0x60 0x80 * 2 ^ 96 + bit 0x80 0x88 * 2 ^ 128
  let order := spillCodes head
  let put (st : State × Option Flt × Nat) (c : Nat) : State × Option Flt × Nat :=
    match st with
    | (s, some e, a) => (s, some e, a)
    | (s, none, a) => match s.writeKeep w a (val c).toNat (codeLen c / 8) with
      | (s, e) => (s, e, a + codeLen c)
  match s.issueFault w (BitVec.ofNat 64 a) (64 + (order.map codeLen).sum) 64 true with
  | some e => (s, some e)
  | none =>
    match s.writeKeep w a head 8 with
    | (s, some e) => (s, some e)
    | (s, none) => let (s, e, _) := order.foldl put (s, none, a + 64); (s, e)

/-! Scope tables. -/

/-- Reads the bitmaps of entries `id` on (R152, R330): captured scopes, or the first fault. -/
def readScopes (s : State) (w : Who) (base : Nat) : Nat → List Nat → State × Except Flt (TMap (Option (BitVec 4096)))
  | _, [] => (s, .ok [])
  | 0, _ => (s, .ok [])
  | n + 1, id :: l =>
    match s.readChecked w (BitVec.ofNat 64 (base + 8 * id)) 8 8 3 with
    | (s, .error e) => (s, .error e)
    | (s, .ok e) =>
      if bits e 1 8 != 0 || bits e 52 12 != 0 then (s, .error (cIllegal, BitVec.ofNat 64 (base + 8 * id)))
      else
        match (if bits e 0 1 = 1 then s.readChecked w (BitVec.ofNat 64 (bits e 9 43 * 512)) 512 512 3 else (s, .ok 0)) with
        | (s, .error e) => (s, .error e)
        | (s, .ok m) =>
          match readScopes s w base n l with
          | (s, .error e) => (s, .error e)
          | (s, .ok t) =>
            let map := joinLanes 1 ((List.range Config.nCores).map (fun c => if s.inPart w.pid c then m / 2 ^ c % 2 else 0))
            (s, .ok (if bits e 0 1 = 1 then mset none t id (some (BitVec.ofNat 4096 map)) else t))

/-- The captured scopes of a table (R152, R330): entries 8 to 31. -/
def State.scopesAt (s : State) (w : Who) (base : Nat) : State × Except Flt (TMap (Option (BitVec 4096))) :=
  if base = 0 then (s, .ok []) else readScopes s w base 24 ((List.range 24).map (· + 8))

/-! Positions. -/

/-- The three coordinates of a packed position (R267). -/
def coords (p : Word) : List Int := [signed (fld p 0 21) 21, signed (fld p 21 21) 21, signed (fld p 42 21) 21]

/-- Whether a position lies in [lo, hi) on each axis (R268). -/
def inCell (c : Cell) (p : Word) : Bool :=
  ((coords c.lo).zip ((coords c.hi).zip (coords p))).all (fun e => decide (e.1 ≤ e.2.2) && decide (e.2.2 < e.2.1))

/-- The core whose cell holds a position (R268, R272). -/
def State.cellCore (s : State) (pid : Nat) (p : Word) : Option Nat :=
  match s.part pid with
  | some pt => match pt.cells with
    | some m => (m.cells.find? (fun c => inCell c p)).map (·.core)
    | none => none
  | none => none

/-- Removes a context's entry from its core's position table (R269). -/
def Core.unpublish (k : Core) (x : Nat) : Core := { k with postab := k.postab.filter (fun e => e.ctx != x) }

/-- How the table of another core names a strand whose entry a split has moved there (R273): by its core and context. -/
def movedCtx (c x : Nat) : Nat := 16 * (c + 1) + x

/-- Removes an entry that a split moved to another core's table. -/
def State.unpublishMoved (s : State) (c x : Nat) : State :=
  (s.cores.map (·.1)).foldl (fun s d =>
    if (s.core d).postab.any (fun e => e.ctx == movedCtx c x) then s.updCore d (fun k => k.unpublish (movedCtx c x)) else s) s

/-! Leaving a context. -/

/-- Whether a stream's context is away from its core and may be recalled (R213). -/
def Strm.away (t : Strm) : Bool := t.st == .floating || t.st == .hopping || t.st == .sinking

/-- The streams of a context are closed (R217): floated ones are recalled first. -/
def Core.dropStreams (k : Core) (x now : Nat) : Core :=
  { k with streams := k.streams.filterMap (fun e => match e.2 with
      | some t =>
        if t.ctx != x then some e
        else match t.st with
          | .taken => none
          | .defined => none
          | .home => none
          | .recalling => some (e.1, some { t with closing := true, ctx := 16 })
          | _ => some (e.1, some { t with asked := some (min (now + 24) (t.asked.getD (now + 24))), closing := true, ctx := 16 })
      | none => none) }

/-- The channel that queue register `q` of context `x` is bound to, by its pushing end; none while it is not live: both ends
name each other with opposite directions (R158). -/
def Core.liveChan (k : Core) (x q : Nat) : Option Nat :=
  match mget none (mget ({} : Ctx) k.ctxs x).chans q with
  | none => none
  | some d =>
    let y := fld d 0 4
    let r := fld d 4 3 + 8
    match mget none (mget ({} : Ctx) k.ctxs y).chans r with
    | none => none
    | some e =>
      if fld e 0 4 = x ∧ fld e 4 3 + 8 = q ∧ tst e 7 != tst d 7 then some (if tst d 7 then 8 * x + (q - 8) else 8 * y + (r - 8))
      else none

/-- A queue register is unbound, and the elements of its channel are discarded (R53, R158). -/
def Core.unbind (k : Core) (x q : Nat) : Core :=
  let k := match k.liveChan x q with
    | some c => { k with chan := mdel k.chan c, badQ := k.badQ.filter (fun e => e.1 != 256 + c) }
    | none => k
  let y : Ctx := mget {} k.ctxs x
  { k with ctxs := mset {} k.ctxs x { y with chans := mset none y.chans q none } }

/-- Every channel binding of a context goes (R53). -/
def Core.dropChans (k : Core) (x : Nat) : Core := ((List.range 8).map (· + 8)).foldl (fun k q => k.unbind x q) k

/-- Commands that a strand pushed and leaves behind (R53); its paused tasks are cancelled (R204). -/
def State.orphanCmds (s : State) (c x : Nat) : State :=
  let s := s.updCluster (clusterOf c) (fun k => { k with
    cmds := updIf (fun d => d.core == c && d.ctx == x) (fun d => { d with gone := true }) k.cmds
    tasks := updIf (fun d => d.core == c && d.ctx == x) (fun d =>
      { d with gone := true, st := if d.st == .paused then .ended else d.st }) k.tasks })
  s.updPart (s.pidOf c) (fun p => { p with colls := p.colls.map (fun e => (e.1, { e.2 with
    rounds := e.2.rounds.map (fun r => { r with
      posters := updIf (fun d => d.core == c && d.ctx == x) (fun d => { d with gone := true }) r.posters }) })) })

/-- Words of the core's input queue are taken or discarded: for each, the command of the context that pushed it is complete (R53). -/
def State.wordsDone (s : State) (c : Nat) (xs : List Nat) : State :=
  xs.foldl (fun s x => if x < 15 then s.updCtx c x (fun k => { k with pushed := k.pushed - 1 }) else s) s

/-- A pre-emption request that names context `x` is met: the entry that it is for binds next (R344, R349). -/
def Core.met (k : Core) (x : Nat) : Core := if k.preempt = some x then { k with preempt := none, preemptMet := true } else k

/-- A context becomes Free at the end of the ck (R27, R29): flags go to the launch, streams close, queues empty, the position binding and the
paced position go, and a pre-emption request for it is met (R53, R55, R217, R269, R341, R345). -/
def State.freeCtx (s : State) (c x : Nat) : State :=
  let s := ((s.flushFlags c x).orphanCmds c x).unpublishMoved c x
  let k := s.ctx c x
  let s := s.updCore c (fun co => { ((((co.met x).dropStreams x s.cycles).dropChans x).unpublish x).dropClears x (fun l => !isShared l.code) with
    qinOf := co.qinOf.map (fun y => if y = x then 16 else y)
    cStop := co.cStop.filter (fun e => e.1 != x)
    badQ := co.badQ.filter (fun e => decide (256 ≤ e.1) || e.1 / 16 != x)
    deque := co.deque.map (fun e => { e with
      after := e.after.filter (fun a => a.1 != c || a.2.1 != x)
      owe := e.owe.filter (fun o => o.1 != c || o.2.1 != x) }) })
  s.setCtx c x { ipend := k.ipend, kipi := k.kipi, busyTill := s.cycles + 1 }

/-- Address of a join counter (R25). -/
def jptrAddr (jword jcl : Nat) : Nat := clusBase + jcl * 2 ^ 23 + 8 * jword

/-- The strand ends (R260): its join counter, if any, gets a decrement; context 15 sends none and its queues empty (R245). -/
def State.exitStrand (s : State) (c x : Nat) (decrement : Bool) : State :=
  let k := s.ctx c x
  let s := if decrement && k.jn && x != 15 then
      s.send (8192 + c) (s.homeOf (s.pidOf c) (jptrAddr k.jword.toNat k.jcl.toNat)) (s.cycles + 40)
        (.decrement c (BitVec.ofNat 64 (jptrAddr k.jword.toNat k.jcl.toNat)) k.mt)
    else s
  let s := if x = 15 then (s.updCore c (fun co => { co with
      qin := [], qinOf := [], qout := [], rdBits := 0, rdLeft := 0, rdCount := 0, wrBits := 0, wrLen := 0, wrCount := 0 })).wordsDone c
        (s.core c).qinOf else s
  s.freeCtx c x

/-! The deque. -/

/-- A deque slot that no entry holds, from `k` on, in ring order (R249). -/
def Core.freeSlot (co : Core) (k : Nat) : Nat :=
  ((List.range 256).map (fun j => (k + j) % 256)).find? (fun n => co.deque.all (fun e => e.slot != n)) |>.getD 0

/-- Pushes a record at the young or the old end (R250, R251, R261). The list runs from the oldest entry to the youngest. -/
def State.pushRec (s : State) (c : Nat) (r : Record) (e : DqEnt) (young : Bool) : State :=
  let co := s.core c
  let near := if young then (co.deque.getLast?.map (fun e => e.slot + 1)).getD 0 else (co.deque.head?.map (fun e => e.slot + 255)).getD 0
  let n := co.freeSlot (near % 256)
  let e := { e with slot := n }
  let s := { s with win := s.win.store (bufAddr c 3 + 64 * n) r.toNat 64 }
  s.updCore c (fun k => { k with deque := if young then k.deque ++ [e] else e :: k.deque, probe := 0 })

/-- The record in a deque slot (R249). -/
def State.dqRecord (s : State) (c slot : Nat) : Record := BitVec.ofNat 512 (s.win.read (bufAddr c 3 + 64 * slot) 64)

/-! Packets. -/

/-- A packet of kinds 0 to 2 (R262). -/
def mkPacket (kind : Nat) (k : Ctx) (pc : Word) (ea : Word) (dst sz : Nat) (regs : List (Nat × Word)) (pos : Option PosBind) :
    Packet96 :=
  BitVec.ofNat 768 (headBits pc k.orph false k.jn k.hypCur.toNat + ea.toNat * 2 ^ 64 + k.jword.toNat * 2 ^ 128 +
    k.jcl.toNat * 2 ^ 148 + dst * 2 ^ 156 + sz * 2 ^ 162 + kind * 2 ^ 164 + selBits 168 256 regs 0 +
    (match pos with
      | some p => p.crd * 2 ^ 216 + 2 ^ 222 + p.tag.toNat * 2 ^ 223
      | none => 0))

def pktKind (p : Packet96) : Nat := fld p 164 2
def pktSel (p : Packet96) (j : Nat) : Nat := fld p (168 + 6 * j) 6

/-- The registers a packet carries. -/
def pktRegs (p : Packet96) : List (Nat × Word) :=
  (List.range 8).filterMap (fun j => if pktSel p j = 0 then none else some (pktSel p j, p.extractLsb' (256 + 64 * j) 64))

/-- The record that a kind 3 packet carries (R262). -/
def pktRecord (p : Packet96) : Record :=
  BitVec.ofNat 512 (fld p 0 64 + fld p 128 28 * 2 ^ 64 + fld p 168 36 * 2 ^ 92 + fld p 256 384 * 2 ^ 128)

/-- The packet in a sorus slot (R249). -/
def sorAddr (c slot : Nat) : Nat := bufAddr c 3 + 0x4000 + 96 * slot
def State.sorPacket (s : State) (c slot : Nat) : Packet96 := BitVec.ofNat 768 (s.win.read (sorAddr c slot) 96)

/-- Depth of the sorus and room in it (R263). -/
def Core.sorFree (co : Core) : Nat :=
  ((List.range 64).find? (fun n => co.sorus.all (fun e => e.slot != n))).getD 0

/-- An arrival becomes Held (R263). -/
def State.holdPkt (s : State) (c : Nat) (p : Packet96) (e : SorEnt) : State :=
  let n := (s.core c).sorFree
  let s := { s with win := s.win.store (sorAddr c n) p.toNat 96 }
  s.updCore c (fun k => { k with sorus := k.sorus ++ [{ e with slot := n }], probe := 0 })

/-! Binding. -/

/-- A context at binding (R26, R55, R342): every register zero and full, Launch registers and privileged state from the
launch, eligible at the next position 0 after the 8 ck of binding (R31, R250). -/
def State.freshCtx (s : State) (c x : Nat) (m : Meta) : Ctx :=
  let old := s.ctx c x
  let pid := s.pidOf c
  let l : BitVec 1024 := ((s.launch m).map (·.rcd)).getD 0
  let fr := s.ctrl pid 384 64
  { st := .ready, busyTill := s.cycles + 8, boundAt := s.cycles + 8, eligAt := ((s.cycles + 8) / 8 + 1) * 8, ipend := old.ipend, kipi := old.kipi
    mt := if m.past.contains c then m else { m with past := c :: m.past }
    lvl := BitVec.ofNat 2 m.lvl, ien := true
    frec := BitVec.ofNat 64 ((fr + 16384 * (16 * c + x)) % 2 ^ 52 / 2048 * 2048), noFrec := fr == 0
    asid := BitVec.ofNat 10 (s.ctrl pid 352 10)
    wlimit := l.extractLsb' 160 32, fpmode := l.extractLsb' 192 7
    outl := keep (l.extractLsb' 384 64) 4 48, scopeTab := keep (l.extractLsb' 448 64) 8 44 }

/-- Loads registers by code. -/
def Ctx.loadRegs (k : Ctx) (regs : List (Nat × Vec)) : Ctx :=
  regs.foldl (fun k e =>
    if e.1 < 0x40 then { k with g := mset 0 k.g e.1 (e.2.setWidth 64) }
    else if e.1 < 0x60 then { k with f := mset 0 k.f e.1 (e.2.setWidth 64) }
    else if e.1 < 0x80 then { k with v := mset 0 k.v e.1 e.2 }
    else { k with k := mset 0 k.k e.1 (e.2.setWidth 128) }) k

def wide1024 (l : List (Nat × Word)) : List (Nat × Vec) := l.map (fun e => (e.1, e.2.setWidth 1024))

/-- Installs the launch's scope table in a context just bound (R330). -/
def State.bindScopes (s : State) (c x : Nat) : State :=
  match s.scopesAt (s.hwWho c x) (s.ctx c x).scopeTab.toNat with
  | (s, .ok t) => s.updCtx c x (fun k => { k with scopes := t })
  | (s, .error _) => s

/-- The internal word of a rejected record's fault (R26). -/
def rejectIw : IWord := mkIw 0xFFF 0xFF 0xFF 0xFF 0xFF 0 0 0

/-- Binds a record that stands at `ra` (R26): a rejected one in the fixed state, with ILLEGAL taken at once. -/
def State.bindRecord (s : State) (c x : Nat) (r : Record) (ra : Nat) (m : Meta) (extra : List (Nat × Word)) : State :=
  let s := (s.hostOwn c m).setCtx c x (s.freshCtx c x m)
  let s := { s with cur := c, cx := x }
  let reject (s : State) : State :=
    (s.bindScopes c x).enterTrap
      [{ code := cIllegal, addr := BitVec.ofNat 64 ra, pc := recPc r, iw := rejectIw, skip := true, lvl := m.lvl, cyc := s.cycles }]
      (recPc r) false
  if recReject r then reject s
  else
    match s.spillOf { s.hwWho c x with user := m.lvl == 0 } r with
    | (s, none) => reject s
    | (s, some sp) =>
      (s.updCtx c x (fun k => { (k.loadRegs (wide1024 (recRegs r ++ extra) ++ sp)) with
        pc := recPc r, orph := tst r 52, jn := tst r 54, hypCur := r.extractLsb' 56 8
        jword := r.extractLsb' 64 20, jcl := r.extractLsb' 84 8 })).bindScopes c x

/-- Binds a packet of kinds 0 to 2 (R263): its registers restored, its load sent, its position published or forwarded
(R269, R270). -/
def State.bindPacket (s : State) (c x : Nat) (p : Packet96) (m : Meta) (ldm : Option FaultInfo) : State :=
  let regs := pktRegs p
  let pb := tst p 222
  let crd := fld p 216 6
  let val := ((regs.find? (fun e => e.1 == crd)).map (·.2)).getD 0
  let here := s.cellCore (s.pidOf c) val == some c
  let pos : Option PosBind := if pb then some
    { crd, tag := p.extractLsb' 223 32, live := BitVec.ofNat 64 ((regs.filter (fun e => e.1 != crd)).foldl (fun n e => n + 2 ^ e.1) 0)
      departing := !here } else none
  let s := (s.hostOwn c m).setCtx c x { ((s.freshCtx c x m).loadRegs (wide1024 regs)) with
    pc := (p.extractLsb' 0 52).setWidth 64, orph := tst p 52, jn := tst p 54, hypCur := p.extractLsb' 56 8
    jword := p.extractLsb' 128 20, jcl := p.extractLsb' 148 8, pos }
  let s := s.bindScopes c x
  let s := if pb && here then s.updCore c (fun k => { k with postab := k.postab ++ [{ tag := p.extractLsb' 223 32, pos := val, ctx := x }] }) else s
  if pktKind p != 0 then s
  else
    let dst := fld p 156 6
    let info : FaultInfo := ldm.getD { code := 0 }
    let ea : Word := p.extractLsb' 64 64
    let n := 2 ^ fld p 162 2
    let s := s.updCtx c x (fun k => { k with
      nextId := k.nextId + 1
      outst := [{ id := k.nextId, i := ofIw info.iw, iw := info.iw, pc := info.pc, issuedAt := s.cycles, caps := info.caps
                  asid := k.asid.toNat, lvl := k.lvl.toNat, node := k.hypCur.toNat
                  dests := if dst = 0 then [] else [dst], left := 1 }] })
    let s := s.setFull c x dst false
    let k := s.ctx c x
    s.send (8192 + c) (8192 + c) (s.cycles + 20)
      (.mem c x (k.nextId - 1) { kind := .load, ea, n, pid := s.pidOf c, asid := k.asid.toNat, user := k.lvl == 0, node := k.hypCur.toNat })

end Sys2Proof.Machine
end

