-- ==== Sys2Proof/Machine/Issue.lean ====
section
/-!
DEFINITION. The issue of one instruction (R30, R34, R37, R375): what is due before it, its effect, and its retirement;
detached and posted operations and their requests (R33, R35, R134, R144).
-/
namespace Sys2Proof.Machine

/-! Operations that leave the pipeline. -/

/-- A detached operation leaves the pipeline (R33, R35): its destinations become empty. -/
def State.detach (s : State) (i : Instr) (sh : Shape) (f : DetOp → DetOp) : State :=
  let k := s.me
  let d : DetOp := f
    { id := k.nextId, i, iw := s.iw, pc := s.pcNow, issuedAt := s.cycles, caps := s.capture sh, asid := k.asid.toNat
      lvl := k.level.toNat, node := k.hypCur.toNat, dests := writesOf sh }
  let s := d.dests.foldl (fun s c => s.setFull s.cur s.cx c false) s
  s.updMe (fun k => { k with nextId := k.nextId + 1, outst := k.outst ++ [d] })

/-- A posted operation leaves the pipeline (R144); `virt`: a plain store to virtual memory (R153). -/
def State.postOp (s : State) (i : Instr) (sh : Shape) (left : Nat) (virt : Bool) : State :=
  let k := s.me
  let d : PostOp :=
    { id := k.nextId, i, iw := s.iw, pc := s.pcNow, caps := s.capture sh, asid := k.asid.toNat, lvl := k.level.toNat
      node := k.hypCur.toNat, left, virt }
  s.updMe (fun k => { k with nextId := k.nextId + 1, posted := if left = 0 then k.posted else k.posted ++ [d] })

/-- A detached operation faults (R36): it leaves the list, its destinations stay empty, and the fault is reported; a claim that it
still holds is released (R41). -/
def State.failOp (s : State) (c x : Nat) (d : DetOp) (code : Nat) (addr aux : Word) (fx : Flags) : State :=
  ((s.updCtx c x (fun k => { k with outst := k.outst.filter (fun e => e.id != d.id) })).updCore c
    (fun k => k.dropClears x (fun l => l.claim && l.op == d.id))).report c x
    { code, addr, aux, id := d.id, pc := d.pc, iw := d.iw, fpx := fx, wide := ((d.i.shape (fieldsOf d.iw)).map isWide).getD false
      caps := d.caps, lvl := d.lvl, yret := d.yret }

/-- A bound strand becomes Departing (R270). -/
def Ctx.goAway (k : Ctx) : Ctx := { k with
  pos := k.pos.map (fun b => { b with departing := true, moved := false, depth := if b.departing then b.depth else k.trapDepth }) }

/-- An instruction of a strand retires whose position a split has moved (R273). -/
def Ctx.splitAway (k : Ctx) : Ctx := if (k.pos.map (·.moved)).getD false then k.goAway else k

/-- A detached operation completes and retires (R33): its destinations are filled, its flags gathered (R98), and older
operations have one more younger instruction retired (R372). -/
def State.endDet (s : State) (c x : Nat) (d : DetOp) (vals : List (Nat × Vec)) (fl : Flags) : State :=
  let s := s.updCtx c x (fun k => { k.splitAway with
    outst := (k.outst.filter (fun e => e.id != d.id)).map (fun e => if e.id < d.id then { e with yret := e.yret + 1 } else e)
    posted := k.posted.map (fun e => if e.id < d.id then { e with yret := e.yret + 1 } else e)
    faults := k.faults.map (fun e => if e.id < d.id then { e with yret := e.yret + 1 } else e) })
  (vals.foldl (fun s v => s.fill c x v.1 v.2) s).addFlags c x fl

/-- A detached operation that writes `vals` ends; a write of a bound strand's coordinate is judged then (R270): one in no cell
is refused, one in another cell makes the strand depart. -/
def State.endPos (s : State) (c x : Nat) (d : DetOp) (vals : List (Nat × Vec)) (fl : Flags) : State :=
  let go := s.endDet c x d vals fl
  match (s.ctx c x).pos with
  | none => go
  | some b =>
    match vals.find? (fun e => e.1 == b.crd) with
    | none => go
    | some e =>
      let v : Word := e.2.setWidth 64
      match s.cellCore (s.pidOf c) v with
      | none => s.failOp c x d cWindow v 0 0
      | some k =>
        if k = c then go
        else (go.updCtx c x Ctx.goAway).updCore c (fun k => k.unpublish x)

/-! Tile instructions that stop (R194, R196), tasks that a fallback reaches (R348). -/

/-- The footprint of an operation in its core's C buffer (R183). -/
def DetOp.foot (d : DetOp) : Nat × Nat := footprint (d.caps.od.setWidth 64) (tileSc d.op (fld d.iw 0 4))

/-- Accesses of the strand that are held on a footprint, by operation (R192, R194). -/
def State.heldOps (s : State) (c x : Nat) (foot : Nat × Nat) : List Nat :=
  s.net.filterMap (fun p => match p.body with
    | .mem core ctx op r =>
      let a := r.ea.toNat
      if core = c ∧ ctx = x ∧ bufAddr c 2 + foot.1 < a + r.n ∧ a < bufAddr c 2 + foot.2 then some op else none
    | _ => none)

/-- The selector of the register-file bank that holds a register (R332): kind 1, the core; which bank that is, each core fixes
(log 5). A special register has 0x1000 + its number for a code. -/
def regSel (c x code : Nat) : Word := BitVec.ofNat 64 (1 + c * 2 ^ 8 + Config.registerBank c x code % 2 ^ 12 * 2 ^ 20)

/-- A tile operation stops before unit `row` (R194): `tprog`, the flags of what it wrote, its fault; every younger tile instruction
of the strand, and what is held up by any of them, is withdrawn, to be replayed after it. -/
def State.stopTile (s : State) (c x : Nat) (d : DetOp) (row : Nat) (e : Flt) : State :=
  let addr : Word := if e.1 = cOutlier ∨ e.1 = cIllegal ∨ e.1 = cOverdue then e.2 else e.2 &&& ~~~63
  let s := s.updCtx c x (fun k => { k with
    tprog := BitVec.ofNat 17 (row % 2 ^ 16 + 2 ^ 16), fpflags := k.fpflags ||| d.flags, tileFlags := k.tileFlags ||| d.flags })
  let aux := if e.1 = cUncorrectable ∧ (s.ctx c x).badTile.getLsbD 0 then regSel c x 0x1006 else 0
  let young := (s.ctx c x).outst.filter (fun o => decide (d.id < o.id) && (isTile o.op || o.op == 0x2D5))
  let feet := d.foot :: (young.filter (fun o => isTile o.op)).map (·.foot)
  let held := feet.flatMap (s.heldOps c x)
  let s := s.updCore c (fun k => { k with
    mtx := k.mtx.filter (fun e => e.1 != x), cStop := k.cStop.filter (fun e => e.1 != x) ++ feet.map (fun f => (x, f.1, f.2)) })
  let s := s.failOp c x d e.1 addr aux 0
  let s := { s with net := s.net.filter (fun p => match p.body with
    | .mem core ctx op _ => !(core == c && ctx == x && held.contains op)
    | _ => true) }
  let s := ((s.ctx c x).outst.filter (fun o => young.any (fun y => y.id == o.id) || held.contains o.id)).foldl
    (fun s o => s.failOp c x o e.1 addr aux 0) s
  s.updCtx c x (fun k => { k with
    posted := updIf (fun p => held.contains p.id) (fun p => { p with st := .fault e.1 addr aux 0, left := 0 }) k.posted })

/-- The fallback stops a running tile instruction of the current strand at its row-block boundary (R196): the records of what then
has to be replayed. -/
def State.stopRunning (s : State) (a : Word) : State × List FaultInfo :=
  match s.me.outst.find? (fun d => isTile d.op && d.started) with
  | none => (s, [])
  | some d =>
    let old := s.me.faults.map (·.id)
    let t := s.stopTile s.cur s.cx d d.prog (cOverdue, a)
    (t.updMe (fun k => { k with faults := k.faults.filter (fun f => old.contains f.id) }),
      t.me.faults.filter (fun f => !old.contains f.id))

/-- A fallback reaches a core: each task with a sub-tile there is to pause (R348). -/
def State.fallbackAt (s : State) (c : Nat) : State :=
  let hit (t : TileTask) : Bool := t.st == .running && t.subs.any (fun b => b.core == c)
  if (s.cluster (clusterOf c)).tasks.any hit then
    s.updCluster (clusterOf c) (fun k => { k with tasks := updIf hit (fun t => { t with fb := c :: t.fb }) k.tasks })
  else s

/-! Streams and the alias filter (R208, R216). -/

def Strm.cnt0 (t : Strm) : Nat := fld t.desc 96 32
/-- Elements of the stream. -/
def Strm.total (t : Strm) : Nat := t.cnt0 * fld t.desc 160 32
/-- Address of element `e` (R208). -/
def Strm.addr (t : Strm) (e : Nat) : Word :=
  wadd (t.desc.extractLsb' 0 64) ((e / t.cnt0 : Nat) * signed (fld t.desc 128 32) 32 + (e % t.cnt0 : Nat) * signed (fld t.desc 64 32) 32)
/-- The next element to read. -/
def Strm.next (t : Strm) : Nat := t.pos + t.vals.length
/-- Whether a stream is open (R213). -/
def Strm.isOpen (t : Strm) : Bool := t.st != .taken && t.st != .defined
/-- A recall that reaches the context at `when`, where that is away from its core: it is acted on once the context is Floating
(R213, R214). -/
def Strm.recall (t : Strm) (when : Nat) : Strm := if t.away then { t with asked := some (min when (t.asked.getD when)) } else t

/-- The consume positions of the core's open streams, in program order (R216). -/
def State.snapshot (s : State) : List (Nat × Nat) :=
  s.myCore.streams.filterMap (fun e => match e.2 with
    | some t => if t.isOpen then some (t.gen, t.pIss) else none
    | none => none)

/-- Whether element `e` of a stream lies on a line that `hit` names (R216, R357). -/
def State.elemHit (s : State) (t : Strm) (hit : Nat → Bool) (e : Nat) : Bool := hit (s.lineLoc t.pid t.asid (t.addr e).toNat)

/-- A write of core `c` whose lines `hit` names passes the filter (R216 case a): streams that have read such an element ahead
roll back to their consume position and are recalled. -/
def State.aliasRollAt (s : State) (c : Nat) (hit : Nat → Bool) : State :=
  let back (t : Strm) : Strm :=
    if t.isOpen && (List.range (t.next - t.pIss)).any (fun j => s.elemHit t hit (t.pIss + j)) then
      { t with vals := t.vals.take (t.pIss - t.pos), flt := none, seen := false, rolled := t.away }.recall (s.cycles + 24)
    else t
  s.updCore c (fun k => { k with streams := k.streams.map (fun (e : Nat × Option Strm) => (e.1, e.2.map back)) })
def State.aliasRoll (s : State) (hit : Nat → Bool) : State := s.aliasRollAt s.cur hit

/-- Writes that pass the filter (R216). -/
def ReqKind.writes (k : ReqKind) : Bool :=
  match k with
  | .store => true
  | .stfeWait => true
  | .stfeFail => true
  | .amo _ _ _ => true
  | .disc => true
  | .swarrive => true
  | _ => false

/-- Whether a request writes a line; it lies within one. -/
def State.hits (s : State) (r : MemReq) (line : Nat) : Bool := r.kind.writes && line == s.lineLoc r.pid r.asid r.ea.toNat

/-- Case (c): whether a write of core `c` with snapshot `snap` is held, since a stream has yet to read an element it hits that lies
before the stream's consume position at the write's issue (R216). -/
def State.heldBy (s : State) (c : Nat) (snap : List (Nat × Nat)) (hit : Nat → Bool) : Bool :=
  (s.core c).streams.any (fun e => match e.2 with
    | some t => t.isOpen && (match snap.find? (fun p => p.1 == t.gen) with
      | some p => (List.range (p.2 - t.next)).any (fun j => s.elemHit t hit (t.next + j))
      | none => false)
    | none => false)

/-- A request of the strand (R134, R278). -/
def State.reqOf (s : State) (kind : ReqKind) (ea : Word) (n : Nat) : MemReq :=
  let k := s.me
  { kind, ea, n, pid := s.pidOf s.cur, asid := k.asid.toNat, user := k.level == 0, node := k.hypCur.toNat }

/-- Sends a request of operation `op`, issued at the consume positions `snap` (R216), to its home, which it reaches when its unloaded
figure says (R134, R144, R312); a posted operation is performed after its retirement (R144). -/
def State.sendReqAt (s : State) (snap : List (Nat × Nat)) (op : Nat) (r : MemReq) (extra : Nat) : State :=
  let w := s.myWho .strand
  let a := r.ea.toNat
  let s := if r.kind.writes then s.aliasRoll (s.hits r) else s
  s.send (8192 + s.cur) (s.trueHome w.pid w.asid a) (s.cycles + max (if r.posted then 8 else 0) (s.reachTime w a (s.l1Hit w a && r.node == 0) + extra))
    (.mem s.cur s.cx op { r with snap })

/-- Sends a request of the instruction in the issue stage. -/
def State.sendReq (s : State) (op : Nat) (r : MemReq) (extra : Nat) : State := s.sendReqAt s.snapshot op r extra

/-! Departure. -/

/-- Registers with their values, as a departure carries them (R255). -/
def State.carry (s : State) (rs : List Nat) : List (Nat × Word) := rs.map (fun j => (j, (s.reg s.cur s.cx j).setWidth 64))

/-- Mesh hops and die-edge links between two cores (R266). -/
def travel (a b : Nat) : Nat :=
  let d (x y k : Nat) : Nat := if x / k ≤ y / k then y / k - x / k else x / k - y / k
  let edges := d (gridX a) (gridX b) 16 + d (gridY a) (gridY b) 16
  let steps := d (gridX a) (gridX b) 4 + d (gridY a) (gridY b) 4
  8 * (steps - edges) + 24 * edges

/-- A packet is Offered to a core (R263, R266); the sender waits until it leaves that state. `f` is the departing instruction
as a fault would record it. -/
def State.sendPkt (s : State) (dst : Nat) (p : Packet96) (f : FaultInfo) (held : Option FaultInfo) : State :=
  let m := s.me.mt
  let next := s.succ
  (s.offer dst { src := s.cur, sender := some s.cx, pkt := p, mt := m, since := s.cycles + 32 + travel s.cur dst, held }).updMe
    (fun k => { k with st := .waiting .offered s.cycles, sent := some (f, next) })

def State.bankSel (s : State) (code : Nat) : Word := regSel s.cur s.cx code

/-- A register that is to be carried, and fails its check bits (R377). -/
def State.badCarried (s : State) (rs : List Nat) : Option Nat := rs.find? (fun j => mget false s.me.bad j)

/-- A bound strand departs for the core whose cell holds its position (R269, R270), with its coordinate and at most seven live
registers (R255; more are left behind, log 15); one of them that fails its check is reported first (R377). -/
def State.depart (s : State) : State :=
  match s.me.pos with
  | none => s
  | some b =>
    let v := (s.reg s.cur s.cx b.crd).setWidth 64
    match s.cellCore (s.pidOf s.cur) v with
    | none => s.updMe (fun k => { k with pos := some { b with departing := false } })
    | some c =>
      match s.badCarried (b.crd :: (liveRegs b.live).take 7) with
      | some j => s.enterTrap [{ code := cUncorrectable, addr := BitVec.ofNat 64 j, aux := s.bankSel j, id := s.me.nextId, pc := s.me.pc,
                                 lvl := s.me.level.toNat, cyc := s.cycles }] s.me.pc false
      | none =>
      if c = s.cur then
        ((s.unpublishMoved s.cur s.cx).updMe (fun k => { k with pos := some { b with departing := false } })).updMyCore
          (fun k => { k with postab := k.postab ++ [{ tag := b.tag, pos := v, ctx := s.cx }] })
      else
        let s := (s.updMyCore (fun k => k.unpublish s.cx)).unpublishMoved s.cur s.cx
        (s.sendPkt c (mkPacket 2 s.me s.me.pc 0 0 0 (s.carry ((b.crd :: (liveRegs b.live).take 7).mergeSort)) (some b))
          { code := 0, pc := s.me.pc, lvl := s.me.level.toNat } none).updMe (fun k => { k with sent := k.sent.map (fun e => (e.1, s.me.pc)) })

/-! Retirement. -/

/-- The new coordinate that an instruction of a bound strand writes, when it lies in no cell (R270). -/
def State.posTrap (s t : State) (sh : Shape) : Option Word :=
  match s.me.pos with
  | none => none
  | some b =>
    if sh.det || !(writesOf sh).contains b.crd then none
    else
      let v := (t.reg t.cur t.cx b.crd).setWidth 64
      if (s.cellCore (s.pidOf s.cur) v).isNone then some v else none

/-- An instruction retires: a bound strand whose coordinate has left its host cell departs (R270), and one whose position a split has
moved (R273). -/
def State.posMove (s : State) (sh : Shape) : State :=
  match s.me.pos with
  | none => s
  | some b =>
    let v := (s.reg s.cur s.cx b.crd).setWidth 64
    if sh.det then s
    else if !(writesOf sh).contains b.crd || s.cellCore (s.pidOf s.cur) v == some s.cur then (if b.moved then s.updMe Ctx.goAway else s)
    else (s.updMe Ctx.goAway).updMyCore (fun k => k.unpublish s.cx)

/-- A fault after a pop (R36, R160): the element `v` stays with its record, and nothing else of `t` but the pop stands. -/
def State.popFault (s t : State) (sh : Shape) (v : Word) (code : Nat) (addr : Word) : State :=
  let k := s.me
  (t.updMe (fun j => { j with
    g := k.g, fe := k.fe, bad := k.bad, outst := k.outst, posted := k.posted, faults := k.faults, sinceSpt := k.sinceSpt })).mySlot.enterTrap
    [{ s.issueFaultInfo (some sh) code addr (if code = cUncorrectable then s.bankSel addr.toNat else 0) 0 with caps := { o1 := v.setWidth 1024 }, pop := true }] s.succ true

/-- WINDOW of a coordinate that is not written (R270); what a `qmov` has popped for it stays with the record (R160). -/
def State.posFault (s t : State) (sh : Shape) (v : Word) : State :=
  if sh.op = 0x193 ∧ sh.f.o = 1 then s.popFault t sh v cWindow v else s.issueTrap (some sh) cWindow v 0 0

/-- Retirement (R30, R66, R270, R373): `t` holds the instruction's effect. -/
def State.retire (s t : State) (sh : Shape) (target : Option Word) : State :=
  let t := (t.posMove sh).useSlot
  match t.me.rett with
  | some r => (t.updMe (fun k => { k with rett := some { r with rpc := target.getD r.rpc } })).replayDone
  | none => t.updMe (fun k => { k with pc := target.getD s.succ })

/-! Issue. -/

/-- An inter-processor interrupt is taken (R328). -/
def State.takeIpi (s : State) : State := (s.updMe (fun k => { k with ipend := false })).beforeIssue cIpi 0 []

/-- The fallback of pre-emption is taken (R346); the request counts as met, a running tile instruction stops (R196), and so do the
sub-tiles of tasks on the core (R348). -/
def State.takeOverdue (s : State) (a : Word) : State :=
  let s := (s.updMe (fun k => { k with forced := false, sinceSpt := 0 })).updMyCore (fun k => k.met s.cx)
  let (s, stopped) := s.stopRunning a
  (s.fallbackAt s.cur).beforeIssue cOverdue a stopped

/-- What keeps a special register from being accessed (R54, R127, R321). -/
def State.srFault (s : State) (n : Nat) : Option Nat :=
  let lvl := s.me.level.toNat
  if !srAssigned n then some cIllegal
  else if (0x100 ≤ n ∧ lvl = 0) ∨ (srDevice n ∧ lvl < 2) then some cPriv else none

/-- The number of a special register (R127). -/
def srNum (f : Fields) : Nat := fld f.imm 0 10

/-- Faults of the instruction that its operands do not decide (R127, R245, R324, R375). -/
def State.early (s : State) (sh : Shape) : Option Nat :=
  if !legalHere s.cx sh.op then some cIllegal
  else if s.me.level.toNat < needLevel sh then some cPriv
  else if sh.op = 0x056 then s.srFault (srNum sh.f) else none

/-- The first register read that fails its check bits (R377): its internal code. -/
def State.badReg (s : State) (sh : Shape) : Option Nat := (s.badRegs sh).head?

/-- What the instruction comes to once nothing is due before it. -/
def State.effOf (s : State) (sh : Shape) (body : State → Shape → Eff) : Eff :=
  match s.early sh, s.badReg sh with
  | some c, _ => .flt c 0
  | none, some c => .trap cUncorrectable (BitVec.ofNat 64 c) (s.bankSel c) 0
  | none, none => body ((s.clearMarks sh).countIssue (!sh.det)) sh

/-- The destinations of a detached instruction that faults are empty (R33, R36). -/
def State.emptyDests (s : State) (sh : Shape) : State :=
  if sh.det then (writesOf sh).foldl (fun s c => s.setFull s.cur s.cx c false) s else s

/-- A context that its strand has left in the issue stage is Free once the instruction has left stage 8 (R29, R30). -/
def State.leftAt (s : State) (c x now : Nat) : State :=
  if (s.ctx c x).st = .free then s.updCtx c x (fun k => { k with busyTill := now + 8 }) else s

/-- A `vcvt` with outliers leaves stage 8 unretired and waits for its reservation (R104, R178). -/
def State.sendReserve (s : State) (sh : Shape) (desc : Word) (n : Nat) : State :=
  let w := s.myWho .strand
  let id := s.me.nextId
  let t := (s.countIssue false).mySlot.updMe (fun k => { k with
    nextId := k.nextId + 1, reserved := some { id, iw := s.iw, h := s.iwH, caps := s.capture sh }, busyTill := s.cycles + 8, st := .waiting .reserve s.cycles })
  t.send (8192 + s.cur) (s.trueHome w.pid w.asid desc.toNat) (s.cycles + max 8 (s.figure w desc.toNat false))
    (.mem s.cur s.cx id { s.reqOf .reserve desc 16 with data := BitVec.ofNat 64 n, snap := s.snapshot })

/-- What an instruction of the context that retires in this ck has written late shows at its end (R40, R178). -/
def State.lateNow (s : State) : State :=
  s.updMyCore (fun k => { k with
    late := updIf (fun l => l.ctx == s.cx && l.due == s.cycles + 8) (fun l => { l with due := s.cycles + 1 }) k.late })

/-- The state in which an instruction finds the operands that it read at its issue (R35). -/
def State.asRead (s : State) (caps : Caps) : State := s.updMe (fun k => { k with
  rett := some { now := some { (s.replay.getD { code := 0, lvl := k.lvl.toNat, pc := k.pc }) with caps, await := [] }, chn := false, rpc := s.succ } })

/-- The reservation has replied: the instruction retires or faults, with the operands that it read and no further issue position
(R35, R178). -/
def State.settleLate (s : State) (sh : Shape) (caps : Caps) (body : State → Shape → Eff) : State :=
  let at_ := s.asRead caps
  let trap (c : Nat) (a aux : Word) (fx : Flags) : State := s.enterTrap [at_.issueFaultInfo (some sh) c a aux fx] s.succ true
  match body ((at_.clearMarks sh).countRetire) sh with
  | .trap c a aux fx => trap c a aux fx
  | .done t =>
    let t := t.updMe (fun k => { k with rett := s.me.rett })
    match s.posTrap t sh with
    | some v => trap cWindow v 0 0
    | none =>
      let t := ((t.lateNow).posMove sh).updMe (fun k => { k with st := .ready, busyTill := max k.busyTill (s.cycles + 1) })
      match t.me.rett with
      | some _ => t.replayDone
      | none => t.updMe (fun k => { k with pc := s.succ })
  | _ => s

/-- A context that would wait takes what is due first (R375): the fallback, then an interrupt. -/
def State.waitOr (s : State) (w : WaitWhy) : State :=
  match (if w.suspends then none else s.overdue) with
  | some a => s.mySlot.takeOverdue a
  | none => if s.ipiDue then s.mySlot.takeIpi else s.enterWait w

/-- What an instruction that may issue does to the machine (R36, R45, R346, R375). -/
def State.settle (s : State) (sh : Shape) (e : Eff) : State :=
  match e with
  | .trap c a aux fx => (s.emptyDests sh).issueTrap (some sh) c a aux fx
  | .popTrap v c a t => s.popFault t sh v c a
  | .noFetch c a => s.fetchTrap c a
  | .overdue a => s.mySlot.takeOverdue a
  | .wait w => s.waitOr w
  | .reserve a n =>
    match s.overdue with
    | some b => s.mySlot.takeOverdue b
    | none => if s.ipiDue then s.mySlot.takeIpi else s.sendReserve sh a n
  | .done t =>
    match s.posTrap t sh, s.overdue with
    | some v, _ => s.posFault t sh v
    | none, some a => s.mySlot.takeOverdue a
    | none, none => if s.ipiDue then s.mySlot.takeIpi else s.retire t sh none
  | .jump t pc =>
    match s.posTrap t sh, s.overdue with
    | some v, _ => s.posFault t sh v
    | none, some a => s.mySlot.takeOverdue a
    | none, none => if s.ipiDue then s.mySlot.takeIpi else s.retire t sh (some pc)
  | .left t =>
    match (if sh.op = 0x3E1 then s.overdue else if s.me.forced && sh.op != 0x3C6 && sh.op != 0x3E2 then some 1 else none) with
    | some a => s.mySlot.takeOverdue a
    | none =>
    if s.ipiDue then s.mySlot.takeIpi
    else (t.coreSlot s.cur s.cx s.me.paced.isSome).leftAt s.cur s.cx s.cycles

/-- The issue opportunity of a context (R375). -/
def State.issueStep (s : State) (sh : Shape) (body : State → Shape → Eff) : State :=
  match s.gate sh with
  | .faults => s.trapEntry
  | .ends => s.exitStrand s.cur s.cx false
  | .silent => s.exitStrand s.cur s.cx true
  | .refuted => s.mySlot.beforeIssue cHypRefuted (s.me.hypCur.setWidth 64) []
  | .departs => s.depart
  | .wait w => s.waitOr w
  | .go => s.settle sh (s.effOf sh body)

/-- An instruction row happens: the current context's issue opportunity with this instruction. -/
def issue (i : Instr) (s : State) (body : State → Shape → Eff) : Host.Outcome State Fault Refusal :=
  match i.shape s.flds with
  | none => .next s
  | some sh =>
    match s.me.st with
    | .free => .fault .noStrand
    | .parked _ _ => .next s
    | _ => .next ({ s with iw := sh.iw }.issueStep sh body)

end Sys2Proof.Machine
end

