-- ==== Sys2Proof/Machine/Scalar.lean ====
section
/-!
DEFINITION. The scalar integer and control instructions of majors 0x00 to 0x05 (R118 to R125); `spt` and the special
registers stand in Parallel.lean and Special.lean.
-/
namespace Sys2Proof.Machine

/-- Writes of a retiring instruction, by class (R40). -/
def State.wrG (s : State) (d : BitVec 6) (v : Word) : State := s.retireReg s.cur s.cx d.toNat (v.setWidth 1024)
def State.wrF (s : State) (d : BitVec 6) (v : Word) : State := s.retireReg s.cur s.cx (0x40 + d.toNat) (v.setWidth 1024)
def State.wrV (s : State) (d : BitVec 6) (v : Vec) : State := s.retireReg s.cur s.cx (0x60 + d.toNat) v
def State.wrK (s : State) (d : BitVec 6) (v : KMask) : State := s.retireReg s.cur s.cx (0x80 + d.toNat) (v.setWidth 1024)

/-- An operation of two g sources. -/
def gBin (f : Fields) (op : Word → Word → Word) (s : State) (_ : Shape) : Eff := .done (s.wrG f.d (op (s.gOp 1 f.a) (s.gOp 2 f.b)))

/-- An operation of one g source. -/
def gUn (f : Fields) (op : Word → Word) (s : State) (_ : Shape) : Eff := .done (s.wrG f.d (op (s.gOp 1 f.a)))

/-- The count of a shift: bits 5:0 (R118). -/
def shN (b : Word) : Nat := fld b 0 6

/-- 1 or 0 (R119). -/
def b2w (b : Bool) : Word := if b then 1 else 0

/-- Leading zero bits (R119). -/
def clz64 (a : Word) : Word := BitVec.ofNat 64 (if a = 0 then 64 else 63 - Nat.log2 a.toNat)
/-- Trailing zero bits (R119). -/
def ctz64 (a : Word) : Word := BitVec.ofNat 64 ((onesFrom a.toNat 0 64).headD 64)

/-! Major 0x00 (R118). -/

def execAdd (f : Fields) (s : State) : Host.Outcome State Fault Refusal := issue (.add f) s (gBin f (· + ·))
def execSub (f : Fields) (s : State) : Host.Outcome State Fault Refusal := issue (.sub f) s (gBin f (· - ·))
def execAnd (f : Fields) (s : State) : Host.Outcome State Fault Refusal := issue (.and f) s (gBin f (· &&& ·))
def execOr (f : Fields) (s : State) : Host.Outcome State Fault Refusal := issue (.or f) s (gBin f (· ||| ·))
def execXor (f : Fields) (s : State) : Host.Outcome State Fault Refusal := issue (.xor f) s (gBin f (· ^^^ ·))
def execAndn (f : Fields) (s : State) : Host.Outcome State Fault Refusal := issue (.andn f) s (gBin f (fun a b => a &&& ~~~b))
def execShl (f : Fields) (s : State) : Host.Outcome State Fault Refusal := issue (.shl f) s (gBin f (fun a b => a <<< shN b))
def execShr (f : Fields) (s : State) : Host.Outcome State Fault Refusal := issue (.shr f) s (gBin f (fun a b => a >>> shN b))
def execSar (f : Fields) (s : State) : Host.Outcome State Fault Refusal := issue (.sar f) s (gBin f (fun a b => a.sshiftRight (shN b)))
def execRotl (f : Fields) (s : State) : Host.Outcome State Fault Refusal := issue (.rotl f) s (gBin f (fun a b => a.rotateLeft (shN b)))
def execMul (f : Fields) (s : State) : Host.Outcome State Fault Refusal := issue (.mul f) s (gBin f (· * ·))
def execMinI64 (f : Fields) (s : State) : Host.Outcome State Fault Refusal := issue (.minI64 f) s (gBin f (fun a b => if b.slt a then b else a))
def execMaxI64 (f : Fields) (s : State) : Host.Outcome State Fault Refusal := issue (.maxI64 f) s (gBin f (fun a b => if a.slt b then b else a))
def execMinN64 (f : Fields) (s : State) : Host.Outcome State Fault Refusal := issue (.minN64 f) s (gBin f (fun a b => if b.ult a then b else a))
def execMaxN64 (f : Fields) (s : State) : Host.Outcome State Fault Refusal := issue (.maxN64 f) s (gBin f (fun a b => if a.ult b then b else a))

/-! Major 0x01 (R119). -/

def execClz (f : Fields) (s : State) : Host.Outcome State Fault Refusal := issue (.clz f) s (gUn f clz64)
def execCtz (f : Fields) (s : State) : Host.Outcome State Fault Refusal := issue (.ctz f) s (gUn f ctz64)
def execPopc (f : Fields) (s : State) : Host.Outcome State Fault Refusal := issue (.popc f) s (gUn f (fun a => BitVec.ofNat 64 (popc a.toNat 64)))
def execSextI8 (f : Fields) (s : State) : Host.Outcome State Fault Refusal := issue (.sextI8 f) s (gUn f (fun a => (a.setWidth 8).signExtend 64))
def execSextI16 (f : Fields) (s : State) : Host.Outcome State Fault Refusal := issue (.sextI16 f) s (gUn f (fun a => (a.setWidth 16).signExtend 64))
def execSextI32 (f : Fields) (s : State) : Host.Outcome State Fault Refusal := issue (.sextI32 f) s (gUn f (fun a => (a.setWidth 32).signExtend 64))
def execZextN8 (f : Fields) (s : State) : Host.Outcome State Fault Refusal := issue (.zextN8 f) s (gUn f (fun a => (a.setWidth 8).setWidth 64))
def execZextN16 (f : Fields) (s : State) : Host.Outcome State Fault Refusal := issue (.zextN16 f) s (gUn f (fun a => (a.setWidth 16).setWidth 64))
def execZextN32 (f : Fields) (s : State) : Host.Outcome State Fault Refusal := issue (.zextN32 f) s (gUn f (fun a => (a.setWidth 32).setWidth 64))
def execCmpEq (f : Fields) (s : State) : Host.Outcome State Fault Refusal := issue (.cmpEq f) s (gBin f (fun a b => b2w (a == b)))
def execCmpNe (f : Fields) (s : State) : Host.Outcome State Fault Refusal := issue (.cmpNe f) s (gBin f (fun a b => b2w (a != b)))
def execCmpLt (f : Fields) (s : State) : Host.Outcome State Fault Refusal := issue (.cmpLt f) s (gBin f (fun a b => b2w (a.slt b)))
def execCmpGe (f : Fields) (s : State) : Host.Outcome State Fault Refusal := issue (.cmpGe f) s (gBin f (fun a b => b2w (!a.slt b)))
def execCmpLo (f : Fields) (s : State) : Host.Outcome State Fault Refusal := issue (.cmpLo f) s (gBin f (fun a b => b2w (a.ult b)))
def execCmpHs (f : Fields) (s : State) : Host.Outcome State Fault Refusal := issue (.cmpHs f) s (gBin f (fun a b => b2w (!a.ult b)))

/-! Major 0x02 (R120, R121). -/

/-- Bits 127:64 of an exact product (R120). -/
def mulhS (a b : Word) : Word := BitVec.ofInt 64 (a.toInt * b.toInt / (2 ^ 64 : Nat))
def mulhU (a b : Word) : Word := BitVec.ofNat 64 (a.toNat * b.toNat / 2 ^ 64)

/-- Position and used width of a bit field (R120). -/
def bfP (b : Word) : Nat := fld b 0 6
def bfW (b : Word) : Nat := min (fld b 8 7) (64 - bfP b)

/-- `bfx` (R120). -/
def bfxOf (sx : Bool) (a b : Word) : Word :=
  let w := bfW b
  let v := bits a.toNat (bfP b) w
  if sx then BitVec.ofInt 64 (signed v w) else BitVec.ofNat 64 v

/-- `bfi` (R120). -/
def bfiOf (a b c : Word) : Word := setFld c (bfP b) (bfW b) a.toNat

/-- Quotient and remainder with the corner cases of R121. -/
def divS (a b : Word) : Word := if b = 0 then BitVec.allOnes 64 else BitVec.ofInt 64 (a.toInt.tdiv b.toInt)
def remS (a b : Word) : Word := if b = 0 then a else BitVec.ofInt 64 (a.toInt.tmod b.toInt)
def divU (a b : Word) : Word := if b = 0 then BitVec.allOnes 64 else BitVec.ofNat 64 (a.toNat / b.toNat)
def remU (a b : Word) : Word := if b = 0 then a else BitVec.ofNat 64 (a.toNat % b.toNat)

/-- A detached operation whose result is known when it issues, `n` ck before it completes (R33, R121, R131). Whether it comes to
FPX is judged under the enables of `fpmode` at issue; the spec does not say whether a later write of them counts (log 64). -/
def State.detachVal (s : State) (i : Instr) (sh : Shape) (n : Nat) (code : Nat) (v : Vec) (fl : Flags) : State :=
  s.detach i sh (fun d => { d with
    st := if fpx s.me fl then .fault cFpx 0 0 fl else .done
    vals := [(code, v)], flags := fl, due := s.cycles + n })

/-- A detached integer operation of two g sources, 34 ck (R121). -/
def gDet (i : Instr) (f : Fields) (op : Word → Word → Word) (s : State) (sh : Shape) : Eff :=
  .done (s.detachVal i sh 34 f.d.toNat ((op (s.gOp 1 f.a) (s.gOp 2 f.b)).setWidth 1024) 0)

def execMulhI64 (f : Fields) (s : State) : Host.Outcome State Fault Refusal := issue (.mulhI64 f) s (gBin f mulhS)
def execMulhN64 (f : Fields) (s : State) : Host.Outcome State Fault Refusal := issue (.mulhN64 f) s (gBin f mulhU)
def execDivI64 (f : Fields) (s : State) : Host.Outcome State Fault Refusal := issue (.divI64 f) s (gDet (.divI64 f) f divS)
def execDivN64 (f : Fields) (s : State) : Host.Outcome State Fault Refusal := issue (.divN64 f) s (gDet (.divN64 f) f divU)
def execRemI64 (f : Fields) (s : State) : Host.Outcome State Fault Refusal := issue (.remI64 f) s (gDet (.remI64 f) f remS)
def execRemN64 (f : Fields) (s : State) : Host.Outcome State Fault Refusal := issue (.remN64 f) s (gDet (.remN64 f) f remU)
def execSel (f : Fields) (s : State) : Host.Outcome State Fault Refusal :=
  issue (.sel f) s (fun s _ => .done (s.wrG f.d (if s.gOp 1 f.a = 0 then s.gOp 3 f.c else s.gOp 2 f.b)))
def execBfx (f : Fields) (s : State) : Host.Outcome State Fault Refusal := issue (.bfx f) s (gBin f (bfxOf (f.o == 1)))
def execBfi (f : Fields) (s : State) : Host.Outcome State Fault Refusal :=
  issue (.bfi f) s (fun s _ => .done (s.wrG f.d (bfiOf (s.gOp 1 f.a) (s.gOp 2 f.b) (s.gOp 3 f.c))))

/-! Major 0x03 (R122). -/

/-- The signed immediate as a word. -/
def immS (f : Fields) : Word := f.imm.signExtend 64

def execAddi (f : Fields) (s : State) : Host.Outcome State Fault Refusal := issue (.addi f) s (gUn f (· + immS f))
def execLi (f : Fields) (s : State) : Host.Outcome State Fault Refusal :=
  issue (.li f) s (fun s _ => .done (s.wrG f.d (immS f <<< (16 * f.o.toNat))))
def execLea (f : Fields) (s : State) : Host.Outcome State Fault Refusal :=
  issue (.lea f) s (fun s _ => .done (s.wrG f.d
    (if f.o = 0 then relTarget s.pcNow f.imm else (s.pcNow &&& ~~~63) + immS f)))

/-! Major 0x04 (R123, R124). -/

/-- A branch to a relative target when `c` holds. -/
def branch (f : Fields) (c : State → Bool) (s : State) (_ : Shape) : Eff :=
  if c s then .jump s (relTarget s.pcNow f.imm) else .done s

/-- `bc.cc ga, gd`: compares source a with the read-only d. -/
def bcc (f : Fields) (c : Word → Word → Bool) : State → Shape → Eff := branch f (fun s => c (s.gOp 1 f.a) (s.gOp 0 f.d))

def execBr (f : Fields) (s : State) : Host.Outcome State Fault Refusal := issue (.br f) s (branch f (fun _ => true))
def execCall (f : Fields) (s : State) : Host.Outcome State Fault Refusal :=
  issue (.call f) s (fun s _ => .jump (s.wrG f.d s.succ) (relTarget s.pcNow f.imm))
def execBz (f : Fields) (s : State) : Host.Outcome State Fault Refusal := issue (.bz f) s (branch f (fun s => s.gOp 1 f.a == 0))
def execBnz (f : Fields) (s : State) : Host.Outcome State Fault Refusal := issue (.bnz f) s (branch f (fun s => s.gOp 1 f.a != 0))
def execLoop (f : Fields) (s : State) : Host.Outcome State Fault Refusal :=
  issue (.loop f) s (fun s _ =>
    let v := s.gReg f.d.toNat - 1
    if v = 0 then .done (s.wrG f.d v) else .jump (s.wrG f.d v) (relTarget s.pcNow f.imm))
def execBcEq (f : Fields) (s : State) : Host.Outcome State Fault Refusal := issue (.bcEq f) s (bcc f (· == ·))
def execBcNe (f : Fields) (s : State) : Host.Outcome State Fault Refusal := issue (.bcNe f) s (bcc f (· != ·))
def execBcLt (f : Fields) (s : State) : Host.Outcome State Fault Refusal := issue (.bcLt f) s (bcc f BitVec.slt)
def execBcGe (f : Fields) (s : State) : Host.Outcome State Fault Refusal := issue (.bcGe f) s (bcc f (fun a d => !a.slt d))
def execBcLo (f : Fields) (s : State) : Host.Outcome State Fault Refusal := issue (.bcLo f) s (bcc f BitVec.ult)
def execBcHs (f : Fields) (s : State) : Host.Outcome State Fault Refusal := issue (.bcHs f) s (bcc f (fun a d => !a.ult d))

/-! Major 0x05 (R125). -/

/-- A jump to a register target under the check of R69. -/
def jumpTo (t : Word) (after : State) : Eff := if pcOk t then .jump after t else .flt cAlign t

def execNop (s : State) : Host.Outcome State Fault Refusal := issue .nop s (fun s _ => .done s)
def execRet (s : State) : Host.Outcome State Fault Refusal := issue .ret s (fun s _ => jumpTo (s.gOp 1 1) s)
def execJr (f : Fields) (s : State) : Host.Outcome State Fault Refusal :=
  issue (.jr f) s (fun s _ => jumpTo (s.gOp 1 f.a) (s.wrG f.d s.succ))
def execJt (f : Fields) (s : State) : Host.Outcome State Fault Refusal :=
  issue (.jt f) s (fun s _ =>
    let i := min (s.gOp 1 f.a).toNat (s.gOp 3 f.c).toNat
    jumpTo (wadd (s.gOp 2 f.b) (64 * i)) s)

end Sys2Proof.Machine
end

