-- ==== Sys2Proof/Machine/FloatOps.lean ====
section
/-!
DEFINITION. Scalar floating point, majors 0x1C to 0x1F (R128 to R133).
-/
namespace Sys2Proof.Machine

/-- A floating source in the format of type code `ty`, through the box check (R48, R128). -/
def State.fIn (s : State) (ty role : Nat) (x : BitVec 6) : Nat := unbox ty (s.fOp role x)
def State.fVal (s : State) (ty role : Nat) (x : BitVec 6) : FVal := unpackTy ty (s.fIn ty role x)

/-- A floating result that retires: FPX, or the boxed value and its flags (R98, R99, R128). -/
def fRes (s : State) (ty : Nat) (d : BitVec 6) (r : Nat × Flags) : Eff :=
  if fpx s.me r.2 then .trap cFpx 0 0 r.2 else .done ((s.wrF d (box ty r.1)).addFlags s.cur s.cx r.2)

/-- A g result of a floating instruction, with its flags. -/
def gRes (s : State) (d : BitVec 6) (v : Word) (fl : Flags) : Eff :=
  if fpx s.me fl then .trap cFpx 0 0 fl else .done ((s.wrG d v).addFlags s.cur s.cx fl)

/-- Round(x op y) of two sources (R129). -/
def fBin (ty : Nat) (f : Fields) (op : Mode → FVal → FVal → FVal × Flags) (s : State) (_ : Shape) : Eff :=
  let m := s.modeOf (rmOf f)
  fRes s ty f.d (roundWith (fmtTy ty) m (op m (s.fVal ty 1 f.a) (s.fVal ty 2 f.b)))

/-- The fused minors (R130). -/
def fFma (ty : Nat) (f : Fields) (np nc : Bool) (s : State) (_ : Shape) : Eff :=
  let m := s.modeOf (rmOf f)
  fRes s ty f.d (roundWith (fmtTy ty) m (fmaX m np nc (s.fVal ty 1 f.a) (s.fVal ty 2 f.b) (s.fVal ty 3 f.c)))

/-- A detached floating minor (R130, R131). -/
def fDet (i : Instr) (ty n : Nat) (f : Fields) (op : State → FVal × Flags) (s : State) (sh : Shape) : Eff :=
  let r := roundWith (fmtTy ty) (s.modeOf (rmOf f)) (op s)
  .done (s.detachVal i sh n (0x40 + f.d.toNat) ((box ty r.1).setWidth 1024) r.2)

def subX (m : Mode) (x y : FVal) : FVal × Flags := addX m x y.flip

/-- The sign operations (R129). The sign of a narrower b is read through the box check of R128 and R48; R129's "whatever b holds"
could also be read as the bare bit (log 63). -/
def fSgn (ty : Nat) (f : Fields) (s : State) (_ : Shape) : Eff :=
  fRes s ty f.d (fsgn (fmtTy ty) f.o.toNat (s.fIn ty 1 f.a) (s.fIn ty 2 f.b))

/-- The comparisons of R132: 0 eq, 1 lt, 2 le, 3 un. -/
def fcmpOf (k : Nat) (x y : FVal) : Bool × Flags :=
  let nan := x.isNan || y.isNan
  let sig := x.isSig || y.isSig
  let fl := flagIf (if k = 1 ∨ k = 2 then nan else sig) fNv
  match k with
  | 0 => (cmpX x y == some .eq, fl)
  | 1 => (cmpX x y == some .lt, fl)
  | 2 => (cmpX x y == some .lt || cmpX x y == some .eq, fl)
  | _ => (nan, fl)

def fCmp (ty k : Nat) (f : Fields) (s : State) (_ : Shape) : Eff :=
  let r := fcmpOf k (s.fVal ty 1 f.a) (s.fVal ty 2 f.b)
  gRes s f.d (b2w r.1) r.2

def fClass (ty : Nat) (f : Fields) (s : State) (_ : Shape) : Eff :=
  .done (s.wrG f.d (BitVec.ofNat 64 (classify (fmtTy ty) (s.fIn ty 1 f.a))))

/-- An integer result extended to 64 bits (R133). -/
def extInt (ty : Nat) (x : Int) : Word := if tySigned ty then BitVec.ofInt 64 x else BitVec.ofNat 64 (wrapI x (tyBits ty))

/-- `fcvt` (R133). -/
def fCvt (f : Fields) (s : State) (_ : Shape) : Eff :=
  let dt := fld f.imm 0 4
  let st := fld f.imm 7 4
  let m := s.modeOf (rmOf f)
  let x : FVal := if tyInt st then ofInt (intTy st (s.gOp 1 f.a).toNat) else s.fVal st 1 f.a
  if tyInt dt then
    let r := toInt m (tySigned dt) (tyBits dt) x
    gRes s f.d (extInt dt r.1) r.2
  else fRes s dt f.d (round (fmtTy dt) m x)

/-! Major 0x1C (R129). -/

def execFaddF64 (f : Fields) (s : State) : Host.Outcome State Fault Refusal := issue (.faddF64 f) s (fBin 8 f addX)
def execFsubF64 (f : Fields) (s : State) : Host.Outcome State Fault Refusal := issue (.fsubF64 f) s (fBin 8 f subX)
def execFmulF64 (f : Fields) (s : State) : Host.Outcome State Fault Refusal := issue (.fmulF64 f) s (fBin 8 f (fun _ => mulX))
def execFminF64 (f : Fields) (s : State) : Host.Outcome State Fault Refusal := issue (.fminF64 f) s (fBin 8 f (fun _ => minMaxX false))
def execFmaxF64 (f : Fields) (s : State) : Host.Outcome State Fault Refusal := issue (.fmaxF64 f) s (fBin 8 f (fun _ => minMaxX true))
def execFaddF32 (f : Fields) (s : State) : Host.Outcome State Fault Refusal := issue (.faddF32 f) s (fBin 9 f addX)
def execFsubF32 (f : Fields) (s : State) : Host.Outcome State Fault Refusal := issue (.fsubF32 f) s (fBin 9 f subX)
def execFmulF32 (f : Fields) (s : State) : Host.Outcome State Fault Refusal := issue (.fmulF32 f) s (fBin 9 f (fun _ => mulX))
def execFminF32 (f : Fields) (s : State) : Host.Outcome State Fault Refusal := issue (.fminF32 f) s (fBin 9 f (fun _ => minMaxX false))
def execFmaxF32 (f : Fields) (s : State) : Host.Outcome State Fault Refusal := issue (.fmaxF32 f) s (fBin 9 f (fun _ => minMaxX true))
def execFsgnF64 (f : Fields) (s : State) : Host.Outcome State Fault Refusal := issue (.fsgnF64 f) s (fSgn 8 f)
def execFsgnF32 (f : Fields) (s : State) : Host.Outcome State Fault Refusal := issue (.fsgnF32 f) s (fSgn 9 f)
def execFmv (f : Fields) (s : State) : Host.Outcome State Fault Refusal :=
  issue (.fmv f) s (fun s _ =>
    let v := if f.o.getLsbD 1 then s.gOp 1 f.a else s.fOp 1 f.a
    .done (if f.o.getLsbD 0 then s.wrG f.d v else s.wrF f.d v))

/-! Major 0x1D (R130, R131). -/

def execFmaF64 (f : Fields) (s : State) : Host.Outcome State Fault Refusal := issue (.fmaF64 f) s (fFma 8 f false false)
def execFmsF64 (f : Fields) (s : State) : Host.Outcome State Fault Refusal := issue (.fmsF64 f) s (fFma 8 f false true)
def execFnmaF64 (f : Fields) (s : State) : Host.Outcome State Fault Refusal := issue (.fnmaF64 f) s (fFma 8 f true false)
def execFmaF32 (f : Fields) (s : State) : Host.Outcome State Fault Refusal := issue (.fmaF32 f) s (fFma 9 f false false)
def execFmsF32 (f : Fields) (s : State) : Host.Outcome State Fault Refusal := issue (.fmsF32 f) s (fFma 9 f false true)
def execFnmaF32 (f : Fields) (s : State) : Host.Outcome State Fault Refusal := issue (.fnmaF32 f) s (fFma 9 f true false)
def execFdivF64 (f : Fields) (s : State) : Host.Outcome State Fault Refusal :=
  issue (.fdivF64 f) s (fDet (.fdivF64 f) 8 26 f (fun s => divX (s.fVal 8 1 f.a) (s.fVal 8 2 f.b)))
def execFsqrtF64 (f : Fields) (s : State) : Host.Outcome State Fault Refusal :=
  issue (.fsqrtF64 f) s (fDet (.fsqrtF64 f) 8 30 f (fun s => sqrtX (s.fVal 8 1 f.a)))
def execFdivF32 (f : Fields) (s : State) : Host.Outcome State Fault Refusal :=
  issue (.fdivF32 f) s (fDet (.fdivF32 f) 9 18 f (fun s => divX (s.fVal 9 1 f.a) (s.fVal 9 2 f.b)))
def execFsqrtF32 (f : Fields) (s : State) : Host.Outcome State Fault Refusal :=
  issue (.fsqrtF32 f) s (fDet (.fsqrtF32 f) 9 20 f (fun s => sqrtX (s.fVal 9 1 f.a)))

/-! Major 0x1E (R132). -/

def execFcmpEqF64 (f : Fields) (s : State) : Host.Outcome State Fault Refusal := issue (.fcmpEqF64 f) s (fCmp 8 0 f)
def execFcmpLtF64 (f : Fields) (s : State) : Host.Outcome State Fault Refusal := issue (.fcmpLtF64 f) s (fCmp 8 1 f)
def execFcmpLeF64 (f : Fields) (s : State) : Host.Outcome State Fault Refusal := issue (.fcmpLeF64 f) s (fCmp 8 2 f)
def execFcmpUnF64 (f : Fields) (s : State) : Host.Outcome State Fault Refusal := issue (.fcmpUnF64 f) s (fCmp 8 3 f)
def execFcmpEqF32 (f : Fields) (s : State) : Host.Outcome State Fault Refusal := issue (.fcmpEqF32 f) s (fCmp 9 0 f)
def execFcmpLtF32 (f : Fields) (s : State) : Host.Outcome State Fault Refusal := issue (.fcmpLtF32 f) s (fCmp 9 1 f)
def execFcmpLeF32 (f : Fields) (s : State) : Host.Outcome State Fault Refusal := issue (.fcmpLeF32 f) s (fCmp 9 2 f)
def execFcmpUnF32 (f : Fields) (s : State) : Host.Outcome State Fault Refusal := issue (.fcmpUnF32 f) s (fCmp 9 3 f)
def execFclassF64 (f : Fields) (s : State) : Host.Outcome State Fault Refusal := issue (.fclassF64 f) s (fClass 8 f)
def execFclassF32 (f : Fields) (s : State) : Host.Outcome State Fault Refusal := issue (.fclassF32 f) s (fClass 9 f)

/-! Major 0x1F (R133). -/

def execFcvt (f : Fields) (s : State) : Host.Outcome State Fault Refusal := issue (.fcvt f) s (fCvt f)

end Sys2Proof.Machine
end

