-- ==== Sys2Proof/Machine/MemOps.lean ====
section
/-!
DEFINITION. Memory instructions: loads, stores, prefetch (R142 to R146), full/empty operations (R147), atomics (R149,
R150), fences and range operations (R154, R155), sync words (R156, R157).
-/
namespace Sys2Proof.Machine

/-- The effective address of R142. -/
def effAddr (core : Nat) (base idx : Word) (imm : BitVec 40) (typed : Bool) : Word :=
  if typed then BitVec.ofNat 64 (bufAddr core (fld imm 14 2) + base.toNat + idx.toNat + fld imm 0 14)
  else base + idx + (imm.setWidth 16).signExtend 64

/-- The effective address of majors 0x10 and 0x18: a, b and the immediate. -/
def State.ea (s : State) (f : Fields) : Word := effAddr s.cur (s.gOp 1 f.a) (s.gOp 2 f.b) f.imm (f.o.getLsbD 1)

/-- The effective address of major 0x19: b is an operand (R142). -/
def State.eaSync (s : State) (f : Fields) : Word := effAddr s.cur (s.gOp 1 f.a) 0 f.imm (f.o.getLsbD 1)

/-- The lease class a c field names (R145). -/
def leaseC (c : BitVec 6) : Nat := if c = 0 then 3 else c.toNat - 1

/-- A detached operation of one request (R33, R134). -/
def State.detachReq (s : State) (i : Instr) (sh : Shape) (r : MemReq) (mode : Nat) (acq : Bool) : State :=
  (s.detach i sh (fun d => { d with left := 1, mode, acq })).sendReq s.me.nextId r 0

/-- A posted operation of one request (R144). -/
def State.postReq (s : State) (i : Instr) (sh : Shape) (r : MemReq) : State :=
  (s.postOp i sh 1 (r.kind == .store && decide (r.ea.toNat < 2 ^ 52))).sendReq s.me.nextId { r with posted := true } 0

/-- A load of `n` bytes (R145). -/
def loadN (i : Instr) (f : Fields) (n : Nat) (s : State) (sh : Shape) : Eff :=
  let ea := s.ea f
  match s.issueFault (s.myWho .strand) ea n n false with
  | some (c, a) => .flt c a
  | none => .done (s.detachReq i sh { s.reqOf .load ea n with lease := leaseC f.c } 0 false)

/-- A store of the low `n` bytes of `v` (R145). -/
def storeN (i : Instr) (f : Fields) (n : Nat) (v : Word) (s : State) (sh : Shape) : Eff :=
  let ea := s.ea f
  match s.issueFault (s.myWho .strand) ea n n true with
  | some (c, a) => .flt c a
  | none =>
    if 32 ≤ s.me.posted.length then .wait .posted
    else .done (s.postReq i sh { s.reqOf .store ea n with data := BitVec.ofNat 64 (v.toNat % 2 ^ (8 * n)), lease := leaseC f.c })

/-- Size of an f access: 4 with o0 (R145). -/
def fSize (f : Fields) : Nat := if f.o.getLsbD 0 then 4 else 8

def execLdB (f : Fields) (s : State) : Host.Outcome State Fault Refusal := issue (.ldB f) s (loadN (.ldB f) f 1)
def execLdH (f : Fields) (s : State) : Host.Outcome State Fault Refusal := issue (.ldH f) s (loadN (.ldH f) f 2)
def execLdW (f : Fields) (s : State) : Host.Outcome State Fault Refusal := issue (.ldW f) s (loadN (.ldW f) f 4)
def execLdD (f : Fields) (s : State) : Host.Outcome State Fault Refusal := issue (.ldD f) s (loadN (.ldD f) f 8)
def execLdF (f : Fields) (s : State) : Host.Outcome State Fault Refusal := issue (.ldF f) s (loadN (.ldF f) f (fSize f))
def execStB (f : Fields) (s : State) : Host.Outcome State Fault Refusal := issue (.stB f) s (fun s => storeN (.stB f) f 1 (s.gOp 0 f.d) s)
def execStH (f : Fields) (s : State) : Host.Outcome State Fault Refusal := issue (.stH f) s (fun s => storeN (.stH f) f 2 (s.gOp 0 f.d) s)
def execStW (f : Fields) (s : State) : Host.Outcome State Fault Refusal := issue (.stW f) s (fun s => storeN (.stW f) f 4 (s.gOp 0 f.d) s)
def execStD (f : Fields) (s : State) : Host.Outcome State Fault Refusal := issue (.stD f) s (fun s => storeN (.stD f) f 8 (s.gOp 0 f.d) s)
def execStF (f : Fields) (s : State) : Host.Outcome State Fault Refusal :=
  issue (.stF f) s (fun s => storeN (.stF f) f (fSize f) (s.fOp 0 f.d) s)

/-- A fill that no operation waits for (R146): it is on its way beside the core's requests and completes when a load of the line
would (R144). -/
def State.sendPf (s : State) (ea : Word) (lease : Nat) : State :=
  let w := s.myWho .strand
  let a := ea.toNat
  if 2 ^ 52 ≤ a then s
  else s.send (2 ^ 15 + s.cur) (s.trueHome w.pid w.asid a) (s.cycles + s.figure w a (s.l1Hit w a))
    (.mem s.cur s.cx 0 { s.reqOf .pf ea 64 with lease, posted := true })

def execPf (f : Fields) (s : State) : Host.Outcome State Fault Refusal :=
  issue (.pf f) s (fun s _ => .done (s.sendPf (s.ea f) (leaseC f.c)))

/-! What a fence or a release waits for (R154, R296, R297). -/

/-- What a fence or release at a scope waits for (R153, R297): at scope 0 nothing; at scope 6 that every access is performed; at the others a
store may be one whose line its core owns and has written. -/
def State.orderWait (s : State) (id : Nat) (loads stores : Bool) : Option WaitWhy :=
  if id = 0 then none
  else if id = 6 then (if s.me.ordered loads stores then none else some (.order loads stores))
  else if s.orderedNear s.cur s.cx loads stores then none else some (.orderNear loads stores)

/-- A fence or release at a scope has been passed. At scope 6 no write of the strand to host memory is left that some observer has yet to
see (R295); at the others no core of the scope can see its stores absent (R153). -/
def State.seenBy (s : State) (id : Nat) : State :=
  if id = 6 then s.hostSeen (s.cur :: s.me.mt.past)
  else if id = 0 || s.net.all (fun p => p.own.isNone) then s
  else
    let mine (p : Pkt) : Bool := match p.body with
      | .mem c x _ _ => c == s.cur && x == s.cx && p.own.isSome
      | _ => false
    { s with net := updIf mine (fun p => { p with own := p.own.map ((id, mget none s.me.scopes id) :: ·) }) s.net }

/-- The issue-time faults of an access that reads and writes (R143, R150, R156). -/
def State.rmwFault (s : State) (ea : Word) (n : Nat) : Option Flt :=
  match s.issueFault (s.myWho .strand) ea n n true with
  | some f => some f
  | none => (s.windowBad ea.toNat n false).map (fun b => (cUncorrectable, b))

/-! Atomics (R149, R150). -/

/-- An atomic of operation `op`; with a scope above 0 it is a release and an acquire. -/
def amoN (i : Instr) (f : Fields) (op : Nat) (data cmp : Word) (s : State) (sh : Shape) : Eff :=
  let ty := if op = 8 then 9 else if op = 9 then 8 else fld f.imm 0 4
  let n := tyBits ty / 8
  let ea := s.gOp 1 f.a
  let sc := fld f.imm 8 5
  match s.rmwFault ea n with
  | some (c, a) => .flt c a
  | none =>
    match s.orderWait sc true true with
    | some w => .wait w
    | none =>
      let m := s.modeOf (rmOf f)
      .done ((s.seenBy sc).detachReq i sh { s.reqOf (.amo op ty m) ea n with data, cmp } m (sc != 0))

/-- An integer atomic with operand b. -/
def amoI (i : Instr) (f : Fields) (op : Nat) (s : State) (sh : Shape) : Eff := amoN i f op (s.gOp 2 f.b) (s.gOp 3 f.c) s sh

/-- A floating atomic: the operand through the box check (R48). -/
def amoFl (i : Instr) (f : Fields) (op : Nat) (s : State) (sh : Shape) : Eff :=
  amoN i f op (BitVec.ofNat 64 (unbox (if op = 8 then 9 else 8) (s.fOp 2 f.b))) 0 s sh

def execAmoAdd (f : Fields) (s : State) : Host.Outcome State Fault Refusal := issue (.amoAdd f) s (amoI (.amoAdd f) f 0)
def execAmoAnd (f : Fields) (s : State) : Host.Outcome State Fault Refusal := issue (.amoAnd f) s (amoI (.amoAnd f) f 1)
def execAmoOr (f : Fields) (s : State) : Host.Outcome State Fault Refusal := issue (.amoOr f) s (amoI (.amoOr f) f 2)
def execAmoXor (f : Fields) (s : State) : Host.Outcome State Fault Refusal := issue (.amoXor f) s (amoI (.amoXor f) f 3)
def execAmoMin (f : Fields) (s : State) : Host.Outcome State Fault Refusal := issue (.amoMin f) s (amoI (.amoMin f) f 4)
def execAmoMax (f : Fields) (s : State) : Host.Outcome State Fault Refusal := issue (.amoMax f) s (amoI (.amoMax f) f 5)
def execAmoSwap (f : Fields) (s : State) : Host.Outcome State Fault Refusal := issue (.amoSwap f) s (amoI (.amoSwap f) f 6)
def execAmoCas (f : Fields) (s : State) : Host.Outcome State Fault Refusal := issue (.amoCas f) s (amoI (.amoCas f) f 7)
def execAmoAddF32 (f : Fields) (s : State) : Host.Outcome State Fault Refusal := issue (.amoAddF32 f) s (amoFl (.amoAddF32 f) f 8)
def execAmoAddF64 (f : Fields) (s : State) : Host.Outcome State Fault Refusal := issue (.amoAddF64 f) s (amoFl (.amoAddF64 f) f 9)

/-! Fences and ranges (R154, R155). -/

def execFence (f : Fields) (s : State) : Host.Outcome State Fault Refusal :=
  issue (.fence f) s (fun s _ =>
    match s.orderWait f.c.toNat (f.o == 0) true with
    | some w => .wait w
    | none => .done (s.seenBy f.c.toNat))

/-- The home slices of the lines of a range, each once (R155, R350): every slice of the partition for a long range. -/
def State.rangeHomes (s : State) (pid a n : Nat) : List Nat :=
  if 0x10000 ≤ n then (s.diesOf pid).flatMap (fun d => (List.range 32).map (fun k => 32 * d + k))
  else ((List.range ((a + n - 1) / 256 - a / 256 + 1)).map (fun j => s.homeSlice pid (256 * (a / 256 + j)))).dedup

/-- Lines that a range overlaps. -/
def rangeLines (a n : Nat) : Nat := if n = 0 then 0 else (a + n - 1) / 64 - a / 64 + 1

/-- Sends the requests of a posted range operation, with their lanes. -/
def State.sendAll (s : State) (op extra : Nat) (rs : List MemReq) : State :=
  rs.foldl (fun s r => s.sendReq op { r with posted := true } extra) s

/-- `wb` and `inv` (R155): nothing on windows and on an empty range. -/
def rangeOp (i : Instr) (f : Fields) (kind : ReqKind) (s : State) (sh : Shape) : Eff :=
  let a := s.gOp 1 f.a
  let n := s.gOp 2 f.b
  if n = 0 then .done s
  else
    match s.windowFault a.toNat n.toNat with
    | some b => .flt cWindow b
    | none =>
      if 2 ^ 52 ≤ a.toNat then .done s
      else if 32 ≤ s.me.posted.length then .wait .posted
      else
        let hs := s.rangeHomes (s.pidOf s.cur) a.toNat n.toNat
        let base := if f.c = 6 ∧ kind = .wb then 160 else 48
        let w := s.myWho .strand
        let rs := hs.map (fun h => { s.reqOf kind a 0 with data := n, cmp := f.c.setWidth 64, lane := h, posted := true })
        let t := s.postOp i sh hs.length false
        .done (rs.foldl (fun t r => t.send (8192 + s.cur) r.lane (s.cycles + rangeLines a.toNat n.toNat - 1 + base)
          (.mem s.cur s.cx s.me.nextId { r with pid := w.pid })) t)

def execWb (f : Fields) (s : State) : Host.Outcome State Fault Refusal := issue (.wb f) s (rangeOp (.wb f) f .wb)
def execInv (f : Fields) (s : State) : Host.Outcome State Fault Refusal := issue (.inv f) s (rangeOp (.inv f) f .inv)

/-- `disc` (R155): one request a line. -/
def discOp (i : Instr) (f : Fields) (s : State) (sh : Shape) : Eff :=
  let a := s.gOp 1 f.a
  let n := s.gOp 2 f.b
  if n = 0 then .done s
  else if fld a 0 6 != 0 || fld n 0 6 != 0 then .flt cAlign a
  else
    match s.issueFault (s.myWho .strand) a n.toNat 64 true with
    | some (c, b) => .flt c b
    | none =>
      if 32 ≤ s.me.posted.length then .wait .posted
      else
        let k := n.toNat / 64
        .done ((s.postOp i sh k false).sendAll s.me.nextId 0
          ((List.range k).map (fun (j : Nat) => { s.reqOf .disc (wadd a (64 * (j : Int))) 64 with lane := j })))

def execDisc (f : Fields) (s : State) : Host.Outcome State Fault Refusal := issue (.disc f) s (discOp (.disc f) f)

/-! Full/empty operations (R147). -/

/-- Issue checks of a full/empty or sync-word access: under a node a window access is PERM (R143, R278). -/
def State.feFault (s : State) (ea : Word) (n : Nat) (write : Bool) : Option Flt :=
  match s.issueFault (s.myWho .strand) ea n n write with
  | some f => some f
  | none => if s.me.hypCur != 0 && decide (2 ^ 52 ≤ ea.toNat) then some (cPerm, ea) else none

def feOp (i : Instr) (f : Fields) (kind : ReqKind) (data : Word) (s : State) (sh : Shape) : Eff :=
  let ea := s.ea f
  match s.feFault ea 8 (kind != .ldfeClr && kind != .ldfeKeep) with
  | some (c, a) => .flt c a
  | none => .done (s.detachReq i sh { s.reqOf kind ea 8 with data } 0 false)

def fePost (i : Instr) (f : Fields) (kind : ReqKind) (s : State) (sh : Shape) : Eff :=
  let ea := s.ea f
  match s.feFault ea 8 true with
  | some (c, a) => .flt c a
  | none => if 32 ≤ s.me.posted.length then .wait .posted else .done (s.postReq i sh (s.reqOf kind ea 8))

def execLdfeClr (f : Fields) (s : State) : Host.Outcome State Fault Refusal := issue (.ldfeClr f) s (feOp (.ldfeClr f) f .ldfeClr 0)
def execLdfeKeep (f : Fields) (s : State) : Host.Outcome State Fault Refusal := issue (.ldfeKeep f) s (feOp (.ldfeKeep f) f .ldfeKeep 0)
def execStfeWait (f : Fields) (s : State) : Host.Outcome State Fault Refusal :=
  issue (.stfeWait f) s (fun s => feOp (.stfeWait f) f .stfeWait (s.gOp 0 f.d) s)
def execStfeFail (f : Fields) (s : State) : Host.Outcome State Fault Refusal :=
  issue (.stfeFail f) s (fun s => feOp (.stfeFail f) f .stfeFail (s.gOp 3 f.c) s)
def execSetfe (f : Fields) (s : State) : Host.Outcome State Fault Refusal := issue (.setfe f) s (fePost (.setfe f) f .setfe)
def execClrfe (f : Fields) (s : State) : Host.Outcome State Fault Refusal := issue (.clrfe f) s (fePost (.clrfe f) f .clrfe)

/-! Sync words (R157). -/

/-- Issue checks of a sync-word access: 16-aligned, in local or cluster memory, under no node (R156, R278). -/
def State.syncFault (s : State) (ea : Word) : Option Flt :=
  match s.rmwFault ea 16 with
  | some f => some f
  | none => if ea.toNat < 2 ^ 52 then some (cPerm, ea) else none

def execSwarrive (f : Fields) (s : State) : Host.Outcome State Fault Refusal :=
  issue (.swarrive f) s (fun s sh =>
    let ea := s.eaSync f
    let n := s.gOp 2 f.b
    if 2 ^ 32 ≤ n.toNat then .flt cIllegal 0
    else
      match s.syncFault ea with
      | some (c, a) => .flt c a
      | none =>
        match s.orderWait f.c.toNat true true with
        | some w => .wait w
        | none => .done ((s.seenBy f.c.toNat).detachReq (.swarrive f) sh { s.reqOf .swarrive ea 16 with data := n } 0 false))
def execSwwait (f : Fields) (s : State) : Host.Outcome State Fault Refusal :=
  issue (.swwait f) s (fun s sh =>
    let ea := s.eaSync f
    match s.syncFault ea with
    | some (c, a) => .flt c a
    | none => .done (s.detachReq (.swwait f) sh { s.reqOf .swwait ea 16 with data := s.gOp 2 f.b } 0 true))

end Sys2Proof.Machine
end

