-- ==== Sys2Proof/Machine/Vec.lean ====
section
/-!
DEFINITION. Vector instructions, majors 0x20 to 0x28 (R162 to R182), and the append of outliers (R102 to R104).
-/
namespace Sys2Proof.Machine

/-! Lanes. -/

/-- The element type of a vector instruction (R162), and its lane count (R163). -/
def vTy (f : Fields) : Nat := fld f.imm 0 4 ^^^ 8
def lanesN (ty : Nat) : Nat := 1024 / tyBits ty

/-- The vector whose lane `i` is `l i` where lane `i` is active, and that of `old` elsewhere (R163). -/
def vecOf (ty : Nat) (old : Vec) (k : KMask) (l : Nat → Nat) : Vec :=
  let w := tyBits ty
  BitVec.ofNat 1024 (joinLanes w ((List.range (lanesN ty)).map (fun i => if k.getLsbD i then l i else lane old w i)))

/-- Active lanes in increasing order. -/
def activeLanes (ty : Nat) (k : KMask) : List Nat := (List.range (lanesN ty)).filter (fun i => k.getLsbD i)

/-- Flags of a list of results (R98). -/
def flagsOf (l : List (Nat × Flags)) : Flags := l.foldl (fun a r => a ||| r.2) 0

/-- The value of the destination before the instruction. -/
def State.vOld (s : State) (d : BitVec 6) : Vec := s.reg s.cur s.cx (0x60 + d.toNat)

/-- The result of a lane-wise instruction: `op` of each active lane (R163, R165). -/
def laneRes (ty : Nat) (f : Fields) (s : State) (op : Nat → Nat × Flags) : Vec × Flags :=
  let k := s.kOp 3 f.c
  let rs := (List.range (lanesN ty)).map (fun i => if k.getLsbD i then op i else (0, 0))
  (vecOf ty (s.vOld f.d) k (fun i => ((nth rs i).map (·.1)).getD 0), flagsOf rs)

/-- A vector result that retires: FPX, or the whole destination and its flags (R99, R165). -/
def vRes (s : State) (f : Fields) (r : Vec × Flags) : Eff :=
  if fpx s.me r.2 then .trap cFpx 0 0 r.2 else .done ((s.wrV f.d r.1).addFlags s.cur s.cx r.2)

/-- Lane-wise operations of one and of two v sources. -/
def vUn (f : Fields) (op : Nat → Mode → Nat → Nat × Flags) (s : State) (_ : Shape) : Eff :=
  let ty := vTy f
  let a := s.vOp 1 f.a
  vRes s f (laneRes ty f s (fun i => op ty (s.modeOf (rmOf f)) (lane a (tyBits ty) i)))

def vBin (f : Fields) (op : Nat → Mode → Nat → Nat → Nat × Flags) (s : State) (_ : Shape) : Eff :=
  let ty := vTy f
  let a := s.vOp 1 f.a
  let b := s.vOp 2 f.b
  vRes s f (laneRes ty f s (fun i => op ty (s.modeOf (rmOf f)) (lane a (tyBits ty) i) (lane b (tyBits ty) i)))

/-- An operation of two elements by integer or floating type (R170). -/
def elem2 (opI : Int → Int → Int) (opF : Mode → FVal → FVal → FVal × Flags) (ty : Nat) (m : Mode) (x y : Nat) : Nat × Flags :=
  if tyInt ty then (wrapI (opI (intTy ty x) (intTy ty y)) (tyBits ty), 0)
  else roundWith (fmtTy ty) m (opF m (unpackTy ty x) (unpackTy ty y))

def addE := elem2 (· + ·) addX
def subE := elem2 (· - ·) subX
def mulE := elem2 (· * ·) (fun _ => mulX)
def minE := elem2 min (fun _ => minMaxX false)
def maxE := elem2 max (fun _ => minMaxX true)

def absE (ty : Nat) (_ : Mode) (x : Nat) : Nat × Flags :=
  if tyInt ty then (wrapI ((intTy ty x).natAbs : Int) (tyBits ty), 0) else fsgn (fmtTy ty) 0 x 0
def negE (ty : Nat) (_ : Mode) (x : Nat) : Nat × Flags :=
  if tyInt ty then (wrapI (-(intTy ty x)) (tyBits ty), 0) else fsgn (fmtTy ty) 1 x x

def execVadd (f : Fields) (s : State) : Host.Outcome State Fault Refusal := issue (.vadd f) s (vBin f addE)
def execVsub (f : Fields) (s : State) : Host.Outcome State Fault Refusal := issue (.vsub f) s (vBin f subE)
def execVmul (f : Fields) (s : State) : Host.Outcome State Fault Refusal := issue (.vmul f) s (vBin f mulE)
def execVmin (f : Fields) (s : State) : Host.Outcome State Fault Refusal := issue (.vmin f) s (vBin f minE)
def execVmax (f : Fields) (s : State) : Host.Outcome State Fault Refusal := issue (.vmax f) s (vBin f maxE)
def execVabs (f : Fields) (s : State) : Host.Outcome State Fault Refusal := issue (.vabs f) s (vUn f absE)
def execVneg (f : Fields) (s : State) : Host.Outcome State Fault Refusal := issue (.vneg f) s (vUn f negE)

/-! Fused and detached arithmetic (R171). -/

/-- a·b ± d (R171). -/
def vFma (f : Fields) (neg : Bool) (s : State) (_ : Shape) : Eff :=
  let ty := vTy f
  let w := tyBits ty
  let a := s.vOp 1 f.a
  let b := s.vOp 2 f.b
  let d := s.vOp 0 f.d
  let m := s.modeOf (rmOf f)
  vRes s f (laneRes ty f s (fun i => roundWith (fmtTy ty) m
    (fmaX m false neg (unpackTy ty (lane a w i)) (unpackTy ty (lane b w i)) (unpackTy ty (lane d w i)))))

/-- Fixed completion figures (R171). -/
def vdivFig (ty : Nat) : Nat := if ty = 8 then 40 else if ty = 9 then 28 else 22
def vsqrtFig (ty : Nat) : Nat := if ty = 8 then 44 else if ty = 9 then 30 else 24

/-- A detached lane-wise operation (R171). -/
def vDet (i : Instr) (f : Fields) (n : Nat) (op : Nat → FVal × Flags) (s : State) (sh : Shape) : Eff :=
  let ty := vTy f
  let r := laneRes ty f s (fun j => roundWith (fmtTy ty) (s.modeOf (rmOf f)) (op j))
  .done (s.detachVal i sh n (0x60 + f.d.toNat) r.1 r.2)

def execVfma (f : Fields) (s : State) : Host.Outcome State Fault Refusal := issue (.vfma f) s (vFma f false)
def execVfms (f : Fields) (s : State) : Host.Outcome State Fault Refusal := issue (.vfms f) s (vFma f true)
def execVdiv (f : Fields) (s : State) : Host.Outcome State Fault Refusal :=
  issue (.vdiv f) s (fun s sh =>
    let ty := vTy f
    let a := s.vOp 1 f.a
    let b := s.vOp 2 f.b
    vDet (.vdiv f) f (vdivFig ty) (fun i => divX (unpackTy ty (lane a (tyBits ty) i)) (unpackTy ty (lane b (tyBits ty) i))) s sh)
def execVsqrt (f : Fields) (s : State) : Host.Outcome State Fault Refusal :=
  issue (.vsqrt f) s (fun s sh =>
    let ty := vTy f
    let a := s.vOp 1 f.a
    vDet (.vsqrt f) f (vsqrtFig ty) (fun i => sqrtX (unpackTy ty (lane a (tyBits ty) i))) s sh)

/-! Logic and shifts (R172). -/

def vLogic (f : Fields) (op : Nat → Nat → Nat → Nat) : State → Shape → Eff :=
  vBin f (fun ty _ x y => (op (tyBits ty) x y % 2 ^ tyBits ty, 0))

def execVand (f : Fields) (s : State) : Host.Outcome State Fault Refusal := issue (.vand f) s (vLogic f (fun _ x y => x &&& y))
def execVor (f : Fields) (s : State) : Host.Outcome State Fault Refusal := issue (.vor f) s (vLogic f (fun _ x y => x ||| y))
def execVxor (f : Fields) (s : State) : Host.Outcome State Fault Refusal := issue (.vxor f) s (vLogic f (fun _ x y => x ^^^ y))
def execVshl (f : Fields) (s : State) : Host.Outcome State Fault Refusal := issue (.vshl f) s (vLogic f (fun w x y => x * 2 ^ (y % w)))
def execVshr (f : Fields) (s : State) : Host.Outcome State Fault Refusal := issue (.vshr f) s (vLogic f (fun w x y => x / 2 ^ (y % w)))
def execVsar (f : Fields) (s : State) : Host.Outcome State Fault Refusal :=
  issue (.vsar f) s (vLogic f (fun w x y => wrapI (signed x w / (2 ^ (y % w) : Nat)) w))

/-! Comparison and selection (R173). -/

/-- One comparison: 0 eq, 1 ne, 2 lt, 3 le, 4 un. -/
def cmpE (cc ty x y : Nat) : Bool × Flags :=
  if tyInt ty then
    let a := intTy ty x
    let b := intTy ty y
    (match cc with
      | 0 => decide (a = b)
      | 1 => decide (a ≠ b)
      | 2 => decide (a < b)
      | _ => decide (a ≤ b), 0)
  else
    let a := unpackTy ty x
    let b := unpackTy ty y
    match cc with
    | 0 => fcmpOf 0 a b
    | 1 => (!(fcmpOf 0 a b).1, (fcmpOf 0 a b).2)
    | 2 => fcmpOf 1 a b
    | 3 => fcmpOf 2 a b
    | _ => fcmpOf 3 a b

/-- A k result with flags. -/
def kRes (s : State) (d : BitVec 6) (v : KMask) (fl : Flags) : Eff :=
  if fpx s.me fl then .trap cFpx 0 0 fl else .done ((s.wrK d v).addFlags s.cur s.cx fl)

def vCmp (f : Fields) (cc : Nat) (s : State) (_ : Shape) : Eff :=
  let ty := vTy f
  let w := tyBits ty
  let a := s.vOp 1 f.a
  let b := s.vOp 2 f.b
  let k := s.kOp 3 f.c
  let rs := (List.range (lanesN ty)).map (fun i =>
    if k.getLsbD i then let r := cmpE cc ty (lane a w i) (lane b w i); (r.1.toNat, r.2) else (0, 0))
  kRes s f.d (BitVec.ofNat 128 (joinLanes 1 (rs.map (·.1)))) (flagsOf rs)

def execVcmpEq (f : Fields) (s : State) : Host.Outcome State Fault Refusal := issue (.vcmpEq f) s (vCmp f 0)
def execVcmpNe (f : Fields) (s : State) : Host.Outcome State Fault Refusal := issue (.vcmpNe f) s (vCmp f 1)
def execVcmpLt (f : Fields) (s : State) : Host.Outcome State Fault Refusal := issue (.vcmpLt f) s (vCmp f 2)
def execVcmpLe (f : Fields) (s : State) : Host.Outcome State Fault Refusal := issue (.vcmpLe f) s (vCmp f 3)
def execVcmpUn (f : Fields) (s : State) : Host.Outcome State Fault Refusal := issue (.vcmpUn f) s (vCmp f 4)
def execVsel (f : Fields) (s : State) : Host.Outcome State Fault Refusal :=
  issue (.vsel f) s (fun s _ =>
    let ty := vTy f
    .done (s.wrV f.d (vecOf ty (s.vOp 2 f.b) (s.kOp 3 f.c) (fun i => lane (s.vOp 1 f.a) (tyBits ty) i))))

/-! Outlier lists (R102 to R104). -/

/-- An outlier: index and unscaled value. -/
abbrev Outl := Nat × FVal

/-- The 16 bytes of an entry (R103). -/
def outlEntry (core ctx : Nat) (o : Outl) : Nat :=
  (round fp64 0 o.2).1 + o.1 % 2 ^ 32 * 2 ^ 64 + core * 2 ^ 96 + ctx * 2 ^ 108

/-- Writes entries in increasing order. -/
def putEntries (s : State) (w : Who) (core ctx : Nat) : Nat → List Outl → State × Option Flt
  | _, [] => (s, none)
  | a, o :: l =>
    match s.writeChecked w (BitVec.ofNat 64 a) 16 16 (outlEntry core ctx o) 3 with
    | (s, some e) => (s, some e)
    | (s, none) => putEntries s w core ctx (a + 16) l

/-- Whether an address lies in host memory, whichever name it has (R104, R143, R357). -/
def State.hostAt (s : State) (w : Who) (a : Nat) : Bool :=
  decide (a < 2 ^ 52) && (let (asid, va) := s.truePlace w.pid w.asid a; s.lineTgt (lineKey w.pid asid va) == 2)

/-- The descriptor of an outlier list, read by one atomic at its home as the node of the append sees it (R104, R280). -/
def State.listRead (s : State) (w : Who) (desc : Word) : State × Except Flt Nat :=
  match s.issueFault w desc 16 16 true with
  | some f => (s, .error f)
  | none =>
    let s := s.afterOwned w desc.toNat
    let t := s.tabAt w desc.toNat
    match s.atHome w desc.toNat .atomic 3 with
    | (s, .error c) => (s, .error (c, desc))
    | (s, .ok h) =>
      if w.node != 0 && s.isHost h then (s, .error (cPerm, desc))
      else match s.hSees w t h ((eff t w.asid w.node).getD 0) 16 with
        | none => (s, .error (cUncorrectable, desc))
        | some d => (s, .ok d)

/-- Appends outliers, all or none (R104): the reservation, the entries and the count, which stands at the descriptor's address
+ 12: the address that a fault of writing it names is the model's choice (log 54). Under a nonzero node a descriptor or a list in
host memory is PERM. -/
def State.append (s : State) (w : Who) (desc : Word) (core ctx : Nat) (os : List Outl) : Except Flt State :=
  if os.isEmpty then .ok s
  else if desc = 0 then .error (cOutlier, 0)
  else
    match s.listRead w desc with
    | (_, .error e) => .error e
    | (s, .ok d) =>
      let cap := bits d 64 32
      let count := bits d 96 32
      let base := bits d 4 48 * 16
      if bits d 0 4 != 0 || bits d 52 12 != 0 then .error (cOutlier, desc)
      else if w.node != 0 && s.hostAt w base then .error (cPerm, BitVec.ofNat 64 base)
      else if cap < count + os.length then .error (cOutlier, desc)
      else
        match putEntries s w core ctx (bits d 4 48 * 16 + 16 * count) os with
        | (_, some e) => .error e
        | (s, none) =>
          match s.writeAt w (desc.toNat + 12) 4 (count + os.length) 3 with
          | (_, some e) => .error e
          | (s, none) => .ok s

/-! Conversion (R174 to R178). -/

/-- A narrow destination type. -/
def narrowTy (ty : Nat) : Narrow := if ty = 12 then .e4m3 else if ty = 13 then .e5m2 else .dy8

/-- The value of a source element. -/
def srcVal (ty x : Nat) : FVal := if tyInt ty then ofInt (intTy ty x) else unpackTy ty x

/-- One element converted without a block scale (R175): none for an outlier. -/
def cvtElem (dt : Nat) (m : Mode) (x : FVal) : Option (Nat × Flags) :=
  if tyInt dt then let r := toInt m (tySigned dt) (tyBits dt) x; some (wrapI r.1 (tyBits dt), r.2)
  else if dt < 12 then some (round (fmtTy dt) m x)
  else narrow (narrowTy dt) m x

/-- One element widened under an E8M0 code (R90, R176). -/
def widenElem (dt code : Nat) (m : Mode) (x : FVal) : Nat × Flags :=
  if code = 0xFF then ((fmtTy dt).canon, 0)
  else
    match x with
    | .fin n c e => round (fmtTy dt) m (.fin n c (e + code - 127))
    | x => round (fmtTy dt) m x

/-- The result of a conversion: elements by number (none: outlier), scale codes, flags, clamped blocks. -/
structure CvtOut where
  els : List (Nat × Option Nat)
  codes : List Nat := []
  fl : Flags := 0
  clamps : Nat := 0
  deriving Repr

/-- A block-scaled narrowing of the active elements `xs` in `nb` blocks of `bs` (R101, R176). -/
def cvtBlocks (D : Narrow) (m : Mode) (bs nb : Nat) (xs : List (Nat × FVal)) : CvtOut :=
  (List.range nb).foldl (fun o j =>
    let mine := xs.filter (fun e => e.1 / bs == j)
    if mine.isEmpty then { o with codes := o.codes ++ [0] }
    else
      let (code, rs, fl, cl) := narrowBlock D m (mine.map (·.2))
      { els := o.els ++ (mine.map (·.1)).zip rs, codes := o.codes ++ [code], fl := o.fl ||| fl, clamps := o.clamps + cl.toNat })
    { els := [] }

/-- `vcvt` of a source vector (R175, R176). `act` says whether a destination lane is active. -/
def vcvtOf (f : Fields) (m : Mode) (a : Vec) (scale : Word) (act : Nat → Bool) : CvtOut :=
  let dt := fld f.imm 0 4
  let st := fld f.imm 7 4
  let wd := tyBits dt
  let ws := tyBits st
  let n := 1024 / max wd ws
  let part := fld f.imm 13 3
  let bsz := fld f.imm 11 2
  let bs := 8 * 2 ^ bsz
  let dl (i : Nat) : Nat := if wd < ws then n * part + i else i
  let sl (i : Nat) : Nat := if ws < wd then n * part + i else i
  let xs := ((List.range n).filter (fun i => act (dl i))).map (fun i => (i, srcVal st (lane a ws (sl i))))
  if bsz ≠ 0 ∧ 12 ≤ dt then cvtBlocks (narrowTy dt) m bs (n / bs) xs
  else
    let rs := xs.map (fun e => (e.1, if bsz = 0 then cvtElem dt m e.2 else some (widenElem dt (lane scale 8 (e.1 / bs)) m e.2)))
    { els := rs.map (fun e => (e.1, e.2.map (·.1))), fl := rs.foldl (fun a e => a ||| (e.2.map (·.2)).getD 0) 0 }

/-- The lines that an append of `n` entries writes, by place (R104, R216). -/
def State.appendLines (s : State) (w : Who) (desc : Word) (n : Nat) : List Nat :=
  match s.listRead w desc with
  | (_, .error _) => []
  | (s, .ok d) => (desc.toNat :: (List.range n).map (fun j => bits d 4 48 * 16 + 16 * (bits d 96 32 + j))).map
      (fun a => s.lineLoc w.pid w.asid a)

/-- What a request writes to lines that the alias filter watches (R216). -/
def State.watched (s : State) (c : Nat) (r : MemReq) (line : Nat) : Bool :=
  if r.kind = .reserve then (s.appendLines (r.who c .strand) r.ea r.data.toNat).contains line else s.hits r line

/-- `vcvt` (R174 to R178): with outliers it retires once its reservation has replied. -/
def vcvtBody (f : Fields) (replied : Bool) (s : State) (_ : Shape) : Eff :=
    let dt := fld f.imm 0 4
    let st := fld f.imm 7 4
    let wd := tyBits dt
    let ws := tyBits st
    let n := 1024 / max wd ws
    let off := if wd < ws then n * fld f.imm 13 3 else 0
    let soff := if ws < wd then n * fld f.imm 13 3 else 0
    let k := s.kOp 3 f.c
    let a := s.vOp 1 f.a
    let o := vcvtOf f (s.modeOf (rmOf f)) a (s.gOp 2 f.b) (fun i => k.getLsbD i)
    if fpx s.me o.fl then .trap cFpx 0 0 o.fl
    else
      let outl : List Outl := o.els.filterMap (fun e => if e.2.isNone then some (off + e.1, srcVal st (lane a ws (soff + e.1))) else none)
      let hit := s.appendLines (s.myWho .strand) s.me.outl outl.length
      if !outl.isEmpty && !replied && !s.pathClear s.cur then .wait .path
      else if !outl.isEmpty && !replied && s.me.outl != 0 then .reserve s.me.outl outl.length
      else
        match (if outl.isEmpty then s else s.aliasRoll (fun l => hit.contains l)).append (s.myWho .strand) s.me.outl s.cur s.cx outl with
        | .error (c, b) => .flt c b
        | .ok s =>
          let old := s.vOld f.d
          let v : Vec := BitVec.ofNat 1024 (joinLanes wd ((List.range (1024 / wd)).map (fun i =>
            match o.els.find? (fun e => off + e.1 == i) with
            | some e => e.2.getD (narrowTy dt).zero
            | none => lane old wd i)))
          let s := (s.wrV f.d v).addFlags s.cur s.cx o.fl
          let s := if fld f.imm 11 2 ≠ 0 ∧ 12 ≤ dt then s.wrG f.b (BitVec.ofNat 64 (joinLanes 8 o.codes)) else s
          .done (if o.clamps = 0 then s else s.later s.cur
            { due := s.cycles + 8, ctx := s.cx, code := uflowCode, val := some (BitVec.ofNat 64 o.clamps) })

def execVcvt (f : Fields) (s : State) : Host.Outcome State Fault Refusal := issue (.vcvt f) s (vcvtBody f false)

/-! Lane movement (R180). -/

def vMove (f : Fields) (l : State → Nat → Nat → Nat) (s : State) (_ : Shape) : Eff :=
  let ty := vTy f
  .done (s.wrV f.d (vecOf ty (s.vOld f.d) (s.kOp 3 f.c) (l s ty)))

def execVbcast (f : Fields) (s : State) : Host.Outcome State Fault Refusal :=
  issue (.vbcast f) s (vMove f (fun s ty _ =>
    if f.o = 1 then (if 9 ≤ ty ∧ ty < 12 then s.fIn ty 1 f.a else (s.fOp 1 f.a).toNat) else (s.gOp 1 f.a).toNat))
def execVperm (f : Fields) (s : State) : Host.Outcome State Fault Refusal :=
  issue (.vperm f) s (vMove f (fun s ty i => lane (s.vOp 1 f.a) (tyBits ty) (lane (s.vOp 2 f.b) (tyBits ty) i % lanesN ty)))
def execVslideUp (f : Fields) (s : State) : Host.Outcome State Fault Refusal :=
  issue (.vslideUp f) s (vMove f (fun s ty i =>
    let n := (s.gOp 2 f.b).toNat
    if n ≤ i then lane (s.vOp 1 f.a) (tyBits ty) (i - n) else 0))
def execVslideDn (f : Fields) (s : State) : Host.Outcome State Fault Refusal :=
  issue (.vslideDn f) s (vMove f (fun s ty i =>
    let n := (s.gOp 2 f.b).toNat
    if i + n < lanesN ty then lane (s.vOp 1 f.a) (tyBits ty) (i + n) else 0))
def execVmov (f : Fields) (s : State) : Host.Outcome State Fault Refusal :=
  issue (.vmov f) s (vMove f (fun s ty i => lane (s.vOp 1 f.a) (tyBits ty) i))

/-! Reductions and scans (R106, R107, R181). -/

/-- A value that passes through an operation unchanged, but for a NaN, which becomes canonical (R94). -/
def canonE (ty x : Nat) : Nat × Flags :=
  if tyInt ty then (x, 0)
  else match unpackTy ty x with
    | .nan s => ((fmtTy ty).canon, flagIf s fNv)
    | _ => (x, 0)

/-- One level of the pairwise tree (R106). -/
def treeLevel (op : Nat → Nat → Nat × Flags) : List (Option Nat) → List (Option Nat) × Flags
  | x :: y :: l =>
    let (r, fl) := treeLevel op l
    match x, y with
    | some a, some b => (some (op a b).1 :: r, (op a b).2 ||| fl)
    | none, y => (y :: r, fl)
    | x, none => (x :: r, fl)
  | l => (l, 0)

/-- The tree over a list whose length is a power of two (R106). -/
def treeRed (op : Nat → Nat → Nat × Flags) : Nat → List (Option Nat) → Option Nat × Flags
  | 0, l => (l.headD none, 0)
  | n + 1, l =>
    let (l, fl) := treeLevel op l
    let (r, fl') := treeRed op n l
    (r, fl ||| fl')

/-- The result with no active lane (R181): 0 add, 1 min, 2 max. -/
def redEmpty (k ty : Nat) : Nat :=
  let w := tyBits ty
  if k = 0 then 0
  else if !tyInt ty then (fmtTy ty).canon
  else if k = 1 then (if tySigned ty then 2 ^ (w - 1) - 1 else 2 ^ w - 1)
  else if tySigned ty then 2 ^ (w - 1) else 0

/-- A reduction result as a register value (R181). -/
def redVal (ty x : Nat) : Word := if tyInt ty then extInt ty (intTy ty x) else box ty x

def vRed (f : Fields) (k : Nat) (op : Nat → Mode → Nat → Nat → Nat × Flags) (s : State) (_ : Shape) : Eff :=
  let ty := vTy f
  let n := lanesN ty
  let a := s.vOp 1 f.a
  let m := s.kOp 3 f.c
  let ls := (List.range n).map (fun i => if m.getLsbD i then some (lane a (tyBits ty) i) else none)
  let (r, fl) := treeRed (op ty (s.modeOf (rmOf f))) (Nat.log2 n) ls
  let (r, fl') := canonE ty (r.getD (redEmpty k ty))
  let fl := fl ||| fl'
  if fpx s.me fl then .trap cFpx 0 0 fl
  else
    let v := redVal ty r
    .done ((if tyInt ty then s.wrG f.d v else s.wrF f.d v).addFlags s.cur s.cx fl)

/-- The sequential sum of R107: the running value after each active lane; the first lane's passes through `first`. -/
def scanFrom (first : Nat → Nat × Flags) (op : Nat → Nat → Nat × Flags) : Option Nat → List (Nat × Nat) → List (Nat × Nat × Flags)
  | _, [] => []
  | none, (i, x) :: l => (i, (first x).1, (first x).2) :: scanFrom first op (some (first x).1) l
  | some t, (i, x) :: l => let r := op t x; (i, r.1, r.2) :: scanFrom first op (some r.1) l

def execVredAdd (f : Fields) (s : State) : Host.Outcome State Fault Refusal := issue (.vredAdd f) s (vRed f 0 addE)
def execVredMin (f : Fields) (s : State) : Host.Outcome State Fault Refusal := issue (.vredMin f) s (vRed f 1 minE)
def execVredMax (f : Fields) (s : State) : Host.Outcome State Fault Refusal := issue (.vredMax f) s (vRed f 2 maxE)
def execVscan (f : Fields) (s : State) : Host.Outcome State Fault Refusal :=
  issue (.vscan f) s (fun s _ =>
    let ty := vTy f
    let k := s.kOp 3 f.c
    let a := s.vOp 1 f.a
    let rs := scanFrom (canonE ty) (addE ty (s.modeOf (rmOf f))) none ((activeLanes ty k).map (fun i => (i, lane a (tyBits ty) i)))
    vRes s f (vecOf ty (s.vOld f.d) k (fun i => ((rs.find? (fun r => r.1 == i)).map (·.2.1)).getD 0),
      rs.foldl (fun x r => x ||| r.2.2) 0))

/-! Masks (R182). -/

def kBin (f : Fields) (op : KMask → KMask → KMask) (s : State) (_ : Shape) : Eff :=
  .done (s.wrK f.d (op (s.kOp 1 f.a) (s.kOp 2 f.b)))

def execKand (f : Fields) (s : State) : Host.Outcome State Fault Refusal := issue (.kand f) s (kBin f (· &&& ·))
def execKor (f : Fields) (s : State) : Host.Outcome State Fault Refusal := issue (.kor f) s (kBin f (· ||| ·))
def execKxor (f : Fields) (s : State) : Host.Outcome State Fault Refusal := issue (.kxor f) s (kBin f (· ^^^ ·))
def execKnot (f : Fields) (s : State) : Host.Outcome State Fault Refusal :=
  issue (.knot f) s (fun s _ => .done (s.wrK f.d (~~~(s.kOp 1 f.a))))
def execKset (f : Fields) (s : State) : Host.Outcome State Fault Refusal :=
  issue (.kset f) s (fun s _ => .done (s.wrK f.d
    (if f.o = 1 then BitVec.ofNat 128 (2 ^ min (s.gOp 1 f.a).toNat 128 - 1)
      else BitVec.ofNat 128 ((s.gOp 1 f.a).toNat + 2 ^ 64 * (s.gOp 2 f.b).toNat))))
def execKpop (f : Fields) (s : State) : Host.Outcome State Fault Refusal :=
  issue (.kpop f) s (fun s _ => .done (s.wrG f.d (BitVec.ofNat 64 (popc (s.kOp 1 f.a).toNat 128))))

/-! Memory (R166, R167, R169). -/

/-- Lane addresses (R167): 0 contiguous, 1 strided, 2 by offsets. -/
def vAddr (core form : Nat) (f : Fields) (a b : Word) (vb : Vec) (i : Nat) : Word :=
  let w := tyBits (vTy f)
  let base : Word := if f.o.getLsbD 1 then BitVec.ofNat 64 (bufAddr core (fld f.imm 8 2)) + a else a
  match form with
  | 0 => wadd (base + b) (i * (w / 8) : Nat)
  | 1 => wadd base (i * b.toInt)
  | _ => wadd base (signed (lane vb w i) w * (if f.o.getLsbD 0 then w / 8 else 1 : Nat))

/-- The issue-time fault that is reported (R143, R169): the first kind that any active lane meets, for its lowest lane. -/
def firstKind (fs : List Flt) : Option Flt :=
  ([cAlign, cWindow, cPerm].findSome? (fun c => fs.find? (fun e => e.1 == c))).or fs.head?

/-- The issue-time fault of an access lane by lane, with the address of the lane (R169). -/
def State.lanesFault (s : State) (ls : List (Nat × Word)) (n : Nat) (write : Bool) : Option Flt :=
  firstKind (ls.filterMap (fun e => (s.issueFault (s.myWho .vector) e.2 n n write).map (fun f => (f.1, e.2))))

/-- The active lanes with their addresses. -/
def State.vLanes (s : State) (form : Nat) (f : Fields) : List (Nat × Word) :=
  (activeLanes (vTy f) (s.kOp 3 f.c)).map (fun i => (i, vAddr s.cur form f (s.gOp 1 f.a) (s.gOp 2 f.b) (s.vOp 2 f.b) i))

/-- When each lane is requested (R168): one lane a ck for offsets; else the own core's local memory at once, and one line a ck
elsewhere. R168 has an access to the own buffers as one port access, and a gather's lanes one a ck: for offsets into the own buffers the model
takes the latter (log 77). -/
def laneDelay (core form : Nat) : List (Nat × Word) → Nat → List Nat → List Nat
  | [], _, _ => []
  | (_, a) :: l, n, seen =>
    let ln := a.toNat / 64
    let own := match spaceOf a.toNat with
      | .loc c _ => c == core
      | _ => false
    if form = 2 then n :: laneDelay core form l (n + 1) seen
    else if own then 0 :: laneDelay core form l n seen
    else if seen.contains ln then (seen.length - 1) :: laneDelay core form l n seen
    else seen.length :: laneDelay core form l n (seen ++ [ln])

/-- Lease class of a vector access (R166). -/
def vLease (f : Fields) : Nat := if fld f.imm 4 4 = 0 then 3 else fld f.imm 4 4 - 1

/-- Sends the requests of the active lanes in lane order (R167, R168). -/
def State.sendLanes (s : State) (op : Nat) (rs : List (MemReq × Nat)) : State := rs.foldl (fun s r => s.sendReq op r.1 r.2) s

/-- A vector load (R165, R167). -/
def vLoad (i : Instr) (form : Nat) (f : Fields) (s : State) (sh : Shape) : Eff :=
  let n := tyBits (vTy f) / 8
  let ls := s.vLanes form f
  match s.lanesFault ls n false with
  | some (c, a) => .flt c a
  | none =>
    let rs := ls.map (fun e => { s.reqOf .load e.2 n with lane := e.1, vec := true, lease := vLease f })
    let t := s.detach i sh (fun d => { d with left := ls.length, st := if ls.isEmpty then .done else .pending, due := s.cycles + 12 })
    .done (t.sendLanes s.me.nextId (rs.zip (laneDelay s.cur form ls 0 [])))

/-- A vector store (R166, R167): one posted operation. -/
def vStore (i : Instr) (form : Nat) (f : Fields) (s : State) (sh : Shape) : Eff :=
  let w := tyBits (vTy f)
  let n := w / 8
  let ls := s.vLanes form f
  match s.lanesFault ls n true with
  | some (c, a) => .flt c a
  | none =>
    if 32 ≤ s.me.posted.length then .wait .posted
    else
      let d := s.vOp 0 f.d
      let rs := ls.map (fun e => { s.reqOf .store e.2 n with
        lane := e.1, vec := true, lease := vLease f, posted := true, data := BitVec.ofNat 64 (lane d w e.1) })
      .done ((s.postOp i sh ls.length (ls.all (fun e => decide (e.2.toNat < 2 ^ 52)))).sendLanes s.me.nextId
        (rs.zip (laneDelay s.cur form ls 0 [])))

def execVld (f : Fields) (s : State) : Host.Outcome State Fault Refusal := issue (.vld f) s (vLoad (.vld f) 0 f)
def execVst (f : Fields) (s : State) : Host.Outcome State Fault Refusal := issue (.vst f) s (vStore (.vst f) 0 f)
def execVldS (f : Fields) (s : State) : Host.Outcome State Fault Refusal := issue (.vldS f) s (vLoad (.vldS f) 1 f)
def execVstS (f : Fields) (s : State) : Host.Outcome State Fault Refusal := issue (.vstS f) s (vStore (.vstS f) 1 f)
def execVgather (f : Fields) (s : State) : Host.Outcome State Fault Refusal := issue (.vgather f) s (vLoad (.vgather f) 2 f)
def execVscatter (f : Fields) (s : State) : Host.Outcome State Fault Refusal := issue (.vscatter f) s (vStore (.vscatter f) 2 f)

/-- The destination of a vector load that completed (R165, R167): active lanes from memory, the others as they stand. -/
def vLoaded (ty : Nat) (old : Vec) (vals : List (Nat × Vec)) : Vec :=
  let w := tyBits ty
  BitVec.ofNat 1024 (joinLanes w ((List.range (lanesN ty)).map (fun i =>
    match vals.find? (fun e => e.1 == i) with
    | some e => e.2.toNat
    | none => lane old w i)))

end Sys2Proof.Machine
end

