-- ==== Sys2Proof/Machine/Tile.lean ====
section
/-!
DEFINITION. The matrix unit: shape words and operands (R183 to R186), the accumulation orders (R108, R109), majors 0x2C and
0x2D (R187 to R200), and stopping between row blocks (R194, R195).
-/
namespace Sys2Proof.Machine

/-! Shapes. -/

/-- A tile as its shape word gives it (R183). -/
structure Tile where
  m : Nat
  n : Nat
  k : Nat
  coff : Nat
  cstr : Nat
  rsv : Nat
  deriving DecidableEq, Repr

def tileOf (w : Word) : Tile := ⟨fld w 0 8, fld w 8 8, fld w 16 16, fld w 32 17, fld w 49 11, fld w 60 4⟩

/-- C-buffer offset of an element (R183). -/
def Tile.off (t : Tile) (sc i j : Nat) : Nat := t.coff + 64 * t.cstr * i + sc * j

/-- The checks of R184, in order. -/
def Tile.fault (t : Tile) (core sc : Nat) : Option Flt :=
  if t.m = 0 ∨ 128 < t.m ∨ t.n = 0 ∨ 128 < t.n ∨ t.cstr = 0 ∨ 64 * t.cstr < sc * t.n ∨ t.coff % 64 ≠ 0 ∨ t.rsv ≠ 0 then
    some (cIllegal, 0)
  else if 0x18000 < t.coff + 64 * t.cstr * (t.m - 1) + sc * t.n then some (cWindow, BitVec.ofNat 64 (bufAddr core 2 + 0x18000))
  else none

/-- Operand and accumulator types of an `mma` minor (R188). -/
def mmaTy (m : Nat) : Nat × Nat × Nat :=
  match m with
  | 0 => (8, 8, 8)
  | 1 => (9, 9, 9)
  | 2 => (11, 11, 9)
  | 3 => (10, 10, 9)
  | 4 => (11, 11, 11)
  | 5 => (10, 10, 10)
  | 6 => (12, 12, 9)
  | 7 => (13, 13, 9)
  | 8 => (12, 12, 11)
  | 9 => (13, 13, 11)
  | 10 => (14, 11, 9)
  | 11 => (14, 11, 11)
  | _ => (0, 0, 2)

/-- Products per ck of a minor (R188). -/
def mmaRate (m : Nat) : Nat :=
  match m with
  | 0 => 32
  | 1 => 128
  | 2 => 512
  | 3 => 512
  | 4 => 512
  | 5 => 512
  | 10 => 2048
  | 11 => 2048
  | _ => 1024

/-! Accumulation. -/

/-- The order of R108: one fused multiply-add for each k. -/
def accSeq (F : Fmt) (m : Mode) (acc : Nat) : List (FVal × FVal) → Nat × Flags
  | [] => (acc, 0)
  | (a, b) :: l =>
    let r := roundWith F m (fmaX m false false a b (unpack F acc))
    let q := accSeq F m r.1 l
    (q.1, r.2 ||| q.2)

/-- The exact sum of a group (R109): +0 if zero, −0 only if every product is −0. -/
def sumGroup : List FVal → FVal
  | [] => .fin false 0 0
  | x :: l => l.foldl (fun a b => (addX 0 a b).1) x

/-- The order of R109: groups of eight, one rounding each. -/
def accGroups (F : Fmt) (m : Mode) : Nat → Nat → List FVal → Nat × Flags
  | 0, acc, _ => (acc, 0)
  | fuel + 1, acc, ps =>
    if ps.isEmpty then (acc, 0)
    else
      let S := sumGroup (ps.take 8)
      let r := roundWith F m (addX m (unpack F acc) S)
      let q := accGroups F m fuel r.1 (ps.drop 8)
      (q.1, r.2 ||| flagIf S.isNan fNv ||| q.2)

/-- A value times a power of two. -/
def FVal.shift (x : FVal) (k : Int) : FVal :=
  match x with
  | .fin n m e => .fin n m (e + k)
  | x => x

/-- One element of an `mma` (R189): accumulator code and the codes of A[i,·] and B[·,j]. -/
def mmaElem (minor : Nat) (mode : Mode) (sA sB acc : Nat) (as bs : List Nat) : Nat × Flags :=
  let (ta, tb, tc) := mmaTy minor
  if minor = 12 then
    (wrapI ((acc : Int) + ((as.zip bs).map (fun e => intTy 0 e.1 * intTy 0 e.2)).foldl (· + ·) 0) 32, 0)
  else
    let ps := (as.zip bs).map (fun e => (unpackTy ta e.1, unpackTy tb e.2))
    if minor < 2 then accSeq (fmtTy tc) mode acc ps
    else
      let prod (e : FVal × FVal) : FVal :=
        if sA = 0xFF ∨ sB = 0xFF then .nan false else (mulX e.1 e.2).1.shift ((sA : Int) + sB - 254)
      accGroups (fmtTy tc) mode (ps.length / 8 + 1) acc (ps.map prod)

/-! Operands. -/

/-- A unit's read of an element: a core's through its own L1, which keeps the line for the lease class (R139, R186); the cluster scheduler's
at the home. -/
def State.readEl (s : State) (w : Who) (a : Word) (n lease : Nat) : State × Except Flt Nat :=
  match s.issueFault w a n n false with
  | some f => (s, .error f)
  | none => readPieces s w lease (!w.engine) (linePieces a.toNat n)

/-- Reads elements of `n` bytes, in order. -/
def readEls (s : State) (w : Who) (n lease : Nat) : List Word → State × Except Flt (List Nat)
  | [] => (s, .ok [])
  | a :: l =>
    match s.readEl w a n lease with
    | (s, .error e) => (s, .error e)
    | (s, .ok v) =>
      match readEls s w n lease l with
      | (s, .error e) => (s, .error e)
      | (s, .ok r) => (s, .ok (v :: r))

/-- Reads rows of elements. -/
def readRows (s : State) (w : Who) (n lease : Nat) : List (List Word) → State × Except Flt (List (List Nat))
  | [] => (s, .ok [])
  | r :: l =>
    match readEls s w n lease r with
    | (s, .error e) => (s, .error e)
    | (s, .ok v) =>
      match readRows s w n lease l with
      | (s, .error e) => (s, .error e)
      | (s, .ok q) => (s, .ok (v :: q))

/-- The address of element (i, k) of an operand (R185). -/
def elAddr (base stride : Word) (es i k : Nat) : Word := wadd base ((i : Int) * stride.toInt + (es * k : Nat))

/-- Issue-time faults of an operand that spans rows `r0` to `r1` and columns `c0` to `c1` (R186). -/
def State.spanFaults (s : State) (w : Who) (base stride : Word) (es r0 r1 c0 c1 : Nat) (write : Bool) : List Flt :=
  let al := if base.toNat % es ≠ 0 ∨ stride.toNat % es ≠ 0 then [(cAlign, elAddr base stride es r0 c0)] else []
  let (lo, hi) := if stride.toInt < 0 then (r1, r0) else (r0, r1)
  (al ++ (s.issueFault w (elAddr base stride es lo c0) 1 1 write).toList ++
    (s.issueFault w (wadd (elAddr base stride es hi c1) (es - 1 : Nat)) 1 1 write).toList).filter (fun e => e.1 != cUncorrectable)

/-- Enabled rows or columns (R184). -/
def enabledOf (mask : KMask) (n : Nat) : List Nat := (List.range n).filter (fun i => mask.getLsbD i)

/-- The row and column masks of a bound pair (R50). -/
def State.pairMasks (s : State) (t : Nat) : KMask × KMask :=
  if t = 0 then (BitVec.allOnes 128, BitVec.allOnes 128)
  else ((s.reg s.cur s.cx (0x80 + 2 * t)).setWidth 128, (s.reg s.cur s.cx (0x81 + 2 * t)).setWidth 128)

/-- What a tile operation keeps of an operand: address, stride, mask; the record holds the address alone (R369). -/
def packOp (a stride : Word) (mask : KMask) : Vec := BitVec.ofNat 1024 (a.toNat + stride.toNat * 2 ^ 64 + mask.toNat * 2 ^ 128)
def opAddr (v : Vec) : Word := v.extractLsb' 0 64
def opStride (v : Vec) : Word := v.extractLsb' 64 64
def opMask (v : Vec) : KMask := v.extractLsb' 128 128

/-- Types of `tld` and `tst` (R197): C type and memory type. -/
def tileCty (imm : Nat) : Nat := bits imm 0 4
def tileMty (imm : Nat) : Nat := bits imm 9 4

/-! Row blocks. -/

/-- What a row block comes to: state, flags, outlier entries, and the fault that abandons it. -/
structure Blk where
  s : State
  fl : Flags := 0
  outl : Nat := 0
  flt : Option Flt := none
  /-- Operand elements read that later units of the operation use again (R193). -/
  vals : Option (List (Nat × Vec)) := none

/-- The immediate, the shape and the lease of a tile operation. -/
def DetOp.imm (d : DetOp) : Nat := fld d.iw 0 40
def DetOp.tile (d : DetOp) : Tile := tileOf (d.caps.od.setWidth 64)
def DetOp.tlease (d : DetOp) : Nat := bits d.imm 13 3 ^^^ 3

/-- Option bits of an outstanding operation (R73). -/
def DetOp.o (d : DetOp) : Nat := fld d.iw 50 2

/-- Who a tile operation acts for. -/
def State.tileWho (s : State) (c : Nat) (d : DetOp) : Who :=
  { core := c, pid := s.pidOf c, asid := d.asid, user := d.lvl == 0, node := d.node, unit := .matrix }

/-- C elements by place, before (none: a word that fails its check). -/
def State.cRead (s : State) (core off n : Nat) : Except Flt Nat :=
  match s.win.firstBad (bufAddr core 2 + off) n with
  | some b => .error (cUncorrectable, BitVec.ofNat 64 b)
  | none => .ok (s.win.read (bufAddr core 2 + off) n)

/-- Bytes of word `w` that accesses of `n` bytes at the given addresses cover. -/
def coverOf (w n : Nat) (as : List Nat) : Nat :=
  (as.map (fun a => min (a + n) (8 * w + 8) - max a (8 * w))).sum

/-- Writes C elements as one step (R189): a word that fails its check and is not written whole stops it (R194, R377). -/
def State.cWrite (s : State) (core n : Nat) (vs : List (Nat × Nat)) : Except Flt State :=
  let as := vs.map (fun e => bufAddr core 2 + e.1)
  let bad := if s.win.bad.isEmpty then [] else (as.flatMap (fun a => (wordsOf a n).filter (fun w => s.win.isBad (8 * w)))).dedup
  match bad.find? (fun w => decide (coverOf w n as < 8)) with
  | some w => .error (cUncorrectable, BitVec.ofNat 64 (8 * w))
  | none =>
    let m := vs.foldl (fun m e => m.store (bufAddr core 2 + e.1) e.2 n) s.win
    .ok { s with win := bad.foldl (fun m w => m.setBad (8 * w) false) m }

/-- A row block's result in C, with its flags. -/
def State.cBlock (s : State) (core n : Nat) (vs : List (Nat × Nat)) (fl : Flags) : Blk :=
  match s.cWrite core n vs with
  | .error e => { s, flt := some e }
  | .ok t => { s := t, fl }

/-- The elements of a block with what each becomes; the first C word that fails its check stops it. -/
def blockEls (s : State) (core sc : Nat) (t : Tile) (zero : Bool) (f : Nat → Nat → Nat → Nat × Flags) :
    List (Nat × Nat) → Except Flt (List (Nat × Nat) × Flags)
  | [] => .ok ([], 0)
  | (i, j) :: l =>
    match (if zero then .ok 0 else s.cRead core (t.off sc i j) sc) with
    | .error e => .error e
    | .ok acc =>
      let r := f i j acc
      match blockEls s core sc t zero f l with
      | .error e => .error e
      | .ok (q, fl) => .ok ((t.off sc i j, r.1) :: q, r.2 ||| fl)

/-- The enabled elements of some rows. -/
def gridOf (rows cols : List Nat) : List (Nat × Nat) := rows.flatMap (fun i => cols.map (fun j => (i, j)))

/-- A row block of an `mma` (R189). -/
def mmaBlock (s : State) (core : Nat) (d : DetOp) (rows : List Nat) : Blk :=
  let minor := d.op % 16
  let t := d.tile
  let (ta, tb, tc) := mmaTy minor
  let ea := tyBits ta / 8
  let eb := tyBits tb / 8
  let sc := tyBits tc / 8
  let w := s.tileWho core d
  let cols := enabledOf (opMask d.caps.o2) t.n
  let ks := List.range t.k
  let aAddr (i : Nat) : List Word := ks.map (fun k => elAddr (opAddr d.caps.o1) (opStride d.caps.o1) ea i k)
  let bAddr (j : Nat) : List Word := ks.map (fun k => elAddr (opAddr d.caps.o2) (opStride d.caps.o2) eb k j)
  match readRows s w ea d.tlease (if cols.isEmpty then [] else rows.map aAddr) with
  | (s, .error e) => { s, flt := some e }
  | (s, .ok as) =>
    let first := !rows.isEmpty && d.vals.isEmpty
    match readRows s w eb d.tlease (if first then cols.map bAddr else []) with
    | (s, .error e) => { s, flt := some e }
    | (s, .ok new) =>
      let vals := if first then (cols.zip new).flatMap (fun e => e.2.map (fun v => (e.1, BitVec.ofNat 1024 v))) else d.vals
      let bs := if first then new else cols.map (fun j => (vals.filter (fun e => e.1 == j)).map (fun e => e.2.toNat))
      let scaled := d.o % 2 = 1
      let sA := if scaled then fld d.caps.o3 0 8 else 127
      let sB := if scaled then fld d.caps.o3 8 8 else 127
      let rowOf (i : Nat) : List Nat := (((rows.zip as).find? (fun e => e.1 == i)).map (·.2)).getD []
      let colOf (j : Nat) : List Nat := (((cols.zip bs).find? (fun e => e.1 == j)).map (·.2)).getD []
      match blockEls s core sc t (d.o / 2 = 1) (fun i j acc => mmaElem minor d.mode sA sB acc (rowOf i) (colOf j)) (gridOf rows cols) with
      | .error e => { s, flt := some e }
      | .ok (vs, fl) => { s.cBlock core sc vs fl with vals := some vals }

/-- A row block of `tld` (R198). -/
def tldBlock (s : State) (core : Nat) (d : DetOp) (rows : List Nat) : Blk :=
  let ct := tileCty d.imm
  let mt := tileMty d.imm
  let t := d.tile
  let cols := enabledOf (opMask d.caps.o2) t.n
  let es := gridOf rows cols
  match readEls s (s.tileWho core d) (tyBits mt / 8) d.tlease
      (es.map (fun e => elAddr (opAddr d.caps.o1) (opStride d.caps.o1) (tyBits mt / 8) e.1 e.2)) with
  | (s, .error e) => { s, flt := some e }
  | (s, .ok vs) =>
    let rs := vs.map (fun v => if ct = 2 then (v, 0) else round (fmtTy ct) d.mode (unpackTy mt v))
    s.cBlock core (tyBits ct / 8) ((es.map (fun e => t.off (tyBits ct / 8) e.1 e.2)).zip (rs.map (·.1))) (flagsOf rs)

/-- Reads C elements of a block. -/
def cReads (s : State) (core sc : Nat) (t : Tile) : List (Nat × Nat) → Except Flt (List Nat)
  | [] => .ok []
  | (i, j) :: l =>
    match s.cRead core (t.off sc i j) sc with
    | .error e => .error e
    | .ok v => match cReads s core sc t l with
      | .error e => .error e
      | .ok r => .ok (v :: r)

/-- Writes memory elements in order. -/
def putEls (s : State) (w : Who) (n lease : Nat) : List (Word × Nat) → State × Option Flt
  | [] => (s, none)
  | (a, v) :: l =>
    match s.writeChecked w a n n v lease with
    | (s, some e) => (s, some e)
    | (s, none) => putEls s w n lease l

/-- The word at `a` is to be written whole, in the committed line or in the version of the writer's node (R279), and passes its check from
then on (R377). -/
def State.goodWord (s : State) (w : Who) (a : Nat) : State :=
  match eff (s.tabAt w a) w.asid w.node with
  | none => s
  | some (e + 1) =>
    match s.letIn w a .write with
    | (t, .ok (asid, va)) =>
      let key := lineKey w.pid asid va
      match t.ver key (nodeKey w.asid (e + 1)) with
      | some v => t.putVer key (nodeKey w.asid (e + 1)) (some { v with bad := v.bad &&& ~~~(wordMask (va % 64) 8) })
      | none => s
    | _ => s
  | some 0 =>
    match (s.afterOwned w a).atHome w a .write 3 with
    | (t, .ok h) => if t.hBad h 8 then t.hGood h else s
    | _ => s

/-- Words that accesses of `n` bytes cover whole pass their check from then on: a block is one write (R198, R377). -/
def State.goodWhole (s : State) (w : Who) (n : Nat) (as : List Nat) : State :=
  let anyBad := !(s.vers.all (fun e => ((e.2.map (·.bad)).getD 0) == 0) && s.win.bad.isEmpty && s.dram.bad.isEmpty && s.far.bad.isEmpty && s.host.bad.isEmpty &&
    s.slices.all (fun e => match e.2 with
      | some l => l.bad == 0
      | none => true))
  if n = 8 || !anyBad then s
  else (as.map (· / 8)).dedup.foldl (fun s k => if coverOf k n as < 8 then s else s.goodWord w (8 * k)) s

/-- A row block of `tst` (R198): outliers are appended before the stores. Which list takes them is `outl.desc` when the operation
runs: the spec does not say whether it is that or the value at issue (log 55). -/
def tstBlock (s : State) (core ctx : Nat) (d : DetOp) (rows : List Nat) : Blk :=
  let ct := tileCty d.imm
  let mt := tileMty d.imm
  let t := d.tile
  let es := gridOf rows (enabledOf (opMask d.caps.o2) t.n)
  let w := s.tileWho core d
  match cReads s core (tyBits ct / 8) t es with
  | .error e => { s, flt := some e }
  | .ok vs =>
    let rs := vs.map (fun v => if ct = 2 then some (v, 0) else cvtElem mt d.mode (unpackTy ct v))
    let outl : List Outl := ((es.zip vs).zip rs).filterMap (fun e =>
      if e.2.isNone then some (65536 * e.1.1.1 + e.1.1.2, unpackTy ct e.1.2) else none)
    match s.append { w with unit := .strand } (s.ctx core ctx).outl core ctx outl with
    | .error e => { s, flt := some e }
    | .ok s1 =>
      let n := tyBits mt / 8
      let out := (es.zip rs).map (fun e => (elAddr (opAddr d.caps.o1) (opStride d.caps.o1) n e.1.1 e.1.2,
        (e.2.map (·.1)).getD (narrowTy mt).zero))
      match putEls (s1.goodWhole w n (out.map (fun e => e.1.toNat))) w n d.tlease out with
      | (_, some e) => { s, flt := some e }
      | (s2, none) => { s := s2, fl := rs.foldl (fun a r => a ||| (r.map (·.2)).getD 0) 0, outl := outl.length }

/-- A row block of `tzero` (R198). -/
def tzeroBlock (s : State) (core : Nat) (d : DetOp) (rows : List Nat) : Blk :=
  let sc := tyBits (tileCty d.imm) / 8
  let t := d.tile
  s.cBlock core sc ((gridOf rows (enabledOf (opMask d.caps.o2) t.n)).map (fun e => (t.off sc e.1 e.2, 0))) 0

/-- Elements with the keys they are kept under: those kept already, and the others read (R193). -/
def readKept (s : State) (w : Who) (n lease : Nat) : List (Nat × Word) → List (Nat × Vec) → State × Except Flt (List (Nat × Vec))
  | [], have_ => (s, .ok have_)
  | (k, a) :: l, have_ =>
    if have_.any (fun e => e.1 == k) then readKept s w n lease l have_
    else
      match s.readEl w a n lease with
      | (s, .error e) => (s, .error e)
      | (s, .ok v) => readKept s w n lease l (have_ ++ [(k, BitVec.ofNat 1024 v)])

/-- One entry of `tout` (R199); a skipped one changes nothing. -/
def toutEntry (s : State) (core : Nat) (d : DetOp) (base e : Nat) : Blk :=
  let t := d.tile
  let (_, tb, tc) := mmaTy (bits d.imm 0 4)
  let eb := tyBits tb / 8
  let sc := tyBits tc / 8
  let w := s.tileWho core d
  match s.readChecked { w with unit := .strand } (BitVec.ofNat 64 (base + 16 * e)) 16 16 3 with
  | (s, .error f) => { s, flt := some f }
  | (s, .ok v) =>
    let i := bits v 80 16
    let k := bits v 64 16
    if t.m ≤ i ∨ t.k ≤ k ∨ !(opMask d.caps.o2).getLsbD i then { s }
    else
      let cols := enabledOf (d.caps.o2.extractLsb' 256 128) t.n
      match readKept s w eb d.tlease (cols.map (fun j => (128 * k + j, elAddr (opAddr d.caps.o1) (opStride d.caps.o1) eb k j))) d.vals with
      | (s, .error f) => { s, flt := some f }
      | (s, .ok vals) =>
        let sB := if d.o % 2 = 1 then fld d.caps.o3 8 8 else 127
        let F := fmtTy tc
        let part (j : Nat) : FVal :=
          let b := unpackTy tb (((vals.find? (fun x => x.1 == 128 * k + j)).map (fun x => x.2.toNat)).getD 0)
          if sB = 0xFF then .nan false else b.shift ((sB : Int) - 127)
        let f (_ j acc : Nat) : Nat × Flags :=
          let r := roundWith F d.mode (fmaX d.mode false false (unpack fp64 (bits v 0 64)) (part j) (unpack F acc))
          (r.1, r.2 ||| flagIf (sB == 0xFF) fNv)
        match blockEls s core sc t false f (cols.map (fun j => (i, j))) with
        | .error f => { s, flt := some f }
        | .ok (vs, fl) => { s.cBlock core sc vs fl with vals := some vals }

/-! Running a tile operation. -/

/-- The rows of block `b` that are enabled (R184). -/
def blockRows (t : Tile) (mask : KMask) (b : Nat) : List Nat := (enabledOf mask t.m).filter (fun i => i / 8 == b)

/-- The row mask of an operation: `mma` and `tout` keep it beside one operand, the others beside the first. -/
def DetOp.rowMask (d : DetOp) : KMask := opMask d.caps.o1

/-- The key under which a `tout` keeps the address of its list's entries. -/
def toutBase : Nat := 2 ^ 40

/-- The matrix unit starts a tile operation (R195, R199): it takes the row of `tprog`, which must not fail its check bits (R378), and the
list that a `tout` applies. -/
def State.tileStart (s : State) (c x : Nat) (d : DetOp) : State × DetOp × Option Flt :=
  let k := s.ctx c x
  if k.badTile.getLsbD 0 then (s, { d with started := true, prog := 0 }, some (cUncorrectable, 0))
  else
  let b0 := if tst k.tprog 16 then fld k.tprog 0 16 else 0
  let s := s.updCtx c x (fun k => { k with tprog := 0 })
  let d := { d with started := true, prog := b0 }
  if d.op != 0x2D3 then (s, { d with left := (d.tile.m + 7) / 8 - b0 }, none)
  else
    let desc := opAddr d.caps.o2
    match s.readChecked { s.tileWho c d with unit := .strand } desc 16 16 3 with
    | (s, .error e) => (s, d, some e)
    | (s, .ok v) =>
      let count := bits v 96 32
      if bits v 0 4 != 0 || bits v 52 12 != 0 || decide (65536 < count) then (s, d, some (cIllegal, desc))
      else (s, { d with left := count - b0, vals := [(toutBase, BitVec.ofNat 1024 (bits v 4 48 * 16))] }, none)

/-- The next unit of an operation that runs: a row block, or an entry of a `tout`'s list (R189, R198, R199). -/
def State.tileUnit (s : State) (c x : Nat) (d : DetOp) : Blk :=
  let rows := blockRows d.tile d.rowMask d.prog
  if d.op = 0x2D3 then toutEntry s c d (((d.vals.find? (fun e => e.1 == toutBase)).map (fun e => e.2.toNat)).getD 0) d.prog
  else if d.op / 16 = 0x2C then mmaBlock s c d rows
  else if d.op = 0x2D0 then tldBlock s c d rows
  else if d.op = 0x2D1 then tstBlock s c x d rows
  else tzeroBlock s c d rows

/-- ck that a row block takes (R190); for the other minors of 0x2D the model's figures (log 9). -/
def tilePer (op : Nat) (t : Tile) : Nat :=
  if op / 16 = 0x2C then (8 * t.n * t.k + mmaRate (op % 16) - 1) / mmaRate (op % 16)
  else if op = 0x2D0 ∨ op = 0x2D1 then 8
  else if op = 0x2D2 then 1 else 0

/-- A tile operation completes (R189): it leaves the unit, and what it held back may go on. -/
def State.tileEnd (s : State) (c x : Nat) (d : DetOp) : State :=
  (((s.updCtx c x (fun k => { k with tileFlags := k.tileFlags ||| d.flags })).updCore c (fun k => { k with
    mtx := k.mtx.filter (fun e => e != (x, d.id)), cStop := k.cStop.erase (x, d.foot.1, d.foot.2) })).endDet c x d [] d.flags)

/-- A tile operation goes on by one unit: it starts if it has not, does the unit, and completes after the last one, or stops
(R189, R194, R195). -/
def State.tileStep (s : State) (c x : Nat) (d : DetOp) : State :=
  let (s, d, f) := if d.started then (s, d, none) else s.tileStart c x d
  match f with
  | some e => s.stopTile c x d d.prog e
  | none =>
    if d.left = 0 then s.tileEnd c x d
    else
      let b := s.tileUnit c x d
      match b.flt with
      | some e => b.s.stopTile c x d d.prog e
      | none =>
        let d := { d with
          prog := d.prog + 1, left := d.left - 1, flags := d.flags ||| b.fl, vals := b.vals.getD d.vals
          due := s.cycles + tilePer d.op d.tile }
        let s := (b.s.updCtx c x (fun k => { k with tileOut := k.tileOut + BitVec.ofNat 32 b.outl })).updDet c x d.id (fun _ => d)
        if d.left = 0 then s.tileEnd c x d else s

/-- The addresses of the elements that a `tst` stores (R198). -/
def DetOp.tstAddrs (d : DetOp) : List Word :=
  (gridOf (enabledOf d.rowMask d.tile.m) (enabledOf (opMask d.caps.o2) d.tile.n)).map (fun e =>
    elAddr (opAddr d.caps.o1) (opStride d.caps.o1) (tyBits (tileMty d.imm) / 8) e.1 e.2)

/-- Whether a `tst` writes a line (R216, R357): with an element, or, where it may find outliers, with the list that takes them, which it
then fills no further than an entry an element. -/
def State.tstHits (s : State) (c x : Nat) (d : DetOp) (line : Nat) : Bool :=
  d.op == 0x2D1 && (d.tstAddrs.any (fun a => s.lineLoc (s.pidOf c) d.asid a.toNat == line) ||
    (decide (12 ≤ tileMty d.imm) && (s.ctx c x).outl != 0 &&
      (s.appendLines { s.tileWho c d with unit := .strand } (s.ctx c x).outl d.tstAddrs.length).contains line))

/-- Whether an outstanding `tst` of a strand stores to home `h`, before operation `op` of the strand (R134, R299). -/
def State.tstBars (s : State) (c x op h : Nat) : Bool :=
  (s.ctx c x).outst.any (fun d => d.op == 0x2D1 && decide (d.id < op) && d.tstAddrs.any (fun a => s.trueHome (s.pidOf c) d.asid a.toNat == h))

/-- Whether older requests of its strand keep a tile operation from going on: one to bytes of its own tile (R192), or for a `tst` one to a
home that it stores to (R134, R299). -/
def State.tileWaits (s : State) (c x : Nat) (d : DetOp) : Bool :=
  (s.heldOps c x d.foot).any (fun o => decide (o < d.id)) ||
  (d.op == 0x2D1 && s.net.any (fun p => match p.body with
    | .mem core ctx op _ => core == c && ctx == x && decide (op < d.id) && d.tstAddrs.any (fun a => s.trueHome (s.pidOf c) d.asid a.toNat == p.dst)
    | _ => false))

/-- Whether a tile operation may go on (R191, R193, R200, R216): first at its unit, its time come, the strand's older stores
and the accesses that come before its own performed, an older `tprog` done, and no stream still to read what a `tst` overwrites. -/
def State.tileReady (s : State) (c x : Nat) (d : DetOp) : Bool :=
  !(d.op == 0x2D1 && s.heldBy c d.snap (s.tstHits c x d)) && !s.tileWaits c x d &&
  (s.core c).mtx.head? == some (x, d.id) && decide (d.due ≤ s.cycles) && (s.ctx c x).posted.all (fun p => decide (d.id < p.id)) &&
  (s.ctx c x).outst.all (fun o => decide (d.id ≤ o.id) || !(isStoreOp o.op || o.op / 16 == 0x11 || o.op == 0x2D5))

/-- The value of `tprog` and its end (R200): every older tile operation is complete; at scope 6 no observer has yet to see their stores to
host memory (R153, R295). -/
def State.tprogReady (s : State) (c x : Nat) (d : DetOp) : Bool :=
  !((s.ctx c x).outst.any (fun o => isTile o.op && decide (o.id < d.id))) && decide (d.due ≤ s.cycles)
def State.tprogDone (s : State) (c x : Nat) (d : DetOp) : State :=
  let k := s.ctx c x
  if k.badTile.getLsbD 1 then s.failOp c x d cUncorrectable 0 (regSel c x 0x1006) 0
  else
  let v := k.tileOut.toNat + k.tileFlags.toNat * 2 ^ 32
  let s := if (fieldsOf d.iw).c = 6 then s.hostSeen (c :: k.mt.past) else s
  (s.updCtx c x (fun k => { k with tileOut := 0, tileFlags := 0 })).endPos c x d [(codeAt d.iw 0, BitVec.ofNat 1024 v)] 0

/-! Majors 0x2C and 0x2D, minors 0 to 3 and 5. -/

/-- The end of every tile instruction's issue: the shape's faults, the operands' faults, room in the unit (R184, R186, R191). -/
def tileIssue (i : Instr) (f : Fields) (faults : Tile → List Flt) (caps : Tile → Caps) (s : State) (sh : Shape) : Eff :=
  let t := tileOf (s.gOp 0 f.d)
  match t.fault s.cur (tileSc sh.op (fld f.imm 0 4)) with
  | some (c, a) => .flt c a
  | none =>
    match firstKind (faults t) with
    | some (c, a) => .flt c a
    | none =>
      if 16 ≤ s.myCore.mtx.length then .wait .tileQueue
      else
        let d := s.detach i sh (fun d => { d with
          mode := s.modeOf (rmOf f), caps := { caps t with od := s.opnd 0 f.d.toNat }, due := s.cycles + 20 + tilePer sh.op t })
        let d := d.updMyCore (fun k => { k with mtx := k.mtx ++ [(s.cx, s.me.nextId)] })
        if sh.op != 0x2D1 then .done d
        else
          let d := d.updDet s.cur s.cx s.me.nextId (fun o => { o with snap := s.snapshot })
          .done (match d.det s.cur s.cx s.me.nextId with
            | some o => d.aliasRoll (d.tstHits s.cur s.cx o)
            | none => d)

/-- First and last of a list of numbers. -/
def ends (l : List Nat) : Option (Nat × Nat) :=
  match l with
  | [] => none
  | x :: _ => some (x, l.getLastD x)

/-- The operand in field a or b of a pair: address and stride (R185). -/
def State.pairOp (s : State) (role : Nat) (x : BitVec 6) : Word × Word := (s.gOp role x, s.gReg (x.toNat + 1))

/-- An `mma` (R187, R189, R190). -/
def mmaIssue (i : Instr) (f : Fields) (s : State) (sh : Shape) : Eff :=
  let (ta, tb, _) := mmaTy (sh.op % 16)
  let (rm, cm) := s.pairMasks (fld f.imm 7 2)
  let (a, sa) := s.pairOp 1 f.a
  let (b, sb) := s.pairOp 2 f.b
  let w := s.myWho .matrix
  tileIssue i f
    (fun t => match ends (enabledOf rm t.m), ends (enabledOf cm t.n) with
      | some (r0, r1), some (c0, c1) => if t.k = 0 then [] else
          s.spanFaults w a sa (tyBits ta / 8) r0 r1 0 (t.k - 1) false ++ s.spanFaults w b sb (tyBits tb / 8) 0 (t.k - 1) c0 c1 false
      | _, _ => [])
    (fun _ => { o1 := packOp a sa rm, o2 := packOp b sb cm, o3 := s.opnd 3 (0x40 + f.c.toNat) }) s sh

def execMmaF64F64 (f : Fields) (s : State) : Host.Outcome State Fault Refusal := issue (.mmaF64F64 f) s (mmaIssue (.mmaF64F64 f) f)
def execMmaF32F32 (f : Fields) (s : State) : Host.Outcome State Fault Refusal := issue (.mmaF32F32 f) s (mmaIssue (.mmaF32F32 f) f)
def execMmaBf16F32 (f : Fields) (s : State) : Host.Outcome State Fault Refusal := issue (.mmaBf16F32 f) s (mmaIssue (.mmaBf16F32 f) f)
def execMmaF16F32 (f : Fields) (s : State) : Host.Outcome State Fault Refusal := issue (.mmaF16F32 f) s (mmaIssue (.mmaF16F32 f) f)
def execMmaBf16Bf16 (f : Fields) (s : State) : Host.Outcome State Fault Refusal := issue (.mmaBf16Bf16 f) s (mmaIssue (.mmaBf16Bf16 f) f)
def execMmaF16F16 (f : Fields) (s : State) : Host.Outcome State Fault Refusal := issue (.mmaF16F16 f) s (mmaIssue (.mmaF16F16 f) f)
def execMmaE4m3F32 (f : Fields) (s : State) : Host.Outcome State Fault Refusal := issue (.mmaE4m3F32 f) s (mmaIssue (.mmaE4m3F32 f) f)
def execMmaE5m2F32 (f : Fields) (s : State) : Host.Outcome State Fault Refusal := issue (.mmaE5m2F32 f) s (mmaIssue (.mmaE5m2F32 f) f)
def execMmaE4m3Bf16 (f : Fields) (s : State) : Host.Outcome State Fault Refusal := issue (.mmaE4m3Bf16 f) s (mmaIssue (.mmaE4m3Bf16 f) f)
def execMmaE5m2Bf16 (f : Fields) (s : State) : Host.Outcome State Fault Refusal := issue (.mmaE5m2Bf16 f) s (mmaIssue (.mmaE5m2Bf16 f) f)
def execMmaDy8F32 (f : Fields) (s : State) : Host.Outcome State Fault Refusal := issue (.mmaDy8F32 f) s (mmaIssue (.mmaDy8F32 f) f)
def execMmaDy8Bf16 (f : Fields) (s : State) : Host.Outcome State Fault Refusal := issue (.mmaDy8Bf16 f) s (mmaIssue (.mmaDy8Bf16 f) f)
def execMmaI8I32 (f : Fields) (s : State) : Host.Outcome State Fault Refusal := issue (.mmaI8I32 f) s (mmaIssue (.mmaI8I32 f) f)

/-- `tld` and `tst` (R197, R198). -/
def tmemIssue (i : Instr) (f : Fields) (write : Bool) (s : State) (sh : Shape) : Eff :=
  let (rm, cm) := s.pairMasks (fld f.imm 7 2)
  let (a, sa) := s.pairOp 1 f.a
  tileIssue i f
    (fun t => match ends (enabledOf rm t.m), ends (enabledOf cm t.n) with
      | some (r0, r1), some (c0, c1) => s.spanFaults (s.myWho .matrix) a sa (tyBits (tileMty f.imm.toNat) / 8) r0 r1 c0 c1 write
      | _, _ => [])
    (fun _ => { o1 := packOp a sa rm, o2 := packOp 0 0 cm }) s sh

def execTld (f : Fields) (s : State) : Host.Outcome State Fault Refusal := issue (.tld f) s (tmemIssue (.tld f) f false)
def execTst (f : Fields) (s : State) : Host.Outcome State Fault Refusal := issue (.tst f) s (tmemIssue (.tst f) f true)
def execTzero (f : Fields) (s : State) : Host.Outcome State Fault Refusal :=
  issue (.tzero f) s (fun s sh =>
    let (rm, cm) := s.pairMasks (fld f.imm 7 2)
    tileIssue (.tzero f) f (fun _ => []) (fun _ => { o1 := packOp 0 0 rm, o2 := packOp 0 0 cm }) s sh)
def execTout (f : Fields) (s : State) : Host.Outcome State Fault Refusal :=
  issue (.tout f) s (fun s sh =>
    let (rm, cm) := s.pairMasks (fld f.imm 7 2)
    let (b, sb) := s.pairOp 1 f.a
    let (_, tb, _) := mmaTy (fld f.imm 0 4)
    tileIssue (.tout f) f
      (fun t => match ends (enabledOf cm t.n) with
        | some (c0, c1) => if t.k = 0 ∨ enabledOf rm t.m = [] then [] else s.spanFaults (s.myWho .matrix) b sb (tyBits tb / 8) 0 (t.k - 1) c0 c1 false
        | none => [])
      (fun _ => { o1 := packOp b sb rm
                  o2 := packOp (s.gOp 2 f.b) 0 rm ||| BitVec.ofNat 1024 (cm.toNat * 2 ^ 256), o3 := s.opnd 3 (0x40 + f.c.toNat) }) s sh)
def execTprog (f : Fields) (s : State) : Host.Outcome State Fault Refusal :=
  issue (.tprog f) s (fun s sh => .done (s.detach (.tprog f) sh (fun d => { d with due := s.cycles + 8 })))

end Sys2Proof.Machine
end

