-- ==== Sys2Proof/Machine/Copy.lean ====
section
/-!
DEFINITION. The copy engine (R224 to R235), the state of buffer handles (R237), major 0x38 (R227), and the engine's steps.
-/
namespace Sys2Proof.Machine

/-! Buffer handles (R237, R239, R249). -/

def hdlAddr (core h : Nat) : Nat := bufAddr core 3 + 0x6000 + 8 * h
def State.hdl (s : State) (core h : Nat) : Nat := s.win.read (hdlAddr core h) 8
def State.putHdl (s : State) (core h v : Nat) : State := { s with win := s.win.store (hdlAddr core h) v 8 }

/-- A status word: state, engine-owned, bytes (R239). -/
def mkHdl (st : Nat) (eng : Bool) (bytes : Nat) : Nat := st + eng.toNat * 4 + bytes % 2 ^ 32 * 2 ^ 8
def hdlState (v : Nat) : Nat := bits v 0 2
def hdlEng (v : Nat) : Bool := bits v 2 1 == 1
def hdlBytes (v : Nat) : Nat := bits v 8 32

/-! An engine's accesses (R230). -/

/-- Whether a core's copy permission mask lets an issuing core reach it (R137, R230, R329). -/
def State.maskOk (s : State) (issuer a : Nat) : Bool :=
  match spaceOf a with
  | .loc c _ => c == issuer || (match (s.core c).pmask with
    | some m => m.getLsbD issuer
    | none => false)
  | _ => true

/-- The fault of an engine's access to bytes of one line (R61, R230). `cv`: a converting command's destination; `ok`: what the
core's mask says. -/
def State.engFault (s : State) (w : Who) (a n : Nat) (write cv ok : Bool) : Option Flt :=
  match s.windowFault a n with
  | some b => some (cWindow, b)
  | none =>
    let addr : Word := BitVec.ofNat 64 a
    if !s.windowPerm w a n write || !ok || (write && w.node != 0 && decide (2 ^ 52 ≤ a)) then some (cPerm, addr)
    else if cv && s.hostAt w a then some (cPerm, addr) else none

/-- Reads pieces in order. -/
def engReadP (s : State) (w : Who) (lease : Nat) : List (Nat × Nat) → State × Except Flt Nat
  | [] => (s, .ok 0)
  | (a, n) :: l =>
    match s.engFault w a n false false (s.maskOk w.core a) with
    | some e => (s, .error e)
    | none =>
      match (s.afterOwned w a).load w a n lease false with
      | (s, .flt c b) => (s, .error (c, b))
      | (s, .hold) => (s, .error (cXlate, BitVec.ofNat 64 a))
      | (s, .ok v) =>
        match engReadP s w lease l with
        | (s, .error f) => (s, .error f)
        | (s, .ok r) => (s, .ok (v + 2 ^ (8 * n) * r))

/-! Records. -/

/-- A field of a command's record (R225). -/
def CopyCmd.f (d : CopyCmd) (lo len : Nat) : Nat := fld d.rcd lo len
def CopyCmd.src (d : CopyCmd) : Word := d.rcd.extractLsb' 0 64
def CopyCmd.len0 (d : CopyCmd) : Nat := d.f 192 32
def CopyCmd.cnt (d : CopyCmd) (k : Nat) : Nat := if d.minor = 0 then 1 else d.f (208 + 16 * k) 16
def CopyCmd.stride (d : CopyCmd) (lo : Nat) : Int := if d.minor = 0 then 0 else signed (d.f lo 64) 64
def CopyCmd.tag (d : CopyCmd) : Nat := d.f 272 16
def CopyCmd.skip (d : CopyCmd) : Nat := d.f 288 32
def CopyCmd.cv (d : CopyCmd) : Bool := d.f 843 1 == 1
def CopyCmd.sty (d : CopyCmd) : Nat := d.f 832 4
def CopyCmd.dty (d : CopyCmd) : Nat := d.f 836 4
def CopyCmd.ws (d : CopyCmd) : Nat := if d.cv then tyBits d.sty / 8 else 1
def CopyCmd.wd (d : CopyCmd) : Nat := if d.cv then tyBits d.dty / 8 else 1
def CopyCmd.lease (d : CopyCmd) : Nat := d.f 858 3 ^^^ 3
def CopyCmd.rmode (d : CopyCmd) : Mode := if d.f 840 3 = 0 then d.mode else d.f 840 3 % 4

/-- The runs of a command; none for a zero extent (R228, R234). -/
def CopyCmd.runs (d : CopyCmd) : Nat := if d.len0 = 0 then 0 else d.cnt 1 * d.cnt 2 * d.cnt 3

/-- Type pairs of R231. -/
def cvOk (dt st : Nat) : Bool := Enc.vcvtPair dt st

/-- The core whose local memory holds an address. -/
def locCore (a : Nat) : Option Nat :=
  match spaceOf a with
  | .loc c _ => some c
  | _ => none

/-- The rejection conditions of R226; `recv` is the receiver table of `mcast`. -/
def copyReject (d : CopyCmd) (recv : List (Word × Word)) : Bool :=
  let n := d.f 861 4
  let total := d.cnt 1 * d.cnt 2 * d.cnt 3
  d.f 865 159 != 0 || (if d.minor = 2 then n == 0 || decide (12 < n) else n != 0) || decide (2 ^ 32 ≤ total) ||
    decide (total < d.skip) || (!d.cv && (d.f 832 8 != 0 || d.f 840 3 != 0)) || (d.cv && !cvOk d.dty d.sty) ||
    (d.f 850 1 == 1 && (locCore d.src.toNat).isNone) ||
    (d.f 857 1 == 1 && recv.any (fun r => (locCore r.1.toNat).isNone)) ||
    (decide (1 ≤ d.f 840 3) && decide (d.f 840 3 ≤ 3)) || (d.minor == 2 && d.f 768 4 != 0) ||
    d.f 128 64 % 16 != 0 || recv.any (fun r => r.2.toNat % 16 != 0)

/-- Reads the receiver table (R229). -/
def readRecv (s : State) (w : Who) : Nat → Nat → State × Except Flt (List (Word × Word))
  | _, 0 => (s, .ok [])
  | a, n + 1 =>
    match s.readChecked w (BitVec.ofNat 64 a) 16 16 3 with
    | (s, .error e) => (s, .error e)
    | (s, .ok v) =>
      match readRecv s w (a + 16) n with
      | (s, .error e) => (s, .error e)
      | (s, .ok l) => (s, .ok ((BitVec.ofNat 64 (bits v 0 64), BitVec.ofNat 64 (bits v 64 64)) :: l))

/-- A handle that a command names: cores and number; none when its field is not valid. -/
def CopyCmd.hsOf (d : CopyCmd) : Option (Nat × Nat) :=
  if d.f 850 1 = 1 then (locCore d.src.toNat).map (fun c => (c, d.f 844 6)) else none
def CopyCmd.hdOf (d : CopyCmd) : List (Nat × Nat) :=
  if d.f 857 1 = 1 then (d.recv.filterMap (fun r => locCore r.1.toNat)).dedup.map (fun c => (c, d.f 851 6)) else []

/-! Runs (R228, R231, R232). -/

/-- Offsets of run `r` from run 0: source and destination. -/
def CopyCmd.offs (d : CopyCmd) (r : Nat) : Int × Int :=
  let r1 : Int := (r % d.cnt 1 : Nat)
  let r2 : Int := (r / d.cnt 1 % d.cnt 2 : Nat)
  let r3 : Int := (r / (d.cnt 1 * d.cnt 2) : Nat)
  (r1 * d.stride 320 + r2 * d.stride 384 + r3 * d.stride 448, r1 * d.stride 512 + r2 * d.stride 576 + r3 * d.stride 640)

/-- A value cut along pieces of a range. -/
def cutPieces : Nat → List (Nat × Nat) → List (Nat × Nat × Nat)
  | _, [] => []
  | v, (a, n) :: l => (a, n, v % 2 ^ (8 * n)) :: cutPieces (v / 2 ^ (8 * n)) l

/-- The writes of a run, receiver by receiver in order, under the masks that it finds as it starts (R228, R329). -/
def State.runWrites (s : State) (d : CopyCmd) (off : Int) (n v : Nat) : List CopyPiece :=
  ((List.range d.recv.length).zip d.recv).flatMap (fun r =>
    (cutPieces v (linePieces (wadd r.2.1 off).toNat n)).map (fun p =>
      { addr := p.1, n := p.2.1, v := p.2.2, ok := s.maskOk d.core p.1, rcv := r.1 }))

/-- A run starts (R228, R231): its source is read whole, its outliers are appended; its writes and flags, or the code that stops
the command. -/
def copyRun (s : State) (d : CopyCmd) (r : Nat) : State × Except Nat (List CopyPiece × Flags) :=
  let (so, dO) := d.offs r
  match engReadP s d.who d.lease (linePieces (wadd d.src so).toNat (d.len0 * d.ws)) with
  | (s, .error e) => (s, .error e.1)
  | (s, .ok v) =>
    if !d.cv then (s, .ok (s.runWrites d dO d.len0 v, 0))
    else
      let xs := lanesOf v (8 * d.ws) d.len0
      let rs := xs.map (fun x => cvtElem d.dty d.rmode (srcVal d.sty x))
      let fl : Flags := rs.foldl (fun a r => a ||| (r.map (·.2)).getD 0) 0
      let outl : List Outl := ((List.range d.len0).zip (xs.zip rs)).filterMap (fun e =>
        if e.2.2.isNone then some (r * d.len0 + e.1, srcVal d.sty e.2.1) else none)
      match s.append { d.who with unit := .strand } (BitVec.ofNat 64 (d.f 704 64)) d.core d.ctx outl with
      | .error e => (s, .error e.1)
      | .ok s => (s, .ok (s.runWrites d dO (d.len0 * d.wd)
          (joinLanes (8 * d.wd) (rs.map (fun r => (r.map (·.1)).getD (narrowTy d.dty).zero))), fl))

/-- Bytes land through a command's destination handle (R239). -/
def State.landed (s : State) (d : CopyCmd) (p : CopyPiece) : State :=
  match (nth d.recv p.rcv).bind (fun r => locCore r.1.toNat), decide (d.f 857 1 = 1) with
  | some c, true => let h := d.f 851 6; s.putHdl c h (mkHdl 1 true (hdlBytes (s.hdl c h) + p.n))
  | _, _ => s

/-- Writes of a run, in order, until a fault, a byte that a C buffer holds up, or one of a record to be taken first (R192, R225, R232,
R235): what is left, and the code. -/
def copyWrite (d : CopyCmd) : List CopyPiece → State → State × List CopyPiece × Option Nat
  | [], s => (s, [], none)
  | p :: l, s =>
    if s.cHeld p.addr p.n s.cycles d.core 16 || s.recordHeld (s.lineLoc d.pid d.asid p.addr) s.cycles then (s, p :: l, none)
    else
      match s.engFault d.who p.addr p.n true d.cv p.ok with
      | some e => (s, [], some e.1)
      | none =>
        match s.unitStore d.who p.addr p.n p.v d.lease with
        | (s, .flt c _) => (s, [], some c)
        | (s, _) => copyWrite d l ((s.passStore d.who p.addr p.n).landed d p)

/-- Whether a C buffer holds up the source of run `r` (R192). -/
def State.sourceHeld (s : State) (d : CopyCmd) (r : Nat) : Bool :=
  (linePieces (wadd d.src (d.offs r).1).toNat (d.len0 * d.ws)).any (fun p => s.cHeld p.1 p.2 s.cycles d.core 16)

/-- Whether an address lies in local or cluster memory of a cluster. -/
def inCluster (cl a : Nat) : Bool :=
  match spaceOf a with
  | .loc c _ => clusterOf c == cl
  | .clus n => n == cl
  | _ => false

/-- ck of a run (R236). -/
def State.runTime (s : State) (d : CopyCmd) (r : Nat) : Nat :=
  let cl := clusterOf d.core
  let (so, dO) := d.offs r
  let side (a : Nat) : Nat := if inCluster cl a then 0 else
    match spaceOf a with
    | .virt => s.figure d.who a false
    | _ => 40
  32 + (d.len0 * d.ws + 63) / 64 + side (wadd d.src so).toNat + ((d.recv.map (fun r => side (wadd r.1 dO).toNat)).foldl max 0)

/-! Submission. -/

/-- Room for one more command of a core (R224). -/
def State.copyRoom (s : State) (core : Nat) : Bool :=
  let l := (s.cluster (clusterOf core)).cmds
  let coming (c : Nat) : Nat := (s.core c).pushing 0
  decide (l.length + ((List.range 16).map (fun j => coming (clusterOf core * 16 + j))).sum < 32) &&
    decide ((l.filter (fun d => d.core == core)).length + coming core < 8)

/-- A command leaves for the engine (R227): `op` is the detached operation, none for a push to q0; its instruction issued at `now`. -/
def State.submitCopy (s : State) (minor : Nat) (addr : Word) (op : Option Nat) (bad : Bool) (now : Nat) : State :=
  let k := s.me
  let cl := clusterOf s.cur
  s.updCluster cl (fun c => { c with
    nextCmd := c.nextCmd + 1
    cmds := c.cmds ++ [{ core := s.cur, ctx := s.cx, op, minor, addr, mode := fld k.fpmode 0 2, node := k.hypCur.toNat
                         pid := s.pidOf s.cur, asid := k.asid.toNat, user := k.level == 0, cid := c.nextCmd, after := op.getD k.nextId, mt := k.mt
                         sentAt := now, due := now + 8, st := if bad then .arriving else .accepted, status := bad.toNat }] })

/-- The issue-time checks of a record address (R227): alignment, a range marked None, host memory; nothing else. -/
def State.copyFault (s : State) (a : Word) : Option Flt :=
  if a.toNat % 128 ≠ 0 then some (cAlign, a)
  else if spaceOf a.toNat = .none then some (cWindow, a)
  else if s.hostAt (s.myWho .strand) a.toNat then some (cPerm, a) else none

/-- Issue of `cpy`, `cpyb` or `mcast` (R227). -/
def copyIssue (i : Instr) (f : Fields) (minor : Nat) (s : State) (sh : Shape) : Eff :=
  let a := s.gOp 1 f.a
  match s.copyFault a with
  | some (c, b) => .flt c b
  | none =>
    if !s.copyRoom s.cur then .wait .engine
    else .done ((s.detach i sh (fun d => { d with left := 1 })).submitCopy minor a (some s.me.nextId) false s.cycles)

def execCpy (f : Fields) (s : State) : Host.Outcome State Fault Refusal := issue (.cpy f) s (copyIssue (.cpy f) f 0)
def execCpyb (f : Fields) (s : State) : Host.Outcome State Fault Refusal := issue (.cpyb f) s (copyIssue (.cpyb f) f 1)
def execMcast (f : Fields) (s : State) : Host.Outcome State Fault Refusal := issue (.mcast f) s (copyIssue (.mcast f) f 2)

/-! Steps of the engine. -/

/-- Whether a submitter's earlier loads, stores and posted operations are performed (R159, R235): those below `after`. One that has
faulted is performed by its replay, which is over once the strand's depth is down to `owe`. -/
def State.released (s : State) (core ctx after : Nat) (owe : Option Nat) (gone : Bool) : Bool :=
  let k := s.ctx core ctx
  let early (i : Nat) : Bool := decide (i < after)
  gone || (!k.outst.any (fun d => early d.id && (isLoadOp d.op || isStoreOp d.op)) && !k.posted.any (fun p => early p.id) &&
    !k.faults.any (fun f => early f.id) &&
    (match owe with
      | some d => k.rett.isNone && decide (k.trapDepth ≤ d)
      | none => true))

def State.cmd (s : State) (cl i : Nat) : Option CopyCmd := nth (s.cluster cl).cmds i
def State.updCmd (s : State) (cl i : Nat) (f : CopyCmd → CopyCmd) : State :=
  s.updCluster cl (fun c => { c with cmds := updNth f c.cmds i })

/-- Whether a command is the first of its channel that is not in state `st` or later (R224). -/
def State.firstOf (s : State) (cl i core : Nat) (before : CopySt → Bool) : Bool :=
  ((s.cluster cl).cmds.take i).all (fun d => d.core != core || !before d.st)

/-- Whether a command may be accepted (R224, R235, R236). -/
def State.copyAcceptable (s : State) (cl i : Nat) : Bool :=
  match s.cmd cl i with
  | some d => d.st == .accepted && s.firstOf cl i d.core (· == .accepted) && s.released d.core d.ctx d.after d.owe d.gone &&
      decide (d.due + s.figure d.who d.addr.toNat false ≤ s.cycles)
  | none => false

/-- The engine reads the record and its table, and checks them (R225, R226). -/
def State.copyAccept (s : State) (cl i : Nat) : State :=
  match s.cmd cl i with
  | none => s
  | some d =>
    let w : Who := { d.who with unit := .strand }
    let got : State × Except Flt Nat := match d.held with
      | some v => (s, .ok v.toNat)
      | none => s.readChecked w d.addr 128 128 d.lease
    match got with
    | (s, .error e) => s.updCmd cl i (fun d => { d with st := .arriving, status := e.1 })
    | (s, .ok v) =>
      let d := { d with rcd := BitVec.ofNat 1024 v, held := none, due := s.cycles }
      let n := d.f 861 4
      let (s, tab) := if d.minor = 2 ∧ n ≠ 0 ∧ n ≤ 12 ∧ d.f 768 4 = 0 then readRecv s w (d.f 768 64) n
        else (s, .ok (if d.minor = 2 then [] else [(d.rcd.extractLsb' 64 64, d.rcd.extractLsb' 128 64)]))
      match tab with
      | .error e => s.updCmd cl i (fun _ => { d with st := .arriving, status := e.1, run := d.skip })
      | .ok recv =>
        s.updCmd cl i (fun _ => if copyReject d recv then { d with st := .arriving, status := 1, run := d.skip }
          else { d with st := .read, recv, run := d.skip })

/-- A store sent after a submission has no effect on a command whose record has not been read (R225): before it is performed the
engine takes the record as it stands, once the submitter's own earlier stores are in; none while they are not. -/
def State.recordKept (s : State) (r : MemReq) (sentAt : Nat) : Option State :=
  if !r.kind.writes then some s
  else
    let line := s.lineLoc r.pid r.asid r.ea.toNat
    if s.recordHeld line sentAt then none else some (s.keepRecords line sentAt)

/-- The first step of the throttle withholds starts for launches of priority 0 to 3 (R391). -/
def State.copyThrottled (s : State) (d : CopyCmd) : Bool := decide (0 < s.throttle) && decide (d.mt.prio < 4)

/-- Whether a command may start (R224, R237, R391): a run slot is free, and no other has started in this ck. -/
def State.copyStartable (s : State) (cl i : Nat) : Bool :=
  match s.cmd cl i with
  | some d =>
    !s.copyThrottled d && d.st == .read && s.firstOf cl i d.core (fun t => t == .accepted || t == .read) &&
      (d.runs ≤ d.skip || (decide (((s.cluster cl).cmds.filter (fun e => e.st == .running)).length < 4) && !s.sourceHeld d d.skip)) &&
      (s.cluster cl).copyAt != s.cycles + 1 &&
      (match d.hsOf with
        | some (c, h) => hdlState (s.hdl c h) == 2 && !hdlEng (s.hdl c h)
        | none => true) &&
      d.hdOf.all (fun e => hdlState (s.hdl e.1 e.2) == 0 && !hdlEng (s.hdl e.1 e.2))
  | none => false

/-- The next run of a command starts, or the command has none left (R228, R232, R234). -/
def State.nextRun (s : State) (cl i : Nat) (d : CopyCmd) : State :=
  if d.runs ≤ d.run then s.updCmd cl i (fun _ => { d with st := .arriving, due := s.cycles + 20 })
  else
    match copyRun s d d.run with
    | (t, .error c) => t.updCmd cl i (fun _ => { d with st := .arriving, status := c })
    | (t, .ok (pend, fl)) => t.updCmd cl i (fun _ => { d with
        st := .running, pend, flags := d.flags ||| fl, due := s.cycles + s.runTime d d.run })

/-- A command starts (R224, R228, R237): it takes its handles, and its first run starts. -/
def State.copyStart (s : State) (cl i : Nat) : State :=
  match s.cmd cl i with
  | none => s
  | some d =>
    let s := match d.hsOf with
      | some (c, h) => s.putHdl c h (mkHdl 3 true (hdlBytes (s.hdl c h)))
      | none => s
    let s := d.hdOf.foldl (fun s e => s.putHdl e.1 e.2 (mkHdl 1 true 0)) s
    (s.updCluster cl (fun c => { c with copyAt := s.cycles + 1 })).nextRun cl i { d with started := true }

/-- A running command goes on (R224, R228, R235): it writes `k` more pieces of its run, all of them for 0, or starts the next run.
Between its steps other commands and other units act. None: it cannot. -/
def State.copyGo (s : State) (cl i k : Nat) : Option State :=
  match s.cmd cl i with
  | none => none
  | some d =>
    if d.st != .running then none
    else if d.pend.isEmpty then (if s.sourceHeld d d.run then none else some (s.nextRun cl i d))
    else if s.cycles < d.due then none
    else
      let now := if k = 0 then d.pend else d.pend.take k
      match copyWrite d now s with
      | (t, _, some c) => some (t.updCmd cl i (fun _ => { d with st := .arriving, status := c, pend := [] }))
      | (t, left, none) =>
        if left.length = now.length then none
        else
          let rest := left ++ d.pend.drop now.length
          if rest.isEmpty && decide (d.runs ≤ d.run + 1) then
            some (t.updCmd cl i (fun _ => { d with st := .arriving, pend := [], run := d.run + 1, due := s.cycles + 20 }))
          else some (t.updCmd cl i (fun _ => { d with pend := rest, run := if rest.isEmpty then d.run + 1 else d.run }))

/-- Bytes that a command has written to each receiver when every run is done (R234). -/
def CopyCmd.bytes (d : CopyCmd) : Nat := (d.run - d.skip) * d.len0 * d.wd

/-- The arrivals of a command (R234). -/
def State.copyArrive (s : State) (cl i : Nat) : State :=
  match s.cmd cl i with
  | none => s
  | some d =>
    let go (st : State × Nat) (r : Word × Word) : State × Nat :=
      let (s, j) := st
      let a := r.2.toNat
      if a = 0 then (s, j + 1)
      else
        match (if a < 2 ^ 52 ∨ spaceOf a = .none then some (cPerm, r.2)
          else s.engFault { d.who with node := 0 } a 16 true false (s.maskOk d.core a)) with
        | some e => (s.updCmd cl i (fun d => { d with fails := d.fails ++ [(j, e.1)] }), j + 1)
        | none =>
          ((s.send (16384 + cl) (s.homeOf d.pid a) (s.cycles + 20) (.arrive cl d.cid j r.2 d.bytes)).updCmd cl i
            (fun d => { d with sent := d.sent + 1 }), j + 1)
    let s := s.updCmd cl i (fun d => { d with st := .done })
    (d.recv.foldl go (s, 0)).1

/-- Whether arrivals are due: every run is written (R234). -/
def State.copyArrivable (s : State) (cl i : Nat) : Bool :=
  match s.cmd cl i with
  | some d => d.st == .arriving && d.started && d.status == 0
  | none => false

/-- An arrival at its sync word (R156, R234): packet `k`. -/
def State.arrival (s : State) (k : Nat) : State :=
  match nth s.net k with
  | some p =>
    match p.body with
    | .arrive cl cid j a n =>
      if s.performable k && !s.cHeld a.toNat 16 p.sentAt 4096 16 then
        let (s, bad) := if (s.win.firstBad a.toNat 16).isSome then (s.dropPkt k, some cUncorrectable)
          else match (s.dropPkt k).syncArrive a.toNat n with
            | some (s, _) => (s, none)
            | none => (s.dropPkt k, some 1)
        s.updCluster cl (fun c => { c with cmds := updIf (fun d => d.cid == cid) (fun d => { d with
          arrived := d.arrived + 1, due := s.cycles + 20
          fails := d.fails ++ (bad.map (fun e => (j, e))).toList }) c.cmds })
      else s
    | _ => s
  | none => s

/-- The status a command reports (R233, R234): its own, or that of the first receiver whose arrival failed. -/
def CopyCmd.final (d : CopyCmd) : Nat :=
  if d.status ≠ 0 then d.status
  else ((d.fails.foldl (fun (b : Option (Nat × Nat)) e => match b with
    | none => some e
    | some x => if e.1 < x.1 then some e else some x) none).map (·.2)).getD 0

/-- The completion element (R233). -/
def CopyCmd.element (d : CopyCmd) : Nat := d.tag + d.final * 2 ^ 16 + d.flags.toNat * 2 ^ 24 + d.run % 2 ^ 32 * 2 ^ 32

/-- Whether a command is complete (R234, R235). -/
def State.copyComplete (s : State) (cl i : Nat) : Bool :=
  match s.cmd cl i with
  | some d => (d.st == .done && d.arrived == d.sent && decide (d.due ≤ s.cycles)) || (d.st == .arriving && d.status != 0)
  | none => false

/-- An element comes to a context's queue; where it ends a pushed command, that has completed (R53). -/
def State.element (s : State) (core ctx q : Nat) (pushed : Bool) (v : Word) : State :=
  s.updCtx core ctx (fun k =>
    let k := { k with pushed := k.pushed - pushed.toNat }
    if q = 1 then { k with q1 := k.q1 ++ [v] } else if q = 3 then { k with q3 := k.q3 ++ [v] } else { k with q5 := k.q5 ++ [v] })

/-- A command produces its completion element and gives its handles back (R233, R237). Where all its data is written and an arrival is
refused, the destinations are Full, as completed, and the source is Full again, as stopped: the model's choice (log 82). -/
def State.copyDone (s : State) (cl i : Nat) : State :=
  match s.cmd cl i with
  | none => s
  | some d =>
    let s := if !d.started then s
      else
        let s := match d.hsOf with
          | some (c, h) => s.putHdl c h (mkHdl (if d.final = 0 then 0 else 2) false (hdlBytes (s.hdl c h)))
          | none => s
        d.hdOf.foldl (fun s e => s.putHdl e.1 e.2 (mkHdl (if d.status = 0 then 2 else 1) false (hdlBytes (s.hdl e.1 e.2)))) s
    let s := s.updCluster cl (fun c => { c with cmds := delNth c.cmds i })
    let v : Word := BitVec.ofNat 64 d.element
    if d.gone then s
    else
      match d.op with
      | some op => s.updDet d.core d.ctx op (fun o => { o with st := .done, left := 0, vals := [(codeAt o.iw 0, v.setWidth 1024)] })
      | none => s.element d.core d.ctx 1 true v

def execCopyCommandAccept (s : State) : Host.Outcome State Fault Refusal :=
  .next (if s.copyAcceptable s.ev.cluster s.ev.i then s.copyAccept s.ev.cluster s.ev.i else s)
def execCopyRunStart (s : State) : Host.Outcome State Fault Refusal :=
  .next (if s.copyStartable s.ev.cluster s.ev.i then s.copyStart s.ev.cluster s.ev.i
    else (s.copyGo s.ev.cluster s.ev.i s.ev.k).getD s)
def execCopyArrivalSend (s : State) : Host.Outcome State Fault Refusal :=
  .next (if s.copyArrivable s.ev.cluster s.ev.i then s.copyArrive s.ev.cluster s.ev.i else s)
def execSyncWordArrival (s : State) : Host.Outcome State Fault Refusal := .next (s.arrival s.ev.k)
def execCopyCompletion (s : State) : Host.Outcome State Fault Refusal :=
  .next (if s.copyComplete s.ev.cluster s.ev.i then s.copyDone s.ev.cluster s.ev.i else s)

end Sys2Proof.Machine
end

