-- ==== Sys2Proof/Machine/TileTask.lean ====
section
/-!
DEFINITION. Tile tasks and the cluster tile scheduler (R201 to R205): `tpost` and its forms, and the scheduler's steps.
-/
namespace Sys2Proof.Machine

/-- Fields of a task record (R201). -/
def TileTask.f (d : TileTask) (lo len : Nat) : Nat := fld d.rcd lo len
def TileTask.m (d : TileTask) : Nat := d.f 0 16
def TileTask.n (d : TileTask) : Nat := d.f 16 16
def TileTask.k (d : TileTask) : Nat := d.f 32 32
def TileTask.fmt (d : TileTask) : Nat := d.f 416 4
def TileTask.coff (d : TileTask) : Nat := d.f 448 17
def TileTask.lease (d : TileTask) : Nat := d.f 425 3 ^^^ 3
def TileTask.rmode (d : TileTask) : Mode := if d.f 420 3 = 0 then d.mode else d.f 420 3 % 4
def TileTask.addrAt (d : TileTask) (lo : Nat) : Word := d.rcd.extractLsb' lo 64

/-- Size of the task's C element. -/
def TileTask.sc (d : TileTask) : Nat := tyBits (mmaTy d.fmt).2.2 / 8

/-- Sub-tiles of a task (R203). -/
def TileTask.total (d : TileTask) : Nat := (d.m + 31) / 32 * ((d.n + 31) / 32)

/-- The rejection conditions of R203; and a coff that is no multiple of 64, which R201 rules out and R203 does not list: the model's choice
(log 79). -/
def taskReject (d : TileTask) : Bool :=
  d.f 428 4 != 0 || d.f 465 47 != 0 || d.f 704 64 != 0 || d.f 776 24 != 0 || d.f 896 128 != 0 ||
    d.m == 0 || decide (4096 < d.m) || d.n == 0 || decide (4096 < d.n) || decide (12 < d.fmt) ||
    (decide (1 ≤ d.f 420 3) && decide (d.f 420 3 ≤ 3)) || (d.f 424 1 == 1 && !(decide (6 ≤ d.fmt) && decide (d.fmt ≤ 11))) ||
    d.coff % 64 != 0 || decide (0x18000 < d.coff + 1024 * d.sc)

/-- Who a task acts for. -/
def TileTask.who (d : TileTask) : Who :=
  { core := d.core, pid := d.pid, asid := d.asid, user := d.user, node := d.node, unit := .matrix, engine := true, seq := d.mt.seq }

/-- Writes the record's status, commit and faddr (R201, R204). -/
def State.taskStatus (s : State) (d : TileTask) (status commit : Nat) (faddr : Word) : State :=
  let w := { d.who with unit := .strand }
  (s.hwWrite w (d.addr.toNat + 96) 16 (status + commit * 2 ^ 32 + faddr.toNat * 2 ^ 64)).passStore w (d.addr.toNat + 96) 16

/-- The element of a task (R205). -/
def TileTask.element (d : TileTask) (status : Nat) : Word :=
  BitVec.ofNat 64 (d.ticket % 2 ^ 32 + status * 2 ^ 32 + d.flags.toNat * 2 ^ 40 + d.commit % 2 ^ 19 * 2 ^ 45)

def State.task (s : State) (cl i : Nat) : Option TileTask := nth (s.cluster cl).tasks i
def State.updTask (s : State) (cl i : Nat) (f : TileTask → TileTask) : State :=
  s.updCluster cl (fun c => { c with tasks := updNth f c.tasks i })
/-- A task goes, with the messages of it that spill rings hold (R348). -/
def State.dropTask (s : State) (cl i : Nat) : State :=
  let t := ((s.task cl i).map (·.ticket)).getD 0
  let s := ((List.range 16).map (· + 16 * cl)).foldl (fun s c =>
    if (s.core c).ring.any (fun e => e.1 == t) then s.updCore c (fun k => { k with ring := k.ring.filter (fun e => e.1 != t) }) else s) s
  s.updCluster cl (fun c => { c with tasks := delNth c.tasks i })

/-- The element goes to q3 of the poster, while its strand is still there (R53, R205). -/
def State.taskElement (s : State) (d : TileTask) (status : Nat) : State :=
  if d.gone then s else s.element d.core d.ctx 3 d.op.isNone (d.element status)

/-! Posting. -/

/-- A post leaves for the scheduler (R202). -/
def State.submitTask (s : State) (addr : Word) (op : Option Nat) : State :=
  let k := s.me
  s.updCluster (clusterOf s.cur) (fun c => { c with tasks := c.tasks ++
    [{ ticket := 0, core := s.cur, ctx := s.cx, addr, mt := k.mt, mode := fld k.fpmode 0 2, pid := s.pidOf s.cur, asid := k.asid.toNat
       user := k.level == 0, op, after := op.getD k.nextId }] })

/-- Room in the scheduler (R202). -/
def State.taskRoom (s : State) (core : Nat) : Bool := 
  decide ((s.cluster (clusterOf core)).tasks.length + ((List.range 16).map (fun j => (s.core (clusterOf core * 16 + j)).pushing 2)).sum < 16)

def execTpost (f : Fields) (s : State) : Host.Outcome State Fault Refusal :=
  issue (.tpost f) s (fun s sh =>
    if !s.taskRoom s.cur then .wait .tasks
    else .done ((s.detach (.tpost f) sh (fun d => { d with left := 1 })).submitTask (s.gOp 1 f.a) (some s.me.nextId)))

/-- The paused task that a ticket names, of this context (R202). -/
def State.pausedTask (s : State) (ticket : Nat) : Option Nat :=
  findIdx (fun d => d.ticket == ticket && d.st == .paused && d.core == s.cur && d.ctx == s.cx && !d.gone)
    (s.cluster (clusterOf s.cur)).tasks

/-- `tpost.res` and `tpost.can` (R202): a release, then the command. -/
def taskCmd (i : Instr) (f : Fields) (cancel : Bool) (s : State) (sh : Shape) : Eff :=
  if !s.me.ordered true true then .wait (.order true true)
  else
    let v := s.gOp 1 f.a
    let cl := clusterOf s.cur
    let fin (s : State) (r : Word) : State :=
      s.detach i sh (fun d => { d with st := .done, vals := [(f.d.toNat, r.setWidth 1024)], due := s.cycles + 8 })
    match s.pausedTask v.toNat with
    | none => .done (fin s 0)
    | some j =>
      match s.task cl j with
      | none => .done (fin s 0)
      | some d =>
        if cancel then .done (fin ((s.taskStatus d 0x80 d.commit 0).dropTask cl j) v)
        else
          let s := if d.op.isNone then s.updMe (fun k => { k with pushed := k.pushed + 1 }) else s
          .done (fin ((s.taskStatus d 0 d.commit 0).updTask cl j (fun d =>
            { d with st := if d.run then .running else .accepted, status := 0 })) v)

def execTpostRes (s : State) : Host.Outcome State Fault Refusal := issue .tpostRes s (fun s sh => taskCmd .tpostRes sh.f false s sh)
def execTpostCan (s : State) : Host.Outcome State Fault Refusal := issue .tpostCan s (fun s sh => taskCmd .tpostCan sh.f true s sh)

/-! Acceptance (R203). -/

def State.taskAcceptable (s : State) (cl i : Nat) : Bool :=
  match s.task cl i with
  | some d => d.st == .posted && ((s.cluster cl).tasks.take i).all (fun e => e.st != .posted) && s.released d.core d.ctx d.after d.owe d.gone
  | none => false

/-- The ticket after `t` (R202). -/
def nextTick (t : Nat) : Nat := if t + 1 = 2 ^ 32 then 1 else t + 1

/-- A posted record is read, checked, and accepted or rejected (R202, R203). Acceptance leaves the record's old status (log 78); a record that
cannot be read makes no task, and its element carries the fault's code (log 80): both are the model's choice. -/
def State.taskAccept (s : State) (cl i : Nat) : State :=
  match s.task cl i with
  | none => s
  | some d =>
    let ticket := (s.cluster cl).nextTicket
    let d := { d with ticket, node := (s.ctx d.core d.ctx).hypCur.toNat }
    let s := s.updCluster cl (fun c => { c with nextTicket := nextTick ticket })
    let s := match d.op with
      | some op => if d.gone then s else s.updDet d.core d.ctx op (fun o => { o with
          st := .done, left := 0, vals := [(codeAt o.iw 0, BitVec.ofNat 1024 ticket)] })
      | none => s
    match s.readChecked { d.who with unit := .strand } d.addr 128 128 3 with
    | (s, .error e) => (s.dropTask cl i).taskElement d e.1
    | (s, .ok v) =>
      let d := { d with rcd := BitVec.ofNat 1024 v }
      if taskReject d then ((s.taskStatus d 1 0 0).dropTask cl i).taskElement d 1
      else s.updTask cl i (fun _ => { d with st := .accepted })

/-! Dependences, sub-tiles, faults (R203, R204). -/

/-- Whether a dependence word is full, read as `ldfe.keep` reads it (R147, R203), or its fault. -/
def State.depFull (s : State) (d : TileTask) (a : Word) : Except Flt Bool :=
  if a = 0 then .ok true
  else
    let w : Who := { d.who with unit := .strand }
    match s.issueFault w a 8 8 false with
    | some e => .error e
    | none =>
      match (s.afterOwned w a.toNat).atHome w a.toNat .read 3 with
      | (_, .error c) => .error (c, a)
      | (s, .ok h) => if s.isHost h || d.node != 0 then .error (cPerm, a) else if s.hFull h && s.hBad h 8 then .error (cUncorrectable, wordAddr a.toNat) else .ok (s.hFull h)

/-- Whether both dependences are met. -/
def State.depsFull (s : State) (d : TileTask) : Except Flt Bool :=
  match s.depFull d (d.addrAt 512), s.depFull d (d.addrAt 576) with
  | .error e, _ => .error e
  | .ok _, .error e => .error e
  | .ok a, .ok b => .ok (a && b)

/-- The elements of sub-tile `t` as rows and columns of D (R203). -/
def TileTask.rowsOf (d : TileTask) (t : Nat) : List Nat :=
  let p := t / ((d.n + 31) / 32)
  (List.range (min 32 (d.m - 32 * p))).map (· + 32 * p)
def TileTask.colsOf (d : TileTask) (t : Nat) : List Nat :=
  let q := t % ((d.n + 31) / 32)
  (List.range (min 32 (d.n - 32 * q))).map (· + 32 * q)

/-- The operand panels of sub-tile `t` (R203): for its row panel of A and its column panel of B the key, the element size and the
addresses of the elements, row by row and column by column. -/
def TileTask.panels (d : TileTask) (t : Nat) : List (Nat × Nat × List Word) :=
  let (ta, tb, _) := mmaTy d.fmt
  let w := (d.n + 31) / 32
  let ks := List.range d.k
  [(2 * (t / w), tyBits ta / 8, (d.rowsOf t).flatMap (fun i => ks.map (fun k => elAddr (d.addrAt 64) (d.addrAt 128) (tyBits ta / 8) i k))),
   (2 * (t % w) + 1, tyBits tb / 8, (d.colsOf t).flatMap (fun j => ks.map (fun k => elAddr (d.addrAt 192) (d.addrAt 256) (tyBits tb / 8) k j)))]

/-- The panels that a sub-tile needs and that have not been fetched are fetched, each once for the task (R203). -/
def fetchPanels (s : State) (d : TileTask) : List (Nat × Nat × List Word) → List (Nat × List Nat) → State × Except Flt (List (Nat × List Nat))
  | [], have_ => (s, .ok have_)
  | (k, n, as) :: l, have_ =>
    if have_.any (fun e => e.1 == k) then fetchPanels s d l have_
    else
      match readEls s d.who n d.lease as with
      | (s, .error e) => (s, .error e)
      | (s, .ok v) => fetchPanels s d l (have_ ++ [(k, v)])

/-- A fetched panel, and the `j`-th row or column of it. -/
def TileTask.panel (d : TileTask) (k : Nat) : List Nat := ((d.pans.find? (fun e => e.1 == k)).map (·.2)).getD []
def TileTask.lineOf (d : TileTask) (k j : Nat) : List Nat := ((d.panel k).drop (j * d.k)).take d.k

/-- The operand bytes of a sub-tile as they are streamed to its unit, and the number of messages of 256 bytes (R203, R348; log 57). -/
def TileTask.stream (d : TileTask) (t : Nat) : Nat × Nat :=
  (d.panels t).foldl (fun r p =>
    (r.1 + joinLanes (8 * p.2.1) (d.panel p.1) * 2 ^ (8 * r.2), r.2 + p.2.1 * p.2.2.length)) (0, 0)
def TileTask.msgs (d : TileTask) (t : Nat) : Nat := ((d.stream t).2 + 255) / 256

/-- Row blocks of a sub-tile. -/
def TileTask.blocks (d : TileTask) (t : Nat) : Nat := ((d.rowsOf t).length + 7) / 8

/-- Offset of an accumulator in its core's C buffer (R203): dense rows from coff on. -/
def TileTask.accOff (d : TileTask) (e : Nat × Nat) : Nat := d.coff + d.sc * (32 * (e.1 % 32) + e.2 % 32)
def TileTask.dAddr (d : TileTask) (e : Nat × Nat) : Word := elAddr (d.addrAt 320) ((d.rcd.extractLsb' 384 32).signExtend 64) d.sc e.1 e.2

/-- A row block of a sub-tile: every element over the whole of K, in the order of R188 (R203). -/
def State.subBlock (s : State) (d : TileTask) (b : SubTile) : Blk :=
  let rows := (d.rowsOf b.num).filter (fun i => i % 32 / 8 == b.row)
  let es := gridOf rows (d.colsOf b.num)
  let w := (d.n + 31) / 32
  match (if d.f 423 1 = 1 then readEls s d.who d.sc d.lease (es.map d.dAddr) else (s, .ok (es.map (fun _ => 0)))) with
  | (s, .error e) => { s, flt := some e }
  | (s, .ok accs) =>
    let sA := if d.f 424 1 = 1 then d.f 432 8 else 127
    let sB := if d.f 424 1 = 1 then d.f 440 8 else 127
    let rs := (es.zip accs).map (fun e =>
      mmaElem d.fmt d.rmode sA sB e.2 (d.lineOf (2 * (b.num / w)) (e.1.1 % 32)) (d.lineOf (2 * (b.num % w) + 1) (e.1.2 % 32)))
    s.cBlock b.core d.sc ((es.zip rs).map (fun e => (d.accOff e.1, e.2.1))) (flagsOf rs)

/-- Reads accumulators. -/
def accRead (s : State) (d : TileTask) (core : Nat) : List (Nat × Nat) → Except Flt (List Nat)
  | [] => .ok []
  | e :: l =>
    match s.cRead core (d.accOff e) d.sc with
    | .error f => .error f
    | .ok v => match accRead s d core l with
      | .error f => .error f
      | .ok r => .ok (v :: r)

/-- A sub-tile is committed to D (R203), or not at all where a store faults (R204). -/
def State.subCommit (s : State) (d : TileTask) (b : SubTile) : State × Option Flt :=
  let es := gridOf (d.rowsOf b.num) (d.colsOf b.num)
  match accRead s d b.core es with
  | .error f => (s, some f)
  | .ok vs =>
    let s := s.goodWhole d.who d.sc (es.map (fun e => (d.dAddr e).toNat))
    match putEls s d.who d.sc d.lease ((es.map d.dAddr).zip vs) with
    | (_, some f) => (s, some f)
    | (t, none) => (t, none)

/-- Whether a unit may take a sub-tile (R203): in the cluster, none on it, no own tile instruction waiting. -/
def State.unitFree (s : State) (cl u : Nat) : Bool :=
  clusterOf u == cl && !s.unavail u && !((s.cluster cl).tasks.any (fun t => t.subs.any (fun b => b.core == u))) &&
    (s.core u).mtx.all (fun e => ((s.det u e.1 e.2).map (·.started)).getD false)

/-- One step of a task on a unit (R203, R348): it takes its next sub-tile; operand messages, at most eight on their way at once, are sent to
it and arrive, those of the spill ring first; it does a row block; it commits in number order. Or the fault that it meets. -/
def State.taskStep (s : State) (cl i u : Nat) : State × Option Flt :=
  match s.task cl i with
  | none => (s, none)
  | some d =>
    if d.st != .running || !d.fb.isEmpty then (s, none)
    else
      match d.subs.find? (fun b => b.core == u) with
      | none =>
        if d.total ≤ d.next || !s.unitFree cl u then (s, none)
        else
          match fetchPanels s d (d.panels d.next) d.pans with
          | (t, .error e) => (t, some e)
          | (t, .ok pans) =>
            (t.updTask cl i (fun d => { d with pans, subs := d.subs ++ [{ num := d.next, core := u }], next := d.next + 1 }), none)
      | some b =>
        let upd (t : State) (f : SubTile → SubTile) : State :=
          t.updTask cl i (fun d => { d with subs := updIf (fun e => e.core == u) f d.subs })
        let ring := ((s.core u).ring.filter (fun e => e.1 == d.ticket)).length
        if 0 < ring then
          (upd (s.updCore u (fun k => { k with ring := k.ring.filter (fun e => e.1 != d.ticket) })) (fun b => { b with got := b.got + ring }), none)
        else if b.got < d.msgs b.num then
          (upd s (fun b => if b.sent = b.got then { b with sent := min (d.msgs b.num) (b.got + 8) } else { b with got := b.sent }), none)
        else if b.row < d.blocks b.num then
          let r := s.subBlock d b
          match r.flt with
          | some e => (r.s, some e)
          | none => ((upd r.s (fun b => { b with row := b.row + 1 })).updTask cl i (fun d => { d with flags := d.flags ||| r.fl }), none)
        else if b.num = d.commit then
          match s.subCommit d b with
          | (t, some e) => (t, some e)
          | (t, none) => (t.updTask cl i (fun d => { d with
              commit := d.commit + 1, subs := d.subs.filter (fun e => e.num != b.num) }), none)
        else (s, none)

/-- The fault that pauses a task: of a dependence word, of a step on a unit, of the done word; or a fallback's code (R204, R348). -/
def State.taskFlt (s : State) (cl i u : Nat) : Option Flt :=
  match s.task cl i with
  | none => none
  | some d =>
    match d.st with
    | .accepted => match s.depsFull d with
      | .error e => some e
      | .ok _ => none
    | .running =>
      if !d.fb.isEmpty then some (cOverdue, 0)
      else if d.commit < d.total then (s.taskStep cl i u).2
      else if d.addrAt 640 = 0 then none
      else (s.writeChecked { d.who with unit := .strand } (d.addrAt 640) 8 8 d.ticket 3).2
    | _ => none

/-- Slots of a core's spill ring that hold no message. -/
def Core.ringFree (k : Core) : List Nat := (List.range 8).filter (fun j => !k.ring.any (fun e => e.2 == j))

/-- Messages on their way to a core that a fallback has reached are caught in its spill ring, K 0x5800 on, as far as it has room; the
scheduler keeps the others (R348). Those of other cores arrive. -/
def State.catchMsgs (s : State) (cl i : Nat) (d : TileTask) : State :=
  d.subs.foldl (fun s b =>
    let fly := b.sent - b.got
    if fly = 0 then s
    else if !d.fb.contains b.core then
      s.updTask cl i (fun d => { d with subs := updIf (fun e => e.num == b.num) (fun e => { e with got := e.sent }) d.subs })
    else
      let slots := (s.core b.core).ringFree.take fly
      let bytes := (d.stream b.num).1
      let s := ((List.range slots.length).zip slots).foldl (fun s e =>
        { s with win := s.win.store (bufAddr b.core 3 + 0x5800 + 256 * e.2) (bits bytes (2048 * (b.got + e.1)) 2048) 256 }) s
      (s.updCore b.core (fun k => { k with ring := k.ring ++ slots.map (fun j => (d.ticket, j)) })).updTask cl i
        (fun d => { d with subs := updIf (fun e => e.num == b.num) (fun e => { e with sent := e.got + slots.length }) d.subs })) s

/-- A task pauses (R204, R348): its sub-tiles keep their progress. -/
def State.taskPause (s : State) (cl i : Nat) (e : Flt) : State :=
  match s.task cl i with
  | none => s
  | some d =>
    (((s.catchMsgs cl i d).taskStatus d e.1 d.commit e.2).updTask cl i (fun d =>
      { d with st := .paused, status := e.1, faddr := e.2, fb := [] })).taskElement d e.1

/-- A task completes (R205): done word, record, element; one cancelled at a suspension leaves its record only (R204). -/
def State.taskDone (s : State) (cl i : Nat) : State :=
  match s.task cl i with
  | none => s
  | some d =>
    match d.st with
    | .ended => (s.taskStatus d 0x80 d.commit 0).dropTask cl i
    | .running =>
      if d.commit < d.total then s
      else
        let w : Who := { d.who with unit := .strand }
        match (if d.addrAt 640 = 0 then (s, none) else s.writeChecked w (d.addrAt 640) 8 8 d.ticket 3) with
        | (_, some _) => s
        | (s, none) => ((s.taskStatus d 0 d.commit 0).dropTask cl i).taskElement d 0
    | _ => s

def execTileTaskAccept (s : State) : Host.Outcome State Fault Refusal :=
  .next (if s.taskAcceptable s.ev.cluster s.ev.i then s.taskAccept s.ev.cluster s.ev.i else s)
def execTileTaskDependenceReady (s : State) : Host.Outcome State Fault Refusal :=
  .next (match s.task s.ev.cluster s.ev.i with
    | some d =>
      if d.st = .accepted then (match s.depsFull d with
        | .ok true => s.updTask s.ev.cluster s.ev.i (fun d => { d with st := .running, run := true })
        | _ => s)
      else s
    | none => s)
def execSubtileComplete (s : State) : Host.Outcome State Fault Refusal :=
  .next (match s.taskStep s.ev.cluster s.ev.i s.ev.core with
    | (t, none) => t
    | (_, some _) => s)
def execTileTaskPause (s : State) : Host.Outcome State Fault Refusal :=
  .next (match s.taskFlt s.ev.cluster s.ev.i s.ev.core with
    | some e => s.taskPause s.ev.cluster s.ev.i e
    | none => s)
def execTileTaskComplete (s : State) : Host.Outcome State Fault Refusal := .next (s.taskDone s.ev.cluster s.ev.i)

end Sys2Proof.Machine
end

