-- ==== Sys2Proof/Machine/Coll.lean ====
section
/-!
DEFINITION. Router reductions (R240 to R244, R302 to R304): major 0x3A, posts by q4, and the steps of routers and rounds.
-/
namespace Sys2Proof.Machine

/-! The configuration of a collective (R240). -/

def Coll.f (c : Coll) (lo len : Nat) : Nat := fld c.cfg lo len
def Coll.pkg (c : Coll) : Bool := c.f 4 1 == 1
def Coll.ty (c : Coll) : Nat := c.f 7 4
def Coll.tmo (c : Coll) : Nat := c.f 64 32

/-- The rounding mode of its Ops. -/
def Coll.rm (c : Coll) : Mode := if c.f 11 3 = 0 then c.mode else c.f 11 3 % 4

/-- Whether a die takes part, and whether a cluster does. -/
def Coll.dieIn (c : Coll) (die : Nat) : Bool := if c.pkg then tst c.cfg (40 + die) else die == c.cfgDie
def Coll.member (c : Coll) (cluster : Nat) : Bool := c.on && decide (cluster < 256) && c.dieIn (cluster / 16) && tst c.cfg (24 + cluster % 16)

/-- The rejection conditions of R240 for a partition on some dies. -/
def collReject (v : BitVec 128) (dies : List Nat) : Bool :=
  let ty := fld v 7 4
  let rm := fld v 11 3
  tst v 15 || fld v 56 8 != 0 || fld v 96 32 != 0 || fld v 5 2 == 3 || !([2, 3, 6, 7, 8, 9, 10, 11].contains ty) ||
    (rm != 0 && (decide (rm < 4) || tyInt ty)) || !tst v (24 + fld v 16 2 + 4 * fld v 18 2) ||
    (tst v 4 && (!tst v (40 + fld v 20 2 + 4 * fld v 22 2) || (List.range 16).any (fun d => tst v (40 + d) && !dies.contains d)))

def State.coll (s : State) (pid id : Nat) : Coll := ((s.part pid).map (fun p => mget {} p.colls id)).getD {}
def State.updColl (s : State) (pid id : Nat) (f : Coll → Coll) : State :=
  s.updPart pid (fun p => { p with colls := mset {} p.colls id (f (mget {} p.colls id)) })

/-! The tree (R241). -/

/-- The next hop of a router toward the root: first along one axis, then along the other; none at the root. -/
def nextHop (yFirst : Bool) (root p : Nat × Nat) : Option (Nat × Nat) :=
  let toward (a b : Nat) : Nat := if a < b then a + 1 else a - 1
  if p = root then none
  else if (yFirst && p.2 != root.2) || p.1 = root.1 then some (p.1, toward p.2 root.2)
  else some (toward p.1 root.1, p.2)

/-- The children of a router in the order west, east, north, south. -/
def kidsOf (yFirst : Bool) (root p : Nat × Nat) : List (Nat × Nat) :=
  let near := (if 0 < p.1 then [(p.1 - 1, p.2)] else []) ++ (if p.1 < 3 then [(p.1 + 1, p.2)] else []) ++
    (if 0 < p.2 then [(p.1, p.2 - 1)] else []) ++ (if p.2 < 3 then [(p.1, p.2 + 1)] else [])
  near.filter (fun n => nextHop yFirst root n == some p)

/-- Place in a 4 × 4 mesh as a number. -/
def meshAt (p : Nat × Nat) : Nat := p.1 + 4 * p.2

/-- Whether a router's subtree holds a member. -/
def subtreeHas (m : Nat → Bool) (yFirst : Bool) (root : Nat × Nat) : Nat → Nat × Nat → Bool
  | 0, p => m (meshAt p)
  | n + 1, p => m (meshAt p) || (kidsOf yFirst root p).any (subtreeHas m yFirst root n)

/-- Op on two values (R241): lane by lane, with the flags of every lane. -/
def Coll.op (c : Coll) (a b : Vec) : Vec × Flags :=
  let ty := c.ty
  let w := tyBits ty
  let f := if c.f 5 2 = 0 then addE else if c.f 5 2 = 1 then minE else maxE
  let rs := (List.range (1024 / w)).map (fun i => f ty c.rm (lane a w i) (lane b w i))
  (BitVec.ofNat 1024 (joinLanes w (rs.map (·.1))), flagsOf rs)

/-- A value as an operation gives it: a NaN that is passed through is canonical too (R94). -/
def Coll.canon (c : Coll) (v : Vec) : Vec × Flags :=
  let w := tyBits c.ty
  let rs := (lanesOf v.toNat w (1024 / w)).map (canonE c.ty)
  (BitVec.ofNat 1024 (joinLanes w (rs.map (·.1))), flagsOf rs)

/-- A value at a router, and the ck from which it is there. -/
abbrev Timed := Vec × Nat

/-- A router's own value and those of its children that count, in order (R241); each Op takes 4 ck. None: one has not been passed
on. -/
def foldVals (c : Coll) : List (Option Timed) → Option Timed → Flags → Option (Option Timed × Flags)
  | [], acc, fl => some (acc, fl)
  | none :: _, _, _ => none
  | some (v, t) :: l, none, fl => let (r, f) := c.canon v; foldVals c l (some (r, t)) (fl ||| f)
  | some (v, t) :: l, some (a, u), fl => let (r, f) := c.op a v; foldVals c l (some (r, max t u + 4)) (fl ||| f)

/-- The value a router passes on, once its inputs are passed on: `own` is its local contribution where it is a member, `got` the
values of routers by place, `hop` away. -/
def routerValue (c : Coll) (m : Nat → Bool) (own : Option Timed) (got : Nat → Option Timed) (hop : Nat) (root p : Nat × Nat) :
    Option (Option Timed × Flags) :=
  let yf := c.f 14 1 == 1
  let kids := (kidsOf yf root p).filter (subtreeHas m yf root 7)
  foldVals c ((if m (meshAt p) then [own] else []) ++ kids.map (fun k => (got (meshAt k)).map (fun e => (e.1, e.2 + hop)))) none 0

/-- What router `r` of a round passes on, and from when: cluster routers by cluster number, die routers by 256 + die. A hop is 8 ck
in a die, 32 between dies (R241). -/
def Coll.routed (c : Coll) (rd : Round) (r : Nat) : Option (Option Timed × Flags) :=
  let got (k : Nat) : Option Timed := (mget none rd.passed k).map (fun v => (v, mget 0 rd.times (512 + k)))
  if r < 256 then
    let die := r / 16
    if !c.dieIn die then none
    else routerValue c (fun k => c.member (16 * die + k)) ((mget none rd.contrib r).map (fun v => (v, mget 0 rd.times r)))
      (fun k => got (16 * die + k)) 8 (c.f 16 2, c.f 18 2) (r % 4, r % 16 / 4)
  else
    let die := r - 256
    if !c.pkg || 16 ≤ die then none
    else routerValue c c.dieIn (got (16 * die + c.f 16 2 + 4 * c.f 18 2)) (fun k => got (256 + k)) 32 (c.f 20 2, c.f 22 2) (die % 4, die / 4)

/-- Steps between two places of a 4 × 4 mesh. -/
def meshDist (a b : Nat × Nat) : Nat := (max a.1 b.1 - min a.1 b.1) + (max a.2 b.2 - min a.2 b.2)
/-- Die-edge links between two dies. -/
def dieDist (a b : Nat) : Nat := meshDist (a % 4, a / 4) (b % 4, b / 4)

/-- ck from the root to a poster: down the reverse tree, and 12 from its router (R241, R303). -/
def Coll.wayDown (c : Coll) (core : Nat) : Nat :=
  let cl := clusterOf core
  (if c.pkg then 32 * dieDist (c.f 20 2 + 4 * c.f 22 2) (dieOf core) else 0) +
    8 * meshDist (c.f 16 2, c.f 18 2) (cl % 4, cl % 16 / 4) + 12

/-- ck that a configuration takes to every member die (R303). -/
def cfgTime (v : BitVec 128) (die : Nat) : Nat :=
  40 + if tst v 4 then 48 * (((List.range 16).filter (fun d => tst v (40 + d))).map (dieDist die)).foldl max 0 else 0

/-- The router at which a round's result is published. -/
def Coll.rootOf (c : Coll) : Nat :=
  if c.pkg then 256 + c.f 20 2 + 4 * c.f 22 2 else 16 * c.cfgDie + c.f 16 2 + 4 * c.f 18 2

/-! Rounds (R242, R243). -/

/-- The round number as software sees it (R302). -/
def roundNum (k : Nat) : Nat := k % (2 ^ 32 - 1) + 1

/-- A round is in progress (R240): a contribution was accepted, no result is published and it has not failed. -/
def Round.open_ (r : Round) : Bool := r.result.isNone && !r.failed

/-- Whether nothing is left to do for a round: its posters are served and no member is still to join it (R243). -/
def Coll.over (c : Coll) (r : Round) : Bool :=
  !r.open_ && r.posters.isEmpty &&
    (r.ep != c.ep || r.result.isSome || (List.range 256).all (fun k => !c.member k || decide (r.num < mget 0 c.joined k)))

def Coll.sweep (c : Coll) : Coll := { c with rounds := c.rounds.filter (fun r => !c.over r) }

/-- A contribution of a member cluster to its next round is accepted (R242, R243). -/
def State.contribute (s : State) (pid id cluster : Nat) (v : Vec) (p : Poster) : State :=
  s.updColl pid id (fun c =>
    let k := mget 0 c.joined cluster
    let c := { c with joined := mset 0 c.joined cluster (k + 1) }
    let join (r : Round) : Round := { r with
      contrib := if r.failed then r.contrib else mset none r.contrib cluster (some v)
      times := if r.failed then r.times else mset 0 r.times cluster s.cycles
      posters := r.posters ++ [{ p with came := s.cycles }] }
    if c.rounds.any (fun r => r.ep == c.ep && r.num == k) then
      { c with rounds := updIf (fun r => r.ep == c.ep && r.num == k) join c.rounds }
    else { c with rounds := c.rounds ++ [join { num := k, ep := c.ep, cfg := c.cfg, started := s.cycles }] })

/-- The round that the cluster of a core contributes to next. -/
def State.nextRound (s : State) (core id : Nat) : PostedRound :=
  let c := s.coll (s.pidOf core) id
  { id, num := mget 0 c.joined (clusterOf core), ep := c.ep }

/-- Whether an outstanding operation is the `red.post` (minor 1) or the `red.get` (minor 2) of an id. -/
def DetOp.ofColl (d : DetOp) (minor id : Nat) : Bool := d.op == 0x3A0 + minor && fld d.caps.o1 0 4 == id

/-- The `red.get` operations of an id that no round is theirs yet, oldest first. -/
def Ctx.getsOpen (k : Ctx) (id : Nat) : List DetOp :=
  k.outst.filter (fun d => d.ofColl 2 id && k.rounds.all (fun r => r.op != some d.id))

/-- Posts of an id that are not accepted and that no `red.get` is for. -/
def Ctx.posting (k : Ctx) (id : Nat) : Nat := (k.outst.filter (·.ofColl 1 id)).length - (k.getsOpen id).length

/-- Posted rounds of an id that the context has not taken. -/
def Ctx.untaken (k : Ctx) (id : Nat) : Nat :=
  (k.rounds.filter (fun r => r.id == id)).length + (k.outst.filter (·.ofColl 1 id)).length

/-- Who posts. -/
def State.poster (s : State) (block : Option Word) : Poster :=
  let k := s.me
  { core := s.cur, ctx := s.cx, block, pid := s.pidOf s.cur, asid := k.asid.toNat, user := k.level == 0, node := k.hypCur.toNat, mt := k.mt }

/-! Major 0x3A (R242). -/

def execRedCfg (f : Fields) (s : State) : Host.Outcome State Fault Refusal :=
  issue (.redCfg f) s (fun s sh =>
    let a := s.gOp 1 f.a
    match s.issueFault (s.myWho .strand) a 16 16 false with
    | some (c, b) => .flt c b
    | none => .done ((s.detach (.redCfg f) sh (fun d => { d with left := 1, mode := fld s.me.fpmode 0 2 })).sendReq
        s.me.nextId (s.reqOf .load a 16) 0))

/-- The end of `red.cfg` (R240, R303): its descriptor has been read and the member dies hold it; while a round of the id is in
progress it is not yet. -/
def State.redCfgEnd (s : State) (c x : Nat) (d : DetOp) : Option State :=
  let v : BitVec 128 := ((d.vals.head?.map (fun (e : Nat × Vec) => e.2)).getD 0).setWidth 128
  let pid := s.pidOf c
  let id := fld v 0 4
  if s.cycles < d.issuedAt + 40 then none
  else if collReject v (s.diesOf pid) then some (s.failOp c x d cIllegal (d.caps.o1.setWidth 64) 0 0)
  else if s.cycles < d.issuedAt + cfgTime v (dieOf c) || (s.coll pid id).rounds.any Round.open_ then none
  else some ((s.updColl pid id (fun k => ({ k with
    on := true, cfg := v, mode := d.mode, cfgDie := dieOf c, joined := [], ep := k.ep + 1 } : Coll).sweep)).endDet c x d [] 0)

def execRedPost (f : Fields) (s : State) : Host.Outcome State Fault Refusal :=
  issue (.redPost f) s (fun s sh =>
    let id := fld (s.gOp 1 f.a) 0 4
    if s.me.hypCur != 0 then .flt cPerm 0
    else if !s.me.ordered true true then .wait (.order true true)
    else if 4 ≤ s.me.untaken id then .wait (.rounds id)
    else .done (s.detach (.redPost f) sh (fun d => { d with due := s.cycles + 12 })))

/-- The end of `red.post` (R242, R303): its router accepts the contribution, or there is none for it; a post of the context that
issued before comes first. The oldest `red.get` that waits for a round takes this one. -/
def State.redPostEnd (s : State) (c x : Nat) (d : DetOp) : Option State :=
  let id := fld d.caps.o1 0 4
  let pid := s.pidOf c
  let k := s.ctx c x
  if k.outst.any (fun e => e.op == 0x3A1 && decide (e.id < d.id)) then none
  else if !(s.coll pid id).member (clusterOf c) then some (s.failOp c x d cIllegal 0 0 0)
  else
    let r := { s.nextRound c id with op := (k.getsOpen id).head?.map (·.id) }
    some (((s.updCtx c x (fun k => { k with rounds := k.rounds ++ [r] })).contribute pid id (clusterOf c) d.caps.o2
      { core := c, ctx := x }).endPos c x d [(codeAt d.iw 0, BitVec.ofNat 1024 (roundNum r.num))] 0)

def execRedGet (f : Fields) (s : State) : Host.Outcome State Fault Refusal :=
  issue (.redGet f) s (fun s sh =>
    let id := fld (s.gOp 1 f.a) 0 4
    if s.me.hypCur != 0 then .flt cPerm 0
    else
      let det (t : Nat) : State := s.detach (.redGet f) sh (fun d => { d with left := 1, acq := true, due := t })
      match findIdx (fun r => r.id == id && !r.queue && r.op.isNone) s.me.rounds with
      | none => if s.me.posting id = 0 then .flt cIllegal 0 else .done (det 0)
      | some j =>
        let here := (nth s.me.rounds j).any (fun r => r.res.isSome || r.failed)
        let op := s.me.nextId
        .done ((det (if here then s.cycles + 8 else 0)).updMe
          (fun k => { k with rounds := updNth (fun r => { r with op := some op }) k.rounds j })))

/-- The end of `red.get` (R242, R243): the round's result, or REDUCTION-TIMEOUT; none while neither has arrived. Where the post that
it issued behind was refused, it has no round: ILLEGAL. -/
def State.redGetEnd (s : State) (c x : Nat) (d : DetOp) : Option State :=
  let id := fld d.caps.o1 0 4
  match (s.ctx c x).rounds.find? (fun r => r.op == some d.id) with
  | none => if (s.ctx c x).outst.any (fun e => e.ofColl 1 id && decide (e.id < d.id)) then none
      else some (s.failOp c x d cIllegal 0 0 0)
  | some r =>
    let t := s.updCtx c x (fun k => { k with rounds := k.rounds.filter (fun e => e.op != some d.id) })
    if r.failed then some (t.failOp c x d cRedTimeout 0 0 0)
    else
      match r.res with
      | none => none
      | some v => some (t.endPos c x d
          [(codeAt d.iw 0, v), (codeAt d.iw 2, BitVec.ofNat 1024 (roundNum r.num + r.flags.toNat * 2 ^ 32))] 0)

/-! The queue form (R244). -/

/-- An element of q5. -/
def redElement (num : Nat) (fl : Flags) (status : Nat) : Word := BitVec.ofNat 64 (num + fl.toNat * 2 ^ 32 + status % 256 * 2 ^ 37)

/-- Who the engine accesses a block for. -/
def Poster.who (p : Poster) : Who := { core := p.core, pid := p.pid, asid := p.asid, user := p.user, node := p.node, unit := .vector, engine := true, seq := p.mt.seq }

/-- The result replaces a block (R244): its pieces in order, until a fault. -/
def putBlock (s : State) (w : Who) : List (Nat × Nat × Nat) → State × Option Nat
  | [] => (s, none)
  | (a, n, v) :: l =>
    match s.engFault w a n true false (s.maskOk w.core a) with
    | some e => (s, some e.1)
    | none =>
      match s.unitStore w a n v 3 with
      | (s, .flt c _) => (s, some c)
      | (s, _) => putBlock (s.passStore w a n) w l

/-- A push of `v` to q4, once it may be sent: the contribution, or its element with a status. -/
def State.pushRed (s : State) (v : Word) : State :=
  let id := fld v 0 4
  let a := v.toNat / 128 * 128
  let pid := s.pidOf s.cur
  let p := s.poster (some (BitVec.ofNat 64 a))
  let s := s.updMe (fun k => { k with pushed := k.pushed + 1 })
  let bad (s : State) (status : Nat) : State := s.element s.cur s.cx 5 true (redElement 0 0 status)
  let ps := linePieces a 128
  if fld v 4 3 != 0 then bad s cIllegal
  else if s.me.hypCur != 0 then bad s cPerm
  else
    match ps.findSome? (fun e => s.engFault p.who e.1 e.2 true false (s.maskOk p.core e.1)) with
    | some e => bad s e.1
    | none =>
      match engReadP s p.who 3 ps with
      | (s, .error e) => bad s e.1
      | (s, .ok b) =>
        if !(s.coll pid id).member (clusterOf s.cur) then bad s cIllegal
        else
          let r := s.nextRound s.cur id
          (s.updMe (fun k => { k with rounds := k.rounds ++ [{ r with queue := true }] })).contribute pid id (clusterOf s.cur)
            (BitVec.ofNat 1024 b) p

/-! Steps of routers and rounds. -/

def State.updRound (s : State) (pid id k : Nat) (f : Round → Round) : State :=
  s.updColl pid id (fun c => ({ c with rounds := updNth f c.rounds k } : Coll).sweep)
def State.round (s : State) (pid id k : Nat) : Option Round := nth (s.coll pid id).rounds k

/-- Whether a round's time is up (R243). -/
def Coll.late (c : Coll) (rd : Round) (now : Nat) : Bool := c.tmo != 0 && decide (rd.started + c.tmo ≤ now)

/-- A router forms its value and passes it on (R241, R303); at the root it is the result (R240, R304), unless the round's time is up
(R243). -/
def State.routeRound (s : State) (pid id k r : Nat) : State :=
  let c := s.coll pid id
  match nth c.rounds k with
  | none => s
  | some rd =>
    if !rd.open_ || (mget none rd.passed r).isSome then s
    else
      match c.routed rd r with
      | some (some (v, t), fl) =>
        if s.cycles < t || (r == c.rootOf && c.late rd s.cycles) then s
        else s.updRound pid id k (fun rd => { rd with
          passed := mset none rd.passed r (some v), times := mset 0 rd.times (512 + r) s.cycles, flags := rd.flags ||| fl
          result := if r = c.rootOf then some v else none, endAt := s.cycles })
      | _ => s

/-- A round fails (R243): its partial values are discarded. -/
def State.failRound (s : State) (pid id k : Nat) : State :=
  let c := s.coll pid id
  match nth c.rounds k with
  | none => s
  | some rd =>
    if rd.open_ && c.late rd s.cycles then
      s.updRound pid id k (fun rd => { rd with failed := true, contrib := [], passed := [], flags := 0, endAt := s.cycles })
    else s

/-- The result, or the notice of its failure, reaches poster `j` (R242 to R244, R303), down the tree of the round's own configuration; one
who comes later has it 12 ck after the acceptance. A queue-form round counts as taken once its
element is in q5, not when that is popped: the model's choice (log 58). -/
def State.deliver (s : State) (pid id k j : Nat) : State :=
  match s.round pid id k with
  | none => s
  | some rd =>
    match nth rd.posters j with
    | none => s
    | some p =>
      let way := ({ s.coll pid id with cfg := rd.cfg } : Coll).wayDown p.core
      if rd.open_ || decide (s.cycles < max (rd.endAt + way) (p.came + 12)) then s
      else
        let s := s.updRound pid id k (fun rd => { rd with posters := delNth rd.posters j })
        let mine (r : PostedRound) : Bool := r.id == id && r.num == rd.num && r.ep == rd.ep
        match p.block with
        | none =>
          if p.gone then s
          else s.updCtx p.core p.ctx (fun x => { x with
            rounds := updIf mine (fun r => { r with res := rd.result, flags := rd.flags, failed := rd.failed }) x.rounds })
        | some a =>
          let (s, st) := match rd.result with
            | none => (s, cRedTimeout)
            | some v => match putBlock s p.who (cutPieces v.toNat (linePieces a.toNat 128)) with
              | (s, none) => (s, 0)
              | (s, some e) => (s, e)
          if p.gone then s
          else (s.updCtx p.core p.ctx (fun x => { x with rounds := x.rounds.filter (fun r => !(mine r && r.queue)) })).element
            p.core p.ctx 5 true (redElement (roundNum rd.num) (if rd.failed then 0 else rd.flags) st)

def execReductionContribution (s : State) : Host.Outcome State Fault Refusal :=
  .next (s.routeRound s.ev.pid s.ev.id s.ev.round s.ev.router)
def execReductionResultArrival (s : State) : Host.Outcome State Fault Refusal :=
  .next (s.deliver s.ev.pid s.ev.id s.ev.round s.ev.k)
def execReductionTimeout (s : State) : Host.Outcome State Fault Refusal :=
  .next (s.failRound s.ev.pid s.ev.id s.ev.round)

end Sys2Proof.Machine
end

