-- ==== Sys2Proof/Machine/Queue.lean ====
section
/-!
DEFINITION. Queue registers: `qbind`, `qmov` (R52, R158 to R160); buffer handles as software moves them (R238, R239); the bit
streams of context 15 (R245 to R248).
-/
namespace Sys2Proof.Machine

/-! Channels (R158). -/

def execQbind (f : Fields) (s : State) : Host.Outcome State Fault Refusal :=
  issue (.qbind f) s (fun s _ =>
    let d := s.gOp 1 f.a
    if fld d 8 56 != 0 || fld d 0 4 == 15 || fld d 0 4 == s.cx then .flt cIllegal 0
    else .done ((s.updMyCore (fun k => k.unbind s.cx f.d.toNat)).updMe (fun k => { k with chans := mset none k.chans f.d.toNat (some d) })))
def execQbindOff (s : State) : Host.Outcome State Fault Refusal :=
  issue .qbindOff s (fun s sh => .done (s.updMyCore (fun k => k.unbind s.cx sh.f.d.toNat)))

/-! `qmov` (R160). -/

/-- Whether a queue register may be popped (`push` false) or pushed (R52). -/
def State.qRole (s : State) (q : Nat) (push : Bool) : Bool :=
  if q < 8 then (q % 2 == 0) == push
  else match mget none s.me.chans q with
    | some d => tst d 7 == push
    | none => false

/-- Elements of the channel that a register is bound to; none while it is not live. -/
def State.qChan (s : State) (q : Nat) : Option (Nat × List Word) :=
  (s.myCore.liveChan s.cx q).map (fun c => (c, mget [] s.myCore.chan c))

/-- The key of the queue behind a pop register (R378). -/
def State.qKey (s : State) (q : Nat) : Nat :=
  if 8 ≤ q then 256 + ((s.qChan q).map (·.1)).getD 0 else if 6 ≤ q then 240 + q else 16 * s.cx + q

/-- `n` elements leave the head of a queue: what is known of the check bits of the others moves with them. -/
def Core.badPast (k : Core) (key n : Nat) : Core :=
  { k with badQ := k.badQ.filterMap (fun e => if e.1 != key then some e else if e.2 < n then none else some (key, e.2 - n)) }

/-- Whether one of the first `n` elements of a queue fails its check bits (R378). -/
def Core.badHead (k : Core) (key n : Nat) : Bool := k.badQ.any (fun e => e.1 == key && decide (e.2 < n))

/-- Pops one element: none while the queue is empty. -/
def State.qPop (s : State) (q : Nat) : Option (Word × State) :=
  match q with
  | 1 => match s.me.q1 with
    | v :: l => some (v, s.updMe (fun k => { k with q1 := l }))
    | [] => none
  | 3 => match s.me.q3 with
    | v :: l => some (v, s.updMe (fun k => { k with q3 := l }))
    | [] => none
  | 5 => match s.me.q5 with
    | v :: l => some (v, s.updMe (fun k => { k with q5 := l }))
    | [] => none
  | 7 => match s.myCore.qout with
    | v :: l => some (v, s.updMyCore (fun k => { k with qout := l }))
    | [] => none
  | q => match s.qChan q with
    | some (c, v :: l) => some (v, s.updMyCore (fun k => { k with chan := mset [] k.chan c l }))
    | _ => none

/-- Whether a push of `v` has a free place (R52). -/
def State.qRoom (s : State) (q : Nat) (v : Word) : Bool :=
  match q with
  | 0 => s.copyRoom s.cur
  | 2 => s.taskRoom s.cur
  | 4 => decide (s.me.untaken (fld v 0 4) < 4)
  | 6 => decide (s.myCore.qin.length + s.myCore.pushing 6 < 16)
  | q => match s.qChan q with
    | some (_, l) => decide (l.length < 8)
    | none => false

/-- What a push waits for: a free place, and for a release that the machine makes at issue the strand's older accesses, for a
channel at scope 1 (R159). -/
def State.qWait (s : State) (q : Nat) (v : Word) : Option WaitWhy :=
  if !s.qRoom q v then some (if q = 4 then .rounds (fld v 0 4) else .queue (16 + q))
  else if 8 ≤ q then s.orderWait 1 true true
  else if q != 0 && q != 2 && !s.me.ordered true true then some (.order true true) else none

/-- A push of `v` by an instruction that retires now (R160, R202, R227, R244, R245). -/
def State.qPush (s : State) (q : Nat) (v : Word) : State :=
  let more (s : State) : State := s.updMe (fun k => { k with pushed := k.pushed + 1 })
  match q with
  | 0 => more (s.submitCopy (fld v 0 2) (v &&& ~~~127) none (fld v 0 2 == 3 || fld v 2 5 != 0) (s.cycles - 8))
  | 2 => more (s.submitTask v none)
  | 4 => s.pushRed v
  | 6 => more (s.updMyCore (fun k => { k with qin := k.qin ++ [v], qinOf := k.qinOf ++ [s.cx] }))
  | q => match s.qChan q with
    | some (c, l) => s.updMyCore (fun k => { k with chan := mset [] k.chan c (l ++ [v]) })
    | none => s

/-- The element that a replayed `qmov` uses in place of its pop (R36, R160): that of a record made after the pop. -/
def State.popped (s : State) : Option Word := (s.replay.filter (·.pop)).map (fun r => r.caps.o1.setWidth 64)

/-- The source of `qmov`: the element and the state after its pop, or what it comes to. One that fails its check bits is popped and not
delivered (R52, R377, R378): a free value stands for it in op1 (log 76). -/
def State.qSource (s : State) (q : Nat) : Except Eff (Word × State) :=
  match s.popped with
  | some v => .ok (v, s)
  | none =>
    if !s.qRole q false then .error (.flt cIllegal 0)
    else match s.qPop q with
      | some (v, t) =>
        let u := t.updMyCore (fun k => k.badPast (s.qKey q) 1)
        if s.myCore.badHead (s.qKey q) 1 then
          .error (.popTrap (Config.freeWord s.fresh) cUncorrectable (BitVec.ofNat 64 (0xA0 + q)) { u with fresh := s.fresh + 1 })
        else .ok (v, u)
      | none => .error (.wait (.queue q))

/-- `qmov` in its three forms (R160): a push has its place from issue on, and fills it at retirement. A destination that cannot be pushed is found after the pop; the element stands in op1. -/
def qmovOf (f : Fields) (s : State) (sh : Shape) : Eff :=
  let d := f.d.toNat
  let push (s t : State) (v : Word) : Eff := match s.qWait d v with
    | some w => .wait w
    | none => .done (t.atRetire sh (.push d v))
  if f.o = 0 then
    if !s.qRole d true then .flt cIllegal 0 else push s s (s.gOp 1 f.a)
  else
    match s.qSource f.a.toNat with
    | .error e => e
    | .ok (v, t) =>
      if f.o = 1 then .done (t.wrG f.d v)
      else if !s.qRole d true then .popTrap v cIllegal 0 t
      else push s t v

def execQmov (f : Fields) (s : State) : Host.Outcome State Fault Refusal := issue (.qmov f) s (qmovOf f)

/-! Buffer handles (R238). -/

/-- Whether a handle's status word forbids a change to state `nw` (R238): engine-owned, or for `hset` neither that state nor the one
before it. -/
def hdlBars (v nw : Nat) (free : Bool) : Bool := hdlEng v || (!free && hdlState v != nw && (hdlState v + 1) % 4 != nw)

/-- The status word of a handle that `hset` or `hfree` gives state `nw` (R238, R239). -/
def hdlNext (v nw : Nat) (free : Bool) : Nat :=
  if !free && hdlState v == nw then v else mkHdl nw false (if nw = 1 && !free then 0 else hdlBytes v)

/-- The handle number: bits 5:0 of ga. -/
def State.hNum (s : State) (f : Fields) : Nat := fld (s.gOp 1 f.a) 0 6

def execHwait (f : Fields) (s : State) : Host.Outcome State Fault Refusal :=
  issue (.hwait f) s (fun s _ =>
    let h := s.hNum f
    if hdlState (s.hdl s.cur h) = f.o.toNat then .done s else .wait (.handle h f.o.toNat))
def execHset (f : Fields) (s : State) : Host.Outcome State Fault Refusal :=
  issue (.hset f) s (fun s sh =>
    let h := s.hNum f
    match s.orderWait 2 true true with
    | some w => .wait w
    | none =>
      if hdlBars (s.hdl s.cur h) f.o.toNat false then .flt cHandle (BitVec.ofNat 64 h)
      else .done ((s.seenBy 2).atRetire sh (.handle h f.o.toNat false)))
def execHfree (f : Fields) (s : State) : Host.Outcome State Fault Refusal :=
  issue (.hfree f) s (fun s sh =>
    let h := s.hNum f
    if hdlBars (s.hdl s.cur h) 0 true then .flt cHandle (BitVec.ofNat 64 h) else .done (s.atRetire sh (.handle h 0 true)))
def execHstat (f : Fields) (s : State) : Host.Outcome State Fault Refusal :=
  issue (.hstat f) s (fun s _ => .done (s.wrG f.d (BitVec.ofNat 64 (s.hdl s.cur (s.hNum f) % 2 ^ 40))))

/-! Bit streams (R246 to R248). -/

/-- Bits that the reader can deliver. -/
def Core.bitsIn (k : Core) : Nat := k.rdLeft + 64 * k.qin.length

/-- The next `n` bits, first bit lowest. -/
def Core.peekBits (k : Core) (n : Nat) : Nat :=
  (k.rdBits.toNat % 2 ^ k.rdLeft + 2 ^ k.rdLeft * joinLanes 64 (k.qin.map (·.toNat))) % 2 ^ n

/-- Consumes `n` bits that are there. -/
def Core.eatBits (k : Core) (n : Nat) : Core :=
  let k := { k with rdCount := k.rdCount + BitVec.ofNat 3 n }
  if n ≤ k.rdLeft then { k with rdBits := k.rdBits >>> n, rdLeft := k.rdLeft - n }
  else
    let m := n - k.rdLeft
    let l := k.qin.drop (m / 64)
    if m % 64 = 0 then { k with rdBits := 0, rdLeft := 0, qin := l }
    else { k with rdBits := (l.headD 0) >>> (m % 64), rdLeft := 64 - m % 64, qin := l.drop 1 }

/-- Consumes `n` bits that are there; a word that leaves the queue ends its push (R53). -/
def State.eat (s : State) (n : Nat) : State :=
  let k := s.myCore
  let j := k.eatBits n
  let out := k.qin.length - j.qin.length
  (s.updMyCore (fun _ => ({ j with qinOf := k.qinOf.drop out } : Core).badPast 246 out)).wordsDone s.cur (k.qinOf.take out)

/-- Whether `n` more bits can be written: a word they complete has room. -/
def Core.bitsRoom (k : Core) (n : Nat) : Bool := decide (k.wrLen + n < 64) || decide (k.qout.length < 16)

/-- Appends the low `n` bits of `v`. -/
def Core.putBits (k : Core) (n : Nat) (v : Nat) : Core :=
  let x := k.wrBits.toNat % 2 ^ k.wrLen + 2 ^ k.wrLen * (v % 2 ^ n)
  let len := k.wrLen + n
  let k := { k with wrCount := k.wrCount + BitVec.ofNat 3 n }
  if len < 64 then { k with wrBits := BitVec.ofNat 64 x, wrLen := len }
  else { k with qout := k.qout ++ [BitVec.ofNat 64 x], wrBits := BitVec.ofNat 64 (x / 2 ^ 64), wrLen := len - 64 }

/-- Whether the next `n` bits lie in a queue word that fails its check bits (R378). -/
def Core.bitsBad (k : Core) (n : Nat) : Bool := k.badHead 246 ((n - k.rdLeft + 63) / 64)

/-- DATA-UNCORRECTABLE of a read of the input queue, q6 (R377). -/
def State.bitsFault (s : State) : Eff := .trap cUncorrectable 0xA6 (s.bankSel 0xA6) 0

/-- The count of a bit-stream minor (R247). -/
def State.bitCount (s : State) (f : Fields) : Nat := if f.o.getLsbD 0 then fld f.imm 0 7 else fld (s.gOp 2 f.b) 0 7

/-- `bs.get` and `bs.peek`. -/
def bsRead (f : Fields) (eat : Bool) (s : State) (_ : Shape) : Eff :=
  let n := s.bitCount f
  if 64 < n then .flt cIllegal 0
  else if s.myCore.bitsIn < n then .wait (.bits n false)
  else if s.myCore.bitsBad n then s.bitsFault
  else
    let v : Word := BitVec.ofNat 64 (s.myCore.peekBits n)
    .done ((if eat then s.eat n else s).wrG f.d v)

/-- A write of `n` bits that waits for room. -/
def bsWrite (n : Nat) (v : Nat) (s : State) : Eff :=
  if s.myCore.bitsRoom n then .done (s.updMyCore (fun k => k.putBits n v)) else .wait (.bits n true)

def execBsGet (f : Fields) (s : State) : Host.Outcome State Fault Refusal := issue (.bsGet f) s (bsRead f true)
def execBsPut (f : Fields) (s : State) : Host.Outcome State Fault Refusal :=
  issue (.bsPut f) s (fun s _ =>
    let n := s.bitCount f
    if 64 < n then .flt cIllegal 0 else bsWrite n (s.gOp 1 f.a).toNat s)
def execBsPeek (f : Fields) (s : State) : Host.Outcome State Fault Refusal := issue (.bsPeek f) s (bsRead f false)

/-- `bs.dec` (R248). -/
def execBsDec (f : Fields) (s : State) : Host.Outcome State Fault Refusal :=
  issue (.bsDec f) s (fun s _ =>
    let a := s.gOp 1 f.a
    let w := s.myWho .strand
    let bad (s : State) : Eff := .done (s.wrG f.d (BitVec.allOnes 64))
    match s.issueFault w a 8 8 false with
    | some (c, b) => .flt c b
    | none =>
      if spaceOf a.toNat != .loc s.cur 0 then .flt cPerm a
      else if !s.pathClear s.cur then .wait .path
      else
        match s.readAt w a.toNat 8 3 with
        | (_, .error (c, b)) => .flt c b
        | (_, .ok h) =>
          if h = 0 ∨ 12 < h then bad s
          else if s.myCore.bitsIn < h then .wait (.bits h false)
          else if s.myCore.bitsBad h then s.bitsFault
          else
            match s.readChecked w (wadd a (8 + 4 * s.myCore.peekBits h : Nat)) 4 4 3 with
            | (_, .error (c, b)) => .flt c b
            | (_, .ok e) =>
              let len := bits e 16 5
              if len = 0 ∨ h < len ∨ bits e 21 11 != 0 then bad s
              else .done ((s.eat len).wrG f.d (BitVec.ofNat 64 (bits e 0 16))))
def execBsAlign (f : Fields) (s : State) : Host.Outcome State Fault Refusal :=
  issue (.bsAlign f) s (fun s _ =>
    let k := s.myCore
    if f.o = 0 then
      let n := (8 - k.rdCount.toNat) % 8
      if k.bitsIn < n then .wait (.bits n false) else if k.bitsBad n then s.bitsFault else .done (s.eat n)
    else if f.o = 1 then bsWrite ((8 - k.wrCount.toNat) % 8) 0 s
    else if f.o = 2 then (if k.wrLen = 0 then .done s else bsWrite (64 - k.wrLen) 0 s)
    else .done (s.updMyCore (fun k => { k with rdBits := 0, rdLeft := 0, rdCount := 0, wrBits := 0, wrLen := 0, wrCount := 0 })))

end Sys2Proof.Machine
end

