-- ==== Sys2Proof/Machine/Stream.lean ====
section
/-!
DEFINITION. Streams (R206 to R222, R300): majors 0x32 and 0x33, reading and folding, movement between core and slices, and the end of
the detached minors.
-/
namespace Sys2Proof.Machine

/-! Streams in their core. -/

/-- The stream context that a handle of a context is bound to (R206). -/
def Core.strmOf (k : Core) (x h : Nat) : Option (Nat × Strm) :=
  k.streams.findSome? (fun e => match e.2 with
    | some t => if t.ctx = x ∧ t.handle = h then some (e.1, t) else none
    | none => none)
def State.strm (s : State) (c k : Nat) : Option Strm := mget none (s.core c).streams k
def State.putStrm (s : State) (c k : Nat) (t : Option Strm) : State :=
  s.updCore c (fun co => { co with streams := mset none co.streams k t })
def State.updStrm (s : State) (c k : Nat) (f : Strm → Strm) : State := s.putStrm c k ((s.strm c k).map f)

/-- The lowest stream context not in use. -/
def Core.freeStrm (k : Core) : Option Nat := (List.range 32).find? (fun j => (mget none k.streams j).isNone)

def Strm.ty (t : Strm) : Nat := fld t.desc 192 4
def Strm.size (t : Strm) : Nat := tyBits t.ty / 8
def Strm.lease (t : Strm) : Nat := fld t.desc 196 3 ^^^ 3
def Strm.ahead (t : Strm) : Nat := fld t.desc 200 4

/-- Whether a descriptor is rejected (R208). -/
def descReject (v : BitVec 256) : Bool :=
  let ty := fld v 192 4
  let n := tyBits ty / 8
  tst v 199 || fld v 204 52 != 0 || fld v 96 32 == 0 || fld v 160 32 == 0 || decide (2 ^ 32 ≤ fld v 96 32 * fld v 160 32) ||
    decide (11 < ty) || fld v 0 64 % n != 0 || fld v 64 32 % n != 0 || fld v 128 32 % n != 0

/-- One step of the attached operation (R209). -/
def Strm.fold (t : Strm) (acc x : Word) : Word × Flags :=
  let ty := t.ty
  if !t.att then (acc, 0)
  else
    let r := match t.op with
      | 0 => addE ty t.mode acc.toNat x.toNat
      | 1 =>
        if tyInt ty then (wrapI (intTy ty acc.toNat + intTy ty x.toNat * intTy ty x.toNat) (tyBits ty), 0)
        else roundWith (fmtTy ty) t.mode (fmaX t.mode false false (unpackTy ty x.toNat) (unpackTy ty x.toNat) (unpackTy ty acc.toNat))
      | 2 => minE ty t.mode acc.toNat x.toNat
      | _ => maxE ty t.mode acc.toNat x.toNat
    (BitVec.ofNat 64 r.1, r.2)

/-- The first `n` elements read folded and consumed (R210), with their flags. -/
def Strm.eat (t : Strm) : Nat → Strm × Flags
  | 0 => (t, 0)
  | n + 1 =>
    match t.vals with
    | [] => (t, 0)
    | x :: l =>
      let (acc, fl) := t.fold t.acc x
      let (t', fl') := { t with acc, vals := l, pos := t.pos + 1 }.eat n
      (t', fl ||| fl')

/-- An accumulator as `sattach` reads a register (R219). -/
def accVal (ty : Nat) (v : Word) : Word := BitVec.ofNat 64 (if tyInt ty then v.toNat % 2 ^ tyBits ty else unbox ty v)

/-! Reading and movement (R214 to R216). -/

/-- Who a stream reads for. -/
def Strm.who (t : Strm) (c : Nat) : Who := { core := c, pid := t.pid, asid := t.asid, user := t.user, node := t.node, unit := .stream }

/-- The home slice of an element in device DRAM or far memory; none: it lies elsewhere, or is not mapped (R214). -/
def State.elemHome (s : State) (t : Strm) (e : Nat) : Option Nat :=
  let a := (t.addr e).toNat
  if 2 ^ 52 ≤ a then none
  else
    match (s.redirect t.pid t.asid a .read t.user).2 with
    | .error _ => none
    | .ok (asid, va) =>
      match s.lineTgt? (lineKey t.pid asid va) with
      | some tgt => if tgt < 2 then some (s.homeSlice t.pid va) else none
      | none => none

/-- Floated contexts at a slice (R214). -/
def State.floated (s : State) (slice : Nat) : Nat :=
  (s.cores.map (fun (e : Nat × Core) => (e.2.streams.filter (fun x => match x.2 with
    | some t => t.slice == slice && (t.st == .floating || t.st == .hopping || t.st == .sinking)
    | none => false)).length)).sum

/-- Detached operations outstanding on a handle that need it in its core: those that open, restart or recall it. -/
def Ctx.strmOps (k : Ctx) (h : Nat) : List DetOp :=
  k.outst.filter (fun d => (d.op / 16 == 0x32 && d.op != 0x324 && codeAt d.iw 0 == 0x90 + h) ||
    (d.op / 16 == 0x33 && codeAt d.iw 1 == 0x90 + h && 2 < d.op % 16))

/-- Whether a Home stream floats (R214): the slice it floats to. -/
def State.floatTo (s : State) (c : Nat) (t : Strm) : Option Nat :=
  if t.st != .home || t.homeOnly || t.pin || t.flt.isSome || !decide (t.next < t.total) || !decide (t.next ≤ t.pCtx + t.ahead) ||
    !((s.ctx c t.ctx).strmOps t.handle).isEmpty then none
  else match s.elemHome t t.next with
    | some h => if s.floated h < 64 then some h else none
    | none => none

/-- A context turns back for its core (R213, R214). -/
def Strm.goBack (t : Strm) (now : Nat) : Strm :=
  { t with st := .recalling, recalls := t.recalls + 1, due := now + 24, asked := none, rolled := false }

/-- A Floating context acts on a recall that has reached it, or turns back of itself (R213, R215); another one later. -/
def Strm.settled (t : Strm) (now : Nat) (own : Bool) : Strm :=
  let t := if own then t.recall now else t
  match t.asked with
  | some n => if t.st == .floating && decide (n ≤ now) then t.goBack now else t
  | none => t

/-- Whether an `ssave` that has not sent its stores is to write a line (R216, R219). -/
def State.saveHits (s : State) (c : Nat) (d : DetOp) (line : Nat) : Bool :=
  d.op == 0x324 && d.prog == 1 && s.lineLoc (s.pidOf c) d.asid (d.caps.o1.setWidth 64 : Word).toNat == line

/-- Writes of a core that are not performed and came before element `e`'s consume point hold its read back (R216 cases a, b). -/
def State.barred (s : State) (c : Nat) (t : Strm) (e : Nat) : Bool :=
  let line := s.lineLoc t.pid t.asid (t.addr e).toNat
  let from_ (snap : List (Nat × Nat)) : Bool := match snap.find? (fun p => p.1 == t.gen) with
    | some p => decide (p.2 ≤ e)
    | none => true
  s.net.any (fun p => match p.body with
    | .mem core _ _ r => core == c && s.watched c r line && from_ r.snap
    | _ => false) ||
  s.waiters.any (fun w => w.core == c && w.kind == .stfeWait && s.hits w.r line && from_ w.r.snap) ||
  (s.core c).ctxs.any (fun e => e.2.outst.any (fun d => (s.tstHits c e.1 d line || s.saveHits c d line) && from_ d.snap))

/-- Whether the next element may be read (R214 to R216, R192). A Floating stream reads an element that no slice is home of, in window space or
host memory, from where it is: the model's choice (log 81). -/
def State.elemReadable (s : State) (c : Nat) (t : Strm) : Bool :=
  let e := t.next
  (t.st == .home || t.st == .floating || t.st == .sinking) && !t.rolled && decide (t.due ≤ s.cycles) && decide (t.ready ≤ s.cycles) && t.flt.isNone && decide (e < t.total) && decide (e ≤ t.pCtx + t.ahead) &&
    !s.barred c t e && !s.cHeld (t.addr e).toNat t.size s.cycles c t.ctx &&
    (if t.st == .home then (s.floatTo c t).isNone else s.elemHome t e == some t.slice || s.elemHome t e == none)

/-- Whether a stream's node is refuted where the next element is read (R277, R284, R287): in the table of its home slice, in its
core's for window space. -/
def State.strmRefuted (s : State) (c : Nat) (t : Strm) : Bool :=
  let a := (t.addr t.next).toNat
  (eff (if 2 ^ 52 ≤ a then s.nodesAtCore t.pid c else s.tabAt (t.who c) a) t.asid t.node).isNone

/-- ck until the next element of a stream may be read, by whether the one before lay on its line, and whether it has just come there
(R144, R214, R356). -/
def State.elemTime (s : State) (c : Nat) (t : Strm) (first come : Bool) : Nat :=
  let a := (t.addr t.next).toNat
  let here := match (s.redirect t.pid t.asid a .read t.user).2 with
    | .ok (asid, va) => some (s.slice (lineKey t.pid asid va)).isSome
    | .error _ => none
  let walk := if a < 2 ^ 52 ∧ here ≠ some true then 80 * s.pathReads t.pid t.asid a else 0
  let miss := if a < 2 ^ 52 ∧ here = some false then 112 else 0
  if t.st == .home then (if first then s.figure (t.who c) a (s.l1Hit (t.who c) a && t.node == 0) + walk + miss else 0)
  else if here = none then 16 + walk
  else if !first then 1 else (if come then 8 else 4) + walk + miss

/-- When a stream that has just come somewhere may read its next element (R214). -/
def State.startRead (s : State) (c k : Nat) (at_ : Nat) : State :=
  s.updStrm c k (fun t => { t with ready := if t.next < t.total then at_ + s.elemTime c t true true else at_ })

/-- The next element is read and kept, or its fault is (R215). Under a refuted node the fault is HYP-REFUTED (R287),
found before any other, as it is at issue (R277). -/
def State.readElem (s : State) (c k : Nat) (t : Strm) : State :=
  let a := t.addr t.next
  let w := t.who c
  let fault (s : State) (f : Flt) : State := s.updStrm c k (fun t => { t with flt := some (f.1, a), seen := false }.settled s.cycles true)
  match (if s.strmRefuted c t then some (cHypRefuted, a) else s.issueFault w a t.size t.size false) with
  | some f => fault s f
  | none =>
    match (s.afterOwned w a.toNat).load w a.toNat t.size t.lease (t.st == .home) with
    | (s, .flt code b) => fault s (code, b)
    | (s, .hold) => s
    | (s, .ok v) => s.updStrm c k (fun t =>
        let t := { t with vals := t.vals ++ [BitVec.ofNat 64 v] }
        { t with ready := if t.next < t.total then
            s.cycles + s.elemTime c t (s.lineLoc t.pid t.asid (t.addr t.next).toNat != s.lineLoc t.pid t.asid a.toNat) false else s.cycles })

/-- A floating stream hops to the home of its next element, or arrives there (R214); a full slice refuses it. One that a write has rolled
back goes nowhere until its recall has reached it (R216). -/
def State.hop (s : State) (c k : Nat) : State :=
  match s.strm c k with
  | none => s
  | some t =>
    if s.cycles < t.due || t.rolled then s
    else if t.st == .hopping then ((s.updStrm c k (fun t => { t with st := .floating })).startRead c k s.cycles).updStrm c k (·.settled s.cycles false)
    else if t.st != .floating || !decide (t.next < t.total) then s
    else match s.elemHome t t.next with
      | none => s
      | some h =>
        if h = t.slice then s
        else if 64 ≤ s.floated h then s.updStrm c k (·.settled s.cycles true)
        else s.updStrm c k (fun t => { t with
          st := .hopping, slice := h, hops := t.hops + 1, due := s.cycles + 16 + 24 * dieDist (t.slice / 32) (h / 32) })

/-! The save area (R222). -/

/-- The 64 bytes of a save area. -/
def saveArea (t : Option Strm) : BitVec 512 :=
  match t with
  | none => 0
  | some t =>
    if t.st == .taken then 0
    else
      let o := t.isOpen
      BitVec.ofNat 512 (t.desc.toNat % 2 ^ 204 + (if t.att then t.op * 2 ^ 204 + 2 ^ 206 + t.mode * 2 ^ 207 else 0) + 2 ^ 209 +
        o.toNat * 2 ^ 210 + (if o then t.homeOnly.toNat * 2 ^ 211 + t.pin.toNat * 2 ^ 212 + t.pIss % 2 ^ 32 * 2 ^ 256 + t.node * 2 ^ 288 else 0) +
        (if t.att then (if o then t.acc else t.init).toNat * 2 ^ 320 else 0))

/-- Sends the stores of an `ssave` (R219). -/
def State.sendSave (s : State) (c x : Nat) (d : DetOp) (t : Option Strm) : State :=
  let v := saveArea t
  let s0 := { s with cur := c, cx := x }
  let r (j : Nat) : MemReq :=
    { kind := .store, ea := wadd (d.caps.o1.setWidth 64) (8 * j : Nat), n := 8, data := v.extractLsb' (64 * j) 64, lane := j
      pid := s.pidOf c, asid := d.asid, user := d.lvl == 0, node := d.node }
  let s1 := (List.range 8).foldl (fun s j => s.sendReqAt d.snap d.id (r j) 0) s0
  (s1.updDet c x d.id (fun d => { d with prog := 0 }))

/-- A recall reaches a Floating context, or a recalled one arrives (R213): Home, or given back; what waited for it goes on. -/
def State.strmArrive (s : State) (c k : Nat) : State :=
  match s.strm c k with
  | none => s
  | some t =>
    if t.st != .recalling then s.updStrm c k (·.settled s.cycles false)
    else if s.cycles < t.due then s
    else if t.closing then
      if t.ctx = 16 then s.putStrm c k none else s.updStrm c k (fun t => { t with st := .taken, closing := false, vals := [], flt := none })
    else
      let s := (s.updStrm c k (fun t => { t with st := .home })).startRead c k s.cycles
      match (s.ctx c t.ctx).outst.find? (fun d => d.op == 0x324 && codeAt d.iw 0 == 0x90 + t.handle && d.prog == 1) with
      | some d => s.sendSave c t.ctx d (some { t with st := .home })
      | none => s

/-! The instructions (R218 to R221). -/

/-- The wait of R212. -/
def State.strmWait (s : State) (h : Nat) : Bool := s.me.outst.any (fun d => codeAt d.iw 0 == 0x90 + h || codeAt d.iw 1 == 0x90 + h)

/-- A stream instruction on handle `h`, once its turn has come. -/
def strmIssue (h : Nat) (body : State → Option (Nat × Strm) → Eff) (s : State) : Eff :=
  if s.strmWait h then .wait (.stream h) else body s (s.myCore.strmOf s.cx h)

/-- An instruction on an open stream. -/
def openIssue (h : Nat) (body : State → Nat → Strm → Eff) (s : State) : Eff :=
  strmIssue h (fun s t => match t with
    | some (k, t) => if t.isOpen then body s k t else .flt cIllegal 0
    | none => .flt cIllegal 0) s

/-- The stream of a handle as it is closed (R213, R217): a context away from its core is recalled first. -/
def Strm.close (t : Strm) (now : Nat) : Strm :=
  if t.away then { t.recall (now + 24) with closing := true }
  else if t.st == .recalling then { t with closing := true }
  else { t with st := .taken, vals := [], flt := none }

/-- `sdef` and `sload`: the read of `n` bytes, and a context for the handle (R206, R219). -/
def defIssue (i : Instr) (f : Fields) (n : Nat) (s : State) (sh : Shape) : Eff :=
  let h := f.d.toNat
  strmIssue h (fun s t =>
    let a := s.gOp 1 f.a
    match s.issueFault (s.myWho .strand) a n n false with
    | some (c, b) => .flt c b
    | none =>
      let send (s : State) : Eff := .done ((s.detach i sh (fun d => { d with left := 1 })).sendReq s.me.nextId (s.reqOf .load a n) 0)
      match t with
      | some (k, _) => send (s.updStrm s.cur k (·.close s.cycles))
      | none =>
        match s.myCore.freeStrm with
        | none => .wait .streamPool
        | some k => send (s.putStrm s.cur k (some { ctx := s.cx, handle := h, desc := 0, st := .taken }))) s

def execSdef (f : Fields) (s : State) : Host.Outcome State Fault Refusal := issue (.sdef f) s (defIssue (.sdef f) f 32)
def execSload (f : Fields) (s : State) : Host.Outcome State Fault Refusal := issue (.sload f) s (defIssue (.sload f) f 64)
def execSopen (f : Fields) (s : State) : Host.Outcome State Fault Refusal :=
  issue (.sopen f) s (fun s sh => strmIssue f.d.toNat (fun s t => match t with
    | some (_, t) => if t.st == .defined then .done (s.detach (.sopen f) sh (fun d => { d with due := s.cycles + 8 })) else .flt cIllegal 0
    | none => .flt cIllegal 0) s)
def execSclose (f : Fields) (s : State) : Host.Outcome State Fault Refusal :=
  issue (.sclose f) s (fun s sh => strmIssue f.d.toNat (fun s t =>
    let go (s : State) (n : Nat) : Eff := .done (s.detach (.sclose f) sh (fun d => { d with due := s.cycles + n }))
    match t with
    | some (k, _) => go (s.updStrm s.cur k (·.close s.cycles)) 48
    | none => go s 8) s)

def execSattach (f : Fields) (s : State) : Host.Outcome State Fault Refusal :=
  issue (.sattach f) s (fun s _ => strmIssue f.d.toNat (fun s t => match t with
    | some (k, t) =>
      let ty := fld f.imm 0 4
      if t.st != .defined || t.ty != ty then .flt cIllegal 0
      else
        let v := accVal ty (if tyInt ty then s.gOp 1 f.a else s.fOp 1 f.a)
        .done (s.updStrm s.cur k (fun t => { t with att := true, op := f.o.toNat, mode := s.modeOf (fld f.imm 4 3), init := v }))
    | none => .flt cIllegal 0) s)
def execSsave (f : Fields) (s : State) : Host.Outcome State Fault Refusal :=
  issue (.ssave f) s (fun s sh => strmIssue f.d.toNat (fun s t =>
    let a := s.gOp 1 f.a
    match s.issueFault (s.myWho .strand) a 64 64 true with
    | some (c, b) => .flt c b
    | none =>
      let u := s.detach (.ssave f) sh (fun d => { d with left := 8, prog := 1, snap := s.snapshot })
      let u := u.aliasRoll (fun l => l == u.lineLoc (u.pidOf u.cur) u.me.asid.toNat a.toNat)
      let now (t : Option Strm) : Eff := .done (match u.det s.cur s.cx s.me.nextId with
        | some d => u.sendSave s.cur s.cx d t
        | none => u)
      match t with
      | none => now none
      | some (k, t) => if t.st == .home || !t.isOpen then now (some t) else .done (u.updStrm s.cur k (·.recall (s.cycles + 24)))) s)

/-- Whether the register class of a value field fits the stream's type (R218). -/
def clsOk (f : Fields) (t : Strm) : Bool := f.o.getLsbD 0 != tyInt t.ty

/-- A consuming instruction (R210, R215, R300): it takes the next elements in program order and tells the context. -/
def consume (i : Instr) (count : Nat) (s : State) (sh : Shape) (k : Nat) (t : Strm) : Eff :=
  let n := min count (t.total - t.pIss)
  if n = 0 then
    .done (s.detach i sh (fun d => { d with st := .done, vals := [(codeAt d.iw 0, 0)], due := s.cycles + 8 }))
  else
    let p := t.pIss + n
    let again := t.seen && decide (t.next < p)
    .done ((s.detach i sh (fun d => { d with prog := n })).updStrm s.cur k (fun t => { t with
      pIss := p, pCtx := if t.st == .home then p else t.pCtx, flt := if again then none else t.flt, seen := t.seen && !again }))

def execSpop (f : Fields) (s : State) : Host.Outcome State Fault Refusal :=
  issue (.spop f) s (fun s sh => openIssue f.a.toNat (fun s k t =>
    if !clsOk f t || decide (t.total ≤ t.pIss) then .flt cIllegal 0 else consume (.spop f) 1 s sh k t) s)
def execSstep (f : Fields) (s : State) : Host.Outcome State Fault Refusal :=
  issue (.sstep f) s (fun s sh => openIssue f.a.toNat (fun s k t =>
    consume (.sstep f) (if f.o = 1 then fld f.imm 0 16 else (s.gOp 2 f.b).toNat) s sh k t) s)
def execSsink (f : Fields) (s : State) : Host.Outcome State Fault Refusal :=
  issue (.ssink f) s (fun s sh => openIssue f.a.toNat (fun s _ t =>
    if !clsOk f t || !t.att then .flt cIllegal 0
    else
      let v := redVal t.ty t.acc.toNat
      .done (s.detach (.ssink f) sh (fun d => { d with vals := [(codeAt d.iw 0, v.setWidth 1024)], due := s.cycles + if t.st == .home then 8 else 24 }))) s)
def execSfloat (f : Fields) (s : State) : Host.Outcome State Fault Refusal :=
  issue (.sfloat f) s (fun s _ => openIssue f.a.toNat (fun s k _ => .done (s.updStrm s.cur k (fun t => { t with pin := false }))) s)
def execSrecall (f : Fields) (s : State) : Host.Outcome State Fault Refusal :=
  issue (.srecall f) s (fun s sh => openIssue f.a.toNat (fun s k _ =>
    .done ((s.detach (.srecall f) sh id).updStrm s.cur k (fun t => { t with pin := true }.recall (s.cycles + 24)))) s)
def execSres (f : Fields) (s : State) : Host.Outcome State Fault Refusal :=
  issue (.sres f) s (fun s sh => openIssue f.a.toNat (fun s k t =>
    if !clsOk f t then .flt cIllegal 0 else .done ((s.detach (.sres f) sh id).updStrm s.cur k (·.recall (s.cycles + 24)))) s)

/-- Codes of R221. -/
def stCode (st : StrmSt) : Nat :=
  match st with
  | .taken => 0
  | .defined => 1
  | .home => 2
  | .floating => 3
  | .hopping => 4
  | .recalling => 5
  | .sinking => 6

/-- The status word of R221. -/
def strmStat (t : Option Strm) : Nat :=
  match t with
  | none => 0
  | some t =>
    stCode t.st + (if t.isOpen then t.flt.isSome.toNat * 8 + (t.pIss == t.total).toNat * 16 + t.pIss % 2 ^ 32 * 2 ^ 8 +
      t.hops.toNat * 2 ^ 40 + t.recalls.toNat * 2 ^ 48 + t.floats.toNat * 2 ^ 56 else 0)

def execSstat (f : Fields) (s : State) : Host.Outcome State Fault Refusal :=
  issue (.sstat f) s (fun s _ => .done (s.wrG f.d (BitVec.ofNat 64 (strmStat ((s.myCore.strmOf s.cx f.a.toNat).map (·.2))))))

/-! The end of the detached minors (R219, R220). -/

/-- What a save area or a descriptor leaves the handle as; none: it is rejected (R208, R222). -/
def loadArea (t : Strm) (d : DetOp) (pid gen : Nat) (v : BitVec 512) (whole : Bool) : Option (Option Strm) :=
  let desc : BitVec 256 := BitVec.ofNat 256 (fld v 0 (if whole then 204 else 256))
  let t : Strm := { ctx := t.ctx, handle := t.handle, desc, pid, asid := d.asid, user := d.lvl == 0 }
  if !whole then (if descReject desc then none else some (some t))
  else if !tst v 209 then (if tst v 210 then none else some none)
  else
    let o := tst v 210
    if fld v 213 43 != 0 || fld v 296 24 != 0 || fld v 384 128 != 0 || (fld v 288 8 != 0 && !o) ||
      descReject desc || decide (t.total < fld v 256 32) then none
    else
      let acc : Word := BitVec.ofNat 64 (fld v 320 64 % 2 ^ tyBits t.ty)
      let t := { t with att := tst v 206, op := fld v 204 2, mode := fld v 207 2, init := acc }
      if !o then some (some t)
      else
        let p := fld v 256 32
        some (some { t with
          st := .home, homeOnly := tst v 211, pin := tst v 212, pos := p, pIss := p, pCtx := p, node := fld v 288 8, acc, gen })

/-- One more opening or restart. -/
def State.openGen (s : State) (c : Nat) : State := s.updCore c (fun k => { k with opens := k.opens + 1 })

/-- The end of a detached stream minor other than the consuming ones and `ssave`; none: it is not complete. -/
def State.strmCtl (s : State) (c x : Nat) (d : DetOp) : Option State :=
  let h := codeAt d.iw (if d.op / 16 = 0x32 then 0 else 1) - 0x90
  let co := s.core c
  match co.strmOf x h with
  | none => if d.op = 0x322 && decide (d.due ≤ s.cycles) then some (s.endDet c x d [] 0) else none
  | some (k, t) =>
    match d.op with
    | 0x320 | 0x325 =>
      if t.st != .taken then none
      else
        let v : BitVec 512 := ((d.vals.head?.map (fun (e : Nat × Vec) => e.2)).getD 0).setWidth 512
        match d.st with
        | .pending => none
        | .fault code a aux fx => some ((s.putStrm c k none).failOp c x d code a aux fx)
        | .done =>
          match loadArea t d (s.pidOf c) (co.opens + 1) v (d.op == 0x325) with
          | none => some ((s.putStrm c k none).failOp c x d cIllegal (d.caps.o1.setWidth 64) 0 0)
          | some none => some ((s.putStrm c k none).endDet c x d [] 0)
          | some (some t) =>
            let t := if d.op = 0x320 then { t with st := .defined } else if t.st == .home then t else { t with st := .defined }
            some (((s.openGen c).putStrm c k (some t)).endDet c x d [] 0)
    | 0x321 =>
      let k0 := s.ctx c x
      if k0.posted.all (fun p => decide (d.id < p.id) || s.owned c x p) &&
          k0.outst.all (fun o => !(isLoadOp o.op || isStoreOp o.op) || decide (d.id ≤ o.id)) && decide (d.due ≤ s.cycles) then
        let acc := if t.att then t.init else 0
        some ((((s.openGen c).updStrm c k (fun t => { t with
          st := .home, homeOnly := fld d.iw 50 2 == 1, pin := false, pos := 0, pIss := 0, pCtx := 0, vals := [], flt := none, seen := false
          acc, node := d.node, pid := s.pidOf c, asid := d.asid, user := d.lvl == 0, hops := 0, recalls := 0, floats := 0
          asked := none, rolled := false, gen := co.opens + 1 })).startRead c k s.cycles).endDet c x d [] 0)
      else none
    | 0x322 => if t.st == .taken && decide (d.due ≤ s.cycles) then some ((s.putStrm c k none).endDet c x d [] 0) else none
    | 0x332 =>
      if s.cycles < d.due then none
      else if t.st == .floating && decide (t.due ≤ s.cycles) then
        some ((s.updStrm c k (fun t => { t with st := .sinking })).updDet c x d.id (fun d => { d with due := s.cycles + 24 }))
      else if t.st == .home || t.st == .sinking then
        some ((s.updStrm c k (fun t => { t with st := if t.st = StrmSt.sinking then .floating else t.st }.settled s.cycles false)).endPos c x d d.vals 0)
      else none
    | 0x334 => if t.st == .home then some (s.endDet c x d [] 0) else none
    | _ =>
      if t.st != .home then none
      else
        let p := min (d.caps.o2.setWidth 64).toNat t.total
        let acc := if t.att then accVal t.ty (d.caps.o3.setWidth 64) else t.acc
        some ((((s.openGen c).updStrm c k (fun t => { t with
          pos := p, pIss := p, pCtx := p, vals := [], flt := none, seen := false, acc, gen := co.opens + 1 })).startRead c k s.cycles).endDet c x d [] 0)

/-- The end of `spop` or `sstep` (R210, R215): none while its elements are not read, or its message has not arrived; a context that is
away then sends its report. -/
def State.consumeEnd (s : State) (c x : Nat) (d : DetOp) : Option State :=
  match (s.core c).strmOf x (codeAt d.iw 1 - 0x90) with
  | none => none
  | some (k, t) =>
    if t.pCtx < t.pIss then none
    else if d.prog ≤ t.vals.length then
      if t.st != .home && !d.started then some (s.updDet c x d.id (fun d => { d with started := true, due := s.cycles + 24 }))
      else if s.cycles < d.due then none
      else
        let (t', fl) := t.eat d.prog
        let x0 : Word := t.vals.headD 0
        let v : Word := if d.op = 0x330 then redVal t.ty x0.toNat else BitVec.ofNat 64 d.prog
        some ((s.updStrm c k (fun _ => t')).endPos c x d [(codeAt d.iw 0, v.setWidth 1024)] fl)
    else
      match t.flt with
      | some (code, a) =>
        if t.st == .home then
          some ((s.updStrm c k (fun t => { t with pIss := t.pos, pCtx := t.pos, seen := true })).failOp c x d code a 0 0)
        else none
      | none => none

/-! Events (R213 to R215). -/

/-- A consume message arrives: at once at home, or at the context, after 24 ck or with its float (R214, R215, R300). -/
def State.tellStrm (s : State) (c k : Nat) : State :=
  match s.strm c k with
  | some t =>
    let sent := (s.ctx c t.ctx).outst.all (fun d => !((d.op == 0x330 || d.op == 0x331) && codeAt d.iw 1 == 0x90 + t.handle) ||
      decide (d.issuedAt + 24 ≤ s.cycles))
    if t.st == .home || ((t.st == .floating || t.st == .sinking) && decide (t.due ≤ s.cycles) && sent) then
      s.updStrm c k (fun t => { t with pCtx := t.pIss })
    else s
  | none => s

def execStreamFloat (s : State) : Host.Outcome State Fault Refusal :=
  .next (match s.strm s.ev.core s.ev.k with
    | some t => match s.floatTo s.ev.core t with
      | some h => (s.updStrm s.ev.core s.ev.k (fun t => { t with
          st := .floating, slice := h, floats := t.floats + 1, due := s.cycles + 24 })).startRead s.ev.core s.ev.k (s.cycles + 24)
      | none => s
    | none => s)
def execStreamHop (s : State) : Host.Outcome State Fault Refusal := .next (s.hop s.ev.core s.ev.k)
def execStreamElementRead (s : State) : Host.Outcome State Fault Refusal :=
  .next (match s.strm s.ev.core s.ev.k with
    | some t => if s.elemReadable s.ev.core t then s.readElem s.ev.core s.ev.k t else s
    | none => s)
def execConsumeMessage (s : State) : Host.Outcome State Fault Refusal := .next (s.tellStrm s.ev.core s.ev.k)
def execStreamRecallArrival (s : State) : Host.Outcome State Fault Refusal := .next (s.strmArrive s.ev.core s.ev.k)

end Sys2Proof.Machine
end

