-- ==== Sys2Proof/Machine/Parallel.lean ====
section
/-!
DEFINITION. Parallel work: safe points (R126, R345), major 0x3C (R254 to R272): spawning, joining, parking, migrating and
position-bound strands.
-/
namespace Sys2Proof.Machine

/-- Whether a live mask names more than `lim` registers, `skip` not counted (R255). -/
def overMask (m : Word) (lim skip : Nat) : Bool := decide (lim < ((liveRegs m).filter (· != skip)).length)

/-- The registers a live mask names, without `skip`. -/
def maskRegs (m : Word) (skip : Nat) : List Nat := (liveRegs m).filter (· != skip)

/-- Registers that a suspension is to carry, or save, with one that fails its check (R377). -/
def State.carryBad (s : State) (rs : List Nat) : Option Eff :=
  (s.badCarried rs).map (fun j => .trap cUncorrectable (BitVec.ofNat 64 j) (s.bankSel j) 0)

/-- The record of the strand at its successor with some registers (R259, R261). -/
def State.susRecord (s : State) (regs : List Nat) : Record :=
  let k := s.me
  mkRecord s.succ k.orph false k.jn k.hypCur.toNat k.jword.toNat k.jcl.toNat (s.carry regs) 0

/-- The checks of a counter address (R257, R259): counters are committed memory. -/
def State.counterFault (s : State) (a : Word) : Option Flt :=
  if fld a 0 3 != 0 then some (cAlign, a)
  else
    match spaceOf a.toNat with
    | .clus _ =>
      if !s.mapped a.toNat then some (cWindow, a)
      else if !s.windowPerm (s.myWho .strand) a.toNat 8 true then some (cPerm, a) else none
    | _ => some (cWindow, a)

/-- The operations that must be performed before a pushed record is takeable (R251): earlier posted ones and stores. -/
def State.pushAfter (s : State) (c x id : Nat) : List (Nat × Nat × Nat) :=
  let k := s.ctx c x
  (k.posted.filter (fun d => decide (d.id < id))).map (fun d => (c, x, d.id)) ++
    (k.outst.filter (fun d => decide (d.id < id) && isStoreOp d.op)).map (fun d => (c, x, d.id))

/-- Whether a push finds the deque at its limit (R251). -/
def Core.dequeFull (k : Core) : Bool := decide (k.spawnLim.toNat ≤ k.deque.length)

/-! Spawn and fork (R256, R257). -/

def execSpawn (f : Fields) (s : State) : Host.Outcome State Fault Refusal :=
  issue (.spawn f) s (fun s sh =>
    let a := s.gOp 1 f.a
    match s.issueFault (s.myWho .strand) a 64 64 false with
    | some (c, b) => .flt c b
    | none => .done (s.detachReq (.spawn f) sh (s.reqOf .load a 64) 0 false))

/-- The completion of a `spawn`: the record is checked and pushed (R251, R256). -/
def State.spawnEnd (s : State) (c x : Nat) (d : DetOp) : State :=
  let a : Word := d.caps.o1.setWidth 64
  let r : Record := (match d.vals with
    | e :: _ => e.2
    | [] => 0).setWidth 512
  if recReject r then s.failOp c x d cIllegal a 0 0
  else if (s.core c).dequeFull then s.failOp c x d cSpawnLimit a 0 0
  else
    let after := s.pushAfter c x d.id
    let e : DqEnt := { slot := 0, mt := (s.ctx c x).mt.child, takeable := after.isEmpty, after, ra := some a.toNat }
    (s.pushRec c (setFld r 56 8 d.node) e true).endDet c x d [] 0

/-- The record that a `fork` pushes (R257). -/
def State.forkRecord (s : State) (f : Fields) : Record :=
  let off := (s.gOp 1 f.a).toNat - clusBase
  let jn := f.a != 0
  let first := f.d.toNat
  let vals := (List.range 6).map (fun j => (first + j, if j = 0 then s.gOp 0 f.d else s.gReg (first + j)))
  mkRecord (relTarget s.pcNow f.imm) (f.o.getLsbD 0) false jn s.me.hypCur.toNat
    (if jn then off % 2 ^ 23 / 8 else 0) (if jn then off / 2 ^ 23 else 0) (if f.d = 0 then [] else vals) 0

/-- `fork` (R257): its record is pushed at retirement, where SPAWN-LIMIT is judged (R251). -/
def execFork (f : Fields) (s : State) : Host.Outcome State Fault Refusal :=
  issue (.fork f) s (fun s sh =>
    match (if f.a = 0 then none else s.counterFault (s.gOp 1 f.a)) with
    | some (c, b) => .flt c b
    | none =>
      let after := s.pushAfter s.cur s.cx s.me.nextId
      .done (s.atRetire sh (.fork (s.forkRecord f) { slot := 0, mt := s.me.mt.child, takeable := after.isEmpty, after })))

/-! Join counters (R258 to R260). -/

def execJoin (f : Fields) (s : State) : Host.Outcome State Fault Refusal :=
  issue (.join f) s (fun s sh =>
    let a := s.gOp 1 f.a
    let m := s.gOp 2 f.b
    if overMask m 6 0 then .flt cIllegal 0
    else
      match s.counterFault a with
      | some (c, b) => .flt c b
      | none =>
        if !s.me.settled then .wait .settle
        else if let some e := s.carryBad (maskRegs m 0) then e
        else
          let info := s.issueFaultInfo (some sh) cIllegal a 0 0
          let next := s.succ
          .left ((s.send (8192 + s.cur) (s.homeOf (s.pidOf s.cur) a.toNat) (s.cycles + 40)
              (.join s.cur s.cx a (s.susRecord (maskRegs m 0)) s.me.mt)).updMe
            (fun k => { k with st := .waiting .atHome s.cycles, sent := some (info, next) })))

def execJinit (f : Fields) (s : State) : Host.Outcome State Fault Refusal :=
  issue (.jinit f) s (fun s sh =>
    let a := s.gOp 1 f.a
    let v := s.gOp 2 f.b
    if fld v 49 14 != 0 then .flt cIllegal 0
    else
      match s.counterFault a with
      | some (c, b) => .flt c b
      | none =>
        if s.me.hypCur != 0 then .flt cPerm a
        else if 32 ≤ s.me.posted.length then .wait .posted
        else .done (s.postReq (.jinit f) sh { s.reqOf .store a 8 with data := setFld v 63 1 0 }))

def execExit (s : State) : Host.Outcome State Fault Refusal :=
  issue .exit s (fun s _ => if s.me.drained then .left (s.exitStrand s.cur s.cx true) else .wait .drain)

/-! Yield, park, safe points (R126, R261, R345). -/

def execYield (s : State) : Host.Outcome State Fault Refusal :=
  issue .yield s (fun s sh =>
    let m := s.gOp 2 sh.f.b
    if s.myCore.dequeFull then .done (s.updMe (fun k => { k with sinceSpt := 0 }))
    else if overMask m 6 0 then .flt cIllegal 0
    else if !s.me.settled then .wait .settle
    else if let some e := s.carryBad (maskRegs m 0) then e
    else
      let r := s.susRecord (maskRegs m 0)
      .left ((s.pushRec s.cur r { slot := 0, mt := s.me.mt } false).freeCtx s.cur s.cx))

/-- The faults of `park` that are found at issue (R261): ALIGN, WINDOW, window PERM, and under a node PERM of a window (R278). -/
def State.parkFault (s : State) (ea : Word) : Option Flt :=
  match s.accessFault (s.myWho .strand) ea 8 8 false with
  | some f => some f
  | none => if s.me.hypCur != 0 && decide (2 ^ 52 ≤ ea.toNat) then some (cPerm, ea) else none

def execPark (f : Fields) (s : State) : Host.Outcome State Fault Refusal :=
  issue (.park f) s (fun s sh =>
    let a := s.gOp 1 f.a
    let m := s.gOp 2 f.b
    if overMask m 6 0 then .flt cIllegal 0
    else
      match s.parkFault a with
      | some (c, b) => .flt c b
      | none =>
        if !s.me.settled then .wait .settle
        else if let some e := s.carryBad (maskRegs m 0) then e
        else
          let info := s.issueFaultInfo (some sh) 0 0 0 0
          let next := s.succ
          let r := { s.reqOf .ldfeKeep a s.pcNow.toNat with data := a, cmp := m, lane := s.iw.toNat }
          let w := s.myWho .strand
          .left ((s.send (8192 + s.cur) (s.trueHome w.pid w.asid a.toNat) (s.cycles + s.figure w a.toNat false)
              (.parkRec s.cur s.cx r (s.susRecord (maskRegs m 0)) s.me.mt)).updMe
            (fun k => { k with st := .waiting .atHome s.cycles, sent := some (info, next), sinceSpt := 0 })))

/-- Registers that an `spt` marks live, by code: g, and f, k, v (R126). -/
def sptG (imm : BitVec 40) : List Nat := (onesFrom (joinLanes 4 ((List.range 14).map (fun j => if imm.getLsbD j then 15 else 0))) 0 56).filter (· != 0)
def sptRest (imm : BitVec 40) : List Nat :=
  let four (lo base : Nat) : List Nat := ((List.range 32).filter (fun j => imm.getLsbD (lo + j / 4))).map (· + base)
  four 14 0x40 ++ (if imm.getLsbD 30 then (List.range 7).map (· + 0x81) else []) ++ four 22 0x60

/-- A save block by partition and address (R345). -/
def svbKey (m : Meta) (a : Nat) : Nat := m.pid * 2 ^ 64 + a

/-- The save-block base of a launch (R338). -/
def State.svbOf (s : State) (m : Meta) : Nat := ((s.launch m).map (fun l => fld l.rcd 704 64)).getD 0

/-- A victim suspends at its `spt` (R345): its record at the old end of its own deque, registers beyond the record in the save
block. None: the fallback is taken. -/
def State.sptSave (s : State) (imm : BitVec 40) : Option State :=
  let c := s.cur
  let x := s.cx
  let k := s.me
  let svb := s.svbOf k.mt
  let gs := sptG imm
  let rest := sptRest imm
  let push (s : State) (r : Record) : State := (s.pushRec c r { slot := 0, mt := k.mt } false).freeCtx c x
  if svb = 0 ∨ 256 ≤ s.myCore.deque.length then none
  else if gs.length ≤ 6 ∧ rest = [] then some (push s (s.susRecord gs))
  else
    let a := svb + 8192 * (16 * c + x)
    let head := gs.take 5
    match s.writeSpill (s.hwWho c x) a (gs.drop 5 ++ rest) (fun code => s.reg c x code) with
    | (_, some _) => none
    | (t, none) =>
      let r := mkRecord s.succ k.orph true k.jn k.hypCur.toNat k.jword.toNat k.jcl.toNat (s.carry head) (BitVec.ofNat 64 a)
      some (push (t.updCore c (fun co => { co with svb := mset false co.svb (svbKey k.mt a) true })) r)

def execSpt (f : Fields) (s : State) : Host.Outcome State Fault Refusal :=
  issue (.spt f) s (fun s _ =>
    if s.myCore.preempt != some s.cx then .done (s.updMe (fun k => { k with sinceSpt := 0 }))
    else if !s.me.settled then .wait .settle
    else if let some e := s.carryBad (sptG f.imm ++ sptRest f.imm) then e
    else
      match s.sptSave f.imm with
      | some t => .left t
      | none => .overdue 0)

/-! Migration (R264, R265). -/

/-- The binding that a departing strand keeps: only with its coordinate carried (R270). -/
def Ctx.posKept (k : Ctx) (regs : List Nat) : Option PosBind := k.pos.filter (fun b => regs.contains b.crd)

/-- A strand departs with a packet of kind 0 or 1 (R263 to R265, R270). -/
def State.leaveFor (s : State) (sh : Shape) (dst kind : Nat) (ea : Word) (d sz : Nat) (regs : List Nat) (held : Option FaultInfo) : State :=
  let p := mkPacket kind s.me s.succ ea d sz (s.carry regs) (s.me.posKept regs)
  let info := s.issueFaultInfo (some sh) 0 ea 0 0
  (s.updMyCore (fun k => k.unpublish s.cx)).sendPkt dst p info held

def execLdM (f : Fields) (s : State) : Host.Outcome State Fault Refusal :=
  issue (.ldM f) s (fun s sh =>
    let ea := s.gOp 1 f.a + immS f
    let n := 2 ^ f.o.toNat
    match s.accessFault (s.myWho .strand) ea n n false with
    | some (c, b) => .flt c b
    | none =>
      let plain := match s.windowBad ea.toNat n false with
        | some b => Eff.flt cUncorrectable b
        | none => .done (s.detachReq (.ldM f) sh (s.reqOf .load ea n) 0 false)
      match spaceOf ea.toNat with
      | .loc c b =>
        if c = s.cur || b = 3 then plain
        else
          let m := s.gOp 2 f.b
          if overMask m 8 f.d.toNat then .flt cIllegal 0
          else if !s.me.settled then .wait .settle
          else if let some e := s.carryBad (maskRegs m f.d.toNat) then e
          else
            .left (s.leaveFor sh c 0 ea f.d.toNat f.o.toNat (maskRegs m f.d.toNat)
              (some { code := 0, pc := s.pcNow, iw := s.iw, caps := s.capture sh }))
      | _ => plain)

def execMig (f : Fields) (s : State) : Host.Outcome State Fault Refusal :=
  issue (.mig f) s (fun s sh =>
    let c := fld (s.gOp 1 f.a) 0 12
    let m := s.gOp 2 f.b
    let slot : Word := BitVec.ofNat 64 (locBase + c * 2 ^ 20)
    if c = s.cur then .done s
    else if overMask m 8 0 then .flt cIllegal 0
    else if s.unavail c then .flt cWindow slot
    else if !s.inPart (s.pidOf s.cur) c then .flt cPerm slot
    else if !s.me.settled then .wait .settle
    else if let some e := s.carryBad (maskRegs m 0) then e
    else .left (s.leaveFor sh c 1 0 0 0 (maskRegs m 0) none))

/-! Position-bound strands (R269 to R272). -/

def execPbind (f : Fields) (s : State) : Host.Outcome State Fault Refusal :=
  issue (.pbind f) s (fun s _ =>
    let crd := f.a.toNat
    let p := s.gOp 1 f.a
    let m := s.gOp 2 f.b
    match s.cellCore (s.pidOf s.cur) p with
    | none => .flt cWindow p
    | some c =>
      if c ≠ s.cur ∧ overMask m 7 crd then .flt cIllegal 0
      else
        let tag : BitVec 32 := (s.gOp 0 f.d).setWidth 32
        let live : Word := BitVec.ofNat 64 ((maskRegs m crd).foldl (fun n j => n + 2 ^ j) 0)
        let s := (s.updMyCore (fun k => k.unpublish s.cx)).unpublishMoved s.cur s.cx
        let s := s.updMe (fun k => { k with pos := some { crd, tag, live, departing := c != s.cur, depth := k.trapDepth } })
        .done (if c = s.cur then s.updMyCore (fun k => { k with postab := k.postab ++ [{ tag, pos := p, ctx := s.cx }] }) else s))

def execPunbind (s : State) : Host.Outcome State Fault Refusal :=
  issue .punbind s (fun s _ => .done ((s.updMyCore (fun k => k.unpublish s.cx)).updMe (fun k => { k with pos := none })))

/-- A `ppub` leaves the pipeline (R269): posted, on a way of its context's own, since no access of the core has to wait behind it. -/
def State.postPub (s : State) (sh : Shape) (v : Word) : State :=
  (s.postOp .ppub sh 1 false).send (2 ^ 17 + 16 * s.cur + s.cx) (8192 + s.cur) (s.cycles + 8)
    (.mem s.cur s.cx s.me.nextId { s.reqOf .ppub 0 8 with data := v, posted := true })

def execPpub (s : State) : Host.Outcome State Fault Refusal :=
  issue .ppub s (fun s sh =>
    match s.me.pos with
    | none => .flt cIllegal 0
    | some b =>
      if !s.full s.cur s.cx b.crd then .wait (.reg b.crd)
      else
        match s.badCarried [b.crd] with
        | some j => .trap cUncorrectable (BitVec.ofNat 64 j) (s.bankSel j) 0
        | none => if 32 ≤ s.me.posted.length then .wait .posted else .done (s.postPub sh (s.gReg b.crd)))

/-- Whether two intervals of a cell and a widened cell overlap on every axis (R268). -/
def isHalo (a b : Cell) (h : Nat) : Bool :=
  ((coords a.lo).zip ((coords a.hi).zip ((coords b.lo).zip (coords b.hi)))).all (fun e =>
    decide (e.2.2.1 < e.2.1 + h) && decide (e.1 - h < e.2.2.2))

/-- The tables that `nbr` reads, in order: the host cell's, then the halo cells' in increasing core id (R271). -/
def haloCores (m : CellMap) (core : Nat) : List Nat :=
  match m.cells.find? (fun c => c.core == core) with
  | none => [core]
  | some a => core :: ((m.cells.filter (fun b => b.core != core && isHalo a b m.halo)).map (·.core)).mergeSort

/-- The squared distance of two positions (R271). -/
def dist2 (p q : Word) : Int := (((coords p).zip (coords q)).map (fun e => (e.1 - e.2) * (e.1 - e.2))).foldl (· + ·) 0

/-- The entries of one core's table within `r` of a position, in table order (R271); not those of the searching strand. -/
def State.nbrTable (s : State) (c x k : Nat) (p : Word) (r : Nat) : List (Nat × PosEnt) :=
  ((s.core k).postab.filter (fun e =>
    !(k == c && e.ctx == x) && e.ctx != movedCtx c x && decide (dist2 e.pos p ≤ (r * r : Nat)))).map (fun e => (k, e))

/-- The two words of a result entry (R271). -/
def nbrWords (e : Nat × PosEnt) : List Word := [BitVec.ofNat 64 (e.2.tag.toNat + e.1 * 2 ^ 32), e.2.pos]

/-- `nbr` (R271): it reads the tables of the host cell and the halo cells one after another, then stores what it found. -/
def execNbr (f : Fields) (s : State) : Host.Outcome State Fault Refusal :=
  issue (.nbr f) s (fun s sh =>
    let a := s.gOp 1 f.a
    match s.me.pos, (s.part (s.pidOf s.cur)).bind (·.cells) with
    | some b, some m =>
      if fld a 0 4 != 0 then .flt cAlign a
      else if !s.full s.cur s.cx b.crd then .wait (.reg b.crd)
      else if (s.badCarried [b.crd]).isSome then .trap cUncorrectable (BitVec.ofNat 64 b.crd) (s.bankSel b.crd) 0
      else
        let far := decide (m.halo < fld (s.gOp 2 f.b) 0 22)
        .done (s.detach (.nbr f) sh (fun d => { d with
          acq := true, tabs := haloCores m s.cur, snap := [(0, (s.gReg b.crd).toNat)], prog := far.toNat * 2 ^ 62, due := s.cycles + 24 }))
    | _, _ => .flt cIllegal 0)

/-- The entries that an `nbr` writes (R271). -/
def DetOp.nbrOut (d : DetOp) : List (Nat × PosEnt) := d.found.take (min (d.caps.o3.setWidth 64).toNat 65535)

/-- The next store of an `nbr`, once the one before is performed: `j` counts words; a fault stops it (R271). -/
def State.nbrStore (s : State) (c x : Nat) (d : DetOp) (j : Nat) : Option State :=
  match nth (d.nbrOut.flatMap nbrWords) j with
  | none => none
  | some v =>
    let a := wadd (d.caps.o1.setWidth 64) (8 * j : Nat)
    let here := { s with cur := c, cx := x : State }
    let w : Who := { core := c, pid := s.pidOf c, asid := d.asid, user := d.lvl == 0, node := d.node }
    some (match s.issueFault w a 8 8 true with
      | some (e, b) => s.failOp c x d e b 0 0
      | none => { (here.updDet c x d.id (fun d => { d with left := 1, st := .pending })).sendReq d.id
          { kind := .store, ea := a, n := 8, data := v, lane := j, pid := w.pid, asid := w.asid, user := w.user, node := w.node } 0 with
            cur := s.cur, cx := s.cx })

/-- One more table is read, or the first store is sent once all are (R271); none: the operation is at another point. -/
def State.nbrStep (s : State) (c x : Nat) (d : DetOp) : Option State :=
  match d.tabs with
  | k :: l =>
    let p : Word := BitVec.ofNat 64 ((d.snap.head?.map (·.2)).getD 0)
    let found := d.found ++ s.nbrTable c x k p (fld d.caps.o2 0 22)
    let n := min found.length (min (d.caps.o3.setWidth 64).toNat 65535)
    some (s.updDet c x d.id (fun e => { e with
      tabs := l, found
      st := if l.isEmpty && n == 0 then .done else .pending
      prog := if l.isEmpty then found.length % 2 ^ 32 + n * 2 ^ 32 + e.prog else e.prog }))
  | [] =>
    if d.left != 0 then none
    else match d.st with
      | .pending => s.nbrStore c x d 0
      | .done => s.nbrStore c x d d.vals.length
      | .fault _ _ _ _ => none

def execCellq (f : Fields) (s : State) : Host.Outcome State Fault Refusal :=
  issue (.cellq f) s (fun s _ =>
    .done (s.wrG f.d (match s.cellCore (s.pidOf s.cur) (s.gOp 1 f.a) with
      | some c => BitVec.ofNat 64 c
      | none => BitVec.allOnes 64)))

end Sys2Proof.Machine
end

