-- ==== Sys2Proof/Machine/Arrive.lean ====
section
/-!
DEFINITION. The steps in which work moves between cores: binding (R250), stealing (R252), arrivals at a sorus (R263, R309),
join counters (R259, R260), parked records (R261), and cell splits (R273).
-/
namespace Sys2Proof.Machine

/-! Binding and stealing. -/

/-- Whether a context is Free: its last strand has left stage 8 (R29). -/
def State.ctxFree (s : State) (c x : Nat) : Bool := (s.ctx c x).st == .free && decide ((s.ctx c x).busyTill ≤ s.cycles)

/-- The lowest Free context among 0 to 14 (R250). -/
def State.freeContext (s : State) (c : Nat) : Option Nat := (List.range 15).find? (s.ctxFree c)

/-- An orphan that exits silently does so at its binding (R286, R317). -/
def State.orphanAtBind (s : State) (c x : Nat) : State :=
  let k := s.ctx c x
  if k.orph && (eff (s.nodesAtCore (s.pidOf c) c) k.asid.toNat k.hypCur.toNat).isNone then s.exitStrand c x true else s

/-- The save block of a bound record is free again (R345). -/
def State.freeSvb (s : State) (r : Record) (m : Meta) : State :=
  let svb := s.svbOf m
  let a := (recVal r 5).toNat
  let k := (a - svb) / 8192
  if tst r 53 && svb != 0 && decide (svb ≤ a) && (a - svb) % 8192 == 0 && decide (k < 65536) then
    s.updCore (k / 16) (fun co => { co with svb := mset false co.svb (svbKey m a) false })
  else s

/-- A record binds: a launch entry also receives g3 and its wheel position (R250, R341, R345). Of two strands with one position on a core,
launches that were accepted before either was bound or a stolen entry, both bind paced and the lower context wins the position: R339
looks at bound contexts alone (log 73). -/
def State.bindEntry (s : State) (c x : Nat) (r : Record) (ra : Nat) (m : Meta) (launchEntry : Bool) : State :=
  let l : BitVec 1024 := ((s.launch m).map (·.rcd)).getD 0
  let s := (s.freeSvb r m).bindRecord c x r ra m (if launchEntry then [(3, l.extractLsb' 256 64)] else [])
  (if launchEntry && tst l 40 then s.updCtx c x (fun k => { k with paced := some (fld l 41 3) }) else s).orphanAtBind c x

/-- A Held arrival binds (R263); the fault of a `park` whose word failed is taken at its first issue (R261). -/
def State.bindSor (s : State) (c x : Nat) (e : SorEnt) : State :=
  let p := s.sorPacket c e.slot
  let s := s.updCore c (fun k => { k with sorus := k.sorus.filter (fun d => d.slot != e.slot) })
  if pktKind p != 3 then (s.bindPacket c x p e.mt e.held).orphanAtBind c x
  else
    let s := s.bindEntry c x (pktRecord p) (if e.ra = 0 then sorAddr c e.slot else e.ra) e.mt false
    match e.held with
    | some f => s.report c x { f with lvl := e.mt.lvl }
    | none => s

/-- Whether a Held arrival may bind: one that is to be published waits while the position table is full (R273). -/
def State.sorBindable (s : State) (c : Nat) (e : SorEnt) : Bool :=
  let p := s.sorPacket c e.slot
  !(tst p 222 && decide (256 ≤ (s.core c).postab.length))

/-- Whether the deque's port has served an operation in this ck (R252). -/
def State.portUsed (s : State) (c : Nat) : Bool := (s.core c).portAt == s.cycles + 1

/-- The entries that may bind, in the order of R250: those of the sorus from the oldest on, those of the deque from the youngest on. After
a met pre-emption request only those of the highest priority, which it was for (R344, R349; log 72). -/
def State.bindable (s : State) (c : Nat) : List SorEnt × List DqEnt :=
  let co := s.core c
  let l := co.sorus.filter (s.sorBindable c)
  let d := co.deque.reverse.filter (·.takeable)
  if co.preemptMet then
    let p := (l.map (·.mt.prio) ++ d.map (·.mt.prio)).foldl max 0
    (l.filter (fun e => e.mt.prio == p), d.filter (fun e => e.mt.prio == p))
  else (l, d)

/-- One binding at a core (R250): a sorus entry, else the youngest takeable deque entry, through the deque's port (R252). A search
for work to steal is over with it. -/
def State.bindOne (s : State) (c : Nat) : Option State :=
  let co := s.core c
  if co.unavailable || co.boundIn == s.cycles + 1 then none
  else
    match s.freeContext c with
    | none => none
    | some x =>
      let s' := s.updCore c (fun k => { k with boundIn := s.cycles + 1, probe := 0, preemptMet := false })
      let l := s.bindable c
      match l.1.head? with
      | some e => some (s'.bindSor c x e)
      | none =>
        match (if s.portUsed c then none else l.2.head?) with
        | none => none
        | some e =>
          let r := s.dqRecord c e.slot
          let s' := s'.updCore c (fun k => { k with deque := k.deque.filter (fun d => d.slot != e.slot), portAt := s.cycles + 1 })
          some (s'.bindEntry c x r (e.ra.getD (bufAddr c 3 + 64 * e.slot)) e.mt e.launchEntry)

def execContextBind (s : State) : Host.Outcome State Fault Refusal := .next ((s.bindOne s.ev.core).getD s)

/-- The core at grid coordinates (R17). -/
def coreAt (x y : Nat) : Nat :=
  256 * (4 * (y / 16) + x / 16) + 16 * (4 * (y / 4 % 4) + x / 4 % 4) + 4 * (y % 4) + x % 4

/-- The neighbour of a core in a direction (R252): 0 east, 1 south, 2 west, 3 north; south is the next row. -/
def neighbour (c dir : Nat) : Option Nat :=
  let x := gridX c
  let y := gridY c
  match dir with
  | 0 => if x < 63 then some (coreAt (x + 1) y) else none
  | 1 => if y < 63 then some (coreAt x (y + 1)) else none
  | 2 => if 0 < x then some (coreAt (x - 1) y) else none
  | _ => if 0 < y then some (coreAt x (y - 1)) else none

/-- Whether a thief lies within a steal domain around the victim, clipped to the partition (R252, R338). -/
def State.stealOk (s : State) (dom thief victim : Nat) : Bool :=
  let sh := if dom = 1 then 16 else if dom = 2 then 256 else 4096
  dom != 0 && thief / sh == victim / sh && s.pidOf thief == s.pidOf victim && s.inPart (s.pidOf victim) thief

/-- Whether the owner of a deque pops from it in this ck, which goes before a grant (R252, R274). -/
def State.ownerPops (s : State) (v : Nat) : Bool :=
  let co := s.core v
  let l := s.bindable v
  !co.unavailable && co.boundIn != s.cycles + 1 && (s.freeContext v).isSome && l.1.isEmpty && !l.2.isEmpty

/-- One steal probe (R252): the victim's oldest entry binds in the thief, or the next direction is tried. The victim's deque
port serves one operation a ck, its owner's pop first. -/
def State.stealOne (s : State) (c : Nat) : Option State :=
  let co := s.core c
  if co.unavailable || !co.sorus.isEmpty || !co.deque.isEmpty || co.boundIn == s.cycles + 1 then none
  else
    match s.freeContext c with
    | none => none
    | some x =>
      let next := s.updCore c (fun k => { k with probe := (k.probe + 1) % 4 })
      match neighbour c co.probe with
      | none => some next
      | some v =>
        match (s.core v).deque.head? with
        | none => some next
        | some e =>
          if (s.core v).unavailable || !e.takeable || !s.stealOk e.mt.dom c v then some next
          else if s.portUsed v || s.ownerPops v then none
          else
            let r := s.dqRecord v e.slot
            let s := s.updCore v (fun k => { k with deque := k.deque.filter (fun d => d.slot != e.slot), portAt := s.cycles + 1 })
            let s := s.updCore c (fun k => { k with boundIn := s.cycles + 1, probe := 0 })
            some (s.bindEntry c x r (e.ra.getD (bufAddr v 3 + 64 * e.slot)) e.mt e.launchEntry)

def execStealProbe (s : State) : Host.Outcome State Fault Refusal := .next ((s.stealOne s.ev.core).getD s)

/-- Whether the operation of an `after` entry is over: one that has faulted is not, before its replay (R251). -/
def State.opOver (s : State) (a : Nat × Nat × Nat) : Bool :=
  let k := s.ctx a.1 a.2.1
  !(k.posted.any (fun d => d.id == a.2.2)) && !(k.outst.any (fun d => d.id == a.2.2)) && !(k.faults.any (fun f => f.id == a.2.2))

/-- Whether the handlers of an entry's faulted operation have returned (R251). -/
def State.oweOver (s : State) (e : DqEnt) : Bool :=
  match e.owe with
  | some (c, x, d) => (s.ctx c x).rett.isNone && decide ((s.ctx c x).trapDepth ≤ d)
  | none => true

/-- A pushed record becomes takeable once the pusher's earlier stores are performed (R251). -/
def State.entryTakeable (s : State) (c i : Nat) : Option State :=
  match nth (s.core c).deque i with
  | none => none
  | some e =>
    if e.takeable || !e.after.all s.opOver || !s.oweOver e then none
    else some (s.updCore c (fun k => { k with deque := updNth (fun d => { d with takeable := true, after := [], owe := none }) k.deque i }))

def execDequeEntryTakeable (s : State) : Host.Outcome State Fault Refusal := .next ((s.entryTakeable s.ev.core s.ev.i).getD s)

/-! The sorus. -/

/-- The arrivals that none of the same source which is lost comes before (R379). -/
def inSeq (gone : List Nat) : List Offer → List Offer
  | [] => []
  | o :: l => if o.lost || gone.contains o.src then inSeq (o.src :: gone) l else o :: inSeq gone l

/-- The arrival that a core judges next (R309): the earliest, of one ck the lower source. -/
def nextOffer (now : Nat) (l : List Offer) : Option Offer :=
  ((inSeq [] l).filter (fun o => decide (o.since ≤ now))).foldl (fun b o => match b with
    | none => some o
    | some p => if o.since < p.since ∨ (o.since = p.since ∧ o.src < p.src) then some o else some p) none

/-- The packet leaves Offered: its sender's context becomes Free (R43, R263). -/
def State.senderLeaves (s : State) (o : Offer) : State :=
  match o.sender with
  | some x => s.freeCtx o.src x
  | none => s

/-- The address of a slot of a core's spill area (R263, R321). -/
def State.spillAddr (s : State) (c slot : Nat) : Nat := clusBase + clusterOf c * 2 ^ 23 + (s.core c).spillOff.toNat + 96 * slot

/-- Whether a refill may start or complete now (R263, R309). -/
def State.refillDue (s : State) (c : Nat) : Bool :=
  let co := s.core c
  match co.refill, co.spilled with
  | some t, _ => decide (t ≤ s.cycles)
  | none, e :: _ => decide (e.ready ≤ s.cycles) && decide (co.sorus.length < co.sorusDepth.toNat)
  | none, [] => false

/-- Whether a binding from the sorus is still to be made in this ck (R309). -/
def State.sorusBinds (s : State) (c : Nat) : Bool :=
  let co := s.core c
  !co.unavailable && co.boundIn != s.cycles + 1 && (s.freeContext c).isSome && !(s.bindable c).1.isEmpty

/-- An arrival becomes Held or Spilled (R263, R309): after the binding and the refill of its ck. -/
def State.sorusArrive (s : State) (c : Nat) : Option State :=
  let co := s.core c
  match (if s.refillDue c || s.sorusBinds c then none else nextOffer s.cycles co.offers) with
  | none => none
  | some o =>
    let e : SorEnt := { slot := 0, mt := o.mt, held := o.held, ra := o.ra }
    let gone := (s.updCore c (fun k => { k with offers := k.offers.erase o })).senderLeaves o
    if co.sorus.length < co.sorusDepth.toNat && co.spilled.isEmpty then some (gone.holdPkt c o.pkt e)
    else if co.spilled.length < co.spillCap.toNat then
      match (List.range co.spillCap.toNat).find? (fun n => co.spilled.all (fun d => d.slot != n)) with
      | none => none
      | some n =>
        some ((gone.winStore (gone.spillAddr c n) o.pkt.toNat 96).updCore c (fun k => { k with
          spilled := k.spilled ++ [{ e with slot := n, ready := s.cycles + 40 }] }))
    else none

def execSorusArrival (s : State) : Host.Outcome State Fault Refusal := .next ((s.sorusArrive s.ev.core).getD s)

/-- The oldest Spilled arrival becomes Held, in 40 ck, one at a time (R263, R309). -/
def State.sorusRefill (s : State) (c : Nat) : Option State :=
  let co := s.core c
  if !s.refillDue c then none
  else
    match co.refill, co.spilled with
    | some _, e :: rest =>
      let p : Packet96 := BitVec.ofNat 768 (s.win.read (s.spillAddr c e.slot) 96)
      some ((s.updCore c (fun k => { k with spilled := rest, refill := none })).holdPkt c p e)
    | some _, [] => some (s.updCore c (fun k => { k with refill := none }))
    | none, _ => some (s.updCore c (fun k => { k with refill := some (s.cycles + 40) }))

def execSorusRefill (s : State) : Host.Outcome State Fault Refusal := .next ((s.sorusRefill s.ev.core).getD s)

/-- A step's effect as of the end of the ck before. -/
def State.lastCk (s : State) (f : State → Option State) : Option State :=
  (f { s with cycles := s.cycles - 1 }).map (fun t => { t with cycles := s.cycles })

/-- The message of a strand was turned back: its instruction faults, and replays (R259, R261, R309). -/
def State.sentFault (s : State) (c x code : Nat) (addr aux : Word) : State :=
  let s := { s with cur := c, cx := x }
  match s.me.sent with
  | none => s
  | some (f, next) =>
    (s.updMe (fun k => { k with sent := none, st := .ready })).enterTrap [{ f with code, addr, aux, cyc := s.cycles }] next true

/-- An Offered packet is withdrawn after its sender's `wlimit` (R309): at the end of the ck of expiry, in which it may still leave
Offered. -/
def State.offerExpire (s : State) (c i : Nat) : Option State :=
  match nth (s.core c).offers i with
  | none => none
  | some o =>
    match o.sender with
    | none => none
    | some x =>
      let lim := (s.ctx o.src x).wlimit.toNat
      if lim = 0 ∨ s.cycles < o.since + lim then none
      else some ((s.updCore c (fun k => { k with offers := delNth k.offers i })).sentFault o.src x cWaitLimit (o.pkt.extractLsb' 64 64) 0)

/-- An offer that ran out in a ck that is over: `tick` lets none stand. -/
def execSorusOfferExpiry (s : State) : Host.Outcome State Fault Refusal :=
  .next ((s.lastCk (fun s => s.offerExpire s.ev.core s.ev.i)).getD s)

/-! Join counters. -/

/-- The counter that a packet is for, and the core it comes from. -/
def Pkt.counter (p : Pkt) : Option (Nat × Nat) :=
  match p.body with
  | .join c _ a _ _ => some (a.toNat, c)
  | .decrement c a _ => some (a.toNat, c)
  | _ => none

/-- The input port of a request at a counter's bank (R260). -/
def counterPort (a c : Nat) : Nat := if (a - clusBase) / 2 ^ 23 = clusterOf c then c % 16 else 33

/-- Whether packet `k` is the next that its counter serves (R260): the earliest, of one ck the lower port. -/
def State.counterTurn (s : State) (k : Nat) : Bool :=
  match nth s.net k with
  | none => false
  | some p => match p.counter with
    | none => false
    | some (a, c) => s.performable k && s.net.all (fun q => match q.counter with
      | some (b, d) => b != a || !q.received || decide (p.due < q.due) ||
          (q.due == p.due && decide (counterPort a c ≤ counterPort b d))
      | none => true)

/-- The word of a counter, written by its home: what is kept beside it stays (R260). -/
def State.putCounter (s : State) (a v : Nat) : State := { s with win := s.win.write a v 8 }

/-- A strand goes on with its context and registers at its successor, from the next ck on (R29, R259). -/
def State.goOn (s : State) (c x : Nat) : State :=
  let s := { s with cur := c, cx := x }
  match s.me.sent with
  | none => s
  | some (_, next) => (s.updMe (fun k => { k with sent := none, st := .ready, pc := next, busyTill := max k.busyTill (s.cycles + 1) })).replayDone

/-- The indivisible step of a `join` at its counter (R259). -/
def State.joinStep (s : State) (k : Nat) : Option State :=
  match nth s.net k with
  | some { body := .join c x a r m, .. } =>
    if !s.counterTurn k then none
    else
      let s := s.dropPkt k
      let ca := a.toNat
      if s.win.isBad ca then some (s.sentFault c x cUncorrectable a 0)
      else
        let w := s.win.read ca 8
        let n := bits w 0 32
        if n = 0 then some (s.sentFault c x cIllegal a 0)
        else if n = 1 then some ((s.putCounter ca (w - 1)).goOn c x)
        else
          let slot := ca / 2 ^ 23 * 2 ^ 23 + 64 * bits w 32 17
          let s := { s with win := s.win.store slot r.toNat 64 }
          let s := s.putCounter ca (w - 1 - bits w 63 1 * 2 ^ 63 + 2 ^ 63)
          let s : State := { s with joinMeta := mset none s.joinMeta ca (some m) }
          some (s.freeCtx c x)
  | _ => none

def execJoinAtCounter (s : State) : Host.Outcome State Fault Refusal := .next ((s.joinStep s.ev.k).getD s)

/-- A decrement at its counter (R260): the last one sends the waiting record to the sorus of the exiting core. -/
def State.decStep (s : State) (k : Nat) : Option State :=
  match nth s.net k with
  | some { body := .decrement c a m, .. } =>
    if !s.counterTurn k then none
    else
      let s := s.dropPkt k
      let ca := a.toNat
      let w := s.win.read ca 8
      let n := bits w 0 32
      if n = 0 || s.win.isBad ca then some s
      else if n = 1 && bits w 63 1 == 1 then
        let slot := ca / 2 ^ 23 * 2 ^ 23 + 64 * bits w 32 17
        let r : Record := BitVec.ofNat 512 (s.win.read slot 64)
        let m := (mget none s.joinMeta ca).getD m
        let s := s.putCounter ca (w - 1 - 2 ^ 63)
        let s : State := { s with joinMeta := mset none s.joinMeta ca none }
        some (s.offer c
          { src := c, pkt := kind3 r, mt := m, since := s.cycles + 24, ra := slot })
      else some (s.putCounter ca (w - 1))
  | _ => none

def execJoinDecrement (s : State) : Host.Outcome State Fault Refusal := .next ((s.decStep s.ev.k).getD s)

/-! Park. -/

/-- The record of a `park` reaches its word's home (R261): served, put on the wait list, or turned back with a fault. -/
def State.parkStep (s : State) (k : Nat) : Option State :=
  match nth s.net k with
  | some { body := .parkRec c x r rcd m, .. } =>
    if !s.performable k then none
    else
      let (s, d) := performFe (s.dropPkt k) (r.who c .strand) r
      match d with
      | .flt code a => some (s.sentFault c x code a 0)
      | .ok _ _ => some ((s.offer c { src := c, pkt := kind3 rcd, mt := m, since := s.cycles + 24 }).freeCtx c x)
      | .wait loc =>
        let s : State := { s with waiters := s.waiters ++ [{ loc, kind := .park, core := c, ctx := x, op := 0, r, rcd, mt := m }] }
        some (s.freeCtx c x)
      | .hold => none
  | _ => none

def execParkRecordAtHome (s : State) : Host.Outcome State Fault Refusal := .next ((s.parkStep s.ev.k).getD s)

/-! Cell splits. -/

/-- The axis of a cell that is cut, the longest, x before y before z, and where (R273). -/
def cutOf (c : Cell) : Nat × Int × Nat :=
  let len (k : Nat) : Int := ((nth (coords c.hi) k).getD 0) - ((nth (coords c.lo) k).getD 0)
  let k := if len 1 ≤ len 0 ∧ len 2 ≤ len 0 then 0 else if len 2 ≤ len 1 then 1 else 2
  (k, (nth (coords c.lo) k).getD 0 + len k / 2, (len k).toNat)

/-- A packed corner with one coordinate replaced (R267). -/
def withCoord (p : Word) (k : Nat) (v : Int) : Word := setFld p (21 * k) 21 (wrapI v 21)

/-- The standby core that takes the moved half (R273). -/
def standbyFor (m : CellMap) (core : Nat) : Option Nat :=
  let low (l : List Nat) : Option Nat := l.foldl (fun b c => match b with
    | none => some c
    | some d => some (min c d)) none
  (low (m.standby.filter (fun c => dieOf c == dieOf core))).orElse (fun _ => low m.standby)

/-- A split begins (R273): the map is updated, the entries of the moved half go to the new core's table, and each of their
strands departs. -/
def State.splitCell (s : State) (pid core : Nat) : Option State :=
  match (s.part pid).bind (fun p => if p.splitting then none else p.cells) with
  | none => none
  | some m =>
    match m.cells.find? (fun c => c.core == core), standbyFor m core with
    | some cell, some new =>
      let (k, cut, len) := cutOf cell
      if (s.core core).postab.length ≤ m.split || len ≤ 1 then none
      else
        let lower : Cell := { cell with hi := withCoord cell.hi k cut }
        let upper : Cell := { core := new, lo := withCoord cell.lo k cut, hi := cell.hi }
        let cells := (m.cells.map (fun c => if c.core = core then lower else c)) ++ [upper]
        let moved := ((s.core core).postab.filter (fun e => inCell upper e.pos && decide (e.ctx < 16)))
        let s := s.updPart pid (fun p => { p with
          cells := some { m with cells, standby := m.standby.filter (· != new) }, splitting := true })
        let s := s.updCore core (fun c => { c with postab := c.postab.filter (fun e => !moved.contains e) })
        let s := s.updCore new (fun c => { c with postab := c.postab ++ moved.map (fun e => { e with ctx := movedCtx core e.ctx }) })
        some (moved.foldl (fun s e => s.updCtx core e.ctx (fun k => { k with
          pos := k.pos.map (fun b => { b with moved := true }) })) s)
    | _, _ => none

/-- A split is over when every strand whose entry it moved has departed (R273). -/
def State.splitEnd (s : State) (pid : Nat) : Option State :=
  match s.part pid with
  | none => none
  | some p =>
    if p.splitting && s.cores.all (fun e => !s.inPart pid e.1 || e.2.postab.all (fun x => decide (x.ctx < 16))) then
      some (s.updPart pid (fun p => { p with splitting := false }))
    else none

def execCellSplit (s : State) : Host.Outcome State Fault Refusal :=
  .next (((s.splitCell s.ev.pid s.ev.core).orElse (fun _ => s.splitEnd s.ev.pid)).getD s)

end Sys2Proof.Machine
end

