-- ==== Sys2Proof/Machine/Waits.lean ====
section
/-!
DEFINITION. When a wait is over (R29): the condition of each reason, which the end of a ck judges.
-/
namespace Sys2Proof.Machine

/-- Whether the wait is over (R29). Waits that an event ends are not. -/
def State.waitOver (s : State) (c x : Nat) (why : WaitWhy) : Bool :=
  let s := { s with cur := c, cx := x }
  let k := s.me
  let co := s.myCore
  match why with
  | .reg code => s.full c x code && !s.claimed c x code
  | .lookahead op => !(k.outst.any (fun d => d.id == op))
  | .limit => decide (k.outst.length < 8)
  | .dest code => !(k.outst.any (fun d => d.dests.contains code))
  | .posted => decide (k.posted.length < 32)
  | .drain => k.drained
  | .settle => k.settled
  | .order l st => k.ordered l st
  | .orderNear l st => s.orderedNear c x l st
  | .acquire => !(k.outst.any (·.acq))
  | .queue q => if q < 16 then (s.qPop q).isSome else s.qRoom (q - 16) 0
  | .handle h st => hdlState (s.hdl c h) == st
  | .stream h => !(k.outst.any (fun d => fld d.iw 76 8 == 0x90 + h || fld d.iw 68 8 == 0x90 + h))
  | .streamPool => decide (co.streams.length < 32)
  | .tileQueue => decide (co.mtx.length < 16)
  | .engine => s.copyRoom c
  | .tasks => s.taskRoom c
  | .spilled => co.spilled.isEmpty
  | .rounds id => decide (k.untaken id < 4)
  | .bits n out => if out then co.bitsRoom n else decide (n ≤ co.bitsIn)
  | .offered => false
  | .atHome => false
  | .reserve => false
  | .split => !((s.part (s.pidOf c)).map (·.splitting)).getD false
  | .younger id => !(k.outst.any (fun d => decide (id < d.id)))
  | .system => k.ordered true true
  | .pushed => k.pushed == 0
  | .handler => k.posted.isEmpty
  | .path => s.pathClear c
  | .unread lines => !s.heldBy c s.snapshot lines.contains
  | .tiles => !(k.outst.any (fun d => isTile d.op))
  | .resolves => ((s.part (s.pidOf c)).map (fun p => p.resolves.isEmpty)).getD true

end Sys2Proof.Machine
end

