-- ==== Sys2Proof/Machine/Sched.lean ====
section
/-!
DEFINITION. Which context issues: the issue wheel (R31), and the instruction a context presents (R63 to R67, R373) (log 3).
-/
namespace Sys2Proof.Machine

/-- Ready, and not in stages 1 to 8 (R29, R30). -/
def State.ready (s : State) (c x : Nat) : Bool :=
  let k := s.ctx c x
  k.st == .ready && decide (k.busyTill ≤ s.cycles)

/-- The context that the wheel picks (R31); none while the core has issued in this ck (R30). -/
def State.wheelPick (s : State) (c : Nat) : Option Nat :=
  let co := s.core c
  if co.unavailable || co.issuedAt == s.cycles + 1 then none
  else
    match (List.range 16).find? (fun x => (s.ctx c x).paced == some (s.cycles % 8) && s.ready c x) with
    | some x => some x
    | none =>
      ((List.range 16).map (fun j => (co.lastRr + 1 + j) % 16)).find? (fun x =>
        (s.ctx c x).paced.isNone && s.ready c x && decide ((s.ctx c x).eligAt ≤ s.cycles))

/-- What a context presents: the replay of a record (R373), or the head at its PC (R63 to R67). -/
def State.present (s : State) (c x : Nat) : State × Instr :=
  let s := { s with cur := c, cx := x }
  match s.replay with
  | some r => ({ s with iw := r.iw }, ofIw r.iw)
  | none =>
    match s.fetch c x with
    | (s, .error _) => ({ s with iw := 0, iwH := 31 }, .fetchFault)
    | (s, .ok l) =>
      let k := fld (s.ctx c x).pc 1 5 - 1
      let w := iwAt l k
      ({ s with iw := w, iwH := lineH l }, decodeAt l k)

/-- Whether a row is an event of the machine or its environment; instruction and issue rows happen only at an issue. -/
def isEvent (i : Instr) : Bool :=
  (i.shape {}).isNone && i != .issueIllegalOpcode && i != .issueMalformedLine && i != .fetchFault

/-- The first core that has a context to issue from. -/
def State.issuer (s : State) : Option (Nat × Nat) :=
  s.cores.findSome? (fun e => (s.wheelPick e.1).map (fun x => (e.1, x)))

end Sys2Proof.Machine
end

