-- ==== Sys2Proof/Machine/Events.lean ====
section
/-!
DEFINITION. The steps that end operations and waits: completion (R33, R36), requests at their homes (R134), park notices,
wake-ups and withdrawals (R38, R39, R147), wait limits (R39), posted faults (R144), trap entry (R368), pre-emption (R344, R346),
interrupts (R328), lease checks (R140); what a context presents when nothing could be fetched or decoded (R65, R67, R78); and the end
of a ck (R29, R39, R40).
-/
namespace Sys2Proof.Machine

/-! Issue of words that are no instruction. -/

/-- The shape of a word that is no instruction: it reads and writes nothing. -/
def noShape (op : Nat) : Shape := { f := {}, op }

def execIssueIllegalOpcode (s : State) : Host.Outcome State Fault Refusal :=
  match s.me.st with
  | .free => .fault .noStrand
  | .parked _ _ => .next s
  | _ => .next (s.issueStep (noShape 0xFFF) (fun s _ => .flt cIllegal s.pcNow))

/-- LINE (R65, R67): of a head at or beyond H there is no instruction, and nothing is replayed. -/
def execIssueMalformedLine (s : State) : Host.Outcome State Fault Refusal :=
  match s.me.st with
  | .free => .fault .noStrand
  | .parked _ _ => .next s
  | _ => .next (s.issueStep (noShape 0xFFE) (fun s _ =>
      if s.iw = 0 then .noFetch cLine s.me.pc else .flt cLine s.pcNow))

def execFetchFault (s : State) : Host.Outcome State Fault Refusal :=
  match s.me.st with
  | .free => .fault .noStrand
  | .parked _ _ => .next s
  | _ =>
    match s.fetch s.cur s.cx with
    | (_, .ok _) => .next s
    | (t, .error (c, a)) => .next (t.issueStep (noShape 0) (fun _ _ => .noFetch c a))

/-! Completion. -/

/-- The value that a memory operation delivers to its destination (R145, R150, R167, R264). -/
def State.memValue (s : State) (c x : Nat) (d : DetOp) : Vec :=
  let raw : Nat := match d.vals with
    | e :: _ => e.2.toNat
    | [] => 0
  let op := d.op
  let o0 := d.o % 2 == 1
  if op / 16 = 0x20 then vLoaded (fld d.iw 0 4 ^^^ 8) (s.reg c x (codeAt d.iw 0)) d.vals
  else if op < 0x103 then
    if o0 then (BitVec.ofInt 64 (signed raw (8 * 2 ^ (op - 0x100)))).setWidth 1024 else BitVec.ofNat 1024 raw
  else if op = 0x104 then BitVec.ofNat 1024 (if o0 then 0xFFFFFFFF00000000 + raw % 2 ^ 32 else raw)
  else if op / 16 = 0x11 then (redVal (if op = 0x118 then 9 else if op = 0x119 then 8 else fld d.iw 0 4) raw).setWidth 1024
  else BitVec.ofNat 1024 raw

/-- What a completed operation writes, by destination code. -/
def State.detVals (s : State) (c x : Nat) (d : DetOp) : List (Nat × Vec) :=
  let m := d.op / 16
  if m = 0x10 ∨ m = 0x11 ∨ m = 0x18 ∨ m = 0x19 ∨ m = 0x20 ∨ d.op = 0x3C7 then d.dests.map (fun k => (k, s.memValue c x d))
  else if d.op = 0x3CC then d.dests.map (fun k => (k, BitVec.ofNat 1024 d.prog))
  else if d.op = 0x324 then []
  else d.vals.filter (fun e => d.dests.contains e.1)

/-- The state of a context once one of its parked operations is answered: Parked on another, or
Ready from the next ck on (R29, R38). -/
def Ctx.unpark (k : Ctx) (op now : Nat) : Ctx :=
  let k := { k with outst := updIf (fun d => d.id == op) (fun d => { d with parked := false }) k.outst }
  match k.st with
  | .parked _ since =>
    match k.outst.find? (fun d => d.parked && d.st == .pending) with
    | some d => { k with st := .parked d.id (if d.id = op then now else since) }
    | none => { k with st := .ready, busyTill := max k.busyTill (now + 1) }
  | _ => k

/-- A detached operation ends (R33, R36); none: it is not complete. -/
def State.detEnd (s : State) (c x : Nat) (d : DetOp) : Option State :=
  let op := d.op
  if isTile op then (if s.tileReady c x d then some (s.tileStep c x d) else none)
  else if op = 0x2D5 then (if s.tprogReady c x d then some (s.tprogDone c x d) else none)
  else if (op = 0x330 || op = 0x331) && d.st == .pending then s.consumeEnd c x d
  else if op = 0x320 || op = 0x321 || op = 0x322 || op = 0x323 || op = 0x325 || op = 0x332 || op = 0x334 || op = 0x335 then s.strmCtl c x d
  else if op = 0x3A0 && d.st == .done then s.redCfgEnd c x d
  else if s.cycles < d.due then none
  else
    match d.st with
    | .pending =>
      if op = 0x3A1 then s.redPostEnd c x d
      else if op = 0x3A2 then s.redGetEnd c x d
      else if op = 0x3CC then s.nbrStep c x d else none
    | .fault code a aux fx => some ((s.failOp c x d code a aux fx).updCtx c x (fun k => k.unpark d.id s.cycles))
    | .done =>
      if op = 0x3CC && (d.left != 0 || (s.nbrStep c x d).isSome) then (if d.left = 0 then s.nbrStep c x d else none)
      else if op = 0x3C0 then some (s.spawnEnd c x d)
      else some (s.endPos c x d (s.detVals c x d) d.flags)

/-- The completion of operation `id` of a context. -/
def State.complete (s : State) (c x id : Nat) : Option State :=
  match s.det c x id with
  | none => none
  | some d => s.detEnd c x d

def execDetachedCompletion (s : State) : Host.Outcome State Fault Refusal :=
  .next ((s.complete s.ev.core s.ev.ctx s.ev.op).getD s)

/-- A posted operation's fault is reported (R144). -/
def State.postedFault (s : State) (c x id : Nat) : Option State :=
  match (s.ctx c x).posted.find? (fun d => d.id == id) with
  | none => none
  | some d =>
    match d.st with
    | .fault code a aux fx =>
      some ((s.updCtx c x (fun k => { k with posted := k.posted.filter (fun e => e.id != id) })).report c x
        { code, addr := a, aux, id, pc := d.pc, iw := d.iw, post := true, fpx := fx
          wide := ((d.i.shape (fieldsOf d.iw)).map isWide).getD false, caps := d.caps, lvl := d.lvl, yret := d.yret })
    | _ => none

def execPostedFaultReport (s : State) : Host.Outcome State Fault Refusal :=
  .next ((s.postedFault s.ev.core s.ev.ctx s.ev.op).getD s)

/-! Requests at their homes. -/

/-- The reservation of a `vcvt` replies (R104, R178): the instruction goes on, if its strand still waits for it. -/
def State.reserveStep (s : State) (k c x op : Nat) : State :=
  let t := s.dropPkt k
  match (s.ctx c x).st, (s.ctx c x).reserved with
  | .waiting .reserve _, some r =>
    let u : State := { t with cur := c, cx := x, iw := r.iw, iwH := r.h }
    if r.id != op then t
    else
      match ofIw r.iw, (ofIw r.iw).shape u.flds with
      | .vcvt f, some sh => u.settleLate sh r.caps (vcvtBody f true)
      | _, _ => t
  | _, _ => t

/-- Whether an access of its strand that comes before a `ppub` keeps its entry from being overwritten (R269, R296). -/
def Ctx.before (k : Ctx) (op : Nat) : Bool :=
  k.posted.any (fun p => decide (p.id < op)) || k.outst.any (fun d => decide (d.id < op) && (isLoadOp d.op || isStoreOp d.op))

/-- The ownership request that packet `k` brings (R359): the store's core and the line. -/
def State.ownerReq (s : State) (p : Pkt) : Option (Nat × Nat) :=
  match p.body with
  | .mem c _ _ r => if r.kind == .store && decide (r.ea.toNat < 2 ^ 52) then some (c, s.lineLoc r.pid r.asid r.ea.toNat) else none
  | _ => none

/-- The ownership requests of other cores for the line of packet `k` that have reached its home no later (R359, R361): when, and of
which core. -/
def State.rivals (s : State) (k : Nat) : List (Nat × Nat) :=
  match (nth s.net k).bind (fun p => (s.ownerReq p).map (fun e => (p, e))) with
  | none => []
  | some (p, c, line) =>
    (List.range s.net.length).filterMap (fun j => match nth s.net j with
      | some q =>
        if !decide (q.due ≤ p.due) || !s.performable j then none
        else match s.ownerReq q with
          | some (d, l) => if d != c && l == line then some (q.due, d) else none
          | none => none
      | none => none)

/-- Whether the request of packet `k` is served next on its line (R359, R361): in arrival order, and of one ck the core that comes first
from the slice's rotating priority pointer on (log 74). -/
def State.ownTurn (s : State) (k : Nat) : Bool :=
  match nth s.net k with
  | some { body := .mem c _ _ r, dst, due, .. } =>
    let at_ (d : Nat) : Nat := (d + 4096 - mget 0 s.rot dst % 4096) % 4096
    r.kind != .store || (s.rivals k).all (fun e => e.1 == due && decide (at_ c < at_ e.2))
  | _ => true

/-- `t`, in which the ownership request of packet `k` of `s` has been served: where the pointer decided, it advances by one (R361). -/
def State.pointerUsed (s t : State) (k : Nat) : State :=
  match nth s.net k, s.rivals k with
  | some { body := .mem c _ _ r, dst, .. }, _ :: _ =>
    if (s.slice (lineKey r.pid r.asid r.ea.toNat)).bind (·.owner) = some c then t
    else { t with rot := mset 0 s.rot dst (mget 0 s.rot dst + 1) }
  | _, _ => t

/-- A store to be performed before the request of packet `k` of core `c`: itself, once its core owns the line, or one that the core can no
longer see absent (R153). -/
def State.ownedBefore (s : State) (k c : Nat) (r : MemReq) : Option Nat :=
  if s.net.all (fun p => p.own.isNone) then none
  else if ((nth s.net k).map (·.own.isSome)).getD false then some k
  else findIdx (fun p => s.ownedFrom p c (s.lineLoc r.pid r.asid r.ea.toNat)) s.net

/-- Packet `k` is a store to virtual memory whose line its core comes to own, and writes there while other copies remain (R153): it would
not fault, and is performed later. -/
def State.ownStep (s : State) (k : Nat) : Option State :=
  match nth s.net k with
  | some { dst, body := .mem c x op r, sentAt, walked, own := none, .. } =>
    if r.kind != .store || r.node != 0 || 2 ^ 52 ≤ r.ea.toNat || !s.performable k || !s.ownTurn k || s.heldBy c r.snap (s.watched c r) ||
        s.tstBars c x op dst || (!walked && decide (0 < s.awaits c r)) || (s.ownedBefore k c r).isSome || s.recordHeld (s.lineLoc r.pid r.asid r.ea.toNat) sentAt then none
    else
      let u := s.keepRecords (s.lineLoc r.pid r.asid r.ea.toNat) sentAt
      if nth u.net k ≠ nth s.net k then some u
      else match u.perform c x sentAt .strand r with
      | (_, .ok _ _) => some (s.pointerUsed { u with net := updNth (fun p => { p with own := some [(1, none)] }) u.net k } k)
      | _ => none
  | _ => none

/-- A request waits for its translation and its line (R356), then is performed at its home (R134), answered, put on a wait list with a park notice (R147, R312), or held (R192, R216,
R225, R365). -/
def State.homeStep (s : State) (k : Nat) : Option State :=
  match nth s.net k with
  | some { src, dst, body := .mem c x op r, sentAt, walked, .. } =>
    if !s.performable k || !s.ownTurn k || ((r.kind.writes || r.kind == .reserve) && s.heldBy c r.snap (s.watched c r)) then none
    else if r.kind = .ppub && (s.ctx c x).before op then none
    else if r.kind = .reserve then some (s.reserveStep k c x op)
    else if s.tstBars c x op dst then none
    else if !walked && decide (0 < s.awaits c r) then some (s.walkTo k c r)
    else if let some j := s.ownedBefore k c r then some (s.performOwned j)
    else
      match s.recordKept r sentAt with
      | none => none
      | some u =>
        if nth u.net k ≠ nth s.net k then some u
        else match u.perform c x sentAt .strand r with
        | (t, .ok v fl) => some (((u.pointerUsed t k).dropPkt k).answer c x op r v fl)
        | (t, .flt code a) => some (((u.pointerUsed t k).dropPkt k).answerFault c x op r code a (u.faultAt c sentAt r code))
        | (t, .wait loc) =>
          let t : State := t.dropPkt k
          let t : State := { t with waiters := t.waiters ++ [{ loc, kind := r.kind.waitKind, core := c, ctx := x, op, r }] }
          some (t.send dst src (t.cycles + t.backTime (r.who c .strand) r.ea.toNat false) (.parkNotice c x op))
        | (t, .hold) => if t = u then none else some t
  | _ => none

/-- With `flag` the schedule has the store of packet `k` owned and not performed yet. -/
def execMemoryRequestAtHome (s : State) : Host.Outcome State Fault Refusal :=
  .next ((if s.ev.flag then s.ownStep s.ev.k else s.homeStep s.ev.k).getD s)

/-- A park notice arrives (R147): at the end of the ck the context is Parked. -/
def State.noticeStep (s : State) (k : Nat) : Option State :=
  match nth s.net k with
  | some { body := .parkNotice c x op, .. } =>
    if !s.performable k then none
    else some ((s.dropPkt k).updDet c x op (fun d => if d.st = .pending then { d with parked := true } else d))
  | _ => none

def execParkNotice (s : State) : Host.Outcome State Fault Refusal := .next ((s.noticeStep s.ev.k).getD s)

/-- The value of a filled word arrives (R38). -/
def State.wakeStep (s : State) (k : Nat) : Option State :=
  match nth s.net k with
  | some { body := .wake c x op lane v, .. } =>
    if !s.performable k then none
    else some (((s.dropPkt k).updDet c x op (fun d => d.reply lane (v.setWidth 1024) 0)).updCtx c x (fun k => k.unpark op s.cycles))
  | _ => none

def execWakeupArrival (s : State) : Host.Outcome State Fault Refusal := .next ((s.wakeStep s.ev.k).getD s)

/-! Wait limits, withdrawals, and releases from a wait. -/

/-- Whether `wlimit` bounds a wait (R39, R324); the waits of suspension points and system instructions and those of messages under way
are not of R29's table (log 44). -/
def WaitWhy.limited (w : WaitWhy) : Bool :=
  match w with
  | .drain => false
  | .settle => false
  | .offered => false
  | .atHome => false
  | .younger _ => false
  | .system => false
  | .pushed => false
  | .handler => false
  | .split => false
  | _ => true

/-- A parked operation asks its home to be withdrawn (R39, R328, R346), for the reason `why`. -/
def State.askBack (s : State) (c x op why : Nat) : State :=
  let s := s.updCtx c x (fun k => { k with st := .parked op s.cycles })
  match s.waiters.find? (fun w => w.core == c && w.ctx == x && w.op == op && w.kind != .park) with
  | none => s
  | some w =>
    s.send (8192 + c) (s.trueHome w.r.pid w.r.asid w.r.ea.toNat) (s.cycles + s.reachTime (w.r.who c .strand) w.r.ea.toNat false)
      (.withdraw c x op why)

/-- A record of an instruction that waits for registers reads them live when it is replayed (R374): the awaited one, and what else is
empty of those it reads. -/
def State.awaiting (s : State) (sh : Shape) (why : WaitWhy) (f : FaultInfo) : FaultInfo :=
  match why with
  | .reg code => { f with aux := BitVec.ofNat 64 code, await := code :: (s.emptyRegs sh).filter (· != code) }
  | _ => { f with await := s.emptyRegs sh }

/-- WAITLIMIT of an instruction that waits (R39, R374): the record names the awaited register. -/
def State.waitTrap (s : State) (c x : Nat) (why : WaitWhy) : State :=
  let (s, i) := s.present c x
  match i.shape s.flds with
  | none => s
  | some sh =>
    let s := { s with iw := sh.iw }
    s.enterTrap [s.awaiting sh why (s.issueFaultInfo (some sh) cWaitLimit 0 0 0)] s.succ true

/-- The wait limit of a context that is still in its wait runs out at the end of this ck (R39). -/
def State.limitEnd (s : State) (c x : Nat) : Option State :=
  let k := s.ctx c x
  let lim := k.wlimit.toNat
  match k.st with
  | .waiting why since =>
    if lim = 0 ∨ s.cycles < since + lim ∨ !why.limited ∨ s.waitOver c x why ∨ !k.faults.isEmpty then none else some (s.waitTrap c x why)
  | .parked op since => if lim = 0 ∨ s.cycles < since + lim then none else some (s.askBack c x op 0)
  | _ => none

/-- A limit that ran out in a ck that is over: `tick` lets none stand. -/
def execWaitLimitExpiry (s : State) : Host.Outcome State Fault Refusal :=
  .next ((s.lastCk (fun s => s.limitEnd s.ev.core s.ev.ctx)).getD s)

/-- A withdrawal reaches the home (R39): a waiter that is still listed goes, and its strand takes WAITLIMIT once the reply is back,
or what released it (R328, R346); with the fallback the strand's running tile instruction stops too (R196, R348). -/
def State.withdrawStep (s : State) (k : Nat) : Option State :=
  match nth s.net k with
  | some { body := .withdraw c x op why, .. } =>
    if !s.performable k then none
    else
      let s := s.dropPkt k
      let mine (w : Waiter) : Bool := w.core == c && w.ctx == x && w.op == op && w.kind != .park
      match s.waiters.find? mine with
      | none => some s
      | some w =>
        let s : State := { s with waiters := s.waiters.filter (fun w => !mine w), cur := c, cx := x }
        let fail (s : State) (code : Nat) (a : Word) : State :=
          s.updDet c x op (fun d => ({ d with left := 0, st := .fault code a 0 0 } : DetOp).backBy (s.replyAt c w.r))
        if why = 1 then
          let s := s.updMyCore (fun k => k.met x)
          let s := match s.me.outst.find? (fun d => isTile d.op && d.started) with
            | some d => s.stopTile c x d d.prog (cOverdue, 0)
            | none => s
          some (fail (s.fallbackAt c) cOverdue 0)
        else if why = 2 || s.ipiDue then some (fail (s.updMe (fun k => { k with ipend := false })) cIpi 0)
        else some (fail s cWaitLimit w.r.ea)
  | _ => none

def execWithdrawalAtHome (s : State) : Host.Outcome State Fault Refusal := .next ((s.withdrawStep s.ev.k).getD s)

/-- What a released context takes in place of the answer to its message (R309, R328, R346): the fallback (1), or an interrupt (2). -/
def State.turnBack (s : State) (c x why : Nat) : State :=
  if why = 1 then
    ((s.updCtx c x (fun k => { k with forced := false, sinceSpt := 0 })).updCore c (fun k => k.met x)).fallbackAt c |>.sentFault c x cOverdue 0 0
  else (s.updCtx c x (fun k => { k with ipend := false })).sentFault c x cIpi 0 0

/-- A context in Waiting or Parked is released (R328, R346): it takes `take`, or asks to be withdrawn. A packet that is still Offered is
withdrawn, as R309 withdraws it, and so is a `park`'s record that has not reached its word's home (R261, R263; log 44). Suspension points wait on:
what ends their wait satisfies the request (R45, R349). -/
def State.release (s : State) (c x why : Nat) (take : State → State) : Option State :=
  match (s.ctx c x).st with
  | .waiting .offered _ =>
    match (s.cores.map (·.1)).find? (fun d => (s.core d).offers.any (fun o => o.src == c && o.sender == some x)) with
    | some d => some ((s.updCore d (fun k => { k with
        offers := k.offers.filter (fun o => !(o.src == c && o.sender == some x)) })).turnBack c x why)
    | none => none
  | .waiting .atHome _ =>
    let mine (p : Pkt) : Bool := match p.body with
      | .parkRec d y _ _ _ => d == c && y == x
      | _ => false
    if s.net.any mine then some ({ s with net := s.net.filter (fun p => !mine p) : State }.turnBack c x why) else none
  | .waiting w _ =>
    if w.suspends || s.waitOver c x w || !(s.ctx c x).faults.isEmpty then none
    else some (take (s.present c x).1)
  | .parked op _ =>
    if s.net.any (fun p => match p.body with
      | .withdraw d y o _ => d == c && y == x && o == op
      | _ => false) then none else some (s.askBack c x op why)
  | _ => none

/-- A pending interrupt releases its context from a wait (R328); one that runs takes it at its next issue. -/
def State.ipiStep (s : State) (c x : Nat) : Option State :=
  if { s with cur := c, cx := x : State }.ipiDue then s.release c x 2 State.takeIpi else none

def execIpiDelivery (s : State) : Host.Outcome State Fault Refusal := .next ((s.ipiStep s.ev.core s.ev.ctx).getD s)

/-- When a context entered its wait. -/
def CtxSt.since (st : CtxSt) : Option Nat :=
  match st with
  | .waiting _ t => some t
  | .parked _ t => some t
  | _ => none

/-- The fallback of pre-emption releases a victim that was in its wait when the request was made (R346); one that runs takes it at an
issue. -/
def State.overdueStep (s : State) (c x : Nat) : Option State :=
  if (s.core c).preempt = some x ∧ ((s.ctx c x).st.since.map (fun t => decide (t ≤ (s.core c).preemptAt))).getD false then
    s.release c x 1 (fun s => s.takeOverdue 0)
  else none

def execSafepointOverdue (s : State) : Host.Outcome State Fault Refusal := .next ((s.overdueStep s.ev.core s.ev.ctx).getD s)

/-- A group of contexts is made to take the fallback (R346). -/
def execRhizoidForcedFallback (s : State) : Host.Outcome State Fault Refusal :=
  .next (s.ev.group.foldl (fun s e => if (s.ctx e.1 e.2).st = .free then s else s.updCtx e.1 e.2 (fun k => { k with forced := true })) s)

/-- The victim of a pre-emption request (R344): lowest priority, then last bound, then highest context; not one whose save block is
occupied (R345). -/
def State.victim (s : State) (core p : Nat) : Option Nat :=
  let k := s.core core
  let ok (x : Nat) : Bool :=
    let c : Ctx := mget {} k.ctxs x
    c.st != .free && c.paced.isNone && decide (c.mt.prio < p) &&
      !mget false k.svb (svbKey c.mt (s.svbOf c.mt + 8192 * (16 * core + x)))
  let better (x y : Nat) : Bool :=
    let a : Ctx := mget {} k.ctxs x
    let b : Ctx := mget {} k.ctxs y
    decide (a.mt.prio < b.mt.prio) || (a.mt.prio == b.mt.prio && (decide (b.boundAt < a.boundAt) || (a.boundAt == b.boundAt && decide (y < x))))
  ((List.range 15).filter ok).foldl (fun v x => match v with
    | none => some x
    | some y => if better x y then some x else some y) none

/-- A core requests pre-emption (R344). -/
def State.preemptStep (s : State) (c : Nat) : Option State :=
  let k := s.core c
  let p := (k.sorus.map (·.mt.prio) ++ k.deque.map (·.mt.prio)).foldl max 0
  if k.preempt.isSome || (s.freeContext c).isSome || (k.sorus.isEmpty && k.deque.isEmpty) then none
  else (s.victim c p).map (fun x => s.updCore c (fun k => { k with preempt := some x, preemptAt := s.cycles }))

def execPreemptionRequest (s : State) : Host.Outcome State Fault Refusal := .next ((s.preemptStep s.ev.core).getD s)

/-- A reported fault is taken at the issue opportunity of its context (R368). -/
def State.trapStep (s : State) (c x : Nat) : Option State :=
  let k := s.ctx c x
  if k.st == .ready && decide (k.busyTill ≤ s.cycles) && !k.ending && !k.faults.isEmpty then
    some ({ s with cur := c, cx := x : State }.trapEntry)
  else none

def execTrapEntry (s : State) : Host.Outcome State Fault Refusal := .next ((s.trapStep s.ev.core s.ev.ctx).getD s)

/-- The check of one line (R140): in a slice, or in a core's L1. -/
def execLeaseExpiryCheck (s : State) : Host.Outcome State Fault Refusal :=
  let key := s.ev.key
  if s.ev.flag then
    match s.slice key with
    | some l => .next (s.putSlice key (some (l.checked s.tick8)))
    | none => .next s
  else
    match s.l1 s.ev.core key with
    | some l => .next (s.putL1 s.ev.core key (some (l.checked s.tick8)))
    | none => .next s

/-! The end of a ck. -/

/-- An instruction that has left stage 8 turns out to fault (R251, R274): it does not retire, so no younger count holds it (R372), its marks
do not take effect (R37), and its fault is taken at the next opportunity of its context (R368). -/
def State.notRetired (s : State) (c : Nat) (p : Retiring) (code : Nat) (addr : Word) : State :=
  let t := (s.updCtx c p.ctx (fun k => { k with
    outst := updIf (fun d => decide (d.id < p.info.id)) (fun d => { d with yret := d.yret - 1 }) k.outst
    posted := updIf (fun d => decide (d.id < p.info.id)) (fun d => { d with yret := d.yret - 1 }) k.posted
    faults := updIf (fun f => decide (f.id < p.info.id)) (fun f => { f with yret := f.yret - 1 }) k.faults })).updCore c
      (fun k => k.dropClears p.ctx (fun l => decide (l.due ≤ s.cycles)))
  { { t with cycles := s.cycles - 1 : State }.report c p.ctx { p.info with code, addr } with cycles := s.cycles }

/-- What an instruction does beyond its context, once it has left stage 8 (R9): a `fork` pushes its record or takes SPAWN-LIMIT (R251,
R257); a `qmov` fills its place (R160); `hset` and `hfree` give a handle its state, or take HANDLE where an engine has taken it meanwhile (R238);
an `ipi` reaches its target (R328). -/
def State.actNow (s : State) (c : Nat) (p : Retiring) : State :=
  match p.act with
  | .fork rcd ent => if (s.core c).dequeFull then s.notRetired c p cSpawnLimit 0 else s.pushRec c rcd ent true
  | .push q v => { { s with cur := c, cx := p.ctx : State }.qPush q v with cur := s.cur, cx := s.cx }
  | .handle h st free =>
    if hdlBars (s.hdl c h) st free then s.notRetired c p cHandle (BitVec.ofNat 64 h) else s.putHdl c h (hdlNext (s.hdl c h) st free)
  | .ipi core ctx mask dst =>
    let gone := (s.ctx core ctx).st == .free || ctx == 15
    let s := if gone then s else s.updCtx core ctx (fun k => { k with ipend := true, kipi := k.kipi ||| mask })
    (s.putReg c p.ctx dst (if gone then 0 else 1)).setFull c p.ctx dst true

/-- The instructions of a core that have left stage 8 by now, oldest first. -/
def State.actsNow (s : State) (c : Nat) : State :=
  let (now, later) := (s.core c).retiring.partition (fun p => decide (p.due ≤ s.cycles))
  if now.isEmpty then s else now.foldl (fun s p => s.actNow c p) (s.updCore c (fun k => { k with retiring := later }))

/-- A core whose request has found another context Free withdraws it (R344). -/
def State.requestEnd (s : State) (c : Nat) : State :=
  if (s.core c).preempt.isSome && (s.freeContext c).isSome then s.updCore c (fun k => { k with preempt := none }) else s

/-- A context at the end of a ck (R29, R38): a wait that is over ends, and a park notice takes effect. -/
def State.ctxEnd (s : State) (c x : Nat) (k : Ctx) : Ctx :=
  match k.outst.find? (fun d => d.parked && d.st == .pending), k.st with
  | _, .free => k
  | _, .parked _ _ => k
  | some d, _ => { k with st := .parked d.id (s.cycles - 1) }
  | none, .waiting why _ =>
    let keep := match why with
      | .offered => true
      | .atHome => true
      | .reserve => true
      | .younger _ => true
      | _ => false
    if s.waitOver c x why || (!keep && !k.faults.isEmpty) then { k with st := .ready } else k
  | none, .ready => k

/-- What ends a context's wait with the ck, in this order (R39, R328, R346, R375): the fallback, an interrupt, its limit. -/
def State.waitsEnd (s : State) (c x : Nat) : State :=
  (s.lastCk (fun s => (s.overdueStep c x).orElse (fun _ => (s.ipiStep c x).orElse (fun _ => s.limitEnd c x)))).getD s

/-- The end of a ck: instructions that have left stage 8 take effect (R9), writes become visible (R40, R56), copy masks take effect (R334),
waits that are over end (R29), those that ran out are cut short (R39, R309), requests that a Free context answers are withdrawn (R344), and leases are checked (R140). -/
def State.tick (s : State) : State :=
  let s := { s with cycles := s.cycles + 1 }
  let s := (s.cores.map (·.1)).foldl State.actsNow s
  let s := { s with cores := mmap {} (fun _ k => { k.applyDue s.cycles with
    pmask := k.pmaskNew.orElse (fun _ => k.pmask), pmaskNew := none }) s.cores }
  let s := { s with cores := mmap {} (fun c k => { k with ctxs := mmap {} (s.ctxEnd c) k.ctxs }) s.cores }
  let all := s.cores.flatMap (fun e => e.2.ctxs.map (fun x => (e.1, x.1)))
  let s := all.foldl (fun s e => s.waitsEnd e.1 e.2) s
  let s := (s.cores.map (·.1)).foldl (fun s c => (List.range (s.core c).offers.length).reverse.foldl (fun s i =>
    (s.lastCk (fun s => s.offerExpire c i)).getD s) s) s
  ((s.cores.map (·.1)).foldl State.requestEnd s).leaseSweep

end Sys2Proof.Machine
end

