-- ==== Sys2Proof/Machine/Crypto.lean ====
section
/-!
DEFINITION. The hash and the signature that the device uses (R24, R389): SHA-256, and the verification of SLH-DSA-SHA2-128s. The
manual names both and leaves their text to FIPS 180 and FIPS 205, from which these are taken (log 6).
-/
namespace Sys2Proof.Machine

/-! SHA-256. -/

abbrev W32 := BitVec 32

/-- The largest number of `n` bits above `r` whose `k`-th power does not exceed `x`, bit by bit from the highest. -/
def rootFrom (k x : Nat) : Nat → Nat → Nat
  | 0, r => r
  | n + 1, r => rootFrom k x n (if (r + 2 ^ n) ^ k ≤ x then r + 2 ^ n else r)

/-- The first 32 bits of the fraction of the `k`-th root of a number below 512. -/
def rootFraction (k p : Nat) : W32 := BitVec.ofNat 32 (rootFrom k (p * 2 ^ (32 * k)) 37 0)

/-- The primes below `n`. -/
def primesBelow (n : Nat) : List Nat :=
  (List.range n).filter (fun p => decide (1 < p) && (List.range p).all (fun q => decide (q < 2) || p % q != 0))

/-- The round constants: from the cube roots of the first 64 primes. -/
def shaK : List W32 := (primesBelow 312).map (rootFraction 3)

/-- The working words: two runs of four, the newest word of each first. -/
structure Sha where
  upper : List W32
  lower : List W32
  deriving DecidableEq, Repr

/-- The initial words: from the square roots of the first eight primes. -/
def shaInit : Sha := { upper := [2, 3, 5, 7].map (rootFraction 2), lower := [11, 13, 17, 19].map (rootFraction 2) }

/-- The exclusive or of a word's rotations. -/
def rotations (w : W32) (l : List Nat) : W32 := (l.map w.rotateRight).foldl (· ^^^ ·) 0

/-- One round with its constant and message word: each run gets one new word and loses its oldest. -/
def Sha.round (s : Sha) (kw : W32 × W32) : Sha :=
  let u (j : Nat) : W32 := s.upper.getD j 0
  let l (j : Nat) : W32 := s.lower.getD j 0
  let choice := l 2 ^^^ (l 0 &&& (l 1 ^^^ l 2))
  let majority := (u 0 &&& (u 1 ||| u 2)) ||| (u 1 &&& u 2)
  let t := kw.1 + kw.2 + l 3 + choice + rotations (l 0) [6, 11, 25]
  { upper := (t + majority + rotations (u 0) [2, 13, 22]) :: s.upper.take 3, lower := (t + u 3) :: s.lower.take 3 }

/-- The message schedule, newest word first: `n` more words. -/
def shaExtend : Nat → List W32 → List W32
  | 0, w => w
  | n + 1, w =>
    let back (j : Nat) : W32 := w.getD (j - 1) 0
    let late := rotations (back 2) [17, 19] ^^^ (back 2 >>> 10)
    let early := rotations (back 15) [7, 18] ^^^ (back 15 >>> 3)
    shaExtend n ((back 16 + early + back 7 + late) :: w)

/-- Bytes as one number, the first highest. -/
def beNat (l : List Byte) : Nat := l.foldl (fun n b => n * 256 + b.toNat) 0
/-- A number as `n` bytes, the highest first. -/
def beBytes (x n : Nat) : List Byte := (List.range n).map (fun j => BitVec.ofNat 8 (x / 256 ^ (n - 1 - j)))

/-- One block of 64 bytes. -/
def Sha.block (s : Sha) (l : List Byte) : Sha :=
  let w := (List.range 16).map (fun j => (BitVec.ofNat 32 (beNat ((l.drop (4 * j)).take 4)) : W32))
  let t := (shaK.zip (shaExtend 48 w.reverse).reverse).foldl Sha.round s
  { upper := s.upper.zipWith (· + ·) t.upper, lower := s.lower.zipWith (· + ·) t.lower }

/-- `n` blocks. -/
def shaBlocks : Nat → List Byte → Sha → Sha
  | 0, _, s => s
  | n + 1, l, s => shaBlocks n (l.drop 64) (s.block l)

/-- SHA-256 of a byte string, as 32 bytes. -/
def sha256 (m : List Byte) : List Byte :=
  let padded := m ++ [0x80] ++ List.replicate ((119 - m.length % 64) % 64) 0 ++ beBytes (8 * m.length) 8
  let s := shaBlocks (padded.length / 64) padded shaInit
  (s.upper ++ s.lower).flatMap (fun w => beBytes w.toNat 4)

/-! SLH-DSA-SHA2-128s: n = 16, h = 63, d = 7, 9 levels a tree, a = 12, k = 14, w = 16, 35 chains. -/

/-- An address in its compressed form: layer, tree, type, and three words. -/
structure Adrs where
  layer : Nat := 0
  tree : Nat := 0
  type : Nat := 0
  w1 : Nat := 0
  w2 : Nat := 0
  w3 : Nat := 0
  deriving DecidableEq, Repr

def Adrs.bytes (a : Adrs) : List Byte :=
  let field (x n : Nat) : Nat × Nat := (x, n)
  ([field a.layer 1, field a.tree 8, field a.type 1] ++ [a.w1, a.w2, a.w3].map (field · 4)).flatMap (fun e => beBytes e.1 e.2)

/-- The functions F, H and T: 16 bytes of the hash of seed, address and message. -/
def slhHash (seed : List Byte) (a : Adrs) (m : List Byte) : List Byte :=
  (sha256 (seed ++ List.replicate 48 0 ++ a.bytes ++ m)).take 16

/-- `n` bytes of the mask generation function. -/
def mgf1 (seed : List Byte) (n : Nat) : List Byte :=
  ((List.range ((n + 31) / 32)).flatMap (fun j => sha256 (seed ++ beBytes j 4))).take n

/-- Part `i` of `n` bytes. -/
def slhPart (l : List Byte) (i : Nat) : List Byte := (l.drop (16 * i)).take 16

/-- The first `n` numbers of `b` bits of a byte string, the first bits first. -/
def base2b (l : List Byte) (b n : Nat) : List Nat :=
  let x := beNat l
  (List.range n).map (fun i => x / 2 ^ (8 * l.length - b * (i + 1)) % 2 ^ b)

/-- A hash chain: `n` steps from step `i` on. -/
def slhChain (seed : List Byte) (a : Adrs) : Nat → Nat → List Byte → List Byte
  | 0, _, x => x
  | n + 1, i, x => slhChain seed a n (i + 1) (slhHash seed { a with w3 := i } x)

/-- From a leaf up to its root along an authentication path: `j` levels are below. -/
def slhClimb (seed : List Byte) (a : Adrs) (idx : Nat) : Nat → Nat → List (List Byte) → List Byte → List Byte
  | _, _, [], node => node
  | j, at_, p :: l, node =>
    let m := if idx / 2 ^ j % 2 = 0 then node ++ p else p ++ node
    slhClimb seed a idx (j + 1) (at_ / 2) l (slhHash seed { a with w2 := j + 1, w3 := at_ / 2 } m)

/-- A WOTS+ public key from a signature of 16 bytes. -/
def wotsKey (seed : List Byte) (a : Adrs) (sig m : List Byte) : List Byte :=
  let ds := base2b m 4 32
  let sum := (ds.map (15 - ·)).sum
  let ds := ds ++ base2b (beBytes (sum * 16) 2) 4 3
  let ends := ((List.range 35).zip ds).flatMap (fun e => slhChain seed { a with type := 0, w2 := e.1 } (15 - e.2) e.2 (slhPart sig e.1))
  slhHash seed { a with type := 1, w2 := 0, w3 := 0 } ends

/-- The root of a tree from a signature under it: 35 chain values, then 9 nodes. -/
def xmssRoot (seed : List Byte) (layer tree idx : Nat) (sig m : List Byte) : List Byte :=
  let leaf := wotsKey seed { layer, tree, w1 := idx } sig m
  slhClimb seed { layer, tree, type := 2 } idx 0 idx ((List.range 9).map (fun j => slhPart sig (35 + j))) leaf

/-- The roots of the seven layers, one after another. -/
def htRoot (seed : List Byte) : Nat → Nat → Nat → Nat → List Byte → List Byte → List Byte
  | 0, _, _, _, _, node => node
  | n + 1, layer, tree, idx, sig, node =>
    htRoot seed n (layer + 1) (tree / 2 ^ 9) (tree % 2 ^ 9) (sig.drop 704) (xmssRoot seed layer tree idx (sig.take 704) node)

/-- The FORS public key from a signature of 21 bytes. -/
def forsKey (seed : List Byte) (tree idx : Nat) (sig md : List Byte) : List Byte :=
  let a : Adrs := { tree, type := 3, w1 := idx }
  let roots := ((List.range 14).zip (base2b md 12 14)).flatMap (fun e =>
    let s := sig.drop (208 * e.1)
    let leaf := 4096 * e.1 + e.2
    slhClimb seed a e.2 0 leaf ((List.range 12).map (fun j => slhPart s (1 + j))) (slhHash seed { a with w3 := leaf } (slhPart s 0)))
  slhHash seed { a with type := 4 } roots

/-- Verification of a signature of 7,856 bytes over a message with an empty context, under a public key of 32 bytes. -/
def slhVerify (key m sig : List Byte) : Bool :=
  let seed := key.take 16
  let root := key.drop 16
  let m := [0, 0] ++ m
  let r := sig.take 16
  let digest := mgf1 (r ++ seed ++ sha256 (r ++ seed ++ root ++ m)) 30
  let tree := beNat ((digest.drop 21).take 7) % 2 ^ 54
  let idx := beNat ((digest.drop 28).take 2) % 2 ^ 9
  let fors := forsKey seed tree idx ((sig.drop 16).take 2912) (digest.take 21)
  sig.length == 7856 && key.length == 32 && htRoot seed 7 0 tree idx (sig.drop 2928) fors == root

end Sys2Proof.Machine
end

