-- ==== Sys2Proof/Machine/Hyp.lean ====
section
/-!
DEFINITION. Hypotheses: the node table and its changes (R275 to R277, R282 to R284), major 0x3D (R288 to R292), and the
steps in which slices and cores act on a change.
-/
namespace Sys2Proof.Machine

/-! The node table. -/

/-- An entry of a node table. -/
def nodeAt (t : TMap Node) (asid n : Nat) : Node := mget {} t (nodeKey asid n)

/-- Whether Open node `m` lies below `n` (R283). -/
def belowFrom (t : TMap Node) (asid n : Nat) : Nat → Nat → Bool
  | 0, _ => false
  | fuel + 1, m =>
    let d := nodeAt t asid m
    m != 0 && d.st == .openNode && (d.link == n || belowFrom t asid n fuel d.link)

def below (t : TMap Node) (asid n m : Nat) : Bool := belowFrom t asid n 16 m

/-- The entries of one ASID changed. -/
def mapNodes (t : TMap Node) (asid : Nat) (f : Nat → Node → Node) : TMap Node :=
  t.map (fun e => if e.1 / 256 = asid then (e.1, f (e.1 % 256) e.2) else e)

/-- The Open node and every Open node below it become Refuted (R283). -/
def refuteTab (t : TMap Node) (asid n : Nat) : TMap Node :=
  mapNodes t asid (fun m d => if d.st = .openNode ∧ (m = n ∨ below t asid n m) then { d with st := .refuted } else d)

/-- Open nodes of an ASID with a link. -/
def openKids (t : TMap Node) (asid p : Nat) : List Nat :=
  t.filterMap (fun e => if e.1 / 256 = asid ∧ e.2.st = .openNode ∧ e.2.link = p then some (e.1 % 256) else none)

/-- The table after `hres.c` of an Open node (R282). -/
def confirmTab (t : TMap Node) (asid n : Nat) (excl : Bool) : TMap Node :=
  let d := nodeAt t asid n
  let sibs := if excl then (openKids t asid d.link).filter (· != n) else []
  let t1 := mapNodes t asid (fun m e =>
    if m = n then { e with st := .confirmed }
    else if e.st = .openNode ∧ below t asid n m then
      { e with depth := e.depth - 1, link := if e.link = n then d.link else e.link }
    else e)
  sibs.foldl (fun t m => refuteTab t asid m) t1

/-- What a change of the master table comes to when it begins (R284, R289, R291). -/
inductive Change where
  | flt (code : Nat) (addr : Word)
  /-- A value and nothing else. -/
  | same (v : Nat)
  /-- A value, and the new table. -/
  | to (v : Nat) (t : TMap Node)
  deriving DecidableEq, Repr

/-- `hnew` (R289). -/
def hnewOf (t : TMap Node) (asid p : Nat) : Change :=
  if p ≠ 0 ∧ (nodeAt t asid p).st = .free then .flt cIllegal 0
  else
    match eff t asid p with
    | none => .flt cHypRefuted (BitVec.ofNat 64 p)
    | some e =>
      let dep := if e = 0 then 0 else (nodeAt t asid e).depth
      match (List.range 255).find? (fun j => (nodeAt t asid (j + 1)).st == .free) with
      | none => .flt cHypCapacity 0
      | some j =>
        if dep = 15 then .flt cHypCapacity 0
        else .to (j + 1) (mset {} t (nodeKey asid (j + 1)) { st := .openNode, link := e, depth := dep + 1 })

/-- `hnew.rcl` (R289). -/
def reclaimOf (t : TMap Node) (asid i : Nat) : Change :=
  let d := nodeAt t asid i
  if i ≠ 0 ∧ (d.st = .confirmed ∨ d.st = .refuted) ∧ t.all (fun e => e.1 / 256 != asid || e.2.link != i) then
    .to i (mset {} t (nodeKey asid i) {})
  else .same 0

/-- `hres.c` and `hres.r` (R282, R283, R291): kinds 1 to 3 of a resolve. -/
def resolveOf (t : TMap Node) (asid n kind : Nat) : Change :=
  match (nodeAt t asid n).st with
  | .openNode => .to 0 (if kind = 3 then refuteTab t asid n else confirmTab t asid n (kind == 2))
  | .confirmed => .same 1
  | .refuted => .same 2
  | .free => .same 3

/-- The change that an entry of the master's queue makes. -/
def changeOf (t : TMap Node) (r : Resolve) : Change :=
  match r.kind with
  | 0 => hnewOf t r.asid r.node
  | 4 => reclaimOf t r.asid r.node
  | k => resolveOf t r.asid r.node k

/-! The broadcast. -/

/-- The cores of a partition that hold a copy of its table (R275). -/
def State.coresOf (s : State) (pid : Nat) : List Nat := (List.range Config.nCores).filter (fun c => s.inPart pid c && !s.unavail c)

/-- The slices of a partition (R284, R350). -/
def State.slicesOf (s : State) (pid : Nat) : List Nat := (s.diesOf pid).flatMap (fun d => (List.range 32).map (fun k => 32 * d + k))

/-- The nodes whose version lines a resolve acts on (R282, R283, R293). -/
def actedNodes (old new : TMap Node) (asid n kind : Nat) : List Nat :=
  (if kind = 1 ∨ kind = 2 then [n] else []) ++
    old.filterMap (fun e => if e.1 / 256 = asid ∧ e.2.st = .openNode ∧ (nodeAt new asid (e.1 % 256)).st = .refuted
      then some (e.1 % 256) else none)

/-- Whether a version line belongs to one of some nodes of an address space. -/
def verOf (pid asid : Nat) (ns : List Nat) (vk : Nat) : Bool :=
  keyPid (vk / 2 ^ 18) == pid && vk % 2 ^ 18 / 256 == asid && ns.contains (vk % 256)

/-- Version lines of the busiest slice (R293). -/
def State.busiest (s : State) (vks : List Nat) : Nat :=
  (vks.map (fun v => (vks.filter (fun u => s.verSlice u == s.verSlice v)).length)).foldl max 0

/-- The value of a change's operation, by destination. -/
def State.hypValue (s : State) (r : Resolve) (v extra : Nat) (st : OpSt) : State :=
  s.updDet r.core r.ctx r.op (fun d => { d with vals := [(codeAt d.iw 0, BitVec.ofNat 1024 v)], due := d.due + extra, st })

/-- The head of the master's queue begins (R284); one without effect ends at once, and the next begins. -/
def State.startResolve (s : State) (pid : Nat) : Nat → State
  | 0 => s
  | fuel + 1 =>
    match s.part pid with
    | none => s
    | some p =>
      match p.resolves with
      | [] => s
      | r :: rest =>
        let pop (s : State) : State := s.updPart pid (fun p => { p with resolves := rest })
        match (if s.allotted pid r.asid then changeOf p.nodes r else .flt cIllegal 0) with
        | .flt c a => (pop (s.updDet r.core r.ctx r.op (fun d => { d with st := .fault c a 0 0 }))).startResolve pid fuel
        | .same v => (pop (s.hypValue r v 0 .done)).startResolve pid fuel
        | .to v t =>
          let res := r.kind != 0 && r.kind != 4
          let acted := if res then (s.vers.map (·.1)).filter (verOf pid r.asid (actedNodes p.nodes t r.asid r.node r.kind)) else []
          (s.hypValue r v (s.busiest acted) .pending).updPart pid (fun p => { p with
            nodes := t
            resolves := { r with old := p.nodes, slicesLeft := if res then s.slicesOf pid else [], coresLeft := s.coresOf pid } :: rest })

/-- A change completes when every slice and core has acknowledged it (R284); the next begins. -/
def State.endResolve (s : State) (pid : Nat) : State :=
  match s.part pid with
  | none => s
  | some p =>
    match p.resolves with
    | [] => s
    | r :: rest =>
      if r.slicesLeft.isEmpty && r.coresLeft.isEmpty then
        let s := s.updDet r.core r.ctx r.op (fun d => { d with st := .done })
        (s.updPart pid (fun p => { p with resolves := rest })).startResolve pid rest.length
      else s

/-- A change reaches the master table (R284). -/
def State.submitChange (s : State) (asid node kind op : Nat) : State :=
  let pid := s.pidOf s.cur
  let idle := ((s.part pid).map (·.resolves.isEmpty)).getD true
  let s := s.updPart pid (fun p => { p with resolves := p.resolves ++
    [{ asid, node, kind, old := [], slicesLeft := [], coresLeft := [], core := s.cur, ctx := s.cx, op }] })
  if idle then (s.startResolve pid 1).endResolve pid else s

/-- Merges a version line into the committed line (R282, R364): every L1 copy invalidated, the words written full, hardware's fields as
they were (R7); where the slice
does not hold the line, it takes the version's bytes alone, and its others come when an access needs them. -/
def State.commitVersion (s : State) (key : Nat) (v : VLine) : State :=
  let s := s.recall key
  let s := if (s.slice key).isNone && s.hwBits key != 0 then s.holdLine (.line key 0) else s
  let (s, sl) := match s.slice key with
    | some sl => (s, sl)
    | none => (s.sliceRoom key, { data := 0, valid := 0, used := s.cycles + 1 })
  let s := s.putSlice key (some { sl with
    data := s.shield key (mergeLine v.mask v.data sl.data) sl.data
    dirty := sl.dirty ||| v.mask
    valid := sl.valid ||| v.mask
    fe := sl.fe ||| touched v.mask
    bad := (sl.bad &&& ~~~(wordBits (fun w => fld v.mask (8 * w) 8 == 255))) ||| (v.bad &&& touched v.mask)
    hostBit := false
    snooping := none })
  (List.range 8).foldl (fun s w => if fld v.mask (8 * w) 8 = 0 then s
    else s.pass (.line key (8 * w)) (locOf (keyPid key) (keyAsid key) (keyVa key + 8 * w))) s

/-- One version line of a confirmed node merges into its parent's (R282). -/
def State.mergeVersion (s : State) (asid parent vk : Nat) : State :=
  match mget none s.vers vk with
  | none => s
  | some v =>
    let key := vk / 2 ^ 18
    let s := { s with vers := mset none s.vers vk none }
    if parent = 0 then s.commitVersion key v
    else
      match s.ver key (nodeKey asid parent) with
      | none => s.putVer key (nodeKey asid parent) (some v)
      | some q => s.putVer key (nodeKey asid parent) (some { q with
          data := mergeLine v.mask v.data q.data, mask := q.mask ||| v.mask
          bad := (q.bad &&& ~~~(wordBits (fun w => fld v.mask (8 * w) 8 == 255))) ||| (v.bad &&& touched v.mask) })

/-- A slice applies a resolve as one step among its arrivals (R282 to R284). -/
def State.resolveSlice (s : State) (pid slice : Nat) : State :=
  match s.part pid with
  | none => s
  | some p =>
    match p.resolves with
    | [] => s
    | r :: rest =>
      if !r.slicesLeft.contains slice then s
      else
        let s := s.updPart pid (fun p => { p with resolves := { r with slicesLeft := r.slicesLeft.filter (· != slice) } :: rest })
        let mine (ns : List Nat) : List Nat := (s.vers.map (·.1)).filter (fun v => verOf pid r.asid ns v && s.verSlice v == slice)
        let parent := (nodeAt r.old r.asid r.node).link
        let merged := if r.kind = 1 ∨ r.kind = 2 then mine [r.node] else []
        let gone := mine ((actedNodes r.old p.nodes r.asid r.node r.kind).filter (fun n => !(r.kind != 3 && n == r.node)))
        let s := merged.foldl (fun s v => s.mergeVersion r.asid parent v) s
        ({ s with vers := gone.foldl (fun t v => mset none t v none) s.vers }).endResolve pid

/-- A core updates its table copy and acknowledges (R284). -/
def State.resolveCore (s : State) (pid core : Nat) : State :=
  match s.part pid with
  | none => s
  | some p =>
    match p.resolves with
    | [] => s
    | r :: rest =>
      if !r.coresLeft.contains core then s
      else (s.updPart pid (fun p => { p with resolves := { r with coresLeft := r.coresLeft.filter (· != core) } :: rest })).endResolve pid

/-- The version lines and the node table of an ASID are discarded (R275, R323), also as a change under way still shows it. -/
def State.dropHyp (s : State) (pid asid : Nat) : State :=
  { s with vers := s.vers.filter (fun e => !(keyPid (e.1 / 2 ^ 18) == pid && e.1 % 2 ^ 18 / 256 == asid)) }.updPart pid
    (fun p => { p with
      nodes := p.nodes.filter (fun e => e.1 / 256 != asid)
      resolves := p.resolves.map (fun (r : Resolve) => { r with old := r.old.filter (fun e => e.1 / 256 != asid) }) })

/-! Major 0x3D. -/

/-- Whether the strand's ASID has a node table (R275, R288). -/
def State.hasTable (s : State) : Bool := s.allotted (s.pidOf s.cur) s.me.asid.toNat

/-- Bits 7:0 of ga (R288). -/
def State.idOp (s : State) (f : Fields) : Nat := fld (s.gOp 1 f.a) 0 8

/-- A partition of one die takes half the figure (R293). -/
def State.hypFig (s : State) (n : Nat) : Nat := if (s.diesOf (s.pidOf s.cur)).length ≤ 1 then n else 2 * n

/-- A detached change of the node table (R289, R291). -/
def hypDet (i : Instr) (f : Fields) (kind n : Nat) (s : State) (sh : Shape) : Eff :=
  let id := s.idOp f
  let res := kind != 0 && kind != 4
  if !s.hasTable then .flt cIllegal 0
  else if res && id == 0 then .flt cIllegal 0
  else if res && !s.me.ordered true true then .wait (.order true true)
  else
    let t := s.detach i sh (fun d => { d with left := 1, acq := res, due := s.cycles + s.hypFig n })
    .done (t.submitChange s.me.asid.toNat id kind s.me.nextId)

def execHnew (f : Fields) (s : State) : Host.Outcome State Fault Refusal := issue (.hnew f) s (hypDet (.hnew f) f 0 120)
def execHnewRcl (s : State) : Host.Outcome State Fault Refusal := issue .hnewRcl s (fun s sh => hypDet .hnewRcl sh.f 4 120 s sh)
def execHresC (f : Fields) (s : State) : Host.Outcome State Fault Refusal :=
  issue (.hresC f) s (hypDet (.hresC f) f (if f.o = 1 then 2 else 1) 160)
def execHresR (f : Fields) (s : State) : Host.Outcome State Fault Refusal := issue (.hresR f) s (hypDet (.hresR f) f 3 160)

/-- The core's copy of the table (R275). -/
def State.myNodes (s : State) : TMap Node := s.nodesAtCore (s.pidOf s.cur) s.cur

def execHenter (f : Fields) (s : State) : Host.Outcome State Fault Refusal :=
  issue (.henter f) s (fun s _ =>
    let n := s.idOp f
    let t := s.myNodes
    let asid := s.me.asid.toNat
    if !s.hasTable then .flt cIllegal 0
    else if n ≠ 0 ∧ (nodeAt t asid n).st = .free then .flt cIllegal 0
    else if (eff t asid n).isNone then .flt cHypRefuted (BitVec.ofNat 64 n)
    else .done (s.updMe (fun k => { k with hypCur := BitVec.ofNat 8 n })))

def execHleave (s : State) : Host.Outcome State Fault Refusal :=
  issue .hleave s (fun s _ =>
    if !s.hasTable then .flt cIllegal 0
    else
      let n := s.me.hypCur.toNat
      .done (if n = 0 then s else s.updMe (fun k => { k with hypCur := BitVec.ofNat 8 (nodeAt s.myNodes s.me.asid.toNat n).link })))

/-- The status word of an entry (R292). -/
def hnStatus (t : TMap Node) (asid n : Nat) : Nat :=
  if n = 0 then 0
  else
    let d := nodeAt t asid n
    let e := eff t asid n
    (match d.st with
      | .free => 0
      | .openNode => 1
      | .confirmed => 2
      | .refuted => 3) + e.isNone.toNat * 4 + d.link * 2 ^ 8 + e.getD 0 * 2 ^ 16 + d.depth * 2 ^ 24

def execHnstat (f : Fields) (s : State) : Host.Outcome State Fault Refusal :=
  issue (.hnstat f) s (fun s _ =>
    if !s.hasTable then .flt cIllegal 0
    else .done (s.wrG f.d (BitVec.ofNat 64 (hnStatus s.myNodes s.me.asid.toNat (s.idOp f)))))

/-! Events. -/

def execResolveAtSlice (s : State) : Host.Outcome State Fault Refusal := .next (s.resolveSlice s.ev.pid s.ev.slice)
def execResolveAtCore (s : State) : Host.Outcome State Fault Refusal := .next (s.resolveCore s.ev.pid s.ev.core)

/-- No translation of an ASID is held any more (R351). -/
def State.dropSpace (s : State) (pid asid : Nat) : State :=
  { s with
    tlb := s.tlb.filter (fun e => !(e.pid == pid && e.asid == asid))
    wcache := s.wcache.filter (fun e => !(e.pid == pid && e.asid == asid))
    remap := s.remap.filter (fun e => !(e.pid == pid && (e.asid == asid || e.primAsid == asid))) }

/-- Firmware withdraws an allotment (R275): table, version lines and translations go; changes of the table that wait find none. -/
def execAsidAllotmentEnd (s : State) : Host.Outcome State Fault Refusal :=
  .next (((s.dropHyp s.ev.pid s.ev.asid).dropSpace s.ev.pid s.ev.asid).updPart s.ev.pid (fun p => { p with
    spec := { p.spec with asids := p.spec.asids.filter (· != s.ev.asid) } }))

end Sys2Proof.Machine
end

