-- ==== Sys2Proof/Machine/Launch.lean ====
section
/-!
DEFINITION. The Rhizoids' launches and host events (R335 to R343): accepting a record, distributing its strands, prefetch,
dead ranges, and the event ring.
-/
namespace Sys2Proof.Machine

/-- A control block is written by the Rhizoid (R335), in device DRAM and in the slice that holds it: `n` bytes at byte `off` of it. -/
def State.putCtrl (s : State) (pid off n v : Nat) : State :=
  match s.part pid with
  | some p =>
    let a := p.spec.ctrl + off
    (s.dramLines a n).foldl (fun s e =>
      let s := s.recall e.1
      match s.slice e.1 with
      | some sl => s.putSlice e.1 (some { sl with hostBit := false, snooping := none, data := BitVec.ofNat 512 (joinLanes 8 ((List.range 64).map (fun j =>
          if a ≤ e.2 + j ∧ e.2 + j < a + n then bits v (8 * (e.2 + j - a)) 8 else bits sl.data.toNat (8 * j) 8))) })
      | none => s) { s with dram := s.dram.write a v n }
  | none => s

/-- Whether a sequence number is `m` or after it (R335). -/
def seqReached (n m : Nat) : Bool := decide ((n + 2 ^ 32 - m % 2 ^ 32) % 2 ^ 32 < 2 ^ 31)

/-- Who the Rhizoid of a partition acts as under its queue's ASID (R335, R336). -/
def State.rhizoid (s : State) (pid : Nat) (user : Bool) : Who :=
  { core := ((s.coresOf pid).head?).getD 0, pid, asid := s.ctrl pid 352 10, user, engine := true }

/-! Acceptance. -/

/-- The core list of a launch, entries `j` on (R338); none: an entry cannot be read. -/
def readPlace (s : State) (w : Who) (a : Nat) : Nat → Nat → State × Option (List Nat)
  | _, 0 => (s, some [])
  | j, n + 1 =>
    match s.readAt w (a + 2 * j) 2 3 with
    | (s, .error _) => (s, none)
    | (s, .ok v) =>
      match readPlace s w a (j + 1) n with
      | (s, none) => (s, none)
      | (s, some l) => (s, some (bits v 0 12 :: l))

def lrPace (l : BitVec 1024) : Bool := tst l 40
def lrKind1 (l : BitVec 1024) : Bool := tst l 39
def lrPlist (l : BitVec 1024) : Bool := tst l 44
def lrCount (l : BitVec 1024) : Nat := fld l 128 32
def lrMeta (pid : Nat) (l : BitVec 1024) : Meta :=
  { pid, seq := fld l 0 32, prio := fld l 32 3, lvl := fld l 37 2, dom := fld l 35 2 }

/-- The rejection conditions of R339 that the record alone decides; a value that R54 or R330 refuses is one with RSV bits. -/
def launchBad (l : BitVec 1024) : Bool :=
  fld l 45 19 != 0 || fld l 116 12 != 0 || fld l 199 57 != 0 || fld l 608 32 != 0 || fld l 768 256 != 0 ||
  decide (2 ≤ fld l 37 2) || lrCount l == 0 || !pcOk ((l.extractLsb' 64 52).setWidth 64) || (lrPace l && !lrPlist l) ||
  keep (l.extractLsb' 384 64) 4 48 != l.extractLsb' 384 64 || keep (l.extractLsb' 448 64) 8 44 != l.extractLsb' 448 64

/-- Those that the listed cores decide (R339). -/
def State.placeBad (s : State) (pid : Nat) (l : BitVec 1024) (cores : List Nat) : Bool :=
  let paced (c : Nat) : List Nat := (List.range 16).filterMap (fun x => (s.ctx c x).paced)
  cores.any (fun c => !s.inPart pid c || s.unavail c ||
    (lrPace l && ((paced c).contains (fld l 41 3) || decide (4 ≤ (paced c).length))) ||
    (lrKind1 l && !s.ctxFree c 15)) || (lrPace l && !noDup cores)

/-- A record is accepted, or rejected with a kind 2 event (R336, R339). -/
def State.acceptRecord (s : State) (pid : Nat) (l : BitVec 1024) : State :=
  let n := fld l 0 32
  let w := s.rhizoid pid false
  let reject (s : State) : State := s.post pid { kind := 2, status := 1, lseq := n }
  if launchBad l then reject s
  else
    match (if lrPlist l then readPlace s w (fld l 320 64) 0 (lrCount l) else (s, some [])) with
    | (s, none) => reject s
    | (s, some cores) =>
      if s.placeBad pid l cores then reject s
      else
        match s.scopesAt w (fld l 448 64) with
        | (s, .error _) => reject s
        | (s, .ok _) =>
          { s with launches := mset none s.launches (launchKey pid n) (some { rcd := l, place := cores }) }

/-- An attempt to accept the next launch of a queue (R336). -/
def State.acceptNext (s : State) (pid : Nat) : Option State :=
  if (s.part pid).isNone then none
  else
    let n := (s.ctrl pid 128 32 + 1) % 2 ^ 32
    if !seqReached (s.ctrl pid 96 32) n then none
    else
      let llog := s.ctrl pid 64 5
      match s.readAt (s.rhizoid pid false) (s.ctrl pid 0 64 + 128 * (n % 2 ^ llog)) 128 3 with
      | (_, .error _) => none
      | (s, .ok v) => if v % 2 ^ 32 != n then none else some ((s.putCtrl pid 16 4 n).acceptRecord pid (BitVec.ofNat 1024 v))

def execLaunchAccept (s : State) : Host.Outcome State Fault Refusal := .next ((s.acceptNext s.ev.pid).getD s)

/-- A slot whose seq field differed is read again (R336). -/
def execLaunchSlotPoll (s : State) : Host.Outcome State Fault Refusal := .next ((s.acceptNext s.ev.pid).getD s)

/-! Distribution. -/

def State.launchAt (s : State) (pid seq : Nat) : Option Launch := mget none s.launches (launchKey pid seq)
def State.putLaunch (s : State) (pid seq : Nat) (l : Launch) : State :=
  { s with launches := mset none s.launches (launchKey pid seq) (some l) }

/-- The core of the next strand of a launch (R341). -/
def State.nextCore (s : State) (pid : Nat) (l : Launch) : Option Nat :=
  if lrPlist l.rcd then nth l.place l.pushed
  else let cs := s.coresOf pid; nth cs (l.pushed % max cs.length 1)

/-- The next strand of a launch goes to its deque, or its program to context 15 (R341). -/
def State.pushEntry (s : State) (pid seq : Nat) : Option State :=
  match s.launchAt pid seq with
  | none => none
  | some l =>
    if l.ended || decide (lrCount l.rcd ≤ l.pushed) then none
    else
      match s.nextCore pid l with
      | none => none
      | some c =>
        let m := lrMeta pid l.rcd
        let pc : Word := (l.rcd.extractLsb' 64 52).setWidth 64
        let r := mkRecord pc false false false 0 0 0 [] 0
        let s' := s.putLaunch pid seq { l with pushed := l.pushed + 1 }
        if lrKind1 l.rcd then
          if !s.ctxFree c 15 then none else some (s'.bindRecord c 15 r 0 m [(3, l.rcd.extractLsb' 256 64)])
        else if 256 ≤ (s.core c).deque.length then none
        else some (s'.pushRec c r { slot := 0, mt := m, launchEntry := true } true)

def execLaunchEntryPush (s : State) : Host.Outcome State Fault Refusal := .next ((s.pushEntry s.ev.pid s.ev.seq).getD s)

/-! Prefetch and dead ranges (R340, R343). -/

/-- A line of a prefetch range enters its slice (R343); host memory and unmapped pages are skipped, and class 0 allocates none (R139). -/
def State.prefetchLine (s : State) (w : Who) (va lease : Nat) : State :=
  if 2 ^ 52 ≤ va then s
  else
    match s.redirect w.pid w.asid va .read w.user with
    | (s, .error _) => s
    | (s, .ok (asid, va)) =>
      let key := lineKey w.pid asid va
      if s.lineTgt key = 2 || (leaseSlice lease).isNone then s else (s.bringLine w.pid asid va .read w.user lease).1

/-- The lines that a range of bytes touches. -/
def rangeOf (a n : Nat) : List Nat := if n = 0 then [] else (List.range ((a + n - 1) / 64 - a / 64 + 1)).map (fun k => a / 64 * 64 + 64 * k)

/-- Entries of a launch list from `j` on (R340), each given to `f`; one that cannot be read is skipped. -/
def eachEntry (f : State → Nat → State) (w : Who) (a : Nat) : State → Nat → Nat → State
  | s, _, 0 => s
  | s, j, n + 1 =>
    match s.readAt w (a + 16 * j) 16 3 with
    | (s, .error _) => eachEntry f w a s (j + 1) n
    | (s, .ok v) => eachEntry f w a (f s v) (j + 1) n

/-- The prefetch ranges of a launch, in list order (R343). -/
def State.prefetchAll (s : State) (pid seq : Nat) : Option State :=
  match s.launchAt pid seq with
  | none => none
  | some l =>
    if l.prefetched || l.ended then none
    else
      let w := s.rhizoid pid (fld l.rcd 37 2 == 0)
      some (eachEntry (fun s e => (rangeOf (bits e 0 64) (bits e 64 32)).foldl (fun s a => s.prefetchLine w a (Nat.xor (bits e 96 3) 3)) s)
        w (fld l.rcd 512 64) (s.putLaunch pid seq { l with prefetched := true }) 0 (fld l.rcd 576 16))

def execLaunchPrefetch (s : State) : Host.Outcome State Fault Refusal := .next ((s.prefetchAll s.ev.pid s.ev.seq).getD s)

/-- Whether a strand of a launch is left (R343): bound, on a deque, in a sorus or a spill area, in a join slot, parked, or on its
way. -/
def State.strandLeft (s : State) (pid seq : Nat) : Bool :=
  let mine (m : Meta) : Bool := m.pid == pid && m.seq == seq
  s.cores.any (fun e => e.2.ctxs.any (fun x => x.2.st != .free && mine x.2.mt) || e.2.deque.any (fun d => mine d.mt) ||
    e.2.sorus.any (fun d => mine d.mt) || e.2.offers.any (fun d => mine d.mt) || e.2.spilled.any (fun d => mine d.mt)) ||
  s.joinMeta.any (fun e => match e.2 with
    | some m => mine m
    | none => false) ||
  s.waiters.any (fun w => w.kind == .park && mine w.mt) ||
  s.net.any (fun p => match p.body with
    | .join _ _ _ _ m => mine m
    | .parkRec _ _ _ _ m => mine m
    | _ => false)

/-- A committed `disc` of the Rhizoid (R155, R343), line by line; the first fault stops it. -/
def discLines (w : Who) : State → List Nat → State × Option Nat
  | s, [] => (s, none)
  | s, a :: l =>
    let r : MemReq := { kind := .disc, ea := BitVec.ofNat 64 a, n := 64, pid := w.pid, asid := w.asid, user := w.user }
    match performDisc s w r with
    | (s, .flt c _) => (s, some c)
    | (s, .hold) => discLines w (performDisc (s.clearHost w a) w r).1 l
    | (s, _) => discLines w s l

/-- One dead range, with the first fault code so far (R343); one that faults is skipped whole. -/
def deadRange (w : Who) (st : State × Nat) (e : Nat) : State × Nat :=
  let (s, code) := st
  let a := bits e 0 64
  let n := bits e 64 32
  let fail (s : State) (c : Nat) : State × Nat := (s, if code = 0 then c else code)
  if n = 0 then st
  else if a % 64 != 0 || n % 64 != 0 then fail s cAlign
  else
    match s.issueFault w (BitVec.ofNat 64 a) n 64 true with
    | some (c, _) => fail s c
    | none =>
      match discLines w s (rangeOf a n) with
      | (_, some c) => fail s c
      | (t, none) => (t, code)

/-- Entries of the dead-range list from `j` on. -/
def deadRanges (w : Who) (a : Nat) : State × Nat → Nat → Nat → State × Nat
  | st, _, 0 => st
  | (s, code), j, n + 1 =>
    match s.readAt w (a + 16 * j) 16 3 with
    | (s, .error (c, _)) => deadRanges w a (s, if code = 0 then c else code) (j + 1) n
    | (s, .ok v) => deadRanges w a (deadRange w (s, code) v) (j + 1) n

/-- A launch ends (R343): dead ranges, then its event waits to be written (R337). -/
def State.endLaunch (s : State) (pid seq : Nat) : Option State :=
  match s.launchAt pid seq with
  | none => none
  | some l =>
    if l.ended || decide (l.pushed < lrCount l.rcd) || s.strandLeft pid seq then none
    else
      let w := s.rhizoid pid (fld l.rcd 37 2 == 0)
      let (s, status) := deadRanges w (fld l.rcd 640 64) (s.putLaunch pid seq { l with ended := true }, 0) 0 (fld l.rcd 592 16)
      some (s.post pid { kind := 1, status, flags := l.flags, lseq := seq })

def execLaunchEnd (s : State) : Host.Outcome State Fault Refusal := .next ((s.endLaunch s.ev.pid s.ev.seq).getD s)

/-! Host events (R337). -/

/-- An event's 32 bytes (R337). -/
def HostEvt.pack (e : HostEvt) (n : Nat) : Nat :=
  n + e.kind * 2 ^ 32 + e.status * 2 ^ 40 + e.flags.toNat * 2 ^ 48 + e.lseq * 2 ^ 96 + e.addr.toNat * 2 ^ 128 + e.data.toNat * 2 ^ 192

/-- The highest launch number such that every one up to it is over, from `c` on (R335), and the numbers beyond it. -/
def complete32 : Nat → Nat → List Nat → Nat × List Nat
  | 0, c, l => (c, l)
  | fuel + 1, c, l =>
    let n := (c + 1) % 2 ^ 32
    if l.contains n then complete32 fuel n (l.filter (· != n)) else (c, l)

/-- Whether an engine, a scheduler or a collective has still to write for a launch (R337). -/
def State.storesLeft (s : State) (pid seq : Nat) : Bool :=
  let mine (p : Nat) (m : Meta) : Bool := p == pid && m.seq == seq
  s.clusters.any (fun e => e.2.cmds.any (fun d => mine d.pid d.mt) || e.2.tasks.any (fun t => mine t.pid t.mt)) ||
  ((s.part pid).map (fun p => p.colls.any (fun e => e.2.rounds.any (fun r => r.posters.any (fun q => q.block.isSome && mine q.pid q.mt))))).getD false

/-- An event is written to its slot, which only hardware writes from then on until the host has taken it (R7, R337). -/
def State.putEvent (s : State) (pid a n v : Nat) : State :=
  let w := s.rhizoid pid false
  let s := (s.hwWrite w a 32 v).passStore w a 32
  match s.redirect w.pid w.asid a .write false with
  | (s, .error _) => s
  | (s, .ok (asid, va)) =>
    let key := lineKey w.pid asid va
    { s with evLines := { key, off := va % 64, pid, num := n } :: s.evLines.filter (fun e =>
        !(e.key == key && e.off == va % 64) && (e.pid != pid || s.evLive e)) }

/-- The oldest waiting event of a partition is written when its ring has room, not that of a launch whose stores are not all
performed (R337); `completed` follows (R335). -/
def State.postEvent (s : State) (pid : Nat) : Option State :=
  match s.part pid with
  | none => none
  | some p =>
    match p.events.find? (fun e => !(e.kind == 1 && s.storesLeft pid e.lseq)) with
    | none => none
    | some e =>
      let posted := s.ctrl pid 288 32
      let elog := s.ctrl pid 256 5
      if 2 ^ elog ≤ (posted + 2 ^ 32 - s.ctrl pid 320 32) % 2 ^ 32 then none
      else
        let n := (posted + 1) % 2 ^ 32
        let s := if e.kind = 1 ∨ e.kind = 2 then s.hostSeenOf pid e.lseq else s
        let s := s.putEvent pid (s.ctrl pid 192 64 + 32 * (n % 2 ^ elog)) n (e.pack n)
        let s := s.putCtrl pid 36 4 n
        let fin := if e.kind = 1 ∨ e.kind = 2 then p.doneSeqs ++ [e.lseq] else p.doneSeqs
        let (c, left) := complete32 fin.length (s.ctrl pid 160 32) fin
        some ((s.putCtrl pid 20 4 c).updPart pid (fun p => { p with events := p.events.erase e, doneSeqs := left }))

def execEventPost (s : State) : Host.Outcome State Fault Refusal := .next ((s.postEvent s.ev.pid).getD s)

end Sys2Proof.Machine
end

