-- ==== Sys2Proof/Machine/System.lean ====
section
/-!
DEFINITION. Major 0x3E: traps and returns (R325, R373), interrupts (R328), translations (R326), page modes (R327), masks and
tables (R329, R330), the cell map (R331), self-tests (R332), saving and restoring a context (R333).
-/
namespace Sys2Proof.Machine

/-- A minor that is a release and an acquire at scope 5 (R324). -/
def sysOp (body : State → Shape → Eff) (s : State) (sh : Shape) : Eff :=
  if s.me.ordered true true then body s sh else .wait .system

/-! Traps and returns. -/

def execTrap (f : Fields) (s : State) : Host.Outcome State Fault Refusal :=
  issue (.trap f) s (fun s _ => if s.replay.isSome then .done s else .flt cTrap (BitVec.ofNat 64 (fld f.imm 0 16)))

/-- `rett` (R325, R373): the records of the entry are replayed one by one, and then the level returns. -/
def execRett (s : State) : Host.Outcome State Fault Refusal :=
  issue .rett s (fun s _ =>
    if s.me.depth = 0 && !s.me.sat then .flt cIllegal 0
    else if !s.me.posted.isEmpty then .wait .handler
    else
      match s.popRecords 16 with
      | (_, some (c, a)) => .flt c a
      | (t, none) => .left (t.updMe (fun k => { k with st := .ready, busyTill := s.cycles + 8 })))

def execHalt (s : State) : Host.Outcome State Fault Refusal :=
  issue .halt s (fun s _ => if s.me.drained then .left (s.exitStrand s.cur s.cx false) else .wait .drain)

/-! Interrupts (R328). -/

def execIpi (f : Fields) (s : State) : Host.Outcome State Fault Refusal :=
  issue (.ipi f) s (sysOp (fun s sh =>
    let ga := s.gOp 1 f.a
    let c := fld ga 0 12
    if s.unavail c then .flt cWindow 0
    else if s.me.level = 1 && !s.inPart (s.pidOf s.cur) c then .flt cPerm 0
    else .done (s.atRetire sh (.ipi c (fld ga 12 4) (s.gOp 2 f.b) f.d.toNat))))

/-! Translations and page modes. -/

/-- Whether a page of a level, by number, overlaps a range. -/
def pageIn (level page a n : Nat) : Bool :=
  decide (page * 2 ^ lvlShift level < a + n) && decide (a < (page + 1) * 2 ^ lvlShift level)

/-- Whether a page is still mapped as it was found (R141). -/
def State.stillMapped (s : State) (k frame : Nat) : Bool :=
  let level := k % 8
  let sp := k / 8 / 2 ^ 40
  let va := k / 8 % 2 ^ 40 * 2 ^ lvlShift level
  let pid := sp / 1024
  let asid := sp % 1024
  match walk s (s.homeSlice pid va / 32) pid asid va with
  | .ok (lf, _) => lf.level == level && leafFrame lf.e == frame
  | .error _ => false

/-- Cached translations of a range are dropped (R326): of one ASID, or of every ASID of the partition. A page of the range that is
mapped otherwise now, or not at all, is newly mapped when it is found next (R141). -/
def State.dropTrans (s : State) (pid : Nat) (all : Bool) (asid a n : Nat) : State :=
  let hit (p q l pg : Nat) : Bool := p == pid && (all || q == asid) && pageIn l pg a n
  { s with
    tlb := s.tlb.filter (fun e => !hit e.pid e.asid e.level e.page)
    wcache := s.wcache.filter (fun e => !hit e.pid e.asid e.level e.page)
    remap := s.remap.filter (fun e => !hit e.pid e.asid e.level e.page)
    pages := s.pages.filter (fun e =>
      !hit (e.1 / 8 / 2 ^ 40 / 1024) (e.1 / 8 / 2 ^ 40 % 1024) (e.1 % 8) (e.1 / 8 % 2 ^ 40) || (e.2.map (s.stillMapped e.1)).getD false) }

def xinvOf (all : Bool) (f : Fields) (s : State) (_ : Shape) : Eff :=
  let a := (s.gOp 1 f.a).toNat
  let n := (s.gOp 2 f.b).toNat
  if n = 0 then .done s
  else if 2 ^ 52 < a + n then .flt cWindow (BitVec.ofNat 64 (max a (2 ^ 52)))
  else .done (s.dropTrans (s.pidOf s.cur) all s.me.asid.toNat a n)

def execXinv (f : Fields) (s : State) : Host.Outcome State Fault Refusal := issue (.xinv f) s (sysOp (xinvOf false f))
def execXinvAll (s : State) : Host.Outcome State Fault Refusal := issue .xinvAll s (sysOp (fun s sh => xinvOf true sh.f s sh))

/-- The key of a 64 KiB page (R327). -/
def swKey (pid asid p : Nat) : Nat := spaceKey pid asid * 2 ^ 36 + p

/-- The keys of the lines of a page that some cache holds, in ascending order. -/
def State.pageLines (s : State) (pid asid p : Nat) : List Nat :=
  ((s.slices.map (·.1) ++ s.cores.flatMap (fun e => e.2.l1.map (·.1))).filter (fun k =>
    keySpace k == spaceKey pid asid && keyVa k / 2 ^ 16 == p)).dedup.mergeSort

/-- A line is swept when its page becomes coherent (R327): every copy's dirty bytes merge at the home in ascending core id, and
whether two of them dirtied one byte with different values. -/
def State.sweepLine (s : State) (key : Nat) : State × Bool :=
  let step (st : State × Bool × BitVec 64 × Line) (c : Nat) : State × Bool × BitVec 64 × Line :=
    let (s, bad, m, d) := st
    match s.l1 c key with
    | none => st
    | some l =>
      let both := m &&& l.dirty
      let diff := (l.data ^^^ d) &&& lineMask both
      (s.l1Drop c key, bad || diff != 0, m ||| l.dirty, mergeLine l.dirty l.data d)
  let (s, bad, _, _) := ((s.cores.map (·.1)).mergeSort).foldl step (s, false, 0, 0)
  (s, bad)

/-- One page takes a mode (R327); the first line with conflicting bytes, if any. -/
def State.setMode (s : State) (pid asid p : Nat) (sw : Bool) : State × Option Nat :=
  if mget false s.swPages (swKey pid asid p) = sw then (s, none)
  else
    let lines := s.pageLines pid asid p
    let (s, bad) := lines.foldl (fun (st : State × Option Nat) k =>
      if sw then (st.1.recall k, st.2)
      else
        let (s, b) := st.1.sweepLine k
        (s, if b then st.2.orElse (fun _ => some k) else st.2)) (s, none)
    ({ s with swPages := mset false s.swPages (swKey pid asid p) sw }, bad)

def rmodeOf (sw : Bool) (f : Fields) (s : State) (_ : Shape) : Eff :=
  let a := (s.gOp 1 f.a).toNat
  let n := (s.gOp 2 f.b).toNat
  if a % 2 ^ 16 != 0 || n % 2 ^ 16 != 0 then .flt cAlign 0
  else if n = 0 then .done s
  else if 2 ^ 52 < a + n then .flt cWindow (BitVec.ofNat 64 (max a (2 ^ 52)))
  else
    let pid := s.pidOf s.cur
    let asid := s.me.asid.toNat
    let (s, bad) := (List.range (n / 2 ^ 16)).foldl (fun (st : State × Option Nat) j =>
      let (s, b) := st.1.setMode pid asid (a / 2 ^ 16 + j) sw
      (s, st.2.orElse (fun _ => b))) (s, none)
    .done (match bad with
      | some k => s.post pid { kind := 3, addr := BitVec.ofNat 64 (keyVa k) }
      | none => s)

def execRmodeCoh (f : Fields) (s : State) : Host.Outcome State Fault Refusal := issue (.rmodeCoh f) s (sysOp (rmodeOf false f))
def execRmodeSw (s : State) : Host.Outcome State Fault Refusal := issue .rmodeSw s (sysOp (fun s sh => rmodeOf true sh.f s sh))

/-! Masks and tables. -/

/-- Bits of a core bitmap that name cores of the partition (R329). -/
def State.partMask (s : State) (pid m : Nat) : BitVec 4096 :=
  BitVec.ofNat 4096 (joinLanes 1 ((List.range Config.nCores).map (fun c => if s.inPart pid c then m / 2 ^ c % 2 else 0)))

def execPmask (f : Fields) (s : State) : Host.Outcome State Fault Refusal :=
  issue (.pmask f) s (sysOp (fun s _ =>
    let ga := s.gOp 1 f.a
    let c := fld (s.gOp 2 f.b) 0 12
    let pid := s.pidOf s.cur
    if fld ga 0 6 != 0 then .flt cAlign ga
    else if !s.inPart pid c then .flt cPerm (BitVec.ofNat 64 c)
    else
      match s.readChecked (s.myWho .strand) ga 512 64 3 with
      | (_, .error (e, a)) => .flt e a
      | (s, .ok m) => .done (s.updCore c (fun k => { k with pmaskNew := some (s.partMask pid m) }))))

def execScset (f : Fields) (s : State) : Host.Outcome State Fault Refusal :=
  issue (.scset f) s (sysOp (fun s _ =>
    let ga := s.gOp 1 f.a
    if fld ga 0 8 != 0 then .flt cAlign ga
    else
      match s.accessFault (s.myWho .strand) ga 256 256 false with
      | some (e, a) => .flt e a
      | none =>
        match s.scopesAt (s.myWho .strand) ga.toNat with
        | (_, .error (e, a)) => .flt e a
        | (s, .ok t) => .done (s.updMe (fun k => { k with scopeTab := keep ga 8 44, scopes := t }))))

/-! The cell map (R331). -/

/-- A core that a map names: PERM outside the partition, WINDOW when unavailable. -/
def State.mapCore (s : State) (pid c : Nat) : Option Flt :=
  if s.unavail c then some (cWindow, 0) else if !s.inPart pid c then some (cPerm, 0) else none

/-- Whether two cells overlap (R268). -/
def overlap (a b : Cell) : Bool := isHalo a b 0

/-- Whether lo < hi on every axis. -/
def cellOk (c : Cell) : Bool := ((coords c.lo).zip (coords c.hi)).all (fun e => decide (e.1 < e.2))

/-- The standby list from its `n` entries at `a` (R331). -/
def readStandby (s : State) (w : Who) (pid a : Nat) : Nat → Nat → State × Except Flt (List Nat)
  | _, 0 => (s, .ok [])
  | j, n + 1 =>
    match s.readChecked w (BitVec.ofNat 64 (a + 2 * j)) 2 1 3 with
    | (s, .error e) => (s, .error e)
    | (s, .ok v) =>
      if bits v 12 4 != 0 then (s, .error (cIllegal, BitVec.ofNat 64 (a + 2 * j)))
      else
        match s.mapCore pid (bits v 0 12) with
        | some e => (s, .error e)
        | none =>
          match readStandby s w pid a (j + 1) n with
          | (s, .error e) => (s, .error e)
          | (s, .ok l) => (s, .ok (bits v 0 12 :: l))

/-- The cells from the `n` entries at `a` (R331), each checked against those before it and the standby cores. -/
def readCells (s : State) (w : Who) (pid a : Nat) (stby : List Nat) : List Cell → Nat → State × Except Flt (List Cell)
  | l, 0 => (s, .ok l)
  | l, n + 1 =>
    let at_ := a + 32 * l.length
    match s.readChecked w (BitVec.ofNat 64 at_) 32 1 3 with
    | (s, .error e) => (s, .error e)
    | (s, .ok v) =>
      let c : Cell := { core := bits v 0 12, lo := BitVec.ofNat 64 (bits v 64 63), hi := BitVec.ofNat 64 (bits v 128 63) }
      if bits v 12 52 != 0 || bits v 127 1 != 0 || bits v 191 65 != 0 || !cellOk c || l.any (fun d => d.core == c.core || overlap d c) ||
          stby.contains c.core then (s, .error (cIllegal, BitVec.ofNat 64 at_))
      else
        match s.mapCore pid c.core with
        | some e => (s, .error e)
        | none => readCells s w pid a stby (l ++ [c]) n

/-- The map at an address (R331). -/
def State.readMap (s : State) (w : Who) (pid a : Nat) : State × Except Flt CellMap :=
  match s.readAt w a 16 3 with
  | (s, .error e) => (s, .error e)
  | (s, .ok h) =>
    let nc := bits h 0 13
    let nsb := bits h 16 13
    let ill (k : Nat) : State × Except Flt CellMap := (s, .error (cIllegal, BitVec.ofNat 64 k))
    if bits h 13 3 != 0 || bits h 29 3 != 0 || bits h 40 24 != 0 || nc == 0 || decide (4096 < nc) || decide (4095 < nsb) ||
        bits h 32 8 == 0 then ill a
    else if bits h 85 43 != 0 then ill (a + 8)
    else
      let pad := alignUp (2 * nsb) 32
      match readStandby s w pid (a + 16) 0 nsb with
      | (s, .error e) => (s, .error e)
      | (s, .ok stby) =>
        match s.readChecked w (BitVec.ofNat 64 (a + 16 + 2 * nsb)) (pad - 2 * nsb) 1 3 with
        | (s, .error e) => (s, .error e)
        | (s, .ok z) =>
          if z != 0 then (s, .error (cIllegal, BitVec.ofNat 64 (a + 16 + 2 * nsb)))
          else
            match readCells s w pid (a + 16 + pad) stby [] nc with
            | (s, .error e) => (s, .error e)
            | (s, .ok cells) => (s, .ok { cells, standby := stby, halo := bits h 64 21, split := bits h 32 8 })

/-- The resident strands of a partition: core, table entry. -/
def State.residents (s : State) (pid : Nat) : List (Nat × PosEnt) :=
  s.cores.flatMap (fun e => if s.inPart pid e.1 then e.2.postab.map (fun p => (e.1, p)) else [])

/-- A new map replaces the old (R331): residents whose positions lie in another core's cell depart. -/
def State.installMap (s : State) (pid : Nat) (m : CellMap) : State :=
  let s := s.updPart pid (fun p => { p with cells := some m })
  (s.residents pid).foldl (fun s e =>
    if s.cellCore pid e.2.pos = some e.1 then s
    else
      let s := s.updCore e.1 (fun k => k.unpublish e.2.ctx)
      s.updCtx e.1 e.2.ctx (fun k => { k with pos := k.pos.map (fun b => { b with moved := true }) })) s

def execCellset (f : Fields) (s : State) : Host.Outcome State Fault Refusal :=
  issue (.cellset f) s (sysOp (fun s _ =>
    let ga := s.gOp 1 f.a
    let pid := s.pidOf s.cur
    let w := s.myWho .strand
    if ((s.part pid).map (·.splitting)).getD false then .wait .split
    else
      match s.issueFault w ga 64 64 false with
      | some (e, a) => .flt e a
      | none =>
        match s.readMap w pid ga.toNat with
        | (_, .error (e, a)) => .flt e a
        | (s, .ok m) =>
          if (s.residents pid).any (fun e => !m.cells.any (fun c => inCell c e.2.pos)) then .done (s.wrG f.d 1)
          else .done ((s.installMap pid m).wrG f.d 0)))

/-- Whether some strand of a partition is position-bound, in a context or on its way. -/
def State.anyBound (s : State) (pid : Nat) : Bool :=
  s.cores.any (fun e => s.inPart pid e.1 && (e.2.ctxs.any (fun x => x.2.pos.isSome) || e.2.offers.any (fun o => tst o.pkt 222) ||
    e.2.sorus.any (fun d => tst (s.sorPacket e.1 d.slot) 222) ||
    e.2.spilled.any (fun d => tst (BitVec.ofNat 768 (s.win.read (s.spillAddr e.1 d.slot) 96)) 222)))

def execCellsetOff (s : State) : Host.Outcome State Fault Refusal :=
  issue .cellsetOff s (sysOp (fun s sh =>
    let pid := s.pidOf s.cur
    if ((s.part pid).map (·.splitting)).getD false then .wait .split
    else if s.anyBound pid then .done (s.wrG sh.f.d 1)
    else .done ((s.updPart pid (fun p => { p with cells := none })).wrG sh.f.d 0)))

/-! Self-tests (R332, R376). -/

/-- A core is retired (R15, R378): its cluster's spare takes its id and all its state, or it is reported unavailable. -/
def State.retireCore (s : State) (c : Nat) : State × Bool :=
  if (s.cluster (clusterOf c)).spareUsed then (s.updCore c (fun k => { k with unavailable := true }), false)
  else (s.updCluster (clusterOf c) (fun k => { k with spareUsed := true }), true)

/-- The state that a link register names (R387): 0 full, 1 narrow, 2 retired, 3 not trained; lanes and spares with it. -/
def linkReg (lanes spare st spared : Nat) : Word := BitVec.ofNat 64 (lanes + spare * 2 ^ 5 + st * 2 ^ 7 + min spared 0xFFFFFFFF * 2 ^ 32)

/-- A lane of a link fails (R386): a spare takes over; with none left the link goes on with 8 lanes while 8 are good, else it is
retired. The last link of the device is reported. -/
def State.laneFail (s : State) (n : Nat) : State × Bool :=
  let r := mget linkReset s.links n
  let spared := fld r 32 32
  let put (s : State) (v : Word) : State := { s with links := mset linkReset s.links n v }
  if fld r 7 2 ≥ 2 then (s, false)
  else if 0 < fld r 5 2 then (put s (linkReg (fld r 0 5) (fld r 5 2 - 1) (fld r 7 2) (spared + 1)), true)
  else
    let lost := mget 0 s.lostLanes n + 1
    let s : State := { s with lostLanes := mset 0 s.lostLanes n lost }
    if lost ≤ 8 then (put s (linkReg 8 0 1 spared), false)
    else
      let s := put s (linkReg 0 0 2 spared)
      let dead := (List.range 32).all (fun k => decide (2 ≤ fld (mget linkReset s.links k) 7 2))
      (if dead then s.parts.foldl (fun s e => s.post e.1 { kind := 4, status := cTransport }) s else s, false)

/-- The structure that a selector names is retired, and logged (R332, R376); whether a spare took its place: for a core and a link lane as the
state says, else as `spare` does. -/
def State.retireSel (s : State) (sel : Word) (spare : Bool) : State × Bool :=
  let n := fld sel 8 12
  let (s, ok) := if fld sel 0 8 = 0 then s.retireCore n else if fld sel 0 8 = 5 then s.laneFail n else (s, spare)
  ({ s with log := s.log ++ [{ kind := 1, what := sel.toNat }] }, ok)

/-- The outcome of a test (R332): whether it passes is a free value; a failure retires the structure unless it is a probe, and
whether a spare stands ready, where no register says, is a free value too (log 5). -/
def State.selfTest (s : State) (sel : Word) (probe : Bool) : State × Nat :=
  let pass := Config.freeBit s.fresh
  let spare := Config.freeBit (s.fresh + 1)
  let s := { s with fresh := s.fresh + 2 }
  if pass then (s, 1)
  else if probe then (s, 0)
  else
    let (s, ok) := s.retireSel sel spare
    (s, if ok then 6 else 2)

def execHwtest (f : Fields) (s : State) : Host.Outcome State Fault Refusal :=
  issue (.hwtest f) s (sysOp (fun s _ =>
    let sel := s.gOp 1 f.a
    if 6 < fld sel 0 8 || fld sel 32 32 != 0 then .flt cIllegal 0
    else
      let (s, r) := s.selfTest sel (f.o == 1)
      .done (s.wrG f.d (BitVec.ofNat 64 r))))

/-! Saving and restoring a context (R333). -/

/-- The area that an instruction names, or that of the topmost entry (R321, R333). -/
def State.saveAt (s : State) (f : Fields) : Word :=
  let n := if s.me.sat then 16 else s.me.depth.toNat
  if f.a = 0 then s.me.frec + 2048 + 256 * (BitVec.ofNat 64 n - 1) else s.gOp 1 f.a

/-- The registers of `spec` in their order. -/
def saveRegs : List Nat := [0x003, 0x004, 0x005, 0x006, 0x007, 0x00A, 0x00B]

/-- The 256 bytes that `ctxsave` writes (R333). -/
def State.saveImage (s : State) : Nat :=
  let fe (base n : Nat) : Nat := joinLanes 1 ((List.range n).map (fun j => (s.full s.cur s.cx (base + j)).toNat))
  let ch (j : Nat) : Nat := match mget none s.me.chans (8 + j) with
    | some d => fld d 0 8 + 2 ^ 63
    | none => 0
  fe 0 64 + fe 0x40 32 * 2 ^ 64 + fe 0x60 32 * 2 ^ 96 + fe 0x80 8 * 2 ^ 128 +
    joinLanes 64 (saveRegs.map (fun n => (s.sr s.cur s.cx n).toNat)) * 2 ^ 256 + joinLanes 64 ((List.range 8).map ch) * 2 ^ 768

/-- The lines that `ctxsave` writes, as the alias filter names them (R216). -/
def State.saveLines (s : State) (f : Fields) : List Nat :=
  (List.range 5).map (fun j => s.lineLoc (s.pidOf s.cur) s.me.asid.toNat ((s.saveAt f).toNat + 64 * j))

def execCtxsave (f : Fields) (s : State) : Host.Outcome State Fault Refusal :=
  issue (.ctxsave f) s (sysOp (fun s _ =>
    if s.me.pushed ≠ 0 then .wait .pushed
    else if s.me.badTile.getLsbD 0 then .trap cUncorrectable 0 (s.bankSel 0x1006) 0
    else if s.heldBy s.cur s.snapshot (s.saveLines f).contains then .wait (.unread (s.saveLines f))
    else
      match (s.aliasRoll (s.saveLines f).contains).writeChecked (s.myWho .strand) (s.saveAt f) 256 8 s.saveImage 3 with
      | (_, some (e, a)) => .flt e a
      | (s, none) => .done s))

/-- Whether an area is one that `ctxload` takes: RSV bits zero, and descriptors that `qbind` takes (R158, R333). -/
def saveOk (x v : Nat) : Bool :=
  bits v 136 120 == 0 && bits v 704 64 == 0 && bits v 1280 768 == 0 && (List.range 8).all (fun j =>
    let q := bits v (768 + 64 * j) 64
    bits q 8 55 == 0 && (bits q 63 1 == 0 || (bits q 0 4 != 15 && bits q 0 4 != x)))

/-- The effect of `ctxload` but for the scope table (R333). -/
def State.loadImage (s : State) (v : Nat) : State :=
  let codes := ((List.range 56).map (fun j => (j, j)) ++ (List.range 32).map (fun j => (0x40 + j, 64 + j)) ++
    (List.range 32).map (fun j => (0x60 + j, 96 + j)) ++ (List.range 8).map (fun j => (0x80 + j, 128 + j)))
  let s := codes.foldl (fun s e => s.setFull s.cur s.cx e.1 (bits v e.2 1 == 1)) s
  let sv (j : Nat) : Word := BitVec.ofNat 64 (bits v (256 + 64 * j) 64)
  let s := s.updMe (fun k => { ((((((k.srSet 0x003 (sv 0)).srSet 0x004 (sv 1)).srSet 0x005 (sv 2)).srSet 0x006 (sv 3)).srSet 0x007 (sv 4))) with
    hypCur := (sv 5).setWidth 8, scopeTab := keep (sv 6) 8 44 })
  (List.range 8).foldl (fun s j =>
    let q := bits v (768 + 64 * j) 64
    let s := s.updMyCore (fun k => k.unbind s.cx (8 + j))
    if bits q 63 1 = 1 then s.updMe (fun k => { k with chans := mset none k.chans (8 + j) (some (BitVec.ofNat 64 (bits q 0 8))) }) else s) s

def execCtxload (f : Fields) (s : State) : Host.Outcome State Fault Refusal :=
  issue (.ctxload f) s (sysOp (fun s _ =>
    let a := s.saveAt f
    match s.readChecked (s.myWho .strand) a 256 8 3 with
    | (_, .error (e, b)) => .flt e b
    | (s, .ok v) =>
      if !saveOk s.cx v then .flt cIllegal a
      else
        let t := s.loadImage v
        match t.scopesAt (s.hwWho s.cur s.cx) t.me.scopeTab.toNat with
        | (_, .error (e, b)) => .flt e b
        | (t, .ok sc) => .done (t.updMe (fun k => { k with scopes := sc }))))

end Sys2Proof.Machine
end

