-- ==== Sys2Proof/Machine/Fabric.lean ====
section
/-!
DEFINITION. The controllers and the world outside: walks, fetches and directory transactions of a request on its way (R143,
R355 to R360), the host and the expanders (R365 to R367), soft errors and spares (R376 to R378), transport (R379, R380), links
(R386), bring-up, partitions and firmware (R388 to R390), power (R391). Device log entries are of kinds 1 test failed, 2
transient, 3 TRANSPORT-LOSS, 4 header check, 5 image refused or die held, 6 decoders overlap, 7 header corrected.
-/
namespace Sys2Proof.Machine

/-! What controllers and directories do for a request that has arrived. -/

/-- The request to virtual memory that packet `k` brings, once it can be performed. -/
def State.netReq (s : State) (k : Nat) : Option (Nat × MemReq × AccKind) :=
  let of (c : Nat) (r : MemReq) : Option (Nat × MemReq × AccKind) :=
    if s.performable k && decide (r.ea.toNat < 2 ^ 52) then r.kind.acc.map (fun a => (c, r, a)) else none
  match nth s.net k with
  | some p => match p.body with
    | .mem c _ _ r => of c r
    | .parkRec c _ r _ _ => of c r
    | _ => none
  | none => none

/-- A walk on behalf of a request (R355, R356); a fault is met when the request is performed. -/
def State.walkFor (s : State) (k : Nat) : Option State := (s.netReq k).map (fun (c, r, _) => s.walkTo k c r)

def execPageWalk (s : State) : Host.Outcome State Fault Refusal := .next ((s.walkFor s.ev.k).getD s)

/-- A synonym access misses the remap filter (R357): the entry is installed. -/
def State.remapFor (s : State) (k : Nat) : Option State :=
  (s.netReq k).map (fun (_, r, a) => (s.redirect r.pid r.asid r.ea.toNat a r.user).1)

def execRemapFilterMiss (s : State) : Host.Outcome State Fault Refusal := .next ((s.remapFor s.ev.k).getD s)

/-- The line of a request returns to its slice (R143), unless its class or kind allocates none there (R139, R155, R279). -/
def State.fetchFor (s : State) (k : Nat) : Option State :=
  (s.netReq k).bind (fun (c, r, a) =>
    if (leaseSlice r.lease).isNone || r.kind == .disc || (r.node != 0 && r.kind == .store) then none
    else some (s.reach (r.who c .strand) r.ea.toNat a r.lease).1)

def execLineFetchArrival (s : State) : Host.Outcome State Fault Refusal := .next ((s.fetchFor s.ev.k).getD s)

/-- The line of a coherent request of a core that may hold a copy: none under a node, through a synonym, in a software-managed
page, under a lease class that L1 does not take, or while it is not in its slice (R139, R278, R327, R357, R358). -/
def State.cohReq (s : State) (k : Nat) : Option (Nat × Nat × MemReq × AccKind × SLine) :=
  match s.netReq k with
  | none => none
  | some (c, r, a) =>
    let key := lineKey r.pid r.asid r.ea.toNat
    match s.slice key with
    | none => none
    | some sl => if r.node != 0 || s.swManaged key || (leaseL1 r.lease).isNone then none else some (c, key, r, a, sl)

/-- The directory serves the read miss of a load (R359). -/
def State.readFor (s : State) (k : Nat) : Option State :=
  match s.cohReq k with
  | some (c, key, r, .read, sl) => if r.kind != .load || (s.holders key sl).contains c then none else some (s.readMiss c key r.lease)
  | _ => none

def execDirectoryReadMiss (s : State) : Host.Outcome State Fault Refusal := .next ((s.readFor s.ev.k).getD s)

/-- The directory serves the ownership request of a store (R359); where the host bit is set it asks the host first (R365). -/
def State.ownFor (s : State) (k : Nat) : Option State :=
  match s.cohReq k with
  | some (c, key, r, .write, sl) =>
    if r.kind != .store || !s.ownTurn k then none
    else if sl.hostBit then some (s.putSlice key (some { sl with snooping := some c }))
    else some (s.pointerUsed (s.ownLine c key (byteMask (r.ea.toNat % 64) r.n) r.lease) k)
  | _ => none

def execOwnershipRequest (s : State) : Host.Outcome State Fault Refusal := .next ((s.ownFor s.ev.k).getD s)

/-- A copy of a privatised line asks for the bytes of an access (R360). -/
def State.extendFor (s : State) (k : Nat) : Option State :=
  match s.cohReq k with
  | some (c, key, r, _, sl) =>
    if sl.dir != .P || !(s.holders key sl).contains c || (r.kind != .load && r.kind != .store) then none
    else some (s.extend c key (byteMask (r.ea.toNat % 64) r.n) r.lease)
  | none => none

def execExtensionRequest (s : State) : Host.Outcome State Fault Refusal := .next ((s.extendFor s.ev.k).getD s)

/-- An L1 copy is written back (R359): dropped with it, or kept clean. A pinned line stays (R140). -/
def State.l1Back (s : State) (c key : Nat) (drop : Bool) : Option State :=
  match s.l1 c key with
  | none => none
  | some l =>
    if drop then (if l.pinned then none else some (s.l1Drop c key))
    else if l.dirty = 0 then none else some (s.l1Clean c key)

def execL1WriteBack (s : State) : Host.Outcome State Fault Refusal := .next ((s.l1Back s.ev.core s.ev.key s.ev.flag).getD s)

/-- A slice evicts a line (R359, R363): never a pinned one (R140); the host is asked first where it may hold a copy (R365). -/
def State.evictLine (s : State) (key : Nat) : Option State :=
  match s.slice key with
  | none => none
  | some sl =>
    if sl.pinned then none
    else if sl.hostBit then some (s.putSlice key (some { sl with snooping := some Config.nCores }))
    else some (s.evict key)

def execSliceEviction (s : State) : Host.Outcome State Fault Refusal := .next ((s.evictLine s.ev.key).getD s)

/-! The host and the expanders. -/

/-- Whether the host port works: die 1 has trained it (R388). -/
def State.hostUp (s : State) : Bool :=
  let b := mget 0 s.bring 1
  decide (6 ≤ b) && decide (b < 16)

/-- A host request to a line of a partition's HDM range (R365): copies are recalled and the host bit set; a host write puts a
whole line, once no command has still to read the record there (R225). A refused one is logged as a kind 4 event. -/
def State.hostReq (s : State) (pid va : Nat) (acc : AccKind) (image : List Byte) : Option State :=
  match s.part pid with
  | none => none
  | some p =>
    if !s.hostUp || decide (p.spec.hdm ≤ va) then none
    else
      let w : Who := { pid, asid := p.spec.hostAsid, engine := true }
      let kind : AccKind := match acc with
        | .read => .read
        | _ => .write
      match s.reach w va kind 3 with
      | (s, .error c) => some (s.post pid { kind := 4, status := c, addr := BitVec.ofNat 64 va })
      | (s, .ok (key, va')) =>
        let put := acc == .write && image.length == 64
        let s := if put then (s.recall key).keepRecords key s.cycles else s.recall key
        match s.slice key with
        | none => some s
        | some sl =>
          if put && s.recordHeld key s.cycles then none
          else if put then
            some ((s.sliceWrite key 0 64 (ofBytes (image.map (·.toNat)))).passStore { w with asid := keyAsid key } (va' / 64 * 64) 64)
          else if sl.bad != 0 then some (s.post pid { kind := 4, status := cUncorrectable, addr := BitVec.ofNat 64 va })
          else some (s.putSlice key (some { sl with hostBit := true }))

def execHostM2sRequest (s : State) : Host.Outcome State Fault Refusal :=
  .next ((s.hostReq s.ev.pid s.ev.va.toNat s.ev.acc s.ev.image).getD s)

/-- The host's reply to a BISnp (R365): the host bit is clear, and the request that was held goes on. -/
def State.hostReply (s : State) (key : Nat) : Option State :=
  match s.slice key with
  | some sl => if sl.snooping.isNone then none else some (s.putSlice key (some { sl with hostBit := false, snooping := none }))
  | none => none

def execHostBisnpReply (s : State) : Host.Outcome State Fault Refusal := .next ((s.hostReply s.ev.key).getD s)

/-- A host snoop of a line of host memory (R366): invalidation, or a downgrade that leaves clean shared copies. -/
def State.hostSnoop (s : State) (key : Nat) (inval : Bool) : Option State :=
  match s.slice key with
  | none => none
  | some sl =>
    if s.lineTgt key != 2 then none
    else if inval then some (s.evict key)
    else
      let s := if sl.dir == .P then s.recall key
        else (s.holders key sl).foldl (fun s c =>
          let s := s.l1Clean c key
          match s.l1 c key with
          | some l => s.putL1 c key (some { l with st := .S })
          | none => s) s
      match s.slice key with
      | none => some s
      | some sl =>
        some ((s.toMemory key sl).putSlice key (some { sl with
          dirty := 0, dir := if sl.alone then .I else .S, owner := none }))

def execH2dSnoop (s : State) : Host.Outcome State Fault Refusal := .next ((s.hostSnoop s.ev.key s.ev.flag).getD s)

/-- A back-invalidate snoop of a shared expander (R367); the host is asked first where it may hold a copy (R365). -/
def State.expanderSnoop (s : State) (key : Nat) : Option State :=
  match s.slice key with
  | none => none
  | some sl =>
    if s.lineTgt key != 1 then none
    else if sl.hostBit then some (s.putSlice key (some { sl with snooping := some Config.nCores }))
    else some (s.evict key)

def execExpanderBisnp (s : State) : Host.Outcome State Fault Refusal := .next ((s.expanderSnoop s.ev.key).getD s)

/-! Soft errors and spares. -/

def State.logged (s : State) (kind what : Nat) : State := { s with log := s.log ++ [{ kind, what }] }

/-- A register's value can no longer be read (R377); g0 and k0 have none. -/
def State.badRegister (s : State) (c x code : Nat) : State :=
  if isFixed code then s
  else if isShared code then s.updCore c (fun k => { k with shbad := mset false k.shbad code true })
  else s.updCtx c x (fun k => { k with bad := mset false k.bad code true })

/-- What an uncorrectable error spoils (R377), by `unit`: 0 nothing, it was corrected; 1 a word of window memory; 2 word
`slot` of a slice line; 3 a register; 4 a word of device DRAM; 5 of far memory; 6 word `slot` of a line of a core's L1, 7 of its
instruction cache; 8 of the version line of node `k`. -/
def State.spoil (s : State) (e : EvArgs) : State :=
  match e.unit with
  | 1 => { s with win := s.win.setBad e.va.toNat true }
  | 2 => match s.slice e.key with
    | some sl => s.putSlice e.key (some { sl with bad := sl.bad ||| BitVec.ofNat 8 (2 ^ e.slot) })
    | none => s
  | 3 => s.badRegister e.core e.ctx e.op
  | 4 => { s with dram := s.dram.setBad e.va.toNat true }
  | 5 => { s with far := s.far.setBad e.va.toNat true }
  | 6 => match s.l1 e.core e.key with
    | some l => s.putL1 e.core e.key (some { l with bad := l.bad ||| BitVec.ofNat 8 (2 ^ e.slot) })
    | none => s
  | 7 => if e.slot < 8 then s.updCore e.core (fun k => { k with icBad := k.icBad ++ [(e.key, e.slot)] }) else s
  | 8 => match s.ver e.key e.k with
    | some v => s.putVer e.key e.k (some { v with bad := v.bad ||| BitVec.ofNat 8 (2 ^ e.slot) })
    | none => s
  | _ => s

/-- An error in the structure that `sel` names (R332) starts its test, or joins a pending one (R376). -/
def State.softError (s : State) (e : EvArgs) (sel : Word) : State :=
  let s := s.spoil e
  if s.tests.contains sel then s else { s with tests := s.tests ++ [sel] }

/-- A pending test runs (R376). -/
def State.runTest (s : State) (sel : Word) : Option State :=
  if !s.tests.contains sel then none
  else
    let s : State := { s with tests := s.tests.filter (· != sel) }
    let (s, r) := s.selfTest sel false
    some (if r = 1 then s.logged 2 sel.toNat else s)

/-- `k` is 0 where the error is found, 1 where the pending test runs. -/
def execSoftErrorDetected (s : State) : Host.Outcome State Fault Refusal :=
  match s.ev.data with
  | none => .next s
  | some sel =>
    if 6 < fld sel 0 8 ∨ fld sel 32 32 ≠ 0 then .next s
    else if s.ev.k = 0 then .next (s.softError s.ev sel) else .next ((s.runTest sel).getD s)

/-- The elements of the queue with a key (R378). -/
def Core.elements (k : Core) (key : Nat) : Nat :=
  let y : Ctx := mget {} k.ctxs (key / 16)
  if 256 ≤ key then (mget [] k.chan (key - 256)).length
  else if key = 246 then k.qin.length
  else if key = 247 then k.qout.length
  else match key % 16 with
    | 1 => y.q1.length
    | 3 => y.q3.length
    | 5 => y.q5.length
    | _ => 0

/-- What cannot be read of a core that is being copied has failing check bits on the spare (R378), by `e.1`: below 16 register `e.2` of that
context; 16 word `e.2` of local memory; 17 element e.2 / 1024 of queue e.2 % 1024; 18 the `tprog`, 19 the counts of context `e.2`. -/
def State.unread (s : State) (c : Nat) (e : Nat × Nat) : State :=
  if e.1 < 16 then s.badRegister c e.1 e.2
  else match e.1 with
    | 16 => if e.2 < 2 ^ 17 then { s with win := s.win.setBad (locBase + c * 2 ^ 20 + 8 * e.2) true } else s
    | 17 => s.updCore c (fun k => if e.2 / 1024 < k.elements (e.2 % 1024) then { k with badQ := k.badQ ++ [(e.2 % 1024, e.2 / 1024)] } else k)
    | 18 => s.updCtx c e.2 (fun k => { k with badTile := k.badTile ||| 1 })
    | 19 => s.updCtx c e.2 (fun k => { k with badTile := k.badTile ||| 2 })
    | _ => s

/-- A core is retired while it runs (R378): the spare has its id and all its state, but for what could not be read. -/
def State.retireRunning (s : State) (c : Nat) (lost : List (Nat × Nat)) : State :=
  let (s, ok) := s.retireCore c
  if ok then lost.foldl (fun s e => s.unread c e) s else s

def execCoreRetirement (s : State) : Host.Outcome State Fault Refusal :=
  .next (if s.unavail s.ev.core then s else s.retireRunning s.ev.core s.ev.group)

/-! Transport. -/

/-- The header of a packet on a Mirrin link (R384), in bits 127:0 of its first flit; `len` counts flits less one. -/
structure MirrinHead where
  cls : BitVec 2
  len : BitVec 4
  cmp : Bool
  dst : BitVec 20
  src : BitVec 20
  seq : BitVec 16
  pid : BitVec 8
  asid : BitVec 10
  core : BitVec 12
  ctx : BitVec 4
  hck : BitVec 16
  deriving DecidableEq, Repr

/-- The bits of a header (R384). -/
def MirrinHead.pack (h : MirrinHead) : BitVec 128 :=
  h.hck ++ (0 : BitVec 12) ++ h.ctx ++ h.core ++ (0 : BitVec 2) ++ h.asid ++ h.pid ++ h.seq ++ h.src ++ h.dst ++ (0 : BitVec 1) ++
    BitVec.ofBool h.cmp ++ h.len ++ h.cls

/-- A header read from its bits (R384). -/
def mirrinHead (b : BitVec 128) : MirrinHead :=
  { cls := b.extractLsb' 0 2, len := b.extractLsb' 2 4, cmp := b.getLsbD 6, dst := b.extractLsb' 8 20, src := b.extractLsb' 28 20
    seq := b.extractLsb' 48 16, pid := b.extractLsb' 64 8, asid := b.extractLsb' 72 10, core := b.extractLsb' 84 12
    ctx := b.extractLsb' 96 4, hck := b.extractLsb' 112 16 }

/-- Whether a header's length makes its packet invalid (R384): nine flits are the most. -/
def MirrinHead.invalid (h : MirrinHead) : Bool := decide (8 < h.len.toNat)

/-- Whether a packet is a strand's request, whose loss its context sees (R379). -/
def Msg.ofStrand (m : Msg) : Bool :=
  match m with
  | .mem _ _ _ _ => true
  | .join _ _ _ _ _ => true
  | .parkRec _ _ _ _ _ => true
  | _ => false

/-- A strand's request is given up (R379): TRANSPORT-LOSS with the target address. -/
def State.giveUp (s : State) (k : Nat) (m : Msg) : State :=
  let s := s.dropPkt k
  match m with
  | .mem c x op r => s.answerFault c x op r cTransport r.ea (s.replyAt c r)
  | .join c x a _ _ => s.sentFault c x cTransport a 0
  | .parkRec c x r _ _ => s.sentFault c x cTransport r.ea 0
  | _ => s

/-- Whether two packets are of one pair, and the second not before the first (R379). -/
def State.follows (s : State) (j k : Nat) : Bool :=
  match nth s.net j, nth s.net k with
  | some p, some q => decide (j ≤ k) && p.src == q.src && p.dst == q.dst
  | _, _ => false

/-- Packets are sent again (R379): each resend is logged; the receiver drops what it has. -/
def State.sendAgain (s : State) (which : List Nat) : State :=
  which.foldl (fun s k => match nth s.net k with
    | none => s
    | some p =>
      if !p.received && p.body.ofStrand && decide (8 ≤ p.resends) then s
      else ({ s with net := updNth (fun p => if p.received then p else
        { p with received := true, resends := p.resends + 1, again := s.cycles }) s.net k } : State).logged 3 (p.src * 2 ^ 16 + p.dst)) s

/-- The packets from a missing one on are sent again (R379); a strand's request at most eight times. -/
def State.resend (s : State) (k : Nat) : Option State :=
  match nth s.net k with
  | none => none
  | some p =>
    if p.received then none
    else if p.body.ofStrand && decide (8 ≤ p.resends) then some (s.giveUp k p.body)
    else some (s.sendAgain ((List.range s.net.length).filter (s.follows k)))

/-- The first packet of the same pair before packet `k` that the receiver misses. -/
def State.missing (s : State) (k : Nat) : Option Nat :=
  match nth s.net k with
  | none => none
  | some p => findIdx (fun q => q.src == p.src && q.dst == p.dst && !q.received) (s.net.take k)

/-- A packet reaches its receiver (R379, R380), by `how`: 0 sound, 1 with a corrected header, 2 with a header that fails its
check, 3 it is lost, 4 sound but its acknowledgement is lost. One that came over a Mirrin link with an invalid header, first word `head`, is
dropped (R384). After a gap the missing packet is asked for. -/
def State.receive (s : State) (k how port : Nat) (head : Option Word) : Option State :=
  match nth s.net k with
  | none => none
  | some p =>
    if !p.received then none
    else if how = 2 || how = 3 || (head.map (fun w => (mirrinHead (w.setWidth 128)).invalid)).getD false then
      let s : State := { s with net := updNth (fun p => { p with received := false }) s.net k }
      some (if how = 2 then s.logged 4 port else s)
    else
      let s := if how = 1 then s.logged 7 port else s
      let s := if how = 4 then { s with unacked := s.unacked ++ [{ src := p.src, dst := p.dst, seq := p.seq, sentAt := s.cycles }] } else s
      match s.missing k with
      | some j => some ((s.resend j).getD s)
      | none => some s

/-- An arrival for a sorus is lost on its way (R379). -/
def State.loseOffer (s : State) (c i how port : Nat) : Option State :=
  if how != 2 && how != 3 then none
  else if ((nth (s.core c).offers i).map (fun o => !o.lost && decide (s.cycles < o.since))).getD false then
    let s := s.updCore c (fun k => { k with offers := updNth (fun o => { o with lost := true, again := s.cycles }) k.offers i })
    some (if how = 2 then s.logged 4 port else s)
  else none

/-- A lost arrival is sent again, with those of its pair after it (R379): that of a strand at most eight times, then its context takes
TRANSPORT-LOSS. -/
def State.resendOffer (s : State) (c i : Nat) : Option State :=
  match nth (s.core c).offers i with
  | none => none
  | some o =>
    if !o.lost || decide (s.cycles < o.again + 2048) then none
    else
      match o.sender, decide (8 ≤ o.resends) with
      | some x, true =>
        some ((s.updCore c (fun k => { k with offers := delNth k.offers i })).sentFault o.src x cTransport (o.pkt.extractLsb' 64 64) 0)
      | _, _ =>
        let which := (List.range (s.core c).offers.length).filter (fun j => i ≤ j && ((nth (s.core c).offers j).map (·.src)) == some o.src)
        some (which.foldl (fun s j => (s.updCore c (fun k => { k with
          offers := updNth (fun q => if q.lost then { q with lost := false, resends := q.resends + 1, again := s.cycles } else q) k.offers j })).logged 3
            (o.src * 2 ^ 16 + c)) s)

/-- A packet of an engine, a stream or a router is lost (R379): it comes with its resend, after 2,048 ck (log 84). By `slot`: 2 of copy command `i` of a
cluster, 3 an operand message of its task `i` to a core, 4 of stream context `k` of a core, 5 what router `router` of a round passes on, or
(`k` = 1) the way down to poster `n`. -/
def State.loseOther (s : State) (e : EvArgs) : Option State :=
  let late := s.cycles + 2048
  match e.slot with
  | 2 => some ((s.updCluster e.cluster (fun c => { c with cmds := updNth (fun d => { d with due := max d.due late }) c.cmds e.i })).logged 3 e.slot)
  | 3 => some ((s.updCluster e.cluster (fun c => { c with tasks := updNth (fun d => { d with
      subs := updIf (fun b => b.core == e.core) (fun b => { b with sent := b.got }) d.subs }) c.tasks e.i })).logged 3 e.slot)
  | 4 => some ((s.updCore e.core (fun k => { k with streams := k.streams.map (fun m => if m.1 = e.k then
      (m.1, m.2.map (fun t => { t with due := max t.due late, ready := max t.ready late })) else m) })).logged 3 e.slot)
  | 5 => some ((s.updRound e.pid e.id e.round (fun r =>
      if e.k = 1 then { r with posters := updNth (fun p => { p with came := max p.came (late - 12) }) r.posters e.n }
      else { r with times := mset 0 r.times (512 + e.router) (max (mget 0 r.times (512 + e.router)) late) })).logged 3 e.slot)
  | _ => none

/-- By `slot`: 0 packet `k` of the network, 1 arrival `i` for the sorus of a core, else traffic of engines, streams and routers. -/
def execTransportPacketReceive (s : State) : Host.Outcome State Fault Refusal :=
  .next ((match s.ev.slot with
    | 0 => s.receive s.ev.k s.ev.n s.ev.unit s.ev.data
    | 1 => s.loseOffer s.ev.core s.ev.i s.ev.n s.ev.unit
    | _ => s.loseOther s.ev).getD s)

/-- A packet without acknowledgement for 2,048 ck is sent again (R379). -/
def State.resendDue (s : State) (k : Nat) : Option State :=
  match nth s.net k with
  | none => none
  | some p => if s.cycles < max p.sentAt p.again + 2048 then none else s.resend k

/-- The same of one that was received and not acknowledged: the receiver drops it and acknowledges it again (R379). -/
def State.resendUnacked (s : State) (k : Nat) : Option State :=
  match nth s.unacked k with
  | none => none
  | some u =>
    if s.cycles < u.sentAt + 2048 then none
    else
      let after := match findIdx (fun p => p.src == u.src && p.dst == u.dst && p.seq == u.seq) s.net with
        | some j => (List.range s.net.length).filter (fun i => decide (j < i) && s.follows j i)
        | none => (List.range s.net.length).filter (fun i => match nth s.net i with
          | some p => p.src == u.src && p.dst == u.dst
          | none => false)
      some ((({ s with unacked := delNth s.unacked k } : State).logged 3 (u.src * 2 ^ 16 + u.dst)).sendAgain after)

def execTransportResendTimeout (s : State) : Host.Outcome State Fault Refusal :=
  .next ((match s.ev.slot with
    | 0 => s.resendDue s.ev.k
    | 1 => s.resendOffer s.ev.core s.ev.i
    | _ => s.resendUnacked s.ev.k).getD s)

/-- A lane of a die-edge link fails (R387): a spare takes over where `spare` says one is left, else the link is retired. -/
def State.edgeFail (s : State) (n : Nat) (spare : Bool) : State :=
  let r := mget 0 s.edges n
  if 24 ≤ n ∨ fld r 0 2 != 0 then s
  else
    let v : Word := if spare then setFld r 32 32 (min (fld r 32 32 + 1) 0xFFFFFFFF) else setFld r 0 2 2
    { s with edges := mset 0 s.edges n v }

/-- A lane fails (R386): of Mirrin link `n`, or with `k` = 1 of die-edge link `n`. -/
def execLaneFailure (s : State) : Host.Outcome State Fault Refusal :=
  .next (if s.ev.k = 1 then s.edgeFail s.ev.n s.ev.flag else if s.ev.n < 32 then (s.laneFail s.ev.n).1 else s)

/-! Firmware. -/

/-- The kind of an agent (R389): Rhizoids 0 to 15, the host port 16, downstream controllers 17 to 20, Mirrin controllers 21 to
32, DRAM PHY controllers 33 to 48. -/
def agentKind (n : Nat) : Option Nat :=
  if n < 16 then some 0 else if n = 16 then some 1 else if n < 21 then some 2 else if n < 33 then some 3 else if n < 49 then some 4 else none

/-- The version of an image that an agent of a kind accepts (R389); none: it is refused. -/
def imageVer (kind : Nat) (image : List Byte) : Option Word :=
  let h := ofBytes ((image.take 64).map (·.toNat))
  let len := bits h 104 32
  let body := (image.drop 64).take len
  if image.length = 64 + len + 7856 ∧ slhVerify Config.fusedKey (image.take (64 + len)) (image.drop (64 + len)) = true ∧
      sha256 body = (image.drop 17).take 32 ∧ bits h 32 8 = kind ∧ bits h 392 120 = 0 ∧
      (Config.fusedMinVersion kind).toNat ≤ bits h 72 32 then some (BitVec.ofNat 64 (bits h 40 64))
  else none

/-- The image of an agent: taken over where it is accepted, else refused and logged (R389). -/
def State.takeImage (s : State) (agent kind : Nat) (image : List Byte) : State :=
  match imageVer kind image with
  | some v => { s with fwVer := mset 0 s.fwVer agent v }
  | none => s.logged 5 agent

/-- The Rhizoid that accepts a partition's launches: that of the partition's first core, the model's choice (log 75). -/
def State.masterOf (s : State) (pid : Nat) : Nat := dieOf (s.rhizoid pid false).core

/-- Whether a Rhizoid is accepting a launch: a kind 2 event of it is still to be written (R336, R337, R390). -/
def State.accepting (s : State) (agent : Nat) : Bool :=
  s.parts.any (fun e => match e.2 with
    | some p => s.masterOf e.1 == agent && p.events.any (fun v => v.kind == 2)
    | none => false)

/-- The first switch asked for that can be made is made, with the image that then stands in device DRAM (R390): that of a Rhizoid waits for
the event of a launch that it is accepting, and holds back what was asked for its agent later. -/
def State.runSwitch (s : State) : Option State :=
  match s.fwPending.find? (fun r => !s.accepting r.agent) with
  | none => none
  | some r =>
    let v := s.dramRead r.addr r.len
    let s : State := { s with fwPending := s.fwPending.erase r }
    (agentKind r.agent).map (fun kind => s.takeImage r.agent kind ((List.range r.len).map (fun j => BitVec.ofNat 8 (bits v (8 * j) 8))))

/-- A switch to a staged image is asked for (R390): of agent `unit`, `n` bytes from `va` of device DRAM on. -/
def State.askSwitch (s : State) (e : EvArgs) : Option State :=
  if (agentKind e.unit).isNone || decide (2 ^ 40 < e.va.toNat + e.n) then none
  else
    let s : State := { s with fwPending := s.fwPending ++ [{ agent := e.unit, addr := e.va.toNat, len := e.n }] }
    some (s.runSwitch.getD s)

/-- While die 1 is held, CXL.io alone is there, and its recovery function takes a new image for it (R388), which its boot ROM checks after the
next cold reset (log 75). -/
def State.recover (s : State) (image : List Byte) : Option State :=
  if 16 ≤ mget 0 s.bring 1 then some { s with recovery := some image } else none

/-- By `k`: 0 a switch is asked for, 1 one that has waited is made, 2 the recovery function is used. -/
def execFirmwareSwitch (s : State) : Host.Outcome State Fault Refusal :=
  .next ((match s.ev.k with
    | 0 => s.askSwitch s.ev
    | 1 => s.runSwitch
    | _ => s.recover s.ev.image).getD s)

/-- A recalibration of a DRAM channel or link lane starts, or ends (R390): while it runs it holds that traffic, which is timing. -/
def execRecalibration (s : State) : Host.Outcome State Fault Refusal :=
  .next (if s.ev.flag then (if s.holds.contains s.ev.unit then s else { s with holds := s.holds ++ [s.ev.unit] })
    else { s with holds := s.holds.filter (· != s.ev.unit) })

/-! Bring-up (R388). -/

/-- Whether a die has passed a step. -/
def State.passed (s : State) (d step : Nat) : Bool :=
  let b := mget 0 s.bring d
  decide (step ≤ b) && decide (b < 16)

/-- The two dies of a die-edge link (R387). -/
def edgeDies (n : Nat) : Nat × Nat := if n < 12 then (n / 3 * 4 + n % 3, n / 3 * 4 + n % 3 + 1) else (n - 12, n - 8)

/-- A die fails a step: its cores are unavailable, its edges out of the mesh, and it goes no further. -/
def State.holdDie (s : State) (d step : Nat) : State :=
  let s := ((List.range 256).map (· + 256 * d)).foldl (fun s c => s.updCore c (fun k => { k with unavailable := true })) s
  let out := (List.range 24).filter (fun n => ((edgeDies n).1 == d || (edgeDies n).2 == d) && fld (mget 0 s.edges n) 0 2 == 0)
  let edges := out.foldl (fun m n => mset 0 m n (setFld (mget 0 m n) 0 2 1)) s.edges
  ({ s with bring := mset 0 s.bring d (16 + step), edges } : State).logged 5 (256 * d + step)

/-- The first Mirrin link of a die, and how many it has (R21). -/
def dieLinks (d : Nat) : Nat × Nat :=
  match d with
  | 0 => (0, 2)
  | 1 => (2, 3)
  | 2 => (5, 3)
  | 3 => (8, 2)
  | 4 => (10, 3)
  | 7 => (13, 3)
  | 8 => (16, 3)
  | 11 => (19, 3)
  | 12 => (22, 2)
  | 13 => (24, 3)
  | 14 => (27, 3)
  | 15 => (30, 2)
  | _ => (0, 0)

/-- Whether two enabled decoders overlap (R383). -/
def hdmOverlap (a b : BitVec 128) : Bool :=
  tst a 0 && tst b 0 && decide (fld a 30 14 < fld b 30 14 + fld b 64 15) && decide (fld b 30 14 < fld a 30 14 + fld a 64 15)

/-- A package decoder with its RSV bits zero (R8, R383). -/
def hdmKeep (v : BitVec 128) : BitVec 128 := v &&& BitVec.ofNat 128 ((2 ^ 79 - 2 ^ 64) + (2 ^ 44 - 2 ^ 30) + (2 ^ 24 - 2 ^ 8) + 7)

/-- GiB that a decoder maps; none where its size or its end is none that firmware writes (R383), `used` being mapped before it. -/
def hdmSize (v : BitVec 128) (used : Nat) : Option Nat :=
  let n := fld v 64 15
  if !tst v 0 then some 0
  else if n = 0 ∨ 16384 < n ∨ 16384 < fld v 30 14 + n ∨ 16384 < used + n ∨ fld v 1 2 = 3 then none else some n

/-- Package agreement by its leader (R388): partition granularity, decoders; overlaps are logged (R383). A decoder that R383 does not let
firmware write stays at its reset value. -/
def State.agree (s : State) (e : EvArgs) : State :=
  let (h, _) : TMap (BitVec 128) × Nat := (List.range 8).foldl (fun m j =>
    let v := hdmKeep (BitVec.ofNat 128 (ofBytes (((e.image.drop (16 * j)).take 16).map (·.toNat))))
    match hdmSize v m.2 with
    | some n => (mset 0 m.1 j v, m.2 + n)
    | none => m) ([], 0)
  let pairs := (List.range 8).flatMap (fun i => (List.range i).map (fun j => (j, i)))
  let hit := pairs.filter (fun p => hdmOverlap (mget 0 h p.1) (mget 0 h p.2))
  hit.foldl (fun s p => s.logged 6 (8 * p.1 + p.2)) { s with granularity := e.flag, hdm := h }

/-- The die that a structure named by a selector lies on (R332); none for a Mirrin link. -/
def selDie (sel : Word) : Option Nat :=
  let n := fld sel 8 12
  match fld sel 0 8 with
  | 3 => some (n / 2)
  | 4 => some (n / 16)
  | 5 => none
  | 6 => some n
  | _ => some (dieOf n)

/-- The structures of a die that a list names as failing: selector, and whether a spare stands ready. -/
def failing (d : Nat) (l : List (Nat × Nat)) : List (Word × Bool) :=
  (l.map (fun g => ((BitVec.ofNat 64 g.1 : Word), g.2 != 0))).filter (fun g => (selDie g.1).getD d == d)

/-- A Mirrin link is trained (R386, R388): full, then as its lanes that are no good leave it. -/
def State.trainLink (s : State) (n lanes : Nat) : State :=
  (List.range (min lanes 18)).foldl (fun s _ => (s.laneFail n).1)
    { s with links := mset linkReset s.links n (linkReg 16 2 0 0), lostLanes := mset 0 s.lostLanes n 0 }

/-- The next step of a die (R388). The event's operands say what the world gives it: the firmware image; in `group` what fails, in steps 2 and 3
structures by selector with 1 where a spare stands ready, in step 4 die-edge links, in step 7 Mirrin links with how many of their lanes are no
good; granularity and decoders; the device id. -/
def State.bringUp (s : State) (d : Nat) (e : EvArgs) : Option State :=
  let b := mget 0 s.bring d
  let pass (s : State) : Option State := some { s with bring := mset 0 s.bring d (b + 1) }
  if 16 ≤ d ∨ 16 ≤ b then none
  else
    match b with
    | 0 => match imageVer 0 (if d = 1 then s.recovery.getD e.image else e.image) with
      | some v => pass { s with fwVer := mset 0 s.fwVer d v }
      | none => some (s.holdDie d 1)
    | 1 =>
      let l := (failing d e.group).filter (fun g => fld g.1 0 8 == 6 || fld g.1 0 8 == 3)
      if l.all (·.2) then pass (l.foldl (fun s g => (s.retireSel g.1 true).1) s) else some (s.holdDie d 2)
    | 2 => pass ((failing d e.group).foldl (fun s g => (s.retireSel g.1 g.2).1) s)
    | 3 =>
      pass ((e.group.filter (fun g => decide (g.1 < 24) && ((edgeDies g.1).1 == d || (edgeDies g.1).2 == d))).foldl
        (fun s g => { s with edges := mset 0 s.edges g.1 1 }) s)
    | 4 =>
      if (List.range 16).any (fun k => decide (mget 0 s.bring k < 4)) then none
      else
        match (List.range 16).find? (fun k => s.passed k 4) with
        | none => none
        | some lead => if lead = d then pass (s.agree e) else if s.passed lead 5 then pass s else none
    | 5 => pass s
    | 6 =>
      let (first, n) := dieLinks d
      pass ((List.range n).foldl (fun s j =>
        s.trainLink (first + j) (((e.group.find? (fun g => g.1 == first + j)).map (·.2)).getD 0)) { s with devId := BitVec.ofNat 20 e.n })
    | _ => none

/-- Cold reset of the package (`slot` = 1), or the next bring-up step of die `unit`. -/
def execColdReset (s : State) : Host.Outcome State Fault Refusal :=
  if s.ev.slot = 1 then .next { State.reset with schedule := s.schedule, fresh := s.fresh, recovery := s.recovery }
  else .next ((s.bringUp s.ev.unit s.ev).getD s)

/-- The dies that a partition's units lie on. -/
def specDies (p : PartSpec) : List Nat := (List.range 16).filter (fun d => p.units.any (fun u => (if p.clusterGrain then u / 16 else u) == d))

/-- Whether `n` bytes of device DRAM lie clear of the clusters' overflow regions, the top 64 MiB of each stack (R19, R354, R382). -/
def clearOf (a n : Nat) : Bool := decide (a + n ≤ 2 ^ 40) && decide (a % 2 ^ 36 + n ≤ 2 ^ 36 - 2 ^ 26)

/-- Whether firmware creates a partition as asked (R319, R320, R365, R382, R388): a free id, whole units of the package's
granularity that no other partition holds, ASIDs allotted to no other, ranges in device DRAM. -/
def State.specOk (s : State) (p : PartSpec) : Bool :=
  let others : List PartSpec := s.parts.filterMap (fun e => e.2.map (·.spec))
  let lim := if p.clusterGrain then 256 else 16
  s.hostUp && p.clusterGrain == s.granularity && decide (p.pid < lim) && (s.part p.pid).isNone &&
  !p.units.isEmpty && noDup p.units && p.units.all (fun u => decide (u < lim) && others.all (fun o => !o.units.contains u)) &&
  noDup p.asids && p.asids.all (fun a => decide (a < 1024) && others.all (fun o => !o.asids.contains a)) &&
  p.asids.contains p.hostAsid && (specDies p).all (fun d => decide (7 ≤ mget 0 s.bring d)) &&
  clearOf p.ctrl 64 && clearOf p.asdir 8192 &&
  decide ((others.map (·.hdm)).foldl (· + ·) p.hdm ≤ 2 ^ 40 - 2 ^ 30)

/-- A partition is created and its launch queue opened (R388): the control block takes its reset values, its ASID stays (R335); the reply
says where its block and its directory lie and what the decoders hold (R382, R383). -/
def State.createPart (s : State) (p : PartSpec) : State :=
  let asid := bits (s.dram.read p.ctrl 64) 352 10
  { s with
    parts := mset none s.parts p.pid (some { spec := p })
    dram := s.dram.write p.ctrl (4 * 2 ^ 64 + 4 * 2 ^ 256 + asid * 2 ^ 352) 64
    replies := s.replies ++ [{ pid := p.pid, ctrl := p.ctrl, asdir := p.asdir, decoders := (List.range 8).map (mget 0 s.hdm) }] }

def execHostPartitionCreate (s : State) : Host.Outcome State Fault Refusal :=
  match s.ev.spec with
  | some p => .next (if s.specOk p then s.createPart p else s)
  | none => .next s

/-! Power (R391). -/

/-- Samples of the rolling average: 10 ms of one a µs. -/
def powerWindow : Nat := 10000

/-- Whether the rolling average is above, or below, a bound in mW. -/
def State.powerAbove (s : State) (mw : Nat) : Bool := decide (mw * s.power.length < s.power.foldl (· + ·) 0)
def State.powerBelow (s : State) (mw : Nat) : Bool := s.power.isEmpty || decide (s.power.foldl (· + ·) 0 < mw * s.power.length)

/-- Power is measured every 1 µs, 1,500 ck (R22, R391). -/
def execPowerSample (s : State) : Host.Outcome State Fault Refusal :=
  .next (if s.cycles < s.sampledAt + 1500 then s
    else { s with power := (s.ev.n :: s.power).take powerWindow, sampledAt := s.cycles })

/-- The throttle takes or releases one step every 10 µs (R391). -/
def State.throttleMove (s : State) : Option State :=
  if s.cycles < s.throttledAt + 15000 then none
  else
    let n := if s.powerAbove 5500000 && decide (s.throttle < 4) then s.throttle + 1
      else if s.powerBelow 5200000 then s.throttle - 1 else s.throttle
    if n = s.throttle then none else some { s with throttle := n, throttledAt := s.cycles }

def execThrottleStep (s : State) : Host.Outcome State Fault Refusal := .next (s.throttleMove.getD s)

end Sys2Proof.Machine
end

