-- ==== Sys2Proof/Machine/Special.lean ====
section
/-!
DEFINITION. Special registers: `rdsr`, `wrsr` and the writes with rules of their own (R54, R56, R127, R320 to R323).
-/
namespace Sys2Proof.Machine

/-- `rdsr` (R127) reads at its issue: the spec says so of `cycles` alone; that `fpflags` too shows what had completed by then is the
model's choice (log 71). A `tprog` that fails its check bits is not read (R378). -/
def execRdsr (f : Fields) (s : State) : Host.Outcome State Fault Refusal :=
  issue (.rdsr f) s (fun s _ =>
    let n := srNum f
    match s.srFault n with
    | some c => .flt c 0
    | none =>
      if n = 0x006 && s.me.outst.any (fun d => isTile d.op) then .wait .tiles
      else if n = 0x006 && s.me.badTile.getLsbD 0 then .trap cUncorrectable 0 (s.bankSel 0x1006) 0
      else .done (s.wrG f.d (s.sr s.cur s.cx n)))

/-- A write of a special register, once `check` finds no fault. -/
def wrsrOf (f : Fields) (check : State → Word → Option Flt) (body : State → Word → Eff) (s : State) (_ : Shape) : Eff :=
  let v := s.gOp 1 f.a
  match s.srFault (srNum f) with
  | some c => .flt c 0
  | none =>
    match check s v with
    | some (c, a) => .flt c a
    | none => body s v

/-- The plain effect of a write. -/
def wrsrPlain (f : Fields) (s : State) (v : Word) : Eff := .done (s.srWrite s.cur s.cx (srNum f) v)

def execWrsr (f : Fields) (s : State) : Host.Outcome State Fault Refusal :=
  issue (.wrsr f) s (wrsrOf f (fun _ _ => none) (wrsrPlain f))

/-- A write of ones clears those bits (R321). -/
def execWrsrKipi (s : State) : Host.Outcome State Fault Refusal :=
  issue .wrsrKipi s (fun s sh => wrsrOf sh.f (fun _ _ => none) (wrsrPlain sh.f) s sh)

/-- `kvec` and `dvec` (R321): a value that fails R69 raises ALIGN. -/
def execWrsrKvec (s : State) : Host.Outcome State Fault Refusal :=
  issue .wrsrKvec s (fun s sh => wrsrOf sh.f (fun _ v => if pcOk v then none else some (cAlign, 0)) (wrsrPlain sh.f) s sh)

/-- `part` (R320): an ASID that is not allotted raises PERM. -/
def execWrsrPart (s : State) : Host.Outcome State Fault Refusal :=
  issue .wrsrPart s (fun s sh => wrsrOf sh.f
    (fun s v => if s.allotted (s.pidOf s.cur) (fld v 16 10) then none else some (cPerm, BitVec.ofNat 64 (fld v 16 10)))
    (wrsrPlain sh.f) s sh)

/-- `spill` (R321): the write waits until no arrival is Spilled. -/
def execWrsrSpill (s : State) : Host.Outcome State Fault Refusal :=
  issue .wrsrSpill s (fun s sh => wrsrOf sh.f
    (fun s v => if fld v 5 18 * 32 + 96 * fld v 32 13 ≤ 2 ^ 23 then none
      else some (cWindow, BitVec.ofNat 64 (clusBase + (clusterOf s.cur + 1) * 2 ^ 23)))
    (fun s v => if s.myCore.spilled.isEmpty then wrsrPlain sh.f s v else .wait .spilled) s sh)

/-- `hyp.rst` (R323). -/
def execWrsrHypRst (s : State) : Host.Outcome State Fault Refusal :=
  issue .wrsrHypRst s (fun s sh => wrsrOf sh.f
    (fun s v => if s.allotted (s.pidOf s.cur) (fld v 0 10) then none else some (cPerm, BitVec.ofNat 64 (fld v 0 10)))
    (fun s v =>
      let pid := s.pidOf s.cur
      if ((s.part pid).map (·.resolves.isEmpty)).getD true then .done (s.dropHyp pid (fld v 0 10)) else .wait .resolves) s sh)

end Sys2Proof.Machine
end

