-- ==== Sys2Proof/Machine/Dispatch.lean ====
section
/-!
DEFINITION. One arm for each row of the opcode table.
-/
namespace Sys2Proof.Machine

open Sys2Proof

def exec (i : Instr) (s : State) : Host.Outcome State Fault Refusal :=
  match i with
  | .add f => Sys2Proof.Machine.execAdd f s
  | .sub f => Sys2Proof.Machine.execSub f s
  | .and f => Sys2Proof.Machine.execAnd f s
  | .or f => Sys2Proof.Machine.execOr f s
  | .xor f => Sys2Proof.Machine.execXor f s
  | .andn f => Sys2Proof.Machine.execAndn f s
  | .shl f => Sys2Proof.Machine.execShl f s
  | .shr f => Sys2Proof.Machine.execShr f s
  | .sar f => Sys2Proof.Machine.execSar f s
  | .rotl f => Sys2Proof.Machine.execRotl f s
  | .mul f => Sys2Proof.Machine.execMul f s
  | .minI64 f => Sys2Proof.Machine.execMinI64 f s
  | .maxI64 f => Sys2Proof.Machine.execMaxI64 f s
  | .minN64 f => Sys2Proof.Machine.execMinN64 f s
  | .maxN64 f => Sys2Proof.Machine.execMaxN64 f s
  | .clz f => Sys2Proof.Machine.execClz f s
  | .ctz f => Sys2Proof.Machine.execCtz f s
  | .popc f => Sys2Proof.Machine.execPopc f s
  | .sextI8 f => Sys2Proof.Machine.execSextI8 f s
  | .sextI16 f => Sys2Proof.Machine.execSextI16 f s
  | .sextI32 f => Sys2Proof.Machine.execSextI32 f s
  | .zextN8 f => Sys2Proof.Machine.execZextN8 f s
  | .zextN16 f => Sys2Proof.Machine.execZextN16 f s
  | .zextN32 f => Sys2Proof.Machine.execZextN32 f s
  | .cmpEq f => Sys2Proof.Machine.execCmpEq f s
  | .cmpNe f => Sys2Proof.Machine.execCmpNe f s
  | .cmpLt f => Sys2Proof.Machine.execCmpLt f s
  | .cmpGe f => Sys2Proof.Machine.execCmpGe f s
  | .cmpLo f => Sys2Proof.Machine.execCmpLo f s
  | .cmpHs f => Sys2Proof.Machine.execCmpHs f s
  | .mulhI64 f => Sys2Proof.Machine.execMulhI64 f s
  | .mulhN64 f => Sys2Proof.Machine.execMulhN64 f s
  | .divI64 f => Sys2Proof.Machine.execDivI64 f s
  | .divN64 f => Sys2Proof.Machine.execDivN64 f s
  | .remI64 f => Sys2Proof.Machine.execRemI64 f s
  | .remN64 f => Sys2Proof.Machine.execRemN64 f s
  | .sel f => Sys2Proof.Machine.execSel f s
  | .bfx f => Sys2Proof.Machine.execBfx f s
  | .bfi f => Sys2Proof.Machine.execBfi f s
  | .addi f => Sys2Proof.Machine.execAddi f s
  | .li f => Sys2Proof.Machine.execLi f s
  | .lea f => Sys2Proof.Machine.execLea f s
  | .br f => Sys2Proof.Machine.execBr f s
  | .call f => Sys2Proof.Machine.execCall f s
  | .bz f => Sys2Proof.Machine.execBz f s
  | .bnz f => Sys2Proof.Machine.execBnz f s
  | .loop f => Sys2Proof.Machine.execLoop f s
  | .bcEq f => Sys2Proof.Machine.execBcEq f s
  | .bcNe f => Sys2Proof.Machine.execBcNe f s
  | .bcLt f => Sys2Proof.Machine.execBcLt f s
  | .bcGe f => Sys2Proof.Machine.execBcGe f s
  | .bcLo f => Sys2Proof.Machine.execBcLo f s
  | .bcHs f => Sys2Proof.Machine.execBcHs f s
  | .nop => Sys2Proof.Machine.execNop s
  | .ret => Sys2Proof.Machine.execRet s
  | .jr f => Sys2Proof.Machine.execJr f s
  | .jt f => Sys2Proof.Machine.execJt f s
  | .spt f => Sys2Proof.Machine.execSpt f s
  | .rdsr f => Sys2Proof.Machine.execRdsr f s
  | .wrsr f => Sys2Proof.Machine.execWrsr f s
  | .wrsrHypRst => Sys2Proof.Machine.execWrsrHypRst s
  | .wrsrSpill => Sys2Proof.Machine.execWrsrSpill s
  | .wrsrKipi => Sys2Proof.Machine.execWrsrKipi s
  | .wrsrPart => Sys2Proof.Machine.execWrsrPart s
  | .wrsrKvec => Sys2Proof.Machine.execWrsrKvec s
  | .ldB f => Sys2Proof.Machine.execLdB f s
  | .ldH f => Sys2Proof.Machine.execLdH f s
  | .ldW f => Sys2Proof.Machine.execLdW f s
  | .ldD f => Sys2Proof.Machine.execLdD f s
  | .ldF f => Sys2Proof.Machine.execLdF f s
  | .stB f => Sys2Proof.Machine.execStB f s
  | .stH f => Sys2Proof.Machine.execStH f s
  | .stW f => Sys2Proof.Machine.execStW f s
  | .stD f => Sys2Proof.Machine.execStD f s
  | .stF f => Sys2Proof.Machine.execStF f s
  | .pf f => Sys2Proof.Machine.execPf f s
  | .amoAdd f => Sys2Proof.Machine.execAmoAdd f s
  | .amoAnd f => Sys2Proof.Machine.execAmoAnd f s
  | .amoOr f => Sys2Proof.Machine.execAmoOr f s
  | .amoXor f => Sys2Proof.Machine.execAmoXor f s
  | .amoMin f => Sys2Proof.Machine.execAmoMin f s
  | .amoMax f => Sys2Proof.Machine.execAmoMax f s
  | .amoSwap f => Sys2Proof.Machine.execAmoSwap f s
  | .amoCas f => Sys2Proof.Machine.execAmoCas f s
  | .amoAddF32 f => Sys2Proof.Machine.execAmoAddF32 f s
  | .amoAddF64 f => Sys2Proof.Machine.execAmoAddF64 f s
  | .fence f => Sys2Proof.Machine.execFence f s
  | .wb f => Sys2Proof.Machine.execWb f s
  | .inv f => Sys2Proof.Machine.execInv f s
  | .disc f => Sys2Proof.Machine.execDisc f s
  | .ldfeClr f => Sys2Proof.Machine.execLdfeClr f s
  | .ldfeKeep f => Sys2Proof.Machine.execLdfeKeep f s
  | .stfeWait f => Sys2Proof.Machine.execStfeWait f s
  | .stfeFail f => Sys2Proof.Machine.execStfeFail f s
  | .setfe f => Sys2Proof.Machine.execSetfe f s
  | .clrfe f => Sys2Proof.Machine.execClrfe f s
  | .swarrive f => Sys2Proof.Machine.execSwarrive f s
  | .swwait f => Sys2Proof.Machine.execSwwait f s
  | .qbind f => Sys2Proof.Machine.execQbind f s
  | .qbindOff => Sys2Proof.Machine.execQbindOff s
  | .qmov f => Sys2Proof.Machine.execQmov f s
  | .faddF64 f => Sys2Proof.Machine.execFaddF64 f s
  | .fsubF64 f => Sys2Proof.Machine.execFsubF64 f s
  | .fmulF64 f => Sys2Proof.Machine.execFmulF64 f s
  | .fminF64 f => Sys2Proof.Machine.execFminF64 f s
  | .fmaxF64 f => Sys2Proof.Machine.execFmaxF64 f s
  | .faddF32 f => Sys2Proof.Machine.execFaddF32 f s
  | .fsubF32 f => Sys2Proof.Machine.execFsubF32 f s
  | .fmulF32 f => Sys2Proof.Machine.execFmulF32 f s
  | .fminF32 f => Sys2Proof.Machine.execFminF32 f s
  | .fmaxF32 f => Sys2Proof.Machine.execFmaxF32 f s
  | .fsgnF64 f => Sys2Proof.Machine.execFsgnF64 f s
  | .fsgnF32 f => Sys2Proof.Machine.execFsgnF32 f s
  | .fmv f => Sys2Proof.Machine.execFmv f s
  | .fmaF64 f => Sys2Proof.Machine.execFmaF64 f s
  | .fmsF64 f => Sys2Proof.Machine.execFmsF64 f s
  | .fnmaF64 f => Sys2Proof.Machine.execFnmaF64 f s
  | .fmaF32 f => Sys2Proof.Machine.execFmaF32 f s
  | .fmsF32 f => Sys2Proof.Machine.execFmsF32 f s
  | .fnmaF32 f => Sys2Proof.Machine.execFnmaF32 f s
  | .fdivF64 f => Sys2Proof.Machine.execFdivF64 f s
  | .fsqrtF64 f => Sys2Proof.Machine.execFsqrtF64 f s
  | .fdivF32 f => Sys2Proof.Machine.execFdivF32 f s
  | .fsqrtF32 f => Sys2Proof.Machine.execFsqrtF32 f s
  | .fcmpEqF64 f => Sys2Proof.Machine.execFcmpEqF64 f s
  | .fcmpLtF64 f => Sys2Proof.Machine.execFcmpLtF64 f s
  | .fcmpLeF64 f => Sys2Proof.Machine.execFcmpLeF64 f s
  | .fcmpUnF64 f => Sys2Proof.Machine.execFcmpUnF64 f s
  | .fcmpEqF32 f => Sys2Proof.Machine.execFcmpEqF32 f s
  | .fcmpLtF32 f => Sys2Proof.Machine.execFcmpLtF32 f s
  | .fcmpLeF32 f => Sys2Proof.Machine.execFcmpLeF32 f s
  | .fcmpUnF32 f => Sys2Proof.Machine.execFcmpUnF32 f s
  | .fclassF64 f => Sys2Proof.Machine.execFclassF64 f s
  | .fclassF32 f => Sys2Proof.Machine.execFclassF32 f s
  | .fcvt f => Sys2Proof.Machine.execFcvt f s
  | .vld f => Sys2Proof.Machine.execVld f s
  | .vst f => Sys2Proof.Machine.execVst f s
  | .vldS f => Sys2Proof.Machine.execVldS f s
  | .vstS f => Sys2Proof.Machine.execVstS f s
  | .vgather f => Sys2Proof.Machine.execVgather f s
  | .vscatter f => Sys2Proof.Machine.execVscatter f s
  | .vadd f => Sys2Proof.Machine.execVadd f s
  | .vsub f => Sys2Proof.Machine.execVsub f s
  | .vmul f => Sys2Proof.Machine.execVmul f s
  | .vmin f => Sys2Proof.Machine.execVmin f s
  | .vmax f => Sys2Proof.Machine.execVmax f s
  | .vabs f => Sys2Proof.Machine.execVabs f s
  | .vneg f => Sys2Proof.Machine.execVneg f s
  | .vfma f => Sys2Proof.Machine.execVfma f s
  | .vfms f => Sys2Proof.Machine.execVfms f s
  | .vdiv f => Sys2Proof.Machine.execVdiv f s
  | .vsqrt f => Sys2Proof.Machine.execVsqrt f s
  | .vand f => Sys2Proof.Machine.execVand f s
  | .vor f => Sys2Proof.Machine.execVor f s
  | .vxor f => Sys2Proof.Machine.execVxor f s
  | .vshl f => Sys2Proof.Machine.execVshl f s
  | .vshr f => Sys2Proof.Machine.execVshr f s
  | .vsar f => Sys2Proof.Machine.execVsar f s
  | .vcmpEq f => Sys2Proof.Machine.execVcmpEq f s
  | .vcmpNe f => Sys2Proof.Machine.execVcmpNe f s
  | .vcmpLt f => Sys2Proof.Machine.execVcmpLt f s
  | .vcmpLe f => Sys2Proof.Machine.execVcmpLe f s
  | .vcmpUn f => Sys2Proof.Machine.execVcmpUn f s
  | .vsel f => Sys2Proof.Machine.execVsel f s
  | .vcvt f => Sys2Proof.Machine.execVcvt f s
  | .vbcast f => Sys2Proof.Machine.execVbcast f s
  | .vperm f => Sys2Proof.Machine.execVperm f s
  | .vslideUp f => Sys2Proof.Machine.execVslideUp f s
  | .vslideDn f => Sys2Proof.Machine.execVslideDn f s
  | .vmov f => Sys2Proof.Machine.execVmov f s
  | .vredAdd f => Sys2Proof.Machine.execVredAdd f s
  | .vredMin f => Sys2Proof.Machine.execVredMin f s
  | .vredMax f => Sys2Proof.Machine.execVredMax f s
  | .vscan f => Sys2Proof.Machine.execVscan f s
  | .kand f => Sys2Proof.Machine.execKand f s
  | .kor f => Sys2Proof.Machine.execKor f s
  | .kxor f => Sys2Proof.Machine.execKxor f s
  | .knot f => Sys2Proof.Machine.execKnot f s
  | .kset f => Sys2Proof.Machine.execKset f s
  | .kpop f => Sys2Proof.Machine.execKpop f s
  | .mmaF64F64 f => Sys2Proof.Machine.execMmaF64F64 f s
  | .mmaF32F32 f => Sys2Proof.Machine.execMmaF32F32 f s
  | .mmaBf16F32 f => Sys2Proof.Machine.execMmaBf16F32 f s
  | .mmaF16F32 f => Sys2Proof.Machine.execMmaF16F32 f s
  | .mmaBf16Bf16 f => Sys2Proof.Machine.execMmaBf16Bf16 f s
  | .mmaF16F16 f => Sys2Proof.Machine.execMmaF16F16 f s
  | .mmaE4m3F32 f => Sys2Proof.Machine.execMmaE4m3F32 f s
  | .mmaE5m2F32 f => Sys2Proof.Machine.execMmaE5m2F32 f s
  | .mmaE4m3Bf16 f => Sys2Proof.Machine.execMmaE4m3Bf16 f s
  | .mmaE5m2Bf16 f => Sys2Proof.Machine.execMmaE5m2Bf16 f s
  | .mmaDy8F32 f => Sys2Proof.Machine.execMmaDy8F32 f s
  | .mmaDy8Bf16 f => Sys2Proof.Machine.execMmaDy8Bf16 f s
  | .mmaI8I32 f => Sys2Proof.Machine.execMmaI8I32 f s
  | .tld f => Sys2Proof.Machine.execTld f s
  | .tst f => Sys2Proof.Machine.execTst f s
  | .tzero f => Sys2Proof.Machine.execTzero f s
  | .tout f => Sys2Proof.Machine.execTout f s
  | .tpost f => Sys2Proof.Machine.execTpost f s
  | .tpostRes => Sys2Proof.Machine.execTpostRes s
  | .tpostCan => Sys2Proof.Machine.execTpostCan s
  | .tprog f => Sys2Proof.Machine.execTprog f s
  | .sdef f => Sys2Proof.Machine.execSdef f s
  | .sopen f => Sys2Proof.Machine.execSopen f s
  | .sclose f => Sys2Proof.Machine.execSclose f s
  | .sattach f => Sys2Proof.Machine.execSattach f s
  | .ssave f => Sys2Proof.Machine.execSsave f s
  | .sload f => Sys2Proof.Machine.execSload f s
  | .spop f => Sys2Proof.Machine.execSpop f s
  | .sstep f => Sys2Proof.Machine.execSstep f s
  | .ssink f => Sys2Proof.Machine.execSsink f s
  | .sfloat f => Sys2Proof.Machine.execSfloat f s
  | .srecall f => Sys2Proof.Machine.execSrecall f s
  | .sres f => Sys2Proof.Machine.execSres f s
  | .sstat f => Sys2Proof.Machine.execSstat f s
  | .cpy f => Sys2Proof.Machine.execCpy f s
  | .cpyb f => Sys2Proof.Machine.execCpyb f s
  | .mcast f => Sys2Proof.Machine.execMcast f s
  | .hwait f => Sys2Proof.Machine.execHwait f s
  | .hset f => Sys2Proof.Machine.execHset f s
  | .hfree f => Sys2Proof.Machine.execHfree f s
  | .hstat f => Sys2Proof.Machine.execHstat f s
  | .redCfg f => Sys2Proof.Machine.execRedCfg f s
  | .redPost f => Sys2Proof.Machine.execRedPost f s
  | .redGet f => Sys2Proof.Machine.execRedGet f s
  | .bsGet f => Sys2Proof.Machine.execBsGet f s
  | .bsPut f => Sys2Proof.Machine.execBsPut f s
  | .bsPeek f => Sys2Proof.Machine.execBsPeek f s
  | .bsDec f => Sys2Proof.Machine.execBsDec f s
  | .bsAlign f => Sys2Proof.Machine.execBsAlign f s
  | .spawn f => Sys2Proof.Machine.execSpawn f s
  | .fork f => Sys2Proof.Machine.execFork f s
  | .join f => Sys2Proof.Machine.execJoin f s
  | .jinit f => Sys2Proof.Machine.execJinit f s
  | .yield => Sys2Proof.Machine.execYield s
  | .park f => Sys2Proof.Machine.execPark f s
  | .exit => Sys2Proof.Machine.execExit s
  | .ldM f => Sys2Proof.Machine.execLdM f s
  | .mig f => Sys2Proof.Machine.execMig f s
  | .pbind f => Sys2Proof.Machine.execPbind f s
  | .punbind => Sys2Proof.Machine.execPunbind s
  | .ppub => Sys2Proof.Machine.execPpub s
  | .nbr f => Sys2Proof.Machine.execNbr f s
  | .cellq f => Sys2Proof.Machine.execCellq f s
  | .hnew f => Sys2Proof.Machine.execHnew f s
  | .hnewRcl => Sys2Proof.Machine.execHnewRcl s
  | .henter f => Sys2Proof.Machine.execHenter f s
  | .hleave => Sys2Proof.Machine.execHleave s
  | .hresC f => Sys2Proof.Machine.execHresC f s
  | .hresR f => Sys2Proof.Machine.execHresR f s
  | .hnstat f => Sys2Proof.Machine.execHnstat f s
  | .trap f => Sys2Proof.Machine.execTrap f s
  | .rett => Sys2Proof.Machine.execRett s
  | .halt => Sys2Proof.Machine.execHalt s
  | .ipi f => Sys2Proof.Machine.execIpi f s
  | .xinv f => Sys2Proof.Machine.execXinv f s
  | .xinvAll => Sys2Proof.Machine.execXinvAll s
  | .rmodeCoh f => Sys2Proof.Machine.execRmodeCoh f s
  | .rmodeSw => Sys2Proof.Machine.execRmodeSw s
  | .pmask f => Sys2Proof.Machine.execPmask f s
  | .scset f => Sys2Proof.Machine.execScset f s
  | .cellset f => Sys2Proof.Machine.execCellset f s
  | .cellsetOff => Sys2Proof.Machine.execCellsetOff s
  | .hwtest f => Sys2Proof.Machine.execHwtest f s
  | .ctxsave f => Sys2Proof.Machine.execCtxsave f s
  | .ctxload f => Sys2Proof.Machine.execCtxload f s
  | .issueIllegalOpcode => Sys2Proof.Machine.execIssueIllegalOpcode s
  | .issueMalformedLine => Sys2Proof.Machine.execIssueMalformedLine s
  | .fetchFault => Sys2Proof.Machine.execFetchFault s
  | .contextBind => Sys2Proof.Machine.execContextBind s
  | .detachedCompletion => Sys2Proof.Machine.execDetachedCompletion s
  | .memoryRequestAtHome => Sys2Proof.Machine.execMemoryRequestAtHome s
  | .parkNotice => Sys2Proof.Machine.execParkNotice s
  | .wakeupArrival => Sys2Proof.Machine.execWakeupArrival s
  | .waitLimitExpiry => Sys2Proof.Machine.execWaitLimitExpiry s
  | .withdrawalAtHome => Sys2Proof.Machine.execWithdrawalAtHome s
  | .postedFaultReport => Sys2Proof.Machine.execPostedFaultReport s
  | .trapEntry => Sys2Proof.Machine.execTrapEntry s
  | .safepointOverdue => Sys2Proof.Machine.execSafepointOverdue s
  | .preemptionRequest => Sys2Proof.Machine.execPreemptionRequest s
  | .leaseExpiryCheck => Sys2Proof.Machine.execLeaseExpiryCheck s
  | .dequeEntryTakeable => Sys2Proof.Machine.execDequeEntryTakeable s
  | .stealProbe => Sys2Proof.Machine.execStealProbe s
  | .sorusArrival => Sys2Proof.Machine.execSorusArrival s
  | .sorusRefill => Sys2Proof.Machine.execSorusRefill s
  | .sorusOfferExpiry => Sys2Proof.Machine.execSorusOfferExpiry s
  | .joinAtCounter => Sys2Proof.Machine.execJoinAtCounter s
  | .joinDecrement => Sys2Proof.Machine.execJoinDecrement s
  | .parkRecordAtHome => Sys2Proof.Machine.execParkRecordAtHome s
  | .cellSplit => Sys2Proof.Machine.execCellSplit s
  | .syncWordArrival => Sys2Proof.Machine.execSyncWordArrival s
  | .streamFloat => Sys2Proof.Machine.execStreamFloat s
  | .streamHop => Sys2Proof.Machine.execStreamHop s
  | .streamElementRead => Sys2Proof.Machine.execStreamElementRead s
  | .consumeMessage => Sys2Proof.Machine.execConsumeMessage s
  | .streamRecallArrival => Sys2Proof.Machine.execStreamRecallArrival s
  | .tileTaskAccept => Sys2Proof.Machine.execTileTaskAccept s
  | .tileTaskDependenceReady => Sys2Proof.Machine.execTileTaskDependenceReady s
  | .subtileComplete => Sys2Proof.Machine.execSubtileComplete s
  | .tileTaskPause => Sys2Proof.Machine.execTileTaskPause s
  | .tileTaskComplete => Sys2Proof.Machine.execTileTaskComplete s
  | .copyCommandAccept => Sys2Proof.Machine.execCopyCommandAccept s
  | .copyRunStart => Sys2Proof.Machine.execCopyRunStart s
  | .copyArrivalSend => Sys2Proof.Machine.execCopyArrivalSend s
  | .copyCompletion => Sys2Proof.Machine.execCopyCompletion s
  | .reductionContribution => Sys2Proof.Machine.execReductionContribution s
  | .reductionResultArrival => Sys2Proof.Machine.execReductionResultArrival s
  | .reductionTimeout => Sys2Proof.Machine.execReductionTimeout s
  | .resolveAtSlice => Sys2Proof.Machine.execResolveAtSlice s
  | .resolveAtCore => Sys2Proof.Machine.execResolveAtCore s
  | .ipiDelivery => Sys2Proof.Machine.execIpiDelivery s
  | .launchAccept => Sys2Proof.Machine.execLaunchAccept s
  | .launchSlotPoll => Sys2Proof.Machine.execLaunchSlotPoll s
  | .launchEntryPush => Sys2Proof.Machine.execLaunchEntryPush s
  | .launchPrefetch => Sys2Proof.Machine.execLaunchPrefetch s
  | .launchEnd => Sys2Proof.Machine.execLaunchEnd s
  | .eventPost => Sys2Proof.Machine.execEventPost s
  | .pageWalk => Sys2Proof.Machine.execPageWalk s
  | .remapFilterMiss => Sys2Proof.Machine.execRemapFilterMiss s
  | .directoryReadMiss => Sys2Proof.Machine.execDirectoryReadMiss s
  | .ownershipRequest => Sys2Proof.Machine.execOwnershipRequest s
  | .l1WriteBack => Sys2Proof.Machine.execL1WriteBack s
  | .sliceEviction => Sys2Proof.Machine.execSliceEviction s
  | .extensionRequest => Sys2Proof.Machine.execExtensionRequest s
  | .hostM2sRequest => Sys2Proof.Machine.execHostM2sRequest s
  | .h2dSnoop => Sys2Proof.Machine.execH2dSnoop s
  | .expanderBisnp => Sys2Proof.Machine.execExpanderBisnp s
  | .softErrorDetected => Sys2Proof.Machine.execSoftErrorDetected s
  | .coreRetirement => Sys2Proof.Machine.execCoreRetirement s
  | .transportPacketReceive => Sys2Proof.Machine.execTransportPacketReceive s
  | .transportResendTimeout => Sys2Proof.Machine.execTransportResendTimeout s
  | .laneFailure => Sys2Proof.Machine.execLaneFailure s
  | .coldReset => Sys2Proof.Machine.execColdReset s
  | .hostPartitionCreate => Sys2Proof.Machine.execHostPartitionCreate s
  | .firmwareSwitch => Sys2Proof.Machine.execFirmwareSwitch s
  | .powerSample => Sys2Proof.Machine.execPowerSample s
  | .throttleStep => Sys2Proof.Machine.execThrottleStep s
  | .rhizoidForcedFallback => Sys2Proof.Machine.execRhizoidForcedFallback s
  | .recalibration => Sys2Proof.Machine.execRecalibration s
  | .asidAllotmentEnd => Sys2Proof.Machine.execAsidAllotmentEnd s
  | .hostBisnpReply => Sys2Proof.Machine.execHostBisnpReply s
  | .lineFetchArrival => Sys2Proof.Machine.execLineFetchArrival s

end Sys2Proof.Machine
end

