-- ==== Sys2Proof/Machine/Pick.lean ====
section
/-!
DEFINITION. With an empty schedule the machine takes the hardware events that may be due before it issues (log 3): this is the
list of those that its state could hold, in the order they are tried. Outside agents act through the schedule alone. And what must
be done before a ck ends, and the contexts that wait from its end on (R29, R31, R391).
-/
namespace Sys2Proof.Machine

/-- The row that performs a packet. -/
def Msg.row (m : Msg) : Instr :=
  match m with
  | .mem _ _ _ _ => .memoryRequestAtHome
  | .parkNotice _ _ _ => .parkNotice
  | .wake _ _ _ _ _ => .wakeupArrival
  | .withdraw _ _ _ _ => .withdrawalAtHome
  | .join _ _ _ _ _ => .joinAtCounter
  | .decrement _ _ _ => .joinDecrement
  | .parkRec _ _ _ _ _ => .parkRecordAtHome
  | .arrive _ _ _ _ _ => .syncWordArrival

/-- Indices of a list. -/
def idxs {α : Type} (l : List α) : List Nat := List.range l.length

/-- What the packets under way may do. -/
def State.netDue (s : State) : List (Instr × EvArgs) :=
  (idxs s.net).flatMap (fun k => match nth s.net k with
    | none => []
    | some p => if p.received then [(p.body.row, { k := k })] else [(.transportResendTimeout, { k := k })]) ++
  (idxs s.unacked).map (fun k => (.transportResendTimeout, { slot := 2, k := k }))

/-- What a context may do. -/
def ctxDue (core ctx : Nat) (k : Ctx) : List (Instr × EvArgs) :=
  k.outst.map (fun d => (.detachedCompletion, { core := core, ctx := ctx, op := d.id })) ++
  k.posted.map (fun d => (.postedFaultReport, { core := core, ctx := ctx, op := d.id })) ++
  [(.trapEntry, { core := core, ctx := ctx }), (.ipiDelivery, { core := core, ctx := ctx }), (.safepointOverdue, { core := core, ctx := ctx }), (.waitLimitExpiry, { core := core, ctx := ctx })]

/-- What a core may do. -/
def coreDue (core : Nat) (k : Core) : List (Instr × EvArgs) :=
  k.ctxs.flatMap (fun e => ctxDue core e.1 e.2) ++
  k.streams.flatMap (fun e => [(.consumeMessage, { core := core, k := e.1 }), (.streamElementRead, { core := core, k := e.1 }), (.streamFloat, { core := core, k := e.1 }),
    (.streamHop, { core := core, k := e.1 }), (.streamRecallArrival, { core := core, k := e.1 })]) ++
  (idxs k.deque).map (fun i => (.dequeEntryTakeable, { core := core, i := i })) ++
  [(.sorusArrival, { core := core }), (.sorusRefill, { core := core }), (.contextBind, { core := core }), (.preemptionRequest, { core := core })] ++
  (idxs k.offers).flatMap (fun i => [(.sorusOfferExpiry, { core := core, i := i }), (.transportResendTimeout, { slot := 1, core := core, i := i })])

/-- Probes that would end in a steal (R252): by an idle neighbour of a core whose oldest entry its domain lets go. -/
def State.stealDue (s : State) : List (Instr × EvArgs) :=
  s.cores.flatMap (fun e => match e.2.deque.head? with
    | none => []
    | some d =>
      if !d.takeable then []
      else ((List.range 4).filterMap (neighbour e.1)).filterMap (fun c =>
        if s.stealOk d.mt.dom c e.1 && (s.freeContext c).isSome then some (.stealProbe, { core := c }) else none))

/-- What the engines of a cluster may do. -/
def clusterDue (cluster : Nat) (k : Cluster) : List (Instr × EvArgs) :=
  (idxs k.cmds).flatMap (fun i => [(.copyCommandAccept, { cluster := cluster, i := i }), (.copyRunStart, { cluster := cluster, i := i }), (.copyArrivalSend, { cluster := cluster, i := i }),
    (.copyCompletion, { cluster := cluster, i := i })]) ++
  (idxs k.tasks).flatMap (fun i => [(.tileTaskAccept, { cluster := cluster, i := i }), (.tileTaskDependenceReady, { cluster := cluster, i := i })] ++
    (List.range 16).flatMap (fun j => [(.subtileComplete, { cluster := cluster, i := i, core := 16 * cluster + j }), (.tileTaskPause, { cluster := cluster, i := i, core := 16 * cluster + j })]) ++
    [(.tileTaskComplete, { cluster := cluster, i := i })])

/-- The routers that a round may still pass. -/
def roundDue (pid id round : Nat) (c : Coll) (r : Round) : List (Instr × EvArgs) :=
  (if r.open_ then
    ((List.range 272).filter (fun n => (mget none r.passed n).isNone && (match c.routed r n with
      | some (some _, _) => true
      | _ => false))).map (fun router => (.reductionContribution, { pid := pid, id := id, round := round, router := router }))
  else []) ++
  (idxs r.posters).map (fun k => (.reductionResultArrival, { pid := pid, id := id, round := round, k := k })) ++ [(.reductionTimeout, { pid := pid, id := id, round := round })]

/-- What the Rhizoids, slices and routers of a partition may do. -/
def partDue (pid : Nat) (p : Part) : List (Instr × EvArgs) :=
  (match p.resolves.head? with
    | none => []
    | some r => (r.slicesLeft.take 1).map (fun slice => (.resolveAtSlice, { pid := pid, slice := slice })) ++
        (r.coresLeft.take 1).map (fun core => (.resolveAtCore, { pid := pid, core := core }))) ++
  p.colls.flatMap (fun e => (idxs e.2.rounds).flatMap (fun k => match nth e.2.rounds k with
    | some r => roundDue pid e.1 k e.2 r
    | none => [])) ++
  (match p.cells with
    | some m => m.cells.map (fun c => (.cellSplit, { pid := pid, core := c.core }))
    | none => []) ++
  [(.launchAccept, { pid := pid }), (.eventPost, { pid := pid })]

/-- What a launch may do. -/
def launchDue (key : Nat) (l : Launch) : List (Instr × EvArgs) :=
  if l.ended then []
  else
    let pid := key / 2 ^ 32
    let seq := key % 2 ^ 32
    [(.launchPrefetch, { pid := pid, seq := seq }), (.launchEntryPush, { pid := pid, seq := seq }), (.launchEnd, { pid := pid, seq := seq })]

/-- The hardware events to try, in order. -/
def State.candidates (s : State) : List (Instr × EvArgs) :=
  s.netDue ++ s.cores.flatMap (fun e => coreDue e.1 e.2) ++ s.stealDue ++ s.clusters.flatMap (fun e => clusterDue e.1 e.2) ++
  s.parts.flatMap (fun e => match e.2 with
    | some p => partDue e.1 p
    | none => []) ++
  s.launches.flatMap (fun e => match e.2 with
    | some l => launchDue e.1 l
    | none => []) ++
  (if s.fwPending.isEmpty then [] else [(.firmwareSwitch, { k := 1 })])

/-! The end of a ck. -/

/-- Whether the throttle may withhold a context's issue (R391): at its third step a vector instruction, at its fourth any, of an
unpaced context below priority 7. -/
def State.withheld (s : State) (c x : Nat) : Bool :=
  let k := s.ctx c x
  k.paced.isNone && k.mt.prio != 7 && (decide (4 ≤ s.throttle) || (s.throttle == 3 &&
    (((s.present c x).2.shape {}).map (fun sh => decide (0x20 ≤ sh.op / 16) && decide (sh.op / 16 < 0x2C))).getD false))

/-- An issue that has to be made before the ck ends (R31, R44). -/
def State.mustIssue (s : State) : Option (Nat × Nat) :=
  s.cores.findSome? (fun e => (s.wheelPick e.1).bind (fun x => if s.withheld e.1 x then none else some (e.1, x)))

/-- Contexts that are Ready and whose next instruction would only wait are Waiting, and strands that are to depart do (R27, R29, R43, R270);
`run` is what instructions do. -/
def State.restWaits (s : State) (run : Instr → State → Host.Outcome State Fault Refusal) : State :=
  (s.cores.flatMap (fun e => e.2.ctxs.map (fun k => (e.1, k.1)))).foldl (fun s e =>
    if !s.ready e.1 e.2 then s
    else
      let p := s.present e.1 e.2
      match run p.2 p.1 with
      | .next t => match (t.ctx e.1 e.2).st with
        | .waiting w _ =>
          if (t.core e.1).issuedAt ≠ (s.core e.1).issuedAt then s
          else if w = .offered then { t with cur := s.cur, cx := s.cx, iw := s.iw, iwH := s.iwH }
          else s.updCtx e.1 e.2 (fun k => { k with st := .waiting w s.cycles })
        | _ => s
      | _ => s) s

end Sys2Proof.Machine
end

