-- ==== Sys2Proof/Machine/Step.lean ====
section
/-!
DEFINITION. One step: the head of the schedule, or with an empty schedule the first due event, an issue, or the end of the
ck (log 3). And the placement of one instruction where the next step fetches it (log 8).
-/
namespace Sys2Proof.Machine

/-- The issue opportunity of one context: what it presents happens. -/
def issueFrom (s : State) (c x : Nat) : Host.Outcome State Fault Refusal :=
  let p := s.present c x
  exec p.2 p.1

/-- The end of a ck. -/
def endCk (s : State) : State := s.tick.restWaits exec

/-- One choice of the schedule; a ck ends only when every issue that it has to see is made. -/
def stepOf (c : Sched) (s : State) : Host.Outcome State Fault Refusal :=
  match c with
  | .event i e => if isEvent i then exec i { s with ev := e } else .next s
  | .issue core =>
    match s.wheelPick core with
    | some x => issueFrom s core x
    | none => .next s
  | .tick => match s.mustIssue with
    | some (c, x) => issueFrom { s with schedule := .tick :: s.schedule } c x
    | none => .next (endCk s)

/-- The first hardware event that changes anything. -/
def State.due (s : State) : List (Instr × EvArgs) → Option State
  | [] => none
  | (i, e) :: l =>
    match exec i { s with ev := e } with
    | .next t => if { t with ev := s.ev, cur := s.cur, cx := s.cx } = s then s.due l else some t
    | _ => s.due l

/-- One step of the machine. -/
def step (s : State) : Host.Outcome State Fault Refusal :=
  match s.schedule with
  | c :: rest => stepOf c { s with schedule := rest }
  | [] =>
    match s.due s.candidates with
    | some t => .next t
    | none =>
      match s.issuer with
      | some (c, x) => issueFrom s c x
      | none => .next (endCk s)

/-- The PC an instruction is placed at: the context's own where it can be one (R66, R69), else the first head of the line at
0x100000. -/
def State.placePc (s : State) : Word :=
  let pc := (s.ctx 0 0).pc
  if pcOk pc && decide (pc.toNat < 2 ^ 52) then pc else 0x100002

/-- `s` with an instruction where the next step fetches it (log 8): the line in core 0's instruction cache, and context 0 of
core 0 Ready at it, eligible, chosen by the wheel, and next in the schedule. -/
def State.withFetchWord (s : State) (nbits w : Nat) : State :=
  let w := w % 2 ^ nbits
  let pc := s.placePc
  let line := lineWith (fld pc 1 5 - 1) (BitVec.ofNat 16 w) (BitVec.ofNat 48 (w / 2 ^ 16))
  let s := s.updCore 0 (fun k => { k with
    ctxs := k.ctxs.map (fun (e : Nat × Ctx) => if e.2.paced == some (s.cycles % 8) then (e.1, { e.2 with paced := none }) else e)
    icache := mset none k.icache (lineKey (s.pidOf 0) (s.ctx 0 0).asid.toNat pc.toNat) (some line)
    issuedAt := 0, lastRr := 15 })
  { s.updCtx 0 0 (fun k => { k with st := .ready, pc, busyTill := 0, eligAt := 0, paced := none, rett := none }) with
    schedule := .issue 0 :: s.schedule }

end Sys2Proof.Machine
end

