-- ==== Sys2Proof/Safety.lean ====
section
/-!
DEFINITION. The terms in which claims are stated: what counts as a safe run, when an instruction may issue and complete, and
what its next state is built from.
-/
namespace Sys2Proof.Machine

/-! Safe runs. -/

/-- Every memory is in its canonical form: local and cluster memory, device DRAM, far memory, host memory. -/
abbrev State.MemOk (s : State) : Prop := s.win.wf ∧ s.dram.wf ∧ s.far.wf ∧ s.host.wf

/-- A step goes on: it neither stops with a fault nor refuses. -/
def GoesOn (o : Host.Outcome State Fault Refusal) : Prop := ∃ t, o = .next t

/-! When an instruction completes. -/

/-- Whether a strand stays where it is as an instruction retires: the coordinate register of its position binding is left alone, or
written only later, and no split has moved its position (R270, R273). -/
def stays (sh : Shape) (b : PosBind) : Bool := sh.det || (!(writesOf sh).contains b.crd && !b.moved)

/-- Instruction `i`, whose fields and internal word are those of `sh`, is in the issue stage of its context at `s`, nothing is
due before it, and nothing but its own operands decides what it comes to. -/
structure Issues (i : Instr) (sh : Shape) (s : State) : Prop where
  /-- It is an instruction row. -/
  shape : i.shape s.flds = some sh
  /-- The context holds a strand and is not Parked (R29). -/
  here : s.me.st = .ready ∨ ∃ w n, s.me.st = .waiting w n
  /-- It is not the replay of a record (R373). -/
  fresh : s.me.rett = none
  /-- No fault is reported, the strand is no orphan, and its registers, lookahead and destinations let it issue (R29, R34, R37,
  R286, R375). -/
  due : s.gate sh = .go
  /-- The context may run the major, and the level may run the minor (R245, R324). -/
  legal : s.early sh = none
  /-- No register it reads fails its check (R377). -/
  sound : s.badReg sh = none
  /-- No pre-emption falls due at it (R346). -/
  calm : s.overdue = none
  /-- No interrupt is taken before it (R328). -/
  quiet : s.ipiDue = false
  /-- The strand stays where it is: no instruction of a position-bound strand that writes its coordinate as it retires (R270), and
  none whose position a split has moved (R273). -/
  free : s.me.pos.all (stays sh) = true

/-- The state an instruction's own effect starts from: marks cleared and the issue counted (R34, R37, R45). -/
def State.begun (s : State) (sh : Shape) : State := ({ s with iw := sh.iw }.clearMarks sh).countIssue (!sh.det)

/-- The state after an instruction with effect `t` has left the pipeline, the strand going on at `pc` (R30, R31, R66). -/
def State.goesTo (t : State) (pc : Word) : State := t.useSlot.updMe (fun k => { k with pc := pc })

/-- The state after an instruction with effect `t` by which the strand of `s` leaves the pipeline: the core's slot of the ck is
taken, and a context left Free is so once the instruction has left stage 8 (R29, R30). -/
def State.leaves (s t : State) : State := (t.coreSlot s.cur s.cx s.me.paced.isSome).leftAt s.cur s.cx s.cycles

/-- The state with the instruction's word in the issue stage. -/
abbrev State.withIw (s : State) (sh : Shape) : State := { s with iw := sh.iw }

/-- Where `ok` holds, `i` completes: it retires with effect `e`, and the strand goes on at its sequential successor. -/
def Completes (i : Instr) (ok : State → Prop) (e : State → Shape → State) : Prop :=
  ∀ sh s, Issues i sh s → ok s → exec i s = .next ((e s sh).goesTo s.succ)

/-- Where `ok` holds, `i` completes with effect `e` and transfers control to `pc` (R30, R68, R69). -/
def Jumps (i : Instr) (ok : State → Prop) (e : State → Shape → State) (pc : State → Word) : Prop :=
  ∀ sh s, Issues i sh s → ok s → exec i s = .next ((e s sh).goesTo (pc s))

/-- Where `ok` holds, `i` completes with effect `e`, by which its strand leaves the pipeline: it does not go on at a successor. -/
def Leaves (i : Instr) (ok : State → Prop) (e : State → Shape → State) : Prop :=
  ∀ sh s, Issues i sh s → ok s → exec i s = .next (s.leaves (e s sh))

/-- Where `ok` holds, `i` faults at issue with `code` and the faulting address `addr`; a detached one leaves its destinations
empty (R36, R143, R369). -/
def Traps (i : Instr) (ok : State → Prop) (code : Nat) (addr : State → Word) : Prop :=
  ∀ sh s, Issues i sh s → ok s →
    exec i s = .next (((s.withIw sh).emptyDests sh).issueTrap (some sh) code (addr s) 0 0)

/-- Where `ok` holds, `i` raises FPX with the flags `fl`, and writes neither its destination nor `fpflags` (R99). -/
def TrapsFpx (i : Instr) (ok : State → Prop) (fl : State → Flags) : Prop :=
  ∀ sh s, Issues i sh s → ok s →
    exec i s = .next (((s.withIw sh).emptyDests sh).issueTrap (some sh) cFpx 0 0 (fl s))

/-- Where `ok` holds, `i` waits: nothing but its context's state changes (R29). -/
def Waits (i : Instr) (ok : State → Prop) (why : State → WaitWhy) : Prop :=
  ∀ sh s, Issues i sh s → ok s → exec i s = .next ((s.withIw sh).enterWait (why s))

/-- `i` completes on every operand, and writes `v` to its destination of class g. -/
def SetsG (i : Instr) (d : BitVec 6) (v : State → Word) : Prop :=
  Completes i (fun _ => True) (fun s sh => (s.begun sh).wrG d (v s))

/-! The same, with conditions and effects read off the state that the effect starts from: there the instruction has issued, its
marked sources are cleared, and its registers hold what they held. -/

/-- Where `ok` holds, `i` completes with effect `e`, and the strand goes on at its sequential successor. -/
def Does (i : Instr) (ok : State → Prop) (e : State → Shape → State) : Prop :=
  ∀ sh s, Issues i sh s → ok (s.begun sh) → exec i s = .next ((e (s.begun sh) sh).goesTo s.succ)

/-- Where `ok` holds, `i` completes with effect `e`, by which its strand leaves the pipeline. -/
def Departs (i : Instr) (ok : State → Prop) (e : State → Shape → State) : Prop :=
  ∀ sh s, Issues i sh s → ok (s.begun sh) → exec i s = .next (s.leaves (e (s.begun sh) sh))

/-- Where `ok` holds, `i` faults at issue with `code` and the faulting address `addr`. -/
def Faults (i : Instr) (ok : State → Prop) (code : Nat) (addr : State → Word) : Prop :=
  ∀ sh s, Issues i sh s → ok (s.begun sh) →
    exec i s = .next (((s.withIw sh).emptyDests sh).issueTrap (some sh) code (addr (s.begun sh)) 0 0)

/-- Where `ok` holds, `i` waits for `why` and does nothing else. -/
def Awaits (i : Instr) (ok : State → Prop) (why : State → WaitWhy) : Prop :=
  ∀ sh s, Issues i sh s → ok (s.begun sh) → exec i s = .next ((s.withIw sh).enterWait (why (s.begun sh)))

/-- An access of `n` bytes at `a`, aligned to its size: where a check of R143 fails, `i` faults with what fails first; where none
does and `ok` holds, it completes with effect `e`. -/
def Accesses (i : Instr) (a : State → Word) (n : Nat) (write : Bool) (ok : State → Prop) (e : State → Shape → State) : Prop :=
  Does i (fun s => s.issueFault (s.myWho .strand) (a s) n n write = none ∧ ok s) e ∧
  ∀ c b, Faults i (fun s => s.issueFault (s.myWho .strand) (a s) n n write = some (c, b)) c (fun _ => b)

/-! Registers. -/

/-- What a register holds of a written value (R46): 64 bits of a g or f register, 128 of a k register, all 1024 of a v
register. -/
def regVal (code : Nat) (v : Vec) : Vec :=
  if code < 0x60 then (v.setWidth 64).setWidth 1024 else if code < 0x80 then v else (v.setWidth 128).setWidth 1024

/-- A g register of the current context. -/
def State.gr (s : State) (x : BitVec 6) : Word := (s.reg s.cur s.cx x.toNat).setWidth 64
/-- An f register of the current context. -/
def State.fr (s : State) (x : BitVec 6) : Word := (s.reg s.cur s.cx (0x40 + x.toNat)).setWidth 64
/-- A v register of the current context. -/
def State.vr (s : State) (x : BitVec 6) : Vec := s.reg s.cur s.cx (0x60 + x.toNat)
/-- A k register of the current context. -/
def State.kr (s : State) (x : BitVec 6) : KMask := (s.reg s.cur s.cx (0x80 + x.toNat)).setWidth 128

/-- The result `v` of an instruction that retires has been written to register `code` of the current context: at once, and the
register is full; to g56 to g63 with the late writes of the core, due 8 ck after issue; to g0 and k0 nothing (R37, R40, R47). -/
def Wrote (s t : State) (code : Nat) (v : Vec) : Prop :=
  if isFixed code then t.reg s.cur s.cx code = s.reg s.cur s.cx code
  else if isShared code then
    (s.myCore.late ++ t.myCore.late.drop s.myCore.late.length = t.myCore.late) ∧
      t.myCore.late.getLast? = some { due := s.cycles + 8, ctx := s.cx, code := code, val := some (v.setWidth 64) }
  else t.reg s.cur s.cx code = regVal code v ∧ t.full s.cur s.cx code = true

/-! Frames. -/

/-- Every byte of memory reads as before, wherever the machine holds it: in the memories themselves, in a slice, in a version
line of a node, or in a core's L1; and so do full/empty bits and check bits. -/
structure SameMemory (s t : State) : Prop where
  win : t.win = s.win
  dram : t.dram = s.dram
  far : t.far = s.far
  host : t.host = s.host
  slices : t.slices = s.slices
  vers : t.vers = s.vers
  l1 : ∀ c, (t.core c).l1 = (s.core c).l1

/-- `s` with the cores and the word in the issue stage of `t`. -/
def State.onlyCores (s t : State) : State := { s with iw := t.iw, cores := t.cores }

/-- `k` with the contexts, the late writes and full/empty bits of shared registers, and the issue position of `j`. -/
def Core.onlyIssue (k j : Core) : Core :=
  { k with ctxs := j.ctxs, shfe := j.shfe, late := j.late, issuedAt := j.issuedAt, lastRr := j.lastRr }

/-- `k` with what `j` holds in its registers with their full/empty and check bits, in the sticky flags, at its PC, and in the
counts of the issue stage. -/
def Ctx.onlyRegs (k j : Ctx) : Ctx :=
  { k with
    g := j.g, f := j.f, v := j.v, k := j.k, fe := j.fe, bad := j.bad, fpflags := j.fpflags, pc := j.pc, st := j.st
    busyTill := j.busyTill, sinceSpt := j.sinceSpt, outst := j.outst, posted := j.posted, faults := j.faults }

/-- What an instruction that only reads and writes registers leaves as it is: everything outside the issuing core but the word
in the issue stage; every other core; of its core everything but issue position, late register writes and contexts; every other
context; and of its own context everything but registers, sticky flags, PC and the counts of the issue stage: every other
special register, accumulator and exception register. -/
structure RegisterOnly (s t : State) : Prop where
  rest : t = s.onlyCores t
  cores : ∀ c, c ≠ s.cur → t.core c = s.core c
  core : t.myCore = s.myCore.onlyIssue t.myCore
  ctxs : ∀ x, x ≠ s.cx → t.ctx s.cur x = s.ctx s.cur x
  own : t.me = s.me.onlyRegs t.me

end Sys2Proof.Machine
end

