-- ==== Sys2Proof/Certificates/Slice0/Obligations.lean ====
section
/-!
DEFINITION. The statements for the provers, from the numbered rules of the specification, with the words they are stated in.
-/
section Statements
open Sys2Proof Sys2Proof.Machine


/-! Scalar integers and control (R66, R68, R69, R118 to R125). -/

/-- R118: the two-source integer instructions. -/
def Obligations.IntegerArithmeticResults : Prop := ∀ f : Fields,
  let a := fun s : State => s.gr f.a
  let b := fun s : State => s.gr f.b
  let n := fun s : State => (b s).toNat % 64
  SetsG (.add f) f.d (fun s => BitVec.ofNat 64 ((a s).toNat + (b s).toNat)) ∧
  SetsG (.sub f) f.d (fun s => BitVec.ofInt 64 ((a s).toNat - (b s).toNat : Int)) ∧
  SetsG (.and f) f.d (fun s => a s &&& b s) ∧
  SetsG (.or f) f.d (fun s => a s ||| b s) ∧
  SetsG (.xor f) f.d (fun s => a s ^^^ b s) ∧
  SetsG (.andn f) f.d (fun s => a s &&& ~~~(b s)) ∧
  SetsG (.shl f) f.d (fun s => BitVec.ofNat 64 ((a s).toNat * 2 ^ n s)) ∧
  SetsG (.shr f) f.d (fun s => BitVec.ofNat 64 ((a s).toNat / 2 ^ n s)) ∧
  SetsG (.sar f) f.d (fun s => BitVec.ofInt 64 ((a s).toInt / (2 ^ n s : Nat))) ∧
  SetsG (.rotl f) f.d (fun s => if n s = 0 then a s
    else BitVec.ofNat 64 ((a s).toNat * 2 ^ n s) ||| BitVec.ofNat 64 ((a s).toNat / 2 ^ (64 - n s))) ∧
  SetsG (.mul f) f.d (fun s => BitVec.ofNat 64 ((a s).toNat * (b s).toNat)) ∧
  SetsG (.minI64 f) f.d (fun s => if (a s).toInt ≤ (b s).toInt then a s else b s) ∧
  SetsG (.maxI64 f) f.d (fun s => if (a s).toInt ≤ (b s).toInt then b s else a s) ∧
  SetsG (.minN64 f) f.d (fun s => if (a s).toNat ≤ (b s).toNat then a s else b s) ∧
  SetsG (.maxN64 f) f.d (fun s => if (a s).toNat ≤ (b s).toNat then b s else a s)

/-- R119: counts, extensions and comparisons, with their minors and the field that must be zero. R120 and R122: high products, selection, bit fields, constants and addresses. -/
def Obligations.UnaryCompareAndFieldResults : Prop :=
  (∀ f : Fields,
    let a := fun s : State => s.gr f.a
    let b := fun s : State => s.gr f.b
    let ones := fun s : State => ((List.range 64).filter (fun j => (a s).getLsbD j))
    let bit := fun p : Bool => (if p then 1 else 0 : Word)
    SetsG (.clz f) f.d (fun s => BitVec.ofNat 64 (63 - ((ones s).getLast?.getD 0) + (if a s = 0 then 1 else 0))) ∧
    SetsG (.ctz f) f.d (fun s => BitVec.ofNat 64 ((ones s).headD 64)) ∧
    SetsG (.popc f) f.d (fun s => BitVec.ofNat 64 (ones s).length) ∧
    SetsG (.sextI8 f) f.d (fun s => BitVec.ofInt 64 ((a s).setWidth 8).toInt) ∧
    SetsG (.sextI16 f) f.d (fun s => BitVec.ofInt 64 ((a s).setWidth 16).toInt) ∧
    SetsG (.sextI32 f) f.d (fun s => BitVec.ofInt 64 ((a s).setWidth 32).toInt) ∧
    SetsG (.zextN8 f) f.d (fun s => BitVec.ofNat 64 ((a s).toNat % 2 ^ 8)) ∧
    SetsG (.zextN16 f) f.d (fun s => BitVec.ofNat 64 ((a s).toNat % 2 ^ 16)) ∧
    SetsG (.zextN32 f) f.d (fun s => BitVec.ofNat 64 ((a s).toNat % 2 ^ 32)) ∧
    SetsG (.cmpEq f) f.d (fun s => bit (decide (a s = b s))) ∧
    SetsG (.cmpNe f) f.d (fun s => bit (decide (a s ≠ b s))) ∧
    SetsG (.cmpLt f) f.d (fun s => bit (decide ((a s).toInt < (b s).toInt))) ∧
    SetsG (.cmpGe f) f.d (fun s => bit (decide ((b s).toInt ≤ (a s).toInt))) ∧
    SetsG (.cmpLo f) f.d (fun s => bit (decide ((a s).toNat < (b s).toNat))) ∧
    SetsG (.cmpHs f) f.d (fun s => bit (decide ((b s).toNat ≤ (a s).toNat))) ∧
    ([.clz f, .ctz f, .popc f, .sextI8 f, .sextI16 f, .sextI32 f, .zextN8 f, .zextN16 f, .zextN32 f, .cmpEq f, .cmpNe f, .cmpLt f,
      .cmpGe f, .cmpLo f, .cmpHs f] : List Instr).zipIdx.all (fun e => ((e.1.shape {}).map (fun sh => sh.op == 0x010 + e.2)).getD false) = true ∧
    ∀ i ∈ ([.clz f, .ctz f, .popc f, .sextI8 f, .sextI16 f, .sextI32 f, .zextN8 f, .zextN16 f, .zextN32 f] : List Instr),
      ∀ u, i.wf u = true → f.b = 0) ∧
  (∀ f : Fields,
    let a := fun s : State => s.gr f.a
    let b := fun s : State => s.gr f.b
    let c := fun s : State => s.gr f.c
    let p := fun s : State => (b s).toNat % 64
    let w := fun s : State => min ((b s).toNat / 2 ^ 8 % 2 ^ 7) (64 - p s)
    let v := fun s : State => (a s).toNat / 2 ^ p s % 2 ^ w s
    let line := fun s : State => 64 * (s.me.pc.toNat / 64)
    SetsG (.mulhI64 f) f.d (fun s => BitVec.ofInt 64 ((a s).toInt * (b s).toInt / 2 ^ 64)) ∧
    SetsG (.mulhN64 f) f.d (fun s => BitVec.ofNat 64 ((a s).toNat * (b s).toNat / 2 ^ 64)) ∧
    SetsG (.sel f) f.d (fun s => if a s ≠ 0 then b s else c s) ∧
    SetsG (.bfx f) f.d (fun s => if f.o = 1 ∧ 0 < w s ∧ 2 ^ (w s - 1) ≤ v s then BitVec.ofInt 64 ((v s : Int) - (2 ^ w s : Nat))
      else BitVec.ofNat 64 (v s)) ∧
    SetsG (.bfi f) f.d (fun s => BitVec.ofNat 64 ((c s).toNat % 2 ^ p s + (a s).toNat % 2 ^ w s * 2 ^ p s +
      (c s).toNat / 2 ^ (p s + w s) * 2 ^ (p s + w s))) ∧
    SetsG (.addi f) f.d (fun s => BitVec.ofInt 64 ((a s).toNat + f.imm.toInt)) ∧
    SetsG (.li f) f.d (fun _ => BitVec.ofInt 64 (f.imm.toInt * (2 ^ (16 * f.o.toNat) : Nat))) ∧
    SetsG (.lea f) f.d (fun s => if f.o = 0 then BitVec.ofInt 64 (line s + 64 * (f.imm.toInt / 32) + 2 * (f.imm.toNat % 32 + 1))
      else BitVec.ofInt 64 (line s + f.imm.toInt)))

/-- The destination of a relative branch (R68). -/
def Sys2Proof.Machine.branchTarget (f : Fields) (s : State) : Word :=
  BitVec.ofInt 64 (64 * (s.me.pc.toNat / 64) + 64 * (f.imm.toInt / 32) + 2 * (f.imm.toNat % 32 + 1))

/-- The PC at which a strand goes on after a head that transfers no control (R66). -/
def Sys2Proof.Machine.nextHead (s : State) : Word :=
  if s.me.pc.toNat / 2 % 32 < s.iwH then s.me.pc + 2 else BitVec.ofNat 64 (64 * (s.me.pc.toNat / 64) + 66)

/-- A branch that is taken where `c` holds, and changes nothing but the PC (R68, R123, R124). -/
def Sys2Proof.Machine.BranchesOn (i : Instr) (f : Fields) (c : State → Prop) : Prop :=
  Jumps i c (fun s sh => s.begun sh) (branchTarget f) ∧ Jumps i (fun s => ¬c s) (fun s sh => s.begun sh) nextHead

/-- The check of a target that comes from a register (R69). -/
abbrev Sys2Proof.Machine.targetOk (t : Word) : Prop := t.toNat % 2 = 0 ∧ t.toNat / 2 % 32 ≠ 0

/-- R123: branches, `call` with its link, and `loop` with its counter. R125 and R69: `nop`, and the jumps to a register with
their check.
The model's readings and choices enter it by log 13. -/
def Obligations.ControlTransferResults : Prop :=
  (∀ f : Fields,
    let a := fun s : State => s.gr f.a
    let d := fun s : State => s.gr f.d
    BranchesOn (.br f) f (fun _ => True) ∧
    Jumps (.call f) (fun _ => True) (fun s sh => (s.begun sh).wrG f.d (nextHead s)) (branchTarget f) ∧
    BranchesOn (.bz f) f (fun s => a s = 0) ∧
    BranchesOn (.bnz f) f (fun s => a s ≠ 0) ∧
    Jumps (.loop f) (fun s => d s - 1 ≠ 0) (fun s sh => (s.begun sh).wrG f.d (d s - 1)) (branchTarget f) ∧
    Jumps (.loop f) (fun s => d s - 1 = 0) (fun s sh => (s.begun sh).wrG f.d (d s - 1)) nextHead ∧
    BranchesOn (.bcEq f) f (fun s => a s = d s) ∧
    BranchesOn (.bcNe f) f (fun s => a s ≠ d s) ∧
    BranchesOn (.bcLt f) f (fun s => (a s).toInt < (d s).toInt) ∧
    BranchesOn (.bcGe f) f (fun s => (d s).toInt ≤ (a s).toInt) ∧
    BranchesOn (.bcLo f) f (fun s => (a s).toNat < (d s).toNat) ∧
    BranchesOn (.bcHs f) f (fun s => (d s).toNat ≤ (a s).toNat)) ∧
  (∀ f : Fields,
    let a := fun s : State => s.gr f.a
    let b := fun s : State => s.gr f.b
    let c := fun s : State => s.gr f.c
    Jumps .nop (fun _ => True) (fun s sh => s.begun sh) nextHead ∧
    Jumps .ret (fun s => targetOk (s.gr 1)) (fun s sh => s.begun sh) (fun s => s.gr 1) ∧
    Traps .ret (fun s => ¬targetOk (s.gr 1)) cAlign (fun s => s.gr 1) ∧
    Jumps (.jr f) (fun s => targetOk (a s)) (fun s sh => (s.begun sh).wrG f.d (nextHead s)) a ∧
    Traps (.jr f) (fun s => ¬targetOk (a s)) cAlign a ∧
    Jumps (.jt f) (fun s => targetOk (b s)) (fun s sh => s.begun sh)
      (fun s => BitVec.ofNat 64 ((b s).toNat + 64 * min (a s).toNat (c s).toNat)) ∧
    Traps (.jt f) (fun s => ¬targetOk (b s)) cAlign (fun s => BitVec.ofNat 64 ((b s).toNat + 64 * min (a s).toNat (c s).toNat)))

/-! Scalar floating point (R128 to R133). -/

/-- A floating source: an f register through the box check, in the format of a type code (R48). -/
def Sys2Proof.Machine.fSource (ty : Nat) (x : BitVec 6) (s : State) : FVal := unpackTy ty (unbox ty (s.fr x))

/-- The mode that an instruction rounds with (R76, R92). -/
def Sys2Proof.Machine.roundMode (f : Fields) (s : State) : Mode := if fld f.imm 4 3 = 0 then fld s.me.fpmode 0 2 else fld f.imm 4 3 % 4

/-- An instruction with a floating result `r` and its flags: without an enabled flag it writes the boxed result and ORs the flags
into `fpflags`; with one it raises FPX and does neither (R98, R99, R128). -/
def Sys2Proof.Machine.SetsF (i : Instr) (ty : Nat) (d : BitVec 6) (r : State → Nat × Flags) : Prop :=
  Completes i (fun s => (r s).2 &&& s.me.fpmode.extractLsb' 2 5 = 0)
    (fun s sh => ((s.begun sh).wrF d (box ty (r s).1)).addFlags s.cur s.cx (r s).2) ∧
  TrapsFpx i (fun s => (r s).2 &&& s.me.fpmode.extractLsb' 2 5 ≠ 0) (fun s => (r s).2)

/-- The same with a g result. -/
def Sys2Proof.Machine.SetsGFlags (i : Instr) (d : BitVec 6) (v : State → Word) (fl : State → Flags) : Prop :=
  Completes i (fun s => fl s &&& s.me.fpmode.extractLsb' 2 5 = 0)
    (fun s sh => ((s.begun sh).wrG d (v s)).addFlags s.cur s.cx (fl s)) ∧
  TrapsFpx i (fun s => fl s &&& s.me.fpmode.extractLsb' 2 5 ≠ 0) fl

/-- R129, R130: sums, products, minima, maxima, signs, moves and the fused minors.
The model's readings and choices enter it by logs 13, 63. -/
def Obligations.FloatArithmeticResults : Prop := ∀ f : Fields,
  let two := fun (ty : Nat) (op : Mode → FVal → FVal → FVal × Flags) (s : State) =>
    roundWith (fmtTy ty) (roundMode f s) (op (roundMode f s) (fSource ty f.a s) (fSource ty f.b s))
  let fused := fun (ty : Nat) (negProduct negAddend : Bool) (s : State) =>
    roundWith (fmtTy ty) (roundMode f s)
      (fmaX (roundMode f s) negProduct negAddend (fSource ty f.a s) (fSource ty f.b s) (fSource ty f.c s))
  let sign := fun (ty : Nat) (s : State) => fsgn (fmtTy ty) f.o.toNat (unbox ty (s.fr f.a)) (unbox ty (s.fr f.b))
  SetsF (.faddF64 f) 8 f.d (two 8 addX) ∧
  SetsF (.fsubF64 f) 8 f.d (two 8 (fun m x y => addX m x y.flip)) ∧
  SetsF (.fmulF64 f) 8 f.d (two 8 (fun _ => mulX)) ∧
  SetsF (.fminF64 f) 8 f.d (two 8 (fun _ => minMaxX false)) ∧
  SetsF (.fmaxF64 f) 8 f.d (two 8 (fun _ => minMaxX true)) ∧
  SetsF (.faddF32 f) 9 f.d (two 9 addX) ∧
  SetsF (.fsubF32 f) 9 f.d (two 9 (fun m x y => addX m x y.flip)) ∧
  SetsF (.fmulF32 f) 9 f.d (two 9 (fun _ => mulX)) ∧
  SetsF (.fminF32 f) 9 f.d (two 9 (fun _ => minMaxX false)) ∧
  SetsF (.fmaxF32 f) 9 f.d (two 9 (fun _ => minMaxX true)) ∧
  SetsF (.fsgnF64 f) 8 f.d (sign 8) ∧
  SetsF (.fsgnF32 f) 9 f.d (sign 9) ∧
  Completes (.fmv f) (fun _ => True) (fun s sh =>
    let v := if f.o.getLsbD 1 then s.gr f.a else s.fr f.a
    if f.o.getLsbD 0 then (s.begun sh).wrG f.d v else (s.begun sh).wrF f.d v) ∧
  SetsF (.fmaF64 f) 8 f.d (fused 8 false false) ∧
  SetsF (.fmsF64 f) 8 f.d (fused 8 false true) ∧
  SetsF (.fnmaF64 f) 8 f.d (fused 8 true false) ∧
  SetsF (.fmaF32 f) 9 f.d (fused 9 false false) ∧
  SetsF (.fmsF32 f) 9 f.d (fused 9 false true) ∧
  SetsF (.fnmaF32 f) 9 f.d (fused 9 true false)

/-- R132, R133: comparisons, classes and conversions.
The model's readings and choices enter it by log 13. -/
def Obligations.FloatCompareAndConvertResults : Prop := ∀ f : Fields,
  let a := fun (ty : Nat) (s : State) => fSource ty f.a s
  let b := fun (ty : Nat) (s : State) => fSource ty f.b s
  let bit := fun p : Bool => (if p then 1 else 0 : Word)
  let eq := fun (ty : Nat) (s : State) => cmpX (a ty s) (b ty s) == some .eq
  let lt := fun (ty : Nat) (s : State) => cmpX (a ty s) (b ty s) == some .lt
  let nan := fun (ty : Nat) (s : State) => (a ty s).isNan || (b ty s).isNan
  let onNan := fun (ty : Nat) (s : State) => if nan ty s then fNv else 0
  let onSig := fun (ty : Nat) (s : State) => if (a ty s).isSig || (b ty s).isSig then fNv else 0
  let dt := fld f.imm 0 4
  let st := fld f.imm 7 4
  let x := fun s : State => if tyInt st then ofInt (intTy st (s.gr f.a).toNat) else fSource st f.a s
  let y := fun s : State => toInt (roundMode f s) (tySigned dt) (tyBits dt) (x s)
  SetsGFlags (.fcmpEqF64 f) f.d (fun s => bit (eq 8 s)) (onSig 8) ∧
  SetsGFlags (.fcmpLtF64 f) f.d (fun s => bit (lt 8 s)) (onNan 8) ∧
  SetsGFlags (.fcmpLeF64 f) f.d (fun s => bit (lt 8 s || eq 8 s)) (onNan 8) ∧
  SetsGFlags (.fcmpUnF64 f) f.d (fun s => bit (nan 8 s)) (onSig 8) ∧
  SetsGFlags (.fcmpEqF32 f) f.d (fun s => bit (eq 9 s)) (onSig 9) ∧
  SetsGFlags (.fcmpLtF32 f) f.d (fun s => bit (lt 9 s)) (onNan 9) ∧
  SetsGFlags (.fcmpLeF32 f) f.d (fun s => bit (lt 9 s || eq 9 s)) (onNan 9) ∧
  SetsGFlags (.fcmpUnF32 f) f.d (fun s => bit (nan 9 s)) (onSig 9) ∧
  SetsG (.fclassF64 f) f.d (fun s => BitVec.ofNat 64 (classify fp64 (unbox 8 (s.fr f.a)))) ∧
  SetsG (.fclassF32 f) f.d (fun s => BitVec.ofNat 64 (classify fp32 (unbox 9 (s.fr f.a)))) ∧
  (tyInt dt = true → SetsGFlags (.fcvt f) f.d
    (fun s => if tySigned dt then BitVec.ofInt 64 (y s).1 else BitVec.ofNat 64 (wrapI (y s).1 (tyBits dt))) (fun s => (y s).2)) ∧
  (tyInt dt = false → SetsF (.fcvt f) dt f.d (fun s => round (fmtTy dt) (roundMode f s) (x s)))

/-- The detached operation with a result `v` that is known at issue and comes `n` ck later; an enabled flag makes it a fault
that is reported then (R33, R36, R99, R121, R131). -/
def Sys2Proof.Machine.DetachesWith (i : Instr) (n code : Nat) (v : State → Vec) (fl : State → Flags) : Prop :=
  Completes i (fun _ => True) (fun s sh => (s.begun sh).detach i sh (fun d => { d with
    st := if fl s &&& s.me.fpmode.extractLsb' 2 5 = 0 then .done else .fault cFpx 0 0 (fl s)
    vals := [(code, v s)], flags := fl s, due := s.cycles + n }))

/-- R121, R130, R131: division and roots, each with its time.
The model's readings and choices enter it by logs 13, 64. -/
def Obligations.DivisionAndRootResults : Prop := ∀ f : Fields,
  let a := fun s : State => s.gr f.a
  let b := fun s : State => s.gr f.b
  let fl := fun (ty : Nat) (op : State → FVal × Flags) (s : State) => roundWith (fmtTy ty) (roundMode f s) (op s)
  let g := fun (i : Instr) (v : State → Word) => DetachesWith i 34 f.d.toNat (fun s => (v s).setWidth 1024) (fun _ => 0)
  let fp := fun (i : Instr) (ty n : Nat) (op : State → FVal × Flags) =>
    DetachesWith i n (0x40 + f.d.toNat) (fun s => (box ty (fl ty op s).1).setWidth 1024) (fun s => (fl ty op s).2)
  g (.divI64 f) (fun s => if b s = 0 then BitVec.ofNat 64 0xFFFFFFFFFFFFFFFF else BitVec.ofInt 64 ((a s).toInt.tdiv (b s).toInt)) ∧
  g (.divN64 f) (fun s => if b s = 0 then BitVec.ofNat 64 0xFFFFFFFFFFFFFFFF else BitVec.ofNat 64 ((a s).toNat / (b s).toNat)) ∧
  g (.remI64 f) (fun s => if b s = 0 then a s else BitVec.ofInt 64 ((a s).toInt.tmod (b s).toInt)) ∧
  g (.remN64 f) (fun s => if b s = 0 then a s else BitVec.ofNat 64 ((a s).toNat % (b s).toNat)) ∧
  fp (.fdivF64 f) 8 26 (fun s => divX (fSource 8 f.a s) (fSource 8 f.b s)) ∧
  fp (.fsqrtF64 f) 8 30 (fun s => sqrtX (fSource 8 f.a s)) ∧
  fp (.fdivF32 f) 9 18 (fun s => divX (fSource 9 f.a s) (fSource 9 f.b s)) ∧
  fp (.fsqrtF32 f) 9 20 (fun s => sqrtX (fSource 9 f.a s))

/-- R85, R86, R91: a value that a format represents rounds to itself in every mode, with no flag. R87, R89: a DY8 value converts to
the smallest of its codes with its sign, with no flag. -/
def Obligations.RoundingKeepsRepresentedValues : Prop :=
  (∀ (F : Fmt) (m : Mode) (x : Nat), F ∈ [fp64, fp32, fp16, bf16, e5m2, e4m3] →
    x < 2 ^ F.w → (unpack F x).isNan = false → round F m (unpack F x) = (x, 0)) ∧
  (∀ (m : Mode) (x : Nat), x < 2 ^ 8 →
    let value := fun c : Nat =>
      let term := fun k : Nat => (if c / 2 ^ (k + 3) % 2 = 1 then -1 else 1 : Int) * (2 ^ (7 - c / 2 ^ k % 2 ^ 3) : Nat)
      term 4 + term 0
    ∃ y, narrow .dy8 m (unpackDy8 x) = some (y, 0) ∧ y < 2 ^ 8 ∧ value y = value x ∧ (y / 2 ^ 7 = 1 ↔ value y < 0) ∧
      ∀ z, z < 2 ^ 8 → value z = value x → z / 2 ^ 7 = y / 2 ^ 7 → y ≤ z)

/-! Vectors (R162 to R182). -/

/-- A result `r` for the whole v destination, with its flags (R99, R165). -/
def Sys2Proof.Machine.SetsV (i : Instr) (d : BitVec 6) (r : State → Vec × Flags) : Prop :=
  Completes i (fun s => (r s).2 &&& s.me.fpmode.extractLsb' 2 5 = 0)
    (fun s sh => ((s.begun sh).wrV d (r s).1).addFlags s.cur s.cx (r s).2) ∧
  TrapsFpx i (fun s => (r s).2 &&& s.me.fpmode.extractLsb' 2 5 ≠ 0) (fun s => (r s).2)

/-- R163, R165: lane `i` of a lane-wise result is the operation's where its mask bit is 1, and the destination's old lane where
it is 0; the flags are those of the active lanes. R170 to R173: lane-wise arithmetic, logic and shifts on integer and floating
elements, and the fused minors. R171: vector division and roots detach.
The model's readings and choices enter it by logs 13, 64. -/
def Obligations.VectorLaneResults : Prop :=
  (∀ (ty : Nat) (f : Fields) (s : State) (op : Nat → Nat × Flags) (i : Nat),
    ty ∈ [0, 1, 2, 3, 4, 5, 6, 7, 8, 9, 10, 11] → s.me.rett = none → i < 1024 / tyBits ty →
    (lane (laneRes ty f s op).1 (tyBits ty) i = if (s.kr f.c).getLsbD i then (op i).1 % 2 ^ tyBits ty else lane (s.vr f.d) (tyBits ty) i) ∧
    ((s.kr f.c).getLsbD i = true → (op i).2 &&& (laneRes ty f s op).2 = (op i).2) ∧
    ((∀ j, j < 1024 / tyBits ty → (s.kr f.c).getLsbD j = true → (op j).2 = 0) → (laneRes ty f s op).2 = 0)) ∧
  (∀ f : Fields,
    let ty := fld f.imm 0 4 ^^^ 8
    let w := tyBits ty
    let a := fun (s : State) (i : Nat) => lane (s.vr f.a) w i
    let b := fun (s : State) (i : Nat) => lane (s.vr f.b) w i
    let d := fun (s : State) (i : Nat) => lane (s.vr f.d) w i
    let arith := fun (opI : Int → Int → Int) (opF : Mode → FVal → FVal → FVal × Flags) (s : State) =>
      laneRes ty f s (fun i => if tyInt ty then (wrapI (opI (intTy ty (a s i)) (intTy ty (b s i))) w, 0)
        else roundWith (fmtTy ty) (roundMode f s) (opF (roundMode f s) (unpackTy ty (a s i)) (unpackTy ty (b s i))))
    let logic := fun (op : Nat → Nat → Nat) (s : State) => laneRes ty f s (fun i => (op (a s i) (b s i) % 2 ^ w, 0))
    let fused := fun (neg : Bool) (s : State) => laneRes ty f s (fun i => roundWith (fmtTy ty) (roundMode f s)
      (fmaX (roundMode f s) false neg (unpackTy ty (a s i)) (unpackTy ty (b s i)) (unpackTy ty (d s i))))
    SetsV (.vadd f) f.d (arith (· + ·) addX) ∧
    SetsV (.vsub f) f.d (arith (· - ·) (fun m x y => addX m x y.flip)) ∧
    SetsV (.vmul f) f.d (arith (· * ·) (fun _ => mulX)) ∧
    SetsV (.vmin f) f.d (arith min (fun _ => minMaxX false)) ∧
    SetsV (.vmax f) f.d (arith max (fun _ => minMaxX true)) ∧
    SetsV (.vabs f) f.d (fun s => laneRes ty f s (fun i =>
      if tyInt ty then (wrapI ((intTy ty (a s i)).natAbs : Int) w, 0) else fsgn (fmtTy ty) 0 (a s i) 0)) ∧
    SetsV (.vneg f) f.d (fun s => laneRes ty f s (fun i =>
      if tyInt ty then (wrapI (-(intTy ty (a s i))) w, 0) else fsgn (fmtTy ty) 1 (a s i) (a s i))) ∧
    SetsV (.vfma f) f.d (fused false) ∧
    SetsV (.vfms f) f.d (fused true) ∧
    SetsV (.vand f) f.d (logic (fun x y => x &&& y)) ∧
    SetsV (.vor f) f.d (logic (fun x y => x ||| y)) ∧
    SetsV (.vxor f) f.d (logic (fun x y => x ^^^ y)) ∧
    SetsV (.vshl f) f.d (logic (fun x y => x * 2 ^ (y % w))) ∧
    SetsV (.vshr f) f.d (logic (fun x y => x / 2 ^ (y % w))) ∧
    SetsV (.vsar f) f.d (logic (fun x y => wrapI (signed x w / (2 ^ (y % w) : Nat)) w))) ∧
  (∀ f : Fields,
    let ty := fld f.imm 0 4 ^^^ 8
    let x := fun (v : Vec) (i : Nat) => unpackTy ty (lane v (tyBits ty) i)
    let r := fun (op : State → Nat → FVal × Flags) (s : State) => laneRes ty f s (fun i => roundWith (fmtTy ty) (roundMode f s) (op s i))
    let goes := fun (i : Instr) (n : Nat) (op : State → Nat → FVal × Flags) =>
      DetachesWith i n (0x60 + f.d.toNat) (fun s => (r op s).1) (fun s => (r op s).2)
    goes (.vdiv f) (if ty = 8 then 40 else if ty = 9 then 28 else 22) (fun s i => divX (x (s.vr f.a) i) (x (s.vr f.b) i)) ∧
    goes (.vsqrt f) (if ty = 8 then 44 else if ty = 9 then 30 else 24) (fun s i => sqrtX (x (s.vr f.a) i)))

/-- R180, R181: lane movement, reductions and scans. -/
def Obligations.VectorMovementResults : Prop := ∀ f : Fields,
  let ty := fld f.imm 0 4 ^^^ 8
  let w := tyBits ty
  let n := 1024 / w
  let a := fun (s : State) (i : Nat) => lane (s.vr f.a) w i
  let cnt := fun s : State => (s.gr f.b).toNat
  let on := fun (s : State) (i : Nat) => (s.kr f.c).getLsbD i
  let moves := fun (i : Instr) (l : State → Nat → Nat) => Completes i (fun _ => True) (fun s sh =>
    (s.begun sh).wrV f.d (BitVec.ofNat 1024 (joinLanes w ((List.range n).map (fun i => if on s i then l s i else lane (s.vr f.d) w i)))))
  let tree := fun (op : Nat → Mode → Nat → Nat → Nat × Flags) (s : State) =>
    treeRed (op ty (roundMode f s)) (Nat.log2 n) ((List.range n).map (fun i => if on s i then some (a s i) else none))
  let nan := fun x : Nat => !tyInt ty && (unpackTy ty x).isNan
  let canon := fun x : Nat =>
    (if nan x then (fmtTy ty).canon else x, if nan x && (unpackTy ty x).isSig then fNv else (0 : Flags))
  let reduces := fun (i : Instr) (k : Nat) (op : Nat → Mode → Nat → Nat → Nat × Flags) =>
    let r := fun s : State => canon ((tree op s).1.getD (redEmpty k ty))
    let fl := fun s : State => (tree op s).2 ||| (r s).2
    let v := fun s : State => redVal ty (r s).1
    Completes i (fun s => fl s &&& s.me.fpmode.extractLsb' 2 5 = 0) (fun s sh =>
      (if tyInt ty then (s.begun sh).wrG f.d (v s) else (s.begun sh).wrF f.d (v s)).addFlags s.cur s.cx (fl s)) ∧
    TrapsFpx i (fun s => fl s &&& s.me.fpmode.extractLsb' 2 5 ≠ 0) fl
  let scan := fun s : State =>
    scanFrom canon (addE ty (roundMode f s)) none (((List.range n).filter (on s)).map (fun i => (i, a s i)))
  moves (.vbcast f) (fun s _ => if f.o = 1 then (if 9 ≤ ty ∧ ty < 12 then unbox ty (s.fr f.a) else (s.fr f.a).toNat) else (s.gr f.a).toNat) ∧
  moves (.vperm f) (fun s i => a s (lane (s.vr f.b) w i % n)) ∧
  moves (.vslideUp f) (fun s i => if cnt s ≤ i then a s (i - cnt s) else 0) ∧
  moves (.vslideDn f) (fun s i => if i + cnt s < n then a s (i + cnt s) else 0) ∧
  moves (.vmov f) a ∧
  reduces (.vredAdd f) 0 addE ∧
  reduces (.vredMin f) 1 minE ∧
  reduces (.vredMax f) 2 maxE ∧
  SetsV (.vscan f) f.d (fun s => (BitVec.ofNat 1024 (joinLanes w ((List.range n).map (fun i =>
      if on s i then (((scan s).find? (fun r => r.1 == i)).map (·.2.1)).getD 0 else lane (s.vr f.d) w i))),
    ((scan s).map (·.2.2)).foldl (· ||| ·) 0))

/-- R173: comparisons write a mask, and selection a vector. R182: masks. -/
def Obligations.VectorCompareAndMaskResults : Prop :=
  (∀ f : Fields,
    let ty := fld f.imm 0 4 ^^^ 8
    let w := tyBits ty
    let a := fun (s : State) (i : Nat) => lane (s.vr f.a) w i
    let b := fun (s : State) (i : Nat) => lane (s.vr f.b) w i
    let active := fun s : State => (List.range (1024 / w)).filter (fun i => (s.kr f.c).getLsbD i)
    let ones := fun (p : State → Nat → Bool) (s : State) =>
      BitVec.ofNat 128 (((active s).filter (p s)).map (fun i => 2 ^ i)).sum
    let nan := fun (s : State) (i : Nat) => (unpackTy ty (a s i)).isNan || (unpackTy ty (b s i)).isNan
    let sig := fun (s : State) (i : Nat) => (unpackTy ty (a s i)).isSig || (unpackTy ty (b s i)).isSig
    let rel := fun (s : State) (i : Nat) => cmpX (unpackTy ty (a s i)) (unpackTy ty (b s i))
    let flags := fun (p : State → Nat → Bool) (s : State) => if !tyInt ty && (active s).any (p s) then fNv else 0
    let sets := fun (i : Instr) (int : Int → Int → Bool) (flt : State → Nat → Bool) (fl : State → Nat → Bool) =>
      let v := ones (fun s i => if tyInt ty then int (intTy ty (a s i)) (intTy ty (b s i)) else flt s i)
      Completes i (fun s => flags fl s &&& s.me.fpmode.extractLsb' 2 5 = 0)
        (fun s sh => ((s.begun sh).wrK f.d (v s)).addFlags s.cur s.cx (flags fl s)) ∧
      TrapsFpx i (fun s => flags fl s &&& s.me.fpmode.extractLsb' 2 5 ≠ 0) (flags fl)
    sets (.vcmpEq f) (fun x y => decide (x = y)) (fun s i => rel s i == some .eq) sig ∧
    sets (.vcmpNe f) (fun x y => decide (x ≠ y)) (fun s i => !(rel s i == some .eq)) sig ∧
    sets (.vcmpLt f) (fun x y => decide (x < y)) (fun s i => rel s i == some .lt) nan ∧
    sets (.vcmpLe f) (fun x y => decide (x ≤ y)) (fun s i => rel s i == some .lt || rel s i == some .eq) nan ∧
    (tyInt ty = false → sets (.vcmpUn f) (fun _ _ => false) nan sig) ∧
    Completes (.vsel f) (fun _ => True) (fun s sh => (s.begun sh).wrV f.d (BitVec.ofNat 1024 (joinLanes w
      ((List.range (1024 / w)).map (fun i => if (s.kr f.c).getLsbD i then a s i else b s i)))))) ∧
  (∀ f : Fields,
    let a := fun s : State => s.kr f.a
    let b := fun s : State => s.kr f.b
    let sets := fun (i : Instr) (v : State → KMask) => Completes i (fun _ => True) (fun s sh => (s.begun sh).wrK f.d (v s))
    sets (.kand f) (fun s => a s &&& b s) ∧
    sets (.kor f) (fun s => a s ||| b s) ∧
    sets (.kxor f) (fun s => a s ^^^ b s) ∧
    sets (.knot f) (fun s => ~~~(a s)) ∧
    sets (.kset f) (fun s => if f.o = 1 then BitVec.ofNat 128 (2 ^ min (s.gr f.a).toNat 128 - 1)
      else (s.gr f.b ++ s.gr f.a : BitVec 128)) ∧
    SetsG (.kpop f) f.d (fun s => BitVec.ofNat 64 ((List.range 128).filter (fun i => (a s).getLsbD i)).length))

/-- R174 to R176, R178: a conversion whose elements all fit writes the converted elements, its scale codes and, late, the count of
scales that it has clamped; the values are those of `vcvtOf`. One with outliers asks for their places first.
The model's readings and choices enter it by logs 13, 47, 54, 60, 62. -/
def Obligations.VectorConversionResults : Prop := ∀ f : Fields,
  let dt := fld f.imm 0 4
  let wd := tyBits dt
  let ws := tyBits (fld f.imm 7 4)
  let off := if wd < ws then 1024 / max wd ws * fld f.imm 13 3 else 0
  let out := fun s : State => vcvtOf f (roundMode f s) (s.vr f.a) (s.gr f.b) (fun i => (s.kr f.c).getLsbD i)
  let v := fun s : State => (BitVec.ofNat 1024 (joinLanes wd ((List.range (1024 / wd)).map (fun i =>
    match (out s).els.find? (fun e => off + e.1 == i) with
    | some e => e.2.getD (narrowTy dt).zero
    | none => lane (s.vr f.d) wd i))) : Vec)
  let written := fun (s : State) (sh : Shape) =>
    let t := ((s.begun sh).wrV f.d (v s)).addFlags s.cur s.cx (out s).fl
    if fld f.imm 11 2 ≠ 0 ∧ 12 ≤ dt then t.wrG f.b (BitVec.ofNat 64 (joinLanes 8 (out s).codes)) else t
  Completes (.vcvt f) (fun s => (out s).fl &&& s.me.fpmode.extractLsb' 2 5 = 0 ∧ (out s).els.all (fun e => e.2.isSome) = true)
    (fun s sh => if (out s).clamps = 0 then written s sh else (written s sh).later s.cur
      { due := s.cycles + 8, ctx := s.cx, code := uflowCode, val := some (BitVec.ofNat 64 (out s).clamps) }) ∧
  (∀ (c : Core) (n x : Nat) (l : Late), n ≤ 128 → l = { due := x, ctx := x, code := uflowCode, val := some (BitVec.ofNat 64 n) } →
    c.applyLate l = { c with scaleUflow := BitVec.ofNat 32 (min (c.scaleUflow.toNat + n) (2 ^ 32 - 1)) }) ∧
  TrapsFpx (.vcvt f) (fun s => (out s).fl &&& s.me.fpmode.extractLsb' 2 5 ≠ 0) (fun s => (out s).fl) ∧
  (∀ sh s, Issues (.vcvt f) sh s → (out s).fl &&& s.me.fpmode.extractLsb' 2 5 = 0 → (out s).els.all (fun e => e.2.isSome) = false →
    s.pathClear s.cur = true → s.me.outl ≠ 0 → exec (.vcvt f) s =
      .next ((s.withIw sh).sendReserve sh s.me.outl ((out s).els.filter (fun e => e.2.isNone)).length))

/-! Memory (R61, R134, R136, R142 to R157). -/

/-- The effective address of an access (R142): base, index where the form has one, and a signed displacement, or an offset into a
typed buffer of the core. -/
def Sys2Proof.Machine.memAddress (f : Fields) (indexed : Bool) (s : State) : Word :=
  let base := (s.gr f.a).toNat + (if indexed then (s.gr f.b).toNat else 0)
  if f.o.getLsbD 1 then BitVec.ofNat 64 (bufAddr s.cur (fld f.imm 14 2) + base + fld f.imm 0 14)
  else BitVec.ofInt 64 (base + (f.imm.setWidth 16).toInt)

/-- R61, R143: which byte of a range is the first that no mapping holds, and the order in which an access is checked.
The model's readings and choices enter it by log 40. -/
def Obligations.AccessChecks : Prop := ∀ (s : State) (w : Who) (a : Word) (n align : Nat) (write : Bool), 0 < n →
  (s.windowFault a.toNat n = none ↔ ∀ j, j < n → s.mapped (a.toNat + j) = true) ∧
  (∀ b, s.windowFault a.toNat n = some b → ∃ j, j < n ∧ b = BitVec.ofNat 64 (a.toNat + j) ∧ s.mapped (a.toNat + j) = false ∧
    ∀ k, k < j → s.mapped (a.toNat + k) = true) ∧
  (a.toNat % align ≠ 0 → s.issueFault w a n align write = some (cAlign, a)) ∧
  (a.toNat % align = 0 → ∀ b, s.windowFault a.toNat n = some b → s.issueFault w a n align write = some (cWindow, b)) ∧
  (a.toNat % align = 0 → s.windowFault a.toNat n = none → s.windowPerm w a.toNat n write = false →
    s.issueFault w a n align write = some (cPerm, a)) ∧
  (a.toNat % align = 0 → s.windowFault a.toNat n = none → s.windowPerm w a.toNat n write = true →
    (write = false ∨ w.node = 0 ∨ a.toNat < 2 ^ 52) →
    ((a.toNat < 2 ^ 52 ∨ (write = true ∧ 8 ≤ n) ∨ s.win.firstBad a.toNat n = none) → s.issueFault w a n align write = none) ∧
    (2 ^ 52 ≤ a.toNat → (write = false ∨ n < 8) → ∀ b, s.win.firstBad a.toNat n = some b →
      s.issueFault w a n align write = some (cUncorrectable, BitVec.ofNat 64 b)))

/-- R142, R143, R145, R146: a load leaves the pipeline as a request for its bytes; a prefetch never faults. R142 to R145: a
store is posted with the low bytes of its source; with 32 operations posted it waits.
The model's readings and choices enter it by logs 9, 13. -/
def Obligations.LoadsAndStoresSendTheirRequest : Prop :=
  (∀ f : Fields,
    let ea := memAddress f true
    let lease := if f.c = 0 then 3 else f.c.toNat - 1
    let loads := fun (i : Instr) (n : Nat) => Accesses i ea n false (fun _ => True)
      (fun s sh => s.detachReq i sh { s.reqOf .load (ea s) n with lease } 0 false)
    loads (.ldB f) 1 ∧
    loads (.ldH f) 2 ∧
    loads (.ldW f) 4 ∧
    loads (.ldD f) 8 ∧
    loads (.ldF f) (if f.o.getLsbD 0 then 4 else 8) ∧
    Does (.pf f) (fun s => 2 ^ 52 ≤ (ea s).toNat) (fun s _ => s) ∧
    Does (.pf f) (fun s => (ea s).toNat < 2 ^ 52) (fun s _ =>
      let w := s.myWho .strand
      let a := (ea s).toNat
      s.send (2 ^ 15 + s.cur) (s.trueHome w.pid w.asid a) (s.cycles + s.figure w a (s.l1Hit w a))
        (.mem s.cur s.cx 0 { s.reqOf .pf (ea s) 64 with lease, posted := true }))) ∧
  (∀ f : Fields,
    let ea := memAddress f true
    let lease := if f.c = 0 then 3 else f.c.toNat - 1
    let stores := fun (i : Instr) (n : Nat) (v : State → Word) =>
      Accesses i ea n true (fun s => s.me.posted.length < 32)
        (fun s sh => s.postReq i sh { s.reqOf .store (ea s) n with data := BitVec.ofNat 64 ((v s).toNat % 2 ^ (8 * n)), lease }) ∧
      Awaits i (fun s => s.issueFault (s.myWho .strand) (ea s) n n true = none ∧ 32 ≤ s.me.posted.length) (fun _ => .posted)
    stores (.stB f) 1 (fun s => s.gr f.d) ∧
    stores (.stH f) 2 (fun s => s.gr f.d) ∧
    stores (.stW f) 4 (fun s => s.gr f.d) ∧
    stores (.stD f) 8 (fun s => s.gr f.d) ∧
    stores (.stF f) (if f.o.getLsbD 0 then 4 else 8) (fun s => s.fr f.d))

/-- Whether a fence or release at scope `id` waits for nothing (R153, R154, R296, R297): scope 0 orders nothing; within the device a
store is performed too whose line its core owns and has written. -/
abbrev Sys2Proof.Machine.MayPass (s : State) (id : Nat) (loads stores : Bool) : Prop :=
  id = 0 ∨ s.me.ordered loads stores = true ∨ (id ≠ 6 ∧ s.orderedNear s.cur s.cx loads stores = true)

/-- What it waits for otherwise. -/
def Sys2Proof.Machine.passWait (id : Nat) (loads stores : Bool) : WaitWhy :=
  if id = 6 then .order loads stores else .orderNear loads stores

/-- R149, R150, R296: an atomic leaves as one request; with a scope above 0 it first waits for the strand's older accesses.
The model's readings and choices enter it by logs 9, 14, 53. -/
def Obligations.AtomicsSendTheirRequest : Prop := ∀ f : Fields,
  let sc := fld f.imm 8 5
  let atomics := fun (i : Instr) (op ty : Nat) (data cmp : State → Word) =>
    let n := tyBits ty / 8
    let bad := fun s : State => if 2 ^ 52 ≤ (s.gr f.a).toNat then s.win.firstBad (s.gr f.a).toNat n else none
    let sound := fun s : State => s.issueFault (s.myWho .strand) (s.gr f.a) n n true = none ∧ bad s = none
    Does i (fun s => sound s ∧ MayPass s sc true true)
      (fun s sh => (s.seenBy sc).detachReq i sh { s.reqOf (.amo op ty (roundMode f s)) (s.gr f.a) n with
        data := data s, cmp := cmp s } (roundMode f s) (sc != 0)) ∧
    (∀ c b, Faults i (fun s => s.issueFault (s.myWho .strand) (s.gr f.a) n n true = some (c, b)) c (fun _ => b)) ∧
    (∀ b, Faults i (fun s => s.issueFault (s.myWho .strand) (s.gr f.a) n n true = none ∧ bad s = some b) cUncorrectable
      (fun _ => BitVec.ofNat 64 b)) ∧
    Awaits i (fun s => sound s ∧ ¬MayPass s sc true true) (fun _ => passWait sc true true)
  let int := fun (i : Instr) (op : Nat) => atomics i op (fld f.imm 0 4) (fun s => s.gr f.b) (fun s => s.gr f.c)
  int (.amoAdd f) 0 ∧
  int (.amoAnd f) 1 ∧
  int (.amoOr f) 2 ∧
  int (.amoXor f) 3 ∧
  int (.amoMin f) 4 ∧
  int (.amoMax f) 5 ∧
  int (.amoSwap f) 6 ∧
  int (.amoCas f) 7 ∧
  atomics (.amoAddF32 f) 8 9 (fun s => BitVec.ofNat 64 (unbox 9 (s.fr f.b))) (fun _ => 0) ∧
  atomics (.amoAddF64 f) 9 8 (fun s => BitVec.ofNat 64 (unbox 8 (s.fr f.b))) (fun _ => 0)

/-- R147, R156, R157, R278: full/empty operations and sync words. R154, R155: `fence` waits until the accesses that it orders
are performed and does nothing else; `wb` and `inv` send one request to each home of the range, `disc` one for each line.
The model's readings and choices enter it by logs 9, 14, 53. -/
def Obligations.SynchronisingAccessesAndFences : Prop :=
  (∀ f : Fields,
    let ea := memAddress f true
    let es := memAddress f false
    let window := fun (a : State → Word) (s : State) => s.me.hypCur = 0 ∨ (a s).toNat < 2 ^ 52
    let detaches := fun (i : Instr) (kind : ReqKind) (write : Bool) (data : State → Word) =>
      Does i (fun s => s.issueFault (s.myWho .strand) (ea s) 8 8 write = none ∧ window ea s)
        (fun s sh => s.detachReq i sh { s.reqOf kind (ea s) 8 with data := data s } 0 false)
    let posts := fun (i : Instr) (kind : ReqKind) =>
      Does i (fun s => s.issueFault (s.myWho .strand) (ea s) 8 8 true = none ∧ window ea s ∧ s.me.posted.length < 32)
        (fun s sh => s.postReq i sh (s.reqOf kind (ea s) 8))
    let sync := fun s : State => s.rmwFault (es s) 16 = none ∧ 2 ^ 52 ≤ (es s).toNat
    detaches (.ldfeClr f) .ldfeClr false (fun _ => 0) ∧
    detaches (.ldfeKeep f) .ldfeKeep false (fun _ => 0) ∧
    detaches (.stfeWait f) .stfeWait true (fun s => s.gr f.d) ∧
    detaches (.stfeFail f) .stfeFail true (fun s => s.gr f.c) ∧
    posts (.setfe f) .setfe ∧
    posts (.clrfe f) .clrfe ∧
    Does (.swarrive f) (fun s => sync s ∧ (s.gr f.b).toNat < 2 ^ 32 ∧ MayPass s f.c.toNat true true)
      (fun s sh => (s.seenBy f.c.toNat).detachReq (.swarrive f) sh { s.reqOf .swarrive (es s) 16 with data := s.gr f.b } 0 false) ∧
    Awaits (.swarrive f) (fun s => sync s ∧ (s.gr f.b).toNat < 2 ^ 32 ∧ ¬MayPass s f.c.toNat true true)
      (fun _ => passWait f.c.toNat true true) ∧
    Faults (.swarrive f) (fun s => 2 ^ 32 ≤ (s.gr f.b).toNat) cIllegal (fun _ => 0) ∧
    Does (.swwait f) sync (fun s sh => s.detachReq (.swwait f) sh { s.reqOf .swwait (es s) 16 with data := s.gr f.b } 0 true) ∧
    (∀ c b, Faults (.swwait f) (fun s => s.rmwFault (es s) 16 = some (c, b)) c (fun _ => b)) ∧
    Faults (.swwait f) (fun s => s.rmwFault (es s) 16 = none ∧ (es s).toNat < 2 ^ 52) cPerm es) ∧
  (∀ f : Fields,
    let a := fun s : State => s.gr f.a
    let n := fun s : State => (s.gr f.b).toNat
    let fenced := fun s : State => MayPass s f.c.toNat (f.o == 0) true
    let ranges := fun (i : Instr) (kind : ReqKind) (base : Nat) =>
      Does i (fun s => n s = 0 ∨ (s.windowFault (a s).toNat (n s) = none ∧ 2 ^ 52 ≤ (a s).toNat)) (fun s _ => s) ∧
      Does i (fun s => 0 < n s ∧ s.windowFault (a s).toNat (n s) = none ∧ (a s).toNat < 2 ^ 52 ∧ s.me.posted.length < 32)
        (fun s sh => (s.rangeHomes (s.pidOf s.cur) (a s).toNat (n s)).foldl (fun t h =>
            t.send (8192 + s.cur) h (s.cycles + ((a s).toNat + n s - 1) / 64 - (a s).toNat / 64 + base)
              (.mem s.cur s.cx s.me.nextId { s.reqOf kind (a s) 0 with
                data := s.gr f.b, cmp := f.c.setWidth 64, lane := h, posted := true }))
          (s.postOp i sh (s.rangeHomes (s.pidOf s.cur) (a s).toNat (n s)).length false)) ∧
      ∀ b, Faults i (fun s => 0 < n s ∧ s.windowFault (a s).toNat (n s) = some b) cWindow (fun _ => b)
    Does (.fence f) fenced (fun s _ => s.seenBy f.c.toNat) ∧
    Awaits (.fence f) (fun s => ¬fenced s) (fun _ => passWait f.c.toNat (f.o == 0) true) ∧
    ranges (.wb f) .wb (if f.c = 6 then 160 else 48) ∧
    ranges (.inv f) .inv 48 ∧
    Does (.disc f) (fun s => n s = 0) (fun s _ => s) ∧
    Does (.disc f) (fun s => 0 < n s ∧ (a s).toNat % 64 = 0 ∧ n s % 64 = 0 ∧
        s.issueFault (s.myWho .strand) (a s) (n s) 64 true = none ∧ s.me.posted.length < 32)
      (fun s sh => (List.range (n s / 64)).foldl (fun t j => t.sendReq s.me.nextId { s.reqOf .disc (BitVec.ofNat 64 ((a s).toNat + 64 * j)) 64 with
        lane := j, posted := true } 0) (s.postOp (.disc f) sh (n s / 64) false)) ∧
    Faults (.disc f) (fun s => 0 < n s ∧ ((a s).toNat % 64 ≠ 0 ∨ n s % 64 ≠ 0)) cAlign a)

/-! Requests at their homes, and completion (R33, R36, R38, R39, R134, R144 to R150, R156). -/

/-- Packet `p` is the one that the event names, and it may be performed where it is (R134). -/
abbrev Sys2Proof.Machine.IsNext (s : State) (p : Pkt) : Prop := nth s.net s.ev.k = some p ∧ s.performable s.ev.k = true

/-- R134, R147, R356: a request waits for its translation and its line, then it is performed at its home in one step; then it is
answered, or stands on the wait list while a notice parks its strand. R153: a store that its core already owns is performed first. R216,
R225, R269, R299, R361: what it has to wait for before that.
The model's readings and choices enter it by logs 9, 38, 53, 74. -/
def Obligations.RequestsArePerformedAtTheirHome : Prop := ∀ (s : State) (p : Pkt) (c x op : Nat) (r : MemReq), IsNext s p →
  p.body = .mem c x op r → s.ev.flag = false →
  let held := s.ownTurn s.ev.k = false ∨ ((r.kind.writes = true ∨ r.kind = .reserve) ∧ s.heldBy c r.snap (s.watched c r) = true) ∨
    (r.kind = .ppub ∧ (s.ctx c x).before op = true) ∨ (r.kind ≠ .reserve ∧ s.tstBars c x op p.dst = true)
  let turn := ¬held ∧ r.kind ≠ .reserve
  let here := turn ∧ (p.walked = true ∨ s.awaits c r = 0)
  (held → exec .memoryRequestAtHome s = .next s) ∧
  (¬held → r.kind = .reserve → exec .memoryRequestAtHome s = .next (s.reserveStep s.ev.k c x op)) ∧
  (turn → p.walked = false → 0 < s.awaits c r → exec .memoryRequestAtHome s = .next (s.walkTo s.ev.k c r)) ∧
  (here → ∀ j, s.ownedBefore s.ev.k c r = some j → exec .memoryRequestAtHome s = .next (s.performOwned j)) ∧
  (here → s.ownedBefore s.ev.k c r = none → s.recordKept r p.sentAt = none → exec .memoryRequestAtHome s = .next s) ∧
  (here → s.ownedBefore s.ev.k c r = none → ∀ u, s.recordKept r p.sentAt = some u → nth u.net s.ev.k = some p →
    (∀ t v fl, u.perform c x p.sentAt .strand r = (t, .ok v fl) →
      exec .memoryRequestAtHome s = .next (((u.pointerUsed t s.ev.k).dropPkt s.ev.k).answer c x op r v fl)) ∧
    (∀ t code a, u.perform c x p.sentAt .strand r = (t, .flt code a) →
      exec .memoryRequestAtHome s = .next (((u.pointerUsed t s.ev.k).dropPkt s.ev.k).answerFault c x op r code a
        (u.faultAt c p.sentAt r code))) ∧
    (∀ t loc, u.perform c x p.sentAt .strand r = (t, .wait loc) →
      let t' : State := { t.dropPkt s.ev.k with
        waiters := t.waiters ++ [{ loc, kind := r.kind.waitKind, core := c, ctx := x, op, r }] }
      exec .memoryRequestAtHome s =
        .next (t'.send p.dst p.src (t'.cycles + t'.backTime (r.who c .strand) r.ea.toNat false) (.parkNotice c x op))) ∧
    (∀ t, u.perform c x p.sentAt .strand r = (t, .hold) → exec .memoryRequestAtHome s = .next (if t = u then s else t)))

/-- R141, R145, R147, R150, R377: what a request to window memory comes to where nothing waits for a full/empty bit: the value it
reads and the bytes it writes, with the old value for an atomic; or the wait. R7, R201: the bytes of a task record that its scheduler
alone writes stand.
The model's readings and choices enter it by log 9. -/
def Obligations.WindowRequests : Prop := ∀ (s : State) (c x sent : Nat) (r : MemReq),
  let a := r.ea.toNat
  let goes := fun (m : Mem) (v : Nat) (fl : Flags) => ∃ t, s.perform c x sent .strand r = (t, .ok v fl) ∧ t.win = m ∧
    t.dram = s.dram ∧ t.far = s.far ∧ t.host = s.host ∧ t.slices = s.slices ∧ t.vers = s.vers ∧ t.cores = s.cores
  let kept := fun b : Nat => ∃ t ∈ s.taskRecs, 2 ^ 52 ≤ t.2.2 ∧ ∃ j ∈ taskHw, b = t.2.2 + j
  2 ^ 52 ≤ a → s.cHeld a r.n sent c x = false → s.waiters = [] → r.node = 0 →
  (∀ v n j : Nat, j < n → (kept (a + j) → bits (s.winKeep a v n) (8 * j) 8 = (s.win.byte (a + j)).toNat) ∧
    (¬kept (a + j) → bits (s.winKeep a v n) (8 * j) 8 = bits v (8 * j) 8)) ∧
  (r.kind = .load → s.win.firstBad a r.n = none → s.perform c x sent .strand r = (s, .ok (s.win.read a r.n) 0)) ∧
  (r.kind = .load → ∀ b, s.win.firstBad a r.n = some b →
    s.perform c x sent .strand r = (s, .flt cUncorrectable (BitVec.ofNat 64 b))) ∧
  (r.kind = .store → 8 ≤ r.n ∨ s.win.firstBad a r.n = none → goes (s.win.store a (s.winKeep a r.data.toNat r.n) r.n) 0 0) ∧
  (∀ op ty m, r.kind = .amo op ty m → s.win.firstBad a r.n = none →
    let old := s.win.read a r.n
    let new := amoNew op ty m old r.data.toNat r.cmp.toNat
    goes (if op = 7 ∧ old ≠ r.cmp.toNat % 2 ^ (8 * r.n) then s.win else s.win.write a (s.winKeep a new.1 r.n) r.n) old new.2) ∧
  (r.kind = .ldfeClr → s.win.full a = true → s.win.firstBad a 8 = none → goes (s.win.setFull a false) (s.win.read a 8) 0) ∧
  (r.kind = .ldfeKeep → s.win.full a = true → s.win.firstBad a 8 = none → goes s.win (s.win.read a 8) 0) ∧
  (r.kind = .stfeWait → s.win.full a = false → goes (((s.win.write a (s.winKeep a r.data.toNat 8) 8).setBad a false).setFull a true) 0 0) ∧
  (r.kind = .stfeFail → s.win.full a = false → goes (((s.win.write a (s.winKeep a r.data.toNat 8) 8).setBad a false).setFull a true) 1 0) ∧
  (r.kind = .stfeFail → s.win.full a = true → goes s.win 0 0) ∧
  (r.kind = .setfe → goes (s.win.setFull a true) 0 0) ∧
  (r.kind = .clrfe → goes (s.win.setFull a false) 0 0) ∧
  ((r.kind = .ldfeClr ∨ r.kind = .ldfeKeep) → s.win.full a = false → s.perform c x sent .strand r = (s, .wait (a / 8 * 8))) ∧
  (r.kind = .stfeWait → s.win.full a = true → s.perform c x sent .strand r = (s, .wait (a / 8 * 8))) ∧
  ((r.kind = .swarrive ∨ r.kind = .swwait) → s.win.firstBad a 16 ≠ none → s.perform c x sent .strand r = (s, .flt cUncorrectable r.ea)) ∧
  ((r.kind = .swarrive ∨ r.kind = .swwait) → s.win.firstBad a 16 = none → s.win.read a 16 / 2 ^ 97 % 2 ^ 31 ≠ 0 →
    s.perform c x sent .strand r = (s, .flt cIllegal r.ea)) ∧
  (r.kind = .swarrive → s.win.firstBad a 16 = none → s.win.read a 16 / 2 ^ 97 % 2 ^ 31 = 0 →
    goes (s.win.write a (swArrive (s.win.read a 16) r.data.toNat).1 16) (swArrive (s.win.read a 16) r.data.toNat).2 0) ∧
  (r.kind = .swwait → s.win.firstBad a 16 = none → s.win.read a 16 / 2 ^ 97 % 2 ^ 31 = 0 →
    let gen := s.win.read a 16 / 2 ^ 64 % 2 ^ 32
    s.perform c x sent .strand r = (s, if swAfter gen r.data.toNat then .ok gen 0 else .wait a))

/-- R6, R141: a store writes its bytes, the lowest first, and nothing else; every word that it touches becomes full, and the form
of the memory stays canonical. -/
def Obligations.StoresWriteTheirBytes : Prop := ∀ (m : Mem) (a v n : Nat), m.wf →
  (m.store a v n).wf ∧
  (∀ j, j < n → (m.store a v n).byte (a + j) = BitVec.ofNat 8 (v / 2 ^ (8 * j))) ∧
  (∀ b, (b < a ∨ a + n ≤ b) → (m.store a v n).byte b = m.byte b) ∧
  (∀ j, j < n → (m.store a v n).full (a + j) = true) ∧
  (∀ b, (b / 8 < a / 8 ∨ (a + n - 1) / 8 < b / 8) → (m.store a v n).full b = m.full b) ∧
  (m.store a v n).read a n = v % 2 ^ (8 * n)

/-- R149: the new values of the integer atomics, of `w`-bit operands taken as the type code says. R156: the arrival of `n` bytes
at a sync word with target `t`, count `c`, generation `g` and phase `p`; R157: when a waiter's generation lies behind. -/
def Obligations.AtomicAndSyncWordValues : Prop :=
  (∀ (ty m old b c : Nat), ty ∈ [0, 1, 2, 3, 4, 5, 6, 7] → old < 2 ^ tyBits ty → b < 2 ^ tyBits ty →
    c < 2 ^ tyBits ty →
    let val := fun x : Nat => if tySigned ty ∧ 2 ^ (tyBits ty - 1) ≤ x then (x : Int) - (2 ^ tyBits ty : Nat) else (x : Int)
    amoNew 0 ty m old b c = (if old + b < 2 ^ tyBits ty then old + b else old + b - 2 ^ tyBits ty, 0) ∧
    amoNew 1 ty m old b c = (old &&& b, 0) ∧
    amoNew 2 ty m old b c = (old ||| b, 0) ∧
    amoNew 3 ty m old b c = (old ^^^ b, 0) ∧
    amoNew 4 ty m old b c = (if val b < val old then b else old, 0) ∧
    amoNew 5 ty m old b c = (if val b < val old then old else b, 0) ∧
    amoNew 6 ty m old b c = (b, 0) ∧
    amoNew 7 ty m old b c = (if old = c then b else old, 0)) ∧
  (∀ t c g p n : Nat, t < 2 ^ 32 → c < 2 ^ 32 → g < 2 ^ 32 → p < 2 → n < 2 ^ 32 →
    let word := fun t c g p : Nat => t + c * 2 ^ 32 + g * 2 ^ 64 + p * 2 ^ 96
    (t ≠ 0 → swArrive (word t c g p) n =
      (word t ((c + n) % t) ((g + (c + n) / t) % 2 ^ 32) ((p + (c + n) / t) % 2), (g + (c + n) / t) % 2 ^ 32)) ∧
    (t = 0 → swArrive (word t c g p) n = (word 0 0 ((g + 1) % 2 ^ 32) (1 - p), (g + 1) % 2 ^ 32)) ∧
    (∀ b : Nat, b < 2 ^ 32 → (swAfter g b = true ↔ ∃ d, 1 ≤ d ∧ d < 2 ^ 31 ∧ g = (b + d) % 2 ^ 32)))

/-- Opcodes whose detached operations end by rules of their own: tile instructions, `tprog`, stream operations, `red.cfg` and
`spawn`. -/
def Sys2Proof.Machine.ownEnd (op : Nat) : Bool :=
  isTile op || [0x2D5, 0x330, 0x331, 0x320, 0x321, 0x322, 0x323, 0x325, 0x332, 0x334, 0x335, 0x3A0, 0x3C0, 0x3CC].contains op

/-- R33, R36: an operation that is complete fills its destinations and retires; one that has faulted is reported, and its
destinations stay empty. R48, R145: what a load that read `n` leaves in its register.
The model's readings and choices enter it by logs 34, 35. -/
def Obligations.DetachedOperationsEnd : Prop :=
  (∀ (s : State) (d : DetOp),
    let c := s.ev.core
    let x := s.ev.ctx
    s.det c x s.ev.op = some d → ownEnd d.op = false → d.due ≤ s.cycles → (s.ctx c x).pos = none →
    (d.st = .done → exec .detachedCompletion s = .next (s.endDet c x d (s.detVals c x d) d.flags)) ∧
    (∀ code a aux fx, d.st = .fault code a aux fx → exec .detachedCompletion s =
      .next ((s.failOp c x d code a aux fx).updCtx c x (fun k => k.unpark d.id s.cycles))) ∧
    (d.st = .done → ∀ r, d.dests = [r] → isFixed r = false → isShared r = false → d.op / 16 = 0x10 → ∃ t,
      exec .detachedCompletion s = .next t ∧ t.full c x r = true ∧ t.det c x s.ev.op = none ∧
      t.reg c x r = regVal r (s.memValue c x d)) ∧
    (∀ code a aux fx, d.st = .fault code a aux fx → ∃ t, exec .detachedCompletion s = .next t ∧ t.det c x s.ev.op = none ∧
      (∀ r, t.full c x r = s.full c x r) ∧ ∃ e ∈ (t.ctx c x).faults, e.code = code ∧ e.addr = a ∧ e.pc = d.pc ∧ e.iw = d.iw)) ∧
  (∀ (s : State) (c x : Nat) (d : DetOp) (n : Nat), d.vals = [(0, BitVec.ofNat 1024 n)] →
    let leaves := fun w : Nat => s.memValue c x d =
      BitVec.ofNat 1024 (if d.o % 2 = 1 ∧ 2 ^ (w - 1) ≤ n then 2 ^ 64 - 2 ^ w + n else n)
    (d.op = 0x100 → n < 2 ^ 8 → leaves 8) ∧
    (d.op = 0x101 → n < 2 ^ 16 → leaves 16) ∧
    (d.op = 0x102 → n < 2 ^ 32 → leaves 32) ∧
    (d.op = 0x103 → s.memValue c x d = BitVec.ofNat 1024 n) ∧
    (d.op = 0x104 → n < 2 ^ 32 → d.o % 2 = 1 → s.memValue c x d = BitVec.ofNat 1024 (2 ^ 64 - 2 ^ 32 + n)) ∧
    (d.op = 0x104 → d.o % 2 = 0 → s.memValue c x d = BitVec.ofNat 1024 n))

/-- R38, R39, R147: a notice parks the strand on an operation that is still pending; the value of a filled word ends the wait; a
withdrawal takes a waiter off its list, and its operation takes WAITLIMIT. R39, R144: a wait or a park longer than `wlimit` ends
in WAITLIMIT, or asks for a withdrawal; the fault of a posted operation is reported with what it captured.
The model's readings and choices enter it by log 44. -/
def Obligations.ParkedAndWaitingStrands : Prop :=
  (∀ (s : State) (p : Pkt) (c x op : Nat), IsNext s p →
    let t := s.dropPkt s.ev.k
    let mine := fun w : Waiter => w.core == c && w.ctx == x && w.op == op && w.kind != .park
    (p.body = .parkNotice c x op → ∃ u, exec .parkNotice s = .next u ∧ (u.ctx c x).st = (s.ctx c x).st ∧
      ∀ e ∈ (u.ctx c x).outst, e.id = op → e.st = .pending → e.parked = true) ∧
    (∀ lane v, p.body = .wake c x op lane v → exec .wakeupArrival s =
      .next ((t.updDet c x op (fun d => d.reply lane (v.setWidth 1024) 0)).updCtx c x (fun k => k.unpark op s.cycles))) ∧
    (∀ why, p.body = .withdraw c x op why → t.waiters.find? mine = none → exec .withdrawalAtHome s = .next t) ∧
    (∀ why w, p.body = .withdraw c x op why → t.waiters.find? mine = some w → why ≠ 1 →
      let u : State := { t with waiters := t.waiters.filter (fun w => !mine w), cur := c, cx := x }
      let v := u.updMe (fun k => { k with ipend := false })
      let fails := fun (u : State) (code : Nat) (a : Word) => u.updDet c x op (fun d =>
        ({ d with left := 0, st := .fault code a 0 0 } : DetOp).backBy (u.replyAt c w.r))
      (why ≠ 2 → u.ipiDue = false → exec .withdrawalAtHome s = .next (fails u cWaitLimit w.r.ea)) ∧
      ((why = 2 ∨ u.ipiDue = true) → exec .withdrawalAtHome s = .next (fails v cIpi 0)))) ∧
  (∀ s : State,
    let c := s.ev.core
    let x := s.ev.ctx
    let k := s.ctx c x
    let old : State := { s with cycles := s.cycles - 1 }
    let late := fun since : Nat => k.wlimit ≠ 0 ∧ since + k.wlimit.toNat ≤ old.cycles
    (∀ why since, k.st = .waiting why since → late since → why.limited = true →
      old.waitOver c x why = false → k.faults = [] → exec .waitLimitExpiry s = .next { old.waitTrap c x why with cycles := s.cycles }) ∧
    (∀ op since, k.st = .parked op since → late since →
      exec .waitLimitExpiry s = .next { old.askBack c x op 0 with cycles := s.cycles }) ∧
    (∀ d code a aux fx, k.posted.find? (fun d => d.id == s.ev.op) = some d → d.st = .fault code a aux fx → ∃ t,
      exec .postedFaultReport s = .next t ∧ (∀ e ∈ (t.ctx c x).posted, e.id ≠ s.ev.op) ∧
      ∃ e ∈ (t.ctx c x).faults, e.code = code ∧ e.addr = a ∧ e.pc = d.pc ∧ e.iw = d.iw ∧ e.post = true ∧ e.yret = d.yret)) ∧
  (∀ (s t : State) (c x : Nat) (k : Ctx) (d : DetOp),
    (s.ipiStep c x = none → s.overdueStep c x = none → s.limitEnd c x = some t →
      ({ s with cycles := s.cycles + 1 } : State).waitsEnd c x = { t with cycles := s.cycles + 1 }) ∧
    (k.outst.find? (fun d => d.parked && d.st == .pending) = some d → (k.st = .ready ∨ ∃ w n, k.st = .waiting w n) →
      s.ctxEnd c x k = { k with st := .parked d.id (s.cycles - 1) }))

/-! Parallel work (R25, R126, R249 to R273). -/

/-- A suspension that would carry one of the registers `regs` while it fails its check takes DATA-UNCORRECTABLE (R36, R377). -/
def Sys2Proof.Machine.CarriesSound (i : Instr) (ok : State → Prop) (regs : State → List Nat) : Prop :=
  ∀ sh s j, Issues i sh s → ok (s.begun sh) → (s.begun sh).badCarried (regs (s.begun sh)) = some j → exec i s =
    .next (((s.withIw sh).emptyDests sh).issueTrap (some sh) cUncorrectable (BitVec.ofNat 64 j) (s.bankSel j) 0)

/-- R255 to R260: `spawn` reads its record, `fork` pushes one at the young end as it retires or takes SPAWN-LIMIT, `join` sends its
record to the counter, `jinit` stores a counter, `exit` ends the strand and decrements its counter.
The model's readings and choices enter it by logs 9, 15, 69. -/
def Obligations.SpawnForkJoinExit : Prop := ∀ f : Fields,
  let a := fun s : State => s.gr f.a
  let b := fun s : State => s.gr f.b
  let off := fun s : State => (a s).toNat - clusBase
  let forked := fun s : State => mkRecord (branchTarget f s) (f.o.getLsbD 0) false (f.a != 0) s.me.hypCur.toNat
    (if f.a = 0 then 0 else off s % 2 ^ 23 / 8) (if f.a = 0 then 0 else off s / 2 ^ 23)
    (if f.d = 0 then [] else (List.range 6).map (fun j => (f.d.toNat + j, s.gReg (f.d.toNat + j)))) 0
  let after := fun s : State => s.pushAfter s.cur s.cx s.me.nextId
  let joinable := fun s : State => overMask (b s) 6 0 = false ∧ s.counterFault (a s) = none
  let carried := fun s : State => maskRegs (b s) 0
  let initial := fun s : State => (b s).toNat / 2 ^ 49 % 2 ^ 14 = 0 ∧ s.counterFault (a s) = none
  Accesses (.spawn f) a 64 false (fun _ => True) (fun s sh => s.detachReq (.spawn f) sh (s.reqOf .load (a s) 64) 0 false) ∧
  Does (.fork f) (fun s => f.a = 0 ∨ s.counterFault (a s) = none) (fun s sh => s.updMyCore (fun k => { k with
    retiring := k.retiring ++ [{ due := s.cycles + 8, ctx := s.cx, info := s.issueFaultInfo (some sh) 0 0 0 0
                                 act := .fork (forked s) { slot := 0, mt := s.me.mt.child, takeable := (after s).isEmpty, after := after s } }] })) ∧
  (f.a ≠ 0 → ∀ c b, Faults (.fork f) (fun s => s.counterFault (a s) = some (c, b)) c (fun _ => b)) ∧
  (∀ (s : State) (c : Nat) (p : Retiring) (rcd : Record) (ent : DqEnt), (s.core c).retiring = [p] → p.due ≤ s.cycles →
    p.act = .fork rcd ent →
    ((s.core c).deque.length < (s.core c).spawnLim.toNat → s.actsNow c =
      (s.updCore c (fun k => { k with retiring := [] })).pushRec c rcd ent true) ∧
    ((s.core c).spawnLim.toNat ≤ (s.core c).deque.length → ((s.actsNow c).core c).deque = (s.core c).deque ∧
      ∃ e ∈ ((s.actsNow c).ctx c p.ctx).faults, e.code = cSpawnLimit ∧ e.pc = p.info.pc ∧ e.iw = p.info.iw ∧ e.cyc = s.cycles - 1)) ∧
  Departs (.join f) (fun s => joinable s ∧ s.me.settled = true ∧ s.badCarried (carried s) = none) (fun s sh =>
    (s.send (8192 + s.cur) (s.homeOf (s.pidOf s.cur) (a s).toNat) (s.cycles + 40)
      (.join s.cur s.cx (a s) (s.susRecord (maskRegs (b s) 0)) s.me.mt)).updMe (fun k => { k with
        st := .waiting .atHome s.cycles, sent := some (s.issueFaultInfo (some sh) cIllegal (a s) 0 0, s.succ) })) ∧
  CarriesSound (.join f) (fun s => joinable s ∧ s.me.settled = true) carried ∧
  Awaits (.join f) (fun s => joinable s ∧ s.me.settled = false) (fun _ => .settle) ∧
  Faults (.join f) (fun s => overMask (b s) 6 0 = true) cIllegal (fun _ => 0) ∧
  Does (.jinit f) (fun s => initial s ∧ s.me.hypCur = 0 ∧ s.me.posted.length < 32)
    (fun s sh => s.postReq (.jinit f) sh { s.reqOf .store (a s) 8 with data := setFld (b s) 63 1 0 }) ∧
  Faults (.jinit f) (fun s => initial s ∧ s.me.hypCur ≠ 0) cPerm a ∧
  Departs .exit (fun s => s.me.outst = [] ∧ s.me.posted = []) (fun s _ => s.exitStrand s.cur s.cx true) ∧
  Awaits .exit (fun s => ¬(s.me.outst = [] ∧ s.me.posted = [])) (fun _ => .drain)

/-- R126, R261, R345: `yield` and a pre-empted `spt` push the strand at the old end and leave its context Free, `park` sends its
record to the word's home; a `yield` on a full deque and an `spt` that no request names go on.
The model's readings and choices enter it by logs 9, 15, 17, 69. -/
def Obligations.YieldParkSafePoint : Prop := ∀ f : Fields,
  let a := fun s : State => s.gr f.a
  let b := fun s : State => s.gr f.b
  let live := fun (s : State) (sh : Shape) => s.gr sh.f.b
  let room := fun s : State => s.myCore.deque.length < s.myCore.spawnLim.toNat
  let named := fun s : State => s.myCore.preempt = some s.cx
  let parks := fun s : State => overMask (b s) 6 0 = false ∧ s.parkFault (a s) = none
  let carried := fun s : State => maskRegs (b s) 0
  let saved := fun _ : State => sptG f.imm ++ sptRest f.imm
  let safe := fun s : State => s.updMe (fun k => { k with sinceSpt := 0 })
  Does .yield (fun s => ¬room s) (fun s _ => safe s) ∧
  (∀ sh s, Issues .yield sh s → room s → overMask (live s sh) 6 0 = false → s.me.settled = true →
    s.badCarried (maskRegs (live s sh) 0) = none →
    let u := s.begun sh
    exec .yield s = .next (s.leaves
      ((u.pushRec s.cur (u.susRecord (maskRegs (live s sh) 0)) { slot := 0, mt := s.me.mt } false).freeCtx s.cur s.cx))) ∧
  Departs (.park f) (fun s => parks s ∧ s.me.settled = true ∧ s.badCarried (carried s) = none) (fun s sh =>
    (s.send (8192 + s.cur) (s.trueHome (s.pidOf s.cur) s.me.asid.toNat (a s).toNat) (s.cycles + s.figure (s.myWho .strand) (a s).toNat false)
      (.parkRec s.cur s.cx { s.reqOf .ldfeKeep (a s) s.me.pc.toNat with data := a s, cmp := b s, lane := s.iw.toNat }
        (s.susRecord (maskRegs (b s) 0)) s.me.mt)).updMe (fun k => { k with
      st := .waiting .atHome s.cycles, sent := some (s.issueFaultInfo (some sh) 0 0 0 0, s.succ), sinceSpt := 0 })) ∧
  CarriesSound (.park f) (fun s => parks s ∧ s.me.settled = true) carried ∧
  Awaits (.park f) (fun s => parks s ∧ s.me.settled = false) (fun _ => .settle) ∧
  Does (.spt f) (fun s => ¬named s) (fun s _ => safe s) ∧
  CarriesSound (.spt f) (fun s => named s ∧ s.me.settled = true) saved ∧
  (∀ sh s t, Issues (.spt f) sh s → named s → s.me.settled = true → s.badCarried (saved s) = none → (s.begun sh).sptSave f.imm = some t →
    exec (.spt f) s = .next (s.leaves t)) ∧
  (∀ sh s, Issues (.spt f) sh s → named s → s.me.settled = true → s.badCarried (saved s) = none → (s.begun sh).sptSave f.imm = none →
    exec (.spt f) s = .next ((s.withIw sh).mySlot.takeOverdue 0)) ∧
  Awaits (.spt f) (fun s => named s ∧ s.me.settled = false) (fun _ => .settle)

/-- R263 to R265: `ld.m` loads in place what its own core, or no local memory, holds; otherwise the strand departs with the load
for the data's core; `mig` departs for the core it names, and does nothing for its own.
The model's readings and choices enter it by logs 9, 15, 69. -/
def Obligations.Migration : Prop := ∀ f : Fields,
  let ea := fun s : State => BitVec.ofInt 64 ((s.gr f.a).toNat + f.imm.toInt)
  let n := 2 ^ f.o.toNat
  let ok := fun s : State => s.accessFault (s.myWho .strand) (ea s) n n false = none
  let far := fun (s : State) (c : Nat) => ∃ w, spaceOf (ea s).toNat = .loc c w ∧ c ≠ s.cur ∧ w ≠ 3
  let d := f.d.toNat
  let m := fun s : State => s.gr f.b
  let dst := fun s : State => (s.gr f.a).toNat % 2 ^ 12
  let away := fun s : State => dst s ≠ s.cur ∧ overMask (m s) 8 0 = false ∧ s.unavail (dst s) = false ∧ s.inPart (s.pidOf s.cur) (dst s) = true
  let leaves := fun s : State => ok s ∧ (∃ c, far s c) ∧ overMask (m s) 8 d = false
  Does (.ldM f) (fun s => s.issueFault (s.myWho .strand) (ea s) n n false = none ∧ ¬∃ c, far s c)
    (fun s sh => s.detachReq (.ldM f) sh (s.reqOf .load (ea s) n) 0 false) ∧
  (∀ c b, Faults (.ldM f) (fun s => s.issueFault (s.myWho .strand) (ea s) n n false = some (c, b) ∧ ¬∃ c, far s c) c (fun _ => b)) ∧
  (∀ c b, Faults (.ldM f) (fun s => s.accessFault (s.myWho .strand) (ea s) n n false = some (c, b)) c (fun _ => b)) ∧
  (∀ c, Departs (.ldM f) (fun s => leaves s ∧ far s c ∧ s.me.settled = true ∧ s.badCarried (maskRegs (m s) d) = none)
    (fun s sh => s.leaveFor sh c 0 (ea s) d f.o.toNat (maskRegs (m s) d)
      (some { code := 0, pc := s.me.pc, iw := s.iw, caps := s.capture sh }))) ∧
  Faults (.ldM f) (fun s => ok s ∧ (∃ c, far s c) ∧ overMask (m s) 8 d = true) cIllegal (fun _ => 0) ∧
  CarriesSound (.ldM f) (fun s => leaves s ∧ s.me.settled = true) (fun s => maskRegs (m s) d) ∧
  Awaits (.ldM f) (fun s => leaves s ∧ s.me.settled = false) (fun _ => .settle) ∧
  Does (.mig f) (fun s => dst s = s.cur) (fun s _ => s) ∧
  CarriesSound (.mig f) (fun s => away s ∧ s.me.settled = true) (fun s => maskRegs (m s) 0) ∧
  Departs (.mig f) (fun s => away s ∧ s.me.settled = true ∧ s.badCarried (maskRegs (m s) 0) = none) (fun s sh => s.leaveFor sh (dst s) 1 0 0 0 (maskRegs (m s) 0) none) ∧
  Awaits (.mig f) (fun s => away s ∧ s.me.settled = false) (fun _ => .settle)

/-- R250 to R252, R344: at a core with a Free context, a Held arrival binds before the youngest takeable entry of the deque, one in a
ck, after a met pre-emption request one of the highest priority; a thief takes the oldest entry of the neighbour that it probes; a pushed entry becomes takeable once the stores before it
are performed. R263, R309: the earliest arrival becomes Held while the sorus has room and nothing is Spilled, otherwise Spilled;
its sender leaves; the oldest Spilled one becomes Held; an arrival that its sender's limit overtakes turns back.
The model's readings and choices enter it by logs 16, 37, 44, 72. -/
def Obligations.BindingStealingAndArrivals : Prop :=
  (∀ (s : State) (x : Nat),
    let c := s.ev.core
    let co := s.core c
    let bound := s.updCore c (fun k => { k with boundIn := s.cycles + 1, probe := 0, preemptMet := false })
    let held := co.sorus.filter (s.sorBindable c)
    let young := co.deque.reverse.filter (·.takeable)
    let first := fun p : Nat => co.preemptMet = true → (∀ e ∈ held, e.mt.prio ≤ p) ∧ ∀ e ∈ young, e.mt.prio ≤ p
    let may := co.unavailable = false ∧ co.boundIn ≠ s.cycles + 1 ∧ s.freeContext c = some x
    (may → ∀ l e r, held = l ++ e :: r → first e.mt.prio → (∀ d ∈ l, ¬first d.mt.prio) →
      exec .contextBind s = .next (bound.bindSor c x e)) ∧
    (may → (∀ d ∈ held, ¬first d.mt.prio) → s.portUsed c = false → ∀ l e r, young = l ++ e :: r → first e.mt.prio →
      (∀ d ∈ l, ¬first d.mt.prio) → exec .contextBind s = .next ((bound.updCore c (fun k => { k with
        deque := k.deque.filter (fun d => d.slot != e.slot), portAt := s.cycles + 1 })).bindEntry c x (s.dqRecord c e.slot)
        (e.ra.getD (bufAddr c 3 + 64 * e.slot)) e.mt e.launchEntry)) ∧
    (may → co.sorus = [] → co.deque = [] → ∀ v e, neighbour c co.probe = some v → (s.core v).deque.head? = some e →
      (s.core v).unavailable = false → e.takeable = true → s.stealOk e.mt.dom c v = true →
      (s.portUsed v || s.ownerPops v → exec .stealProbe s = .next s) ∧
      (s.portUsed v = false → s.ownerPops v = false → exec .stealProbe s = .next
        (((s.updCore v (fun k => { k with deque := k.deque.filter (fun d => d.slot != e.slot), portAt := s.cycles + 1 })).updCore c
          (fun k => { k with boundIn := s.cycles + 1, probe := 0 })).bindEntry c x (s.dqRecord v e.slot)
          (e.ra.getD (bufAddr v 3 + 64 * e.slot)) e.mt e.launchEntry))) ∧
    (∀ e, nth co.deque s.ev.i = some e → e.takeable = false → e.after.all s.opOver = true → s.oweOver e = true →
      exec .dequeEntryTakeable s = .next (s.updCore c (fun k => { k with
        deque := updNth (fun d => { d with takeable := true, after := [], owe := none }) k.deque s.ev.i }))) ∧
    (∀ e, nth co.deque s.ev.i = some e → e.after.all s.opOver = false ∨ s.oweOver e = false → exec .dequeEntryTakeable s = .next s)) ∧
  (∀ (s : State) (o : Offer),
    let c := s.ev.core
    let co := s.core c
    let e : SorEnt := { slot := 0, mt := o.mt, held := o.held, ra := o.ra }
    let gone := (s.updCore c (fun k => { k with offers := k.offers.erase o })).senderLeaves o
    let first := s.refillDue c = false ∧ s.sorusBinds c = false ∧ nextOffer s.cycles co.offers = some o
    (first → co.sorus.length < co.sorusDepth.toNat → co.spilled = [] →
      exec .sorusArrival s = .next (gone.holdPkt c o.pkt e)) ∧
    (first → (co.sorusDepth.toNat ≤ co.sorus.length ∨ co.spilled ≠ []) →
      co.spilled.length < co.spillCap.toNat → ∀ n, (List.range co.spillCap.toNat).find? (fun n => co.spilled.all (fun d => d.slot != n)) = some n →
      exec .sorusArrival s = .next ((gone.winStore (gone.spillAddr c n) o.pkt.toNat 96).updCore c (fun k => { k with
        spilled := k.spilled ++ [{ e with slot := n, ready := s.cycles + 40 }] }))) ∧
    (first → (co.sorusDepth.toNat ≤ co.sorus.length ∨ co.spilled ≠ []) →
      co.spillCap.toNat ≤ co.spilled.length → exec .sorusArrival s = .next s) ∧
    (∀ d rest, co.spilled = d :: rest → co.refill = none → d.ready ≤ s.cycles → co.sorus.length < co.sorusDepth.toNat →
      exec .sorusRefill s = .next (s.updCore c (fun k => { k with refill := some (s.cycles + 40) }))) ∧
    (∀ d rest t, co.spilled = d :: rest → co.refill = some t → t ≤ s.cycles → exec .sorusRefill s =
      .next ((s.updCore c (fun k => { k with spilled := rest, refill := none })).holdPkt c
        (BitVec.ofNat 768 (s.win.read (s.spillAddr c d.slot) 96)) d)) ∧
    (∀ x, nth co.offers s.ev.i = some o → o.sender = some x → (s.ctx o.src x).wlimit ≠ 0 →
      o.since + (s.ctx o.src x).wlimit.toNat < s.cycles → exec .sorusOfferExpiry s =
      .next { ({ s with cycles := s.cycles - 1 }.updCore c (fun k => { k with offers := delNth k.offers s.ev.i })).sentFault o.src x cWaitLimit
        (o.pkt.extractLsb' 64 64) 0 with cycles := s.cycles }))

/-- R259, R260: a join counter at its home. The last join goes on; an earlier one leaves its record; the last decrement sends
the record that waits. R261: the record of a `park` at the word's home.
The model's readings and choices enter it by logs 9, 18, 37. -/
def Obligations.JoinCountersAndParkedRecords : Prop :=
  (∀ (s : State) (p : Pkt) (c x : Nat) (a : Word) (rcd : Record) (m : Meta),
    let t := s.dropPkt s.ev.k
    let w := s.win.read a.toNat 8
    let n := w % 2 ^ 32
    let armed := w / 2 ^ 63 % 2 = 1
    let slot := a.toNat / 2 ^ 23 * 2 ^ 23 + 64 * (w / 2 ^ 32 % 2 ^ 17)
    nth s.net s.ev.k = some p → s.counterTurn s.ev.k = true → s.win.isBad a.toNat = false → w < 2 ^ 64 →
    (p.body = .join c x a rcd m →
      (n = 0 → exec .joinAtCounter s = .next (t.sentFault c x cIllegal a 0)) ∧
      (n = 1 → exec .joinAtCounter s = .next ((t.putCounter a.toNat (w - 1)).goOn c x)) ∧
      (1 < n → ∃ u, exec .joinAtCounter s = .next u ∧ (u.ctx c x).st = .free ∧
        u.win = (s.win.store slot rcd.toNat 64).write a.toNat ((w - 1) % 2 ^ 63 + 2 ^ 63) 8 ∧ mget none u.joinMeta a.toNat = some m)) ∧
    (p.body = .decrement c a m →
      (n = 0 → exec .joinDecrement s = .next t) ∧
      (n = 1 → armed → ∃ u, exec .joinDecrement s = .next u ∧
        u.win = s.win.write a.toNat (w - 1 - 2 ^ 63) 8 ∧ (u.core c).offers = (s.core c).offers ++
          [{ src := c, pkt := kind3 (BitVec.ofNat 512 (s.win.read slot 64)), mt := (mget none s.joinMeta a.toNat).getD m,
             since := s.cycles + 24, ra := slot }]) ∧
      (1 < n ∨ (n = 1 ∧ ¬armed) → exec .joinDecrement s = .next (t.putCounter a.toNat (w - 1))))) ∧
  (∀ (s t : State) (p : Pkt) (c x : Nat) (r : MemReq) (rcd : Record) (m : Meta), IsNext s p →
    p.body = .parkRec c x r rcd m →
    (∀ v fl, performFe (s.dropPkt s.ev.k) (r.who c .strand) r = (t, .ok v fl) → exec .parkRecordAtHome s =
      .next ((t.offer c { src := c, pkt := kind3 rcd, mt := m, since := t.cycles + 24 }).freeCtx c x)) ∧
    (∀ code a, performFe (s.dropPkt s.ev.k) (r.who c .strand) r = (t, .flt code a) → exec .parkRecordAtHome s =
      .next (t.sentFault c x code a 0)) ∧
    (∀ loc, performFe (s.dropPkt s.ev.k) (r.who c .strand) r = (t, .wait loc) → exec .parkRecordAtHome s = .next (({ t with
      waiters := t.waiters ++ [{ loc, kind := .park, core := c, ctx := x, op := 0, r, rcd, mt := m }] } : State).freeCtx c x)))

/-- R268 to R272: binding to a position, its publication, the search around it, and the host core of a position. R273: a cell
above its split limit gives half of itself to a standby core, and its strands there depart as their next instruction retires; the split
ends when they have.
The model's readings and choices enter it by logs 9, 15, 19. -/
def Obligations.PositionBoundStrands : Prop :=
  (∀ f : Fields,
    let p := fun s : State => s.gr f.a
    let crd := f.a.toNat
    let host := fun s : State => s.cellCore (s.pidOf s.cur) (p s)
    let own := fun s : State => s.updMyCore (fun k => k.unpublish s.cx)
    let bind := fun (s : State) (away : Bool) => ((own s).unpublishMoved s.cur s.cx).updMe (fun k => { k with pos := some {
      crd, tag := (s.gr f.d).setWidth 32, departing := away, depth := k.trapDepth
      live := BitVec.ofNat 64 ((maskRegs (s.gr f.b) crd).foldl (fun n j => n + 2 ^ j) 0) } })
    let r := fun s : State => (s.gr f.b).toNat % 2 ^ 22
    let coordinate := fun s : State => (s.me.pos.map (·.crd)).toList
    Does (.pbind f) (fun s => host s = some s.cur)
      (fun s _ => (bind s false).updMyCore (fun k => { k with postab := k.postab ++ [{ tag := (s.gr f.d).setWidth 32, pos := p s, ctx := s.cx }] })) ∧
    (∀ c, Does (.pbind f) (fun s => overMask (s.gr f.b) 7 crd = false ∧ host s = some c ∧ c ≠ s.cur) (fun s _ => bind s true)) ∧
    (∀ c, Faults (.pbind f) (fun s => overMask (s.gr f.b) 7 crd = true ∧ host s = some c ∧ c ≠ s.cur) cIllegal (fun _ => 0)) ∧
    Faults (.pbind f) (fun s => host s = none) cWindow p ∧
    Does .punbind (fun _ => True) (fun s _ => (own s).updMe (fun k => { k with pos := none })) ∧
    (∀ b, Does .ppub (fun s => s.me.pos = some b ∧ s.full s.cur s.cx b.crd = true ∧ s.badCarried [b.crd] = none ∧ s.me.posted.length < 32)
      (fun s sh => (s.postOp .ppub sh 1 false).send (2 ^ 17 + 16 * s.cur + s.cx) (8192 + s.cur) (s.cycles + 8)
        (.mem s.cur s.cx s.me.nextId { s.reqOf .ppub 0 8 with data := s.gReg b.crd, posted := true }))) ∧
    (∀ b, Awaits .ppub (fun s => s.me.pos = some b ∧ s.full s.cur s.cx b.crd = false) (fun _ => .reg b.crd)) ∧
    CarriesSound .ppub (fun s => (s.me.pos.map (fun b => s.full s.cur s.cx b.crd)) = some true) coordinate ∧
    (∀ (s : State) (c x sent : Nat) (r : MemReq), r.kind = .ppub → r.ea = 0 → s.perform c x sent .strand r =
      (s.updCore c (fun k => { k with postab := k.postab.map (fun e => if e.ctx = x then { e with pos := r.data } else e) }), .ok 0 0)) ∧
    Faults .ppub (fun s => s.me.pos = none) cIllegal (fun _ => 0) ∧
    (∀ b m, Does (.nbr f) (fun s => s.me.pos = some b ∧ (s.part (s.pidOf s.cur)).bind (·.cells) = some m ∧ (p s).toNat % 16 = 0 ∧
        s.full s.cur s.cx b.crd = true ∧ s.badCarried [b.crd] = none)
      (fun s sh => s.detach (.nbr f) sh (fun d => { d with
        acq := true, tabs := haloCores m s.cur, snap := [(0, (s.gReg b.crd).toNat)], due := s.cycles + 24
        prog := if m.halo < r s then 2 ^ 62 else 0 }))) ∧
    (∀ b m, Faults (.nbr f) (fun s => s.me.pos = some b ∧ (s.part (s.pidOf s.cur)).bind (·.cells) = some m ∧ (p s).toNat % 16 ≠ 0)
      cAlign p) ∧
    Does (.cellq f) (fun _ => True)
      (fun s _ => s.wrG f.d (match host s with | some c => BitVec.ofNat 64 c | none => BitVec.ofNat 64 0xFFFFFFFFFFFFFFFF))) ∧
  (∀ (s : State) (d : DetOp) (k : Nat) (l : List Nat),
    let c := s.ev.core
    let x := s.ev.ctx
    let at_ := BitVec.ofNat 64 ((d.snap.head?.map (·.2)).getD 0)
    let r := d.caps.o2.toNat % 2 ^ 22
    let found := d.found ++ s.nbrTable c x k at_ r
    let n := min found.length (min (d.caps.o3.toNat % 2 ^ 64) 65535)
    s.det c x s.ev.op = some d → d.op = 0x3CC → d.st = .pending → d.due ≤ s.cycles → d.tabs = k :: l →
    exec .detachedCompletion s = .next (s.updDet c x d.id (fun e => { e with
      tabs := l, found, st := if l = [] ∧ n = 0 then .done else .pending
      prog := if l = [] then found.length % 2 ^ 32 + n * 2 ^ 32 + e.prog else e.prog })) ∧
    ∀ e, e ∈ s.nbrTable c x k at_ r ↔ e.1 = k ∧ e.2 ∈ (s.core k).postab ∧ ¬(k = c ∧ e.2.ctx = x) ∧ e.2.ctx ≠ movedCtx c x ∧
      dist2 e.2.pos at_ ≤ (r * r : Nat)) ∧
  (∀ (s : State) (p : Part) (m : CellMap) (cell : Cell) (new : Nat),
    let pid := s.ev.pid
    let c := s.ev.core
    let k := (cutOf cell).1
    let cut := (cutOf cell).2.1
    let upper : Cell := { core := new, lo := withCoord cell.lo k cut, hi := cell.hi }
    s.part pid = some p → p.cells = some m →
    (p.splitting = false → m.cells.find? (fun e => e.core == c) = some cell → standbyFor m c = some new →
      m.split < (s.core c).postab.length → 1 < (cutOf cell).2.2 → ∃ t q, exec .cellSplit s = .next t ∧ t.part pid = some q ∧
      q.splitting = true ∧ q.cells = some { m with
        cells := (m.cells.map (fun e => if e.core = c then { cell with hi := withCoord cell.hi k cut } else e)) ++ [upper]
        standby := m.standby.filter (· != new) } ∧
      (∀ e ∈ (s.core c).postab, inCell upper e.pos = true → e.ctx < 16 → ((t.ctx c e.ctx).pos.map (·.moved)) =
        (s.ctx c e.ctx).pos.map (fun _ => true))) ∧
    (∀ (sh : Shape) (b : PosBind), s.me.pos = some b → b.moved = true → sh.det = false → ∃ e, (s.posMove sh).me.pos = some e ∧
      e.departing = true ∧ e.moved = false ∧ e.crd = b.crd) ∧
    (p.splitting = true → s.cores.all (fun e => !s.inPart pid e.1 || e.2.postab.all (fun x => decide (x.ctx < 16))) = true →
      exec .cellSplit s = .next (s.updPart pid (fun p => { p with splitting := false }))))

/-! Special registers, queues, handles, bit streams (R52 to R56, R127, R158 to R160, R238, R245 to R248, R320 to R323). -/

/-- R54, R127, R321: the fault of an access to special register `n`, if any. -/
def Sys2Proof.Machine.srStops (s : State) (n : Nat) : Option Nat :=
  if srAssigned n = false then some cIllegal
  else if (0x100 ≤ n ∧ s.me.lvl = 0) ∨ (n = 0x102 ∧ s.me.lvl.toNat < 2) then some cPriv else none

/-- R54, R56, R127, R320 to R323: reads and writes of special registers, with the faults and waits of each kind.
The model's readings and choices enter it by logs 5, 21, 52, 71. -/
def Obligations.SpecialRegisterAccesses : Prop := ∀ f : Fields,
  let n := fld f.imm 0 10
  let a := fun s : State => s.gr f.a
  let busy := fun s : State => n = 0x006 ∧ s.me.outst.any (fun d => isTile d.op) = true
  let unsound := fun s : State => n = 0x006 ∧ s.me.badTile.getLsbD 0 = true
  let form := fun (i : Instr) (ok : Shape → State → Word → Prop) (e : Shape → State → Word → State) => ∀ sh s, Issues i sh s →
    srStops s (fld sh.f.imm 0 10) = none → ok sh (s.begun sh) (s.gr sh.f.a) →
    exec i s = .next ((e sh (s.begun sh) (s.gr sh.f.a)).goesTo s.succ)
  let stops := fun (i : Instr) (ok : State → Word → Prop) (c : Nat) (b : State → Word → Word) => ∀ sh s, Issues i sh s →
    srStops s (fld sh.f.imm 0 10) = none → ok (s.begun sh) (s.gr sh.f.a) →
    exec i s = .next (((s.withIw sh).emptyDests sh).issueTrap (some sh) c (b (s.begun sh) (s.gr sh.f.a)) 0 0)
  let write := fun (sh : Shape) (s : State) (v : Word) => s.srWrite s.cur s.cx (fld sh.f.imm 0 10) v
  let asid := fun (s : State) (lo : Nat) (v : Word) => s.allotted (s.pidOf s.cur) (v.toNat / 2 ^ lo % 2 ^ 10)
  let spill := fun v : Word => v.toNat / 2 ^ 5 % 2 ^ 18 * 32 + 96 * (v.toNat / 2 ^ 32 % 2 ^ 13)
  let idle := fun s : State => ((s.part (s.pidOf s.cur)).map (·.resolves.isEmpty)).getD true
  Does (.rdsr f) (fun s => srStops s n = none ∧ ¬busy s ∧ ¬unsound s) (fun s _ => s.wrG f.d (s.sr s.cur s.cx n)) ∧
  (∀ sh s, Issues (.rdsr f) sh s → srStops s n = none → ¬busy s → unsound s → exec (.rdsr f) s =
    .next (((s.withIw sh).emptyDests sh).issueTrap (some sh) cUncorrectable 0 (s.bankSel 0x1006) 0)) ∧
  Awaits (.rdsr f) (fun s => srStops s n = none ∧ busy s) (fun _ => .tiles) ∧
  (∀ c, Faults (.rdsr f) (fun s => srStops s n = some c) c (fun _ => 0)) ∧
  Does (.wrsr f) (fun s => srStops s n = none) (fun s _ => s.srWrite s.cur s.cx n (a s)) ∧
  (∀ (s : State) (sh : Shape) (c : Nat), (Instr.wrsr f).shape s.flds = some sh → (s.me.st = .ready ∨ ∃ w n, s.me.st = .waiting w n) →
    s.gate sh = .go → legalHere s.cx sh.op = true → s.me.rett = none → srStops s n = some c →
    exec (.wrsr f) s = .next (((s.withIw sh).emptyDests sh).issueTrap (some sh) c 0 0 0)) ∧
  form .wrsrKipi (fun _ _ _ => True) write ∧
  form .wrsrKvec (fun _ _ v => targetOk v) write ∧
  stops .wrsrKvec (fun _ v => ¬targetOk v) cAlign (fun _ _ => 0) ∧
  form .wrsrPart (fun _ s v => asid s 16 v = true) write ∧
  stops .wrsrPart (fun s v => asid s 16 v = false) cPerm (fun _ v => BitVec.ofNat 64 (v.toNat / 2 ^ 16 % 2 ^ 10)) ∧
  form .wrsrSpill (fun _ s v => spill v ≤ 2 ^ 23 ∧ s.myCore.spilled = []) write ∧
  stops .wrsrSpill (fun _ v => 2 ^ 23 < spill v) cWindow (fun s _ => BitVec.ofNat 64 (clusBase + (clusterOf s.cur + 1) * 2 ^ 23)) ∧
  form .wrsrHypRst (fun _ s v => asid s 0 v = true ∧ idle s = true) (fun _ s v => s.dropHyp (s.pidOf s.cur) (v.toNat % 2 ^ 10)) ∧
  stops .wrsrHypRst (fun s v => asid s 0 v = false) cPerm (fun _ v => BitVec.ofNat 64 (v.toNat % 2 ^ 10))

/-- R54, R56, R320, R321: what a special register of a context reads after a write of `v`, and what the identity registers read.
The model's readings and choices enter it by log 42. -/
def Obligations.SpecialRegisterValues : Prop := ∀ (s : State) (c x : Nat) (v : Word),
  let after := fun n : Nat => (s.srWrite c x n v).sr c x n
  let low := fun k : Nat => BitVec.ofNat 64 (v.toNat % 2 ^ k)
  let write := fun n : Nat => ({ due := s.cycles + 8, ctx := x, code := 0x1000 + n, val := some v } : Late)
  let shown := fun n : Nat => (s.updCore c (fun k => k.applyLate (write n))).sr c x n
  after 0x003 = low 32 ∧
  after 0x004 = low 7 ∧
  shown 0x005 = low 5 ∧
  shown 0x006 = low 17 ∧
  after 0x007 = BitVec.ofNat 64 (v.toNat % 2 ^ 52 / 2 ^ 4 * 2 ^ 4) ∧
  after 0x103 = BitVec.ofNat 64 (v.toNat % 2 ^ 52 / 2 ^ 11 * 2 ^ 11) ∧
  shown 0x104 = s.sr c x 0x104 &&& ~~~v ∧
  after 0x105 = v ∧
  ((s.srWrite c x 0x110 v).ctx c x).asid.toNat = v.toNat / 2 ^ 16 % 2 ^ 10 ∧
  s.sr c x 0x000 = BitVec.ofNat 64 x ∧
  s.sr c x 0x001 = BitVec.ofNat 64 (c + 2 ^ 12 * gridX c + 2 ^ 18 * gridY c) ∧
  s.sr c x 0x002 = BitVec.ofNat 64 s.cycles ∧
  (∀ n ∈ [0x005, 0x006, 0x008, 0x009, 0x00C, 0x101, 0x102, 0x104, 0x111], (s.srWrite c x n v).sr c x n = s.sr c x n ∧
    (s.srWrite c x n v).core c = { s.core c with late := (s.core c).late ++ [write n] })

/-- R52, R158 to R160: binding a queue register, and `qmov` from, to and between queues; a push fills its place as it retires. R238, R239:
buffer handles: the wait for a state, the legal changes, made at retirement, and what `hstat` reads. R378: an element that fails its check.
The model's readings and choices enter it by logs 14, 53, 76. -/
def Obligations.QueuesAndBufferHandles : Prop :=
  (∀ f : Fields,
    let d := f.d.toNat
    let a := f.a.toNat
    let desc := fun s : State => (s.gr f.a).toNat
    let good := fun s : State => desc s / 2 ^ 8 = 0 ∧ desc s % 16 ≠ 15 ∧ desc s % 16 ≠ s.cx
    let holds := fun (s : State) (v : Word) (t : State) => s.qRole a false = true ∧ s.qPop a = some (v, t)
    let bad := fun s : State => s.myCore.badHead (s.qKey a) 1
    let pops := fun (s : State) (v : Word) (t : State) => holds s v t ∧ bad s = false
    let past := fun s t : State => t.updMyCore (fun k => k.badPast (s.qKey a) 1)
    Does (.qbind f) good (fun s _ => (s.updMyCore (fun k => k.unbind s.cx d)).updMe (fun k => { k with
      chans := mset none k.chans d (some (s.gr f.a)) })) ∧
    Faults (.qbind f) (fun s => ¬good s) cIllegal (fun _ => 0) ∧
    (∀ sh s, Issues .qbindOff sh s → exec .qbindOff s =
      .next (((s.begun sh).updMyCore (fun k => k.unbind s.cx sh.f.d.toNat)).goesTo s.succ)) ∧
    (f.o = 0 → Does (.qmov f) (fun s => s.qRole d true = true ∧ s.qWait d (s.gr f.a) = none)
        (fun s sh => s.atRetire sh (.push d (s.gr f.a))) ∧
      (∀ w, Awaits (.qmov f) (fun s => s.qRole d true = true ∧ s.qWait d (s.gr f.a) = some w) (fun _ => w)) ∧
      Faults (.qmov f) (fun s => s.qRole d true = false) cIllegal (fun _ => 0)) ∧
    (f.o ≠ 0 → Faults (.qmov f) (fun s => s.qRole a false = false) cIllegal (fun _ => 0) ∧
      Awaits (.qmov f) (fun s => s.qRole a false = true ∧ s.qPop a = none) (fun _ => .queue a)) ∧
    (f.o = 1 → ∀ sh s v t, Issues (.qmov f) sh s → pops (s.begun sh) v t →
      exec (.qmov f) s = .next (((past (s.begun sh) t).wrG f.d v).goesTo s.succ)) ∧
    (f.o ≠ 0 → f.o ≠ 1 → ∀ sh s v t, Issues (.qmov f) sh s → pops (s.begun sh) v t → s.qRole d true = true →
      (s.begun sh).qWait d v = none → exec (.qmov f) s = .next (((past (s.begun sh) t).atRetire sh (.push d v)).goesTo s.succ)) ∧
    (f.o ≠ 0 → f.o ≠ 1 → ∀ sh s v t, Issues (.qmov f) sh s → pops (s.begun sh) v t → s.qRole d true = false →
      exec (.qmov f) s = .next ((s.withIw sh).popFault (past (s.begun sh) t) sh v cIllegal 0)) ∧
    (f.o ≠ 0 → ∀ sh s v t, Issues (.qmov f) sh s → holds (s.begun sh) v t → bad (s.begun sh) = true → exec (.qmov f) s =
      .next ((s.withIw sh).popFault { past (s.begun sh) t with fresh := s.fresh + 1 } sh (Config.freeWord s.fresh) cUncorrectable
        (BitVec.ofNat 64 (0xA0 + a))))) ∧
  (∀ f : Fields,
    let h := fun s : State => (s.gr f.a).toNat % 2 ^ 6
    let word := fun s : State => s.hdl s.cur (h s)
    let st := fun s : State => word s % 4
    let engine := fun s : State => word s / 4 % 2 = 1
    let o := f.o.toNat
    let next := fun s : State => (st s + 1) % 4 = o
    let stored := fun s : State => MayPass s 2 true true
    Does (.hwait f) (fun s => st s = o) (fun s _ => s) ∧
    Awaits (.hwait f) (fun s => st s ≠ o) (fun s => .handle (h s) o) ∧
    Does (.hset f) (fun s => stored s ∧ ¬engine s ∧ (st s = o ∨ next s)) (fun s sh => (s.seenBy 2).atRetire sh (.handle (h s) o false)) ∧
    Faults (.hset f) (fun s => stored s ∧ (engine s ∨ (st s ≠ o ∧ ¬next s))) cHandle (fun s => BitVec.ofNat 64 (h s)) ∧
    Awaits (.hset f) (fun s => ¬stored s) (fun _ => passWait 2 true true) ∧
    Does (.hfree f) (fun s => ¬engine s) (fun s sh => s.atRetire sh (.handle (h s) 0 true)) ∧
    Faults (.hfree f) engine cHandle (fun s => BitVec.ofNat 64 (h s)) ∧
    Does (.hstat f) (fun _ => True) (fun s _ => s.wrG f.d (BitVec.ofNat 64 (word s % 2 ^ 40)))) ∧
  (∀ (s : State) (c : Nat) (p : Retiring), (s.core c).retiring = [p] → p.due ≤ s.cycles →
    let t := s.updCore c (fun k => { k with retiring := [] })
    (∀ q v, p.act = .push q v → s.actsNow c = { ({ t with cur := c, cx := p.ctx } : State).qPush q v with cur := s.cur, cx := s.cx }) ∧
    (∀ h o free, p.act = .handle h o free →
      let word := s.hdl c h
      let st := word % 4
      let engine := word / 4 % 2 = 1
      let count := word / 2 ^ 8 % 2 ^ 32
      (¬engine → free = false → st = o → s.actsNow c = t.putHdl c h word) ∧
      (¬engine → free = false → st ≠ o → (st + 1) % 4 = o → s.actsNow c = t.putHdl c h (o + (if o = 1 then 0 else count) * 2 ^ 8)) ∧
      (¬engine → free = true → s.actsNow c = t.putHdl c h (o + count * 2 ^ 8)) ∧
      (engine ∨ (free = false ∧ st ≠ o ∧ (st + 1) % 4 ≠ o) → (s.actsNow c).hdl c h = word ∧
        ∃ e ∈ ((s.actsNow c).ctx c p.ctx).faults, e.code = cHandle ∧ e.addr = BitVec.ofNat 64 h)))

/-- R246 to R248: the bit streams of context 15; R378: a word of the queue that fails its check.
The model's readings and choices enter it by logs 47, 76. -/
def Obligations.BitStreams : Prop := ∀ f : Fields,
  let n := fun s : State => if f.o.getLsbD 0 then f.imm.toNat % 2 ^ 7 else (s.gr f.b).toNat % 2 ^ 7
  let there := fun (s : State) (k : Nat) => k ≤ s.myCore.bitsIn ∧ s.myCore.bitsBad k = false
  let few := fun (s : State) (k : Nat) => s.myCore.bitsIn < k
  let stops := fun (i : Instr) (ok : State → Nat → Prop) => ∀ sh s k, Issues i sh s → ok (s.begun sh) k → k ≤ s.myCore.bitsIn →
    s.myCore.bitsBad k = true → exec i s = .next (((s.withIw sh).emptyDests sh).issueTrap (some sh) cUncorrectable 0xA6 (s.bankSel 0xA6) 0)
  let room := fun (s : State) (k : Nat) => s.myCore.wrLen + k < 64 ∨ s.myCore.qout.length < 16
  let eats := fun (s : State) (k : Nat) => s.eat k
  let puts := fun (s : State) (k v : Nat) => s.updMyCore (fun c => c.putBits k v)
  let bits := fun s : State => BitVec.ofNat 64 (s.myCore.peekBits (n s))
  let toByte := fun k : BitVec 3 => (8 - k.toNat) % 8
  let a := fun s : State => s.gr f.a
  let table := fun (s : State) (h : Nat) => s.issueFault (s.myWho .strand) (a s) 8 8 false = none ∧
    spaceOf (a s).toNat = .loc s.cur 0 ∧ s.pathClear s.cur = true ∧ ∃ t, s.readAt (s.myWho .strand) (a s).toNat 8 3 = (t, .ok h)
  let entry := fun (s : State) (h e : Nat) => ∃ t, s.readChecked (s.myWho .strand)
    (BitVec.ofNat 64 ((a s).toNat + 8 + 4 * s.myCore.peekBits h)) 4 4 3 = (t, .ok e)
  let length := fun e : Nat => e / 2 ^ 16 % 2 ^ 5
  Does (.bsGet f) (fun s => n s ≤ 64 ∧ there s (n s)) (fun s _ => (eats s (n s)).wrG f.d (bits s)) ∧
  Awaits (.bsGet f) (fun s => n s ≤ 64 ∧ few s (n s)) (fun s => .bits (n s) false) ∧
  stops (.bsGet f) (fun s k => k = n s ∧ k ≤ 64) ∧
  stops (.bsPeek f) (fun s k => k = n s ∧ k ≤ 64) ∧
  stops (.bsDec f) (fun s k => table s k ∧ 1 ≤ k ∧ k ≤ 12) ∧
  (f.o = 0 → stops (.bsAlign f) (fun s k => k = toByte s.myCore.rdCount)) ∧
  Faults (.bsGet f) (fun s => 64 < n s) cIllegal (fun _ => 0) ∧
  Does (.bsPeek f) (fun s => n s ≤ 64 ∧ there s (n s)) (fun s _ => s.wrG f.d (bits s)) ∧
  Does (.bsPut f) (fun s => n s ≤ 64 ∧ room s (n s)) (fun s _ => puts s (n s) (a s).toNat) ∧
  Awaits (.bsPut f) (fun s => n s ≤ 64 ∧ ¬room s (n s)) (fun s => .bits (n s) true) ∧
  (∀ h, Does (.bsDec f) (fun s => table s h ∧ (h = 0 ∨ 12 < h)) (fun s _ => s.wrG f.d (BitVec.ofNat 64 0xFFFFFFFFFFFFFFFF))) ∧
  (∀ h, Awaits (.bsDec f) (fun s => table s h ∧ 1 ≤ h ∧ h ≤ 12 ∧ few s h) (fun _ => .bits h false)) ∧
  (∀ h e, Does (.bsDec f) (fun s => table s h ∧ 1 ≤ h ∧ h ≤ 12 ∧ there s h ∧ entry s h e ∧ 1 ≤ length e ∧ length e ≤ h ∧
      e / 2 ^ 21 % 2 ^ 11 = 0) (fun s _ => (eats s (length e)).wrG f.d (BitVec.ofNat 64 (e % 2 ^ 16)))) ∧
  (f.o = 0 → Does (.bsAlign f) (fun s => there s (toByte s.myCore.rdCount)) (fun s _ => eats s (toByte s.myCore.rdCount))) ∧
  (f.o = 1 → Does (.bsAlign f) (fun s => room s (toByte s.myCore.wrCount)) (fun s _ => puts s (toByte s.myCore.wrCount) 0)) ∧
  (f.o = 2 → Does (.bsAlign f) (fun s => s.myCore.wrLen ≠ 0 ∧ room s (64 - s.myCore.wrLen))
    (fun s _ => puts s (64 - s.myCore.wrLen) 0)) ∧
  (f.o = 3 → Does (.bsAlign f) (fun _ => True) (fun s _ => s.updMyCore (fun c => { c with
    rdBits := 0, rdLeft := 0, rdCount := 0, wrBits := 0, wrLen := 0, wrCount := 0 })))

/-! Router reductions (R240 to R244). -/

/-- R240, R242: configuring a collective, contributing to its next round, and taking a round's result. R241 to R243: a router
passes on its combined value, at the root the result, unless the round's time is up; a round that has run too long fails; a result,
or the notice of a failure, reaches a poster.
The model's readings and choices enter it by logs 9, 33, 58. -/
def Obligations.RouterReductions : Prop :=
  (∀ f : Fields,
    let a := fun s : State => s.gr f.a
    let id := fun s : State => (a s).toNat % 16
    let posts := fun s : State => s.me.hypCur = 0 ∧ s.me.ordered true true = true ∧ s.me.untaken (id s) < 4
    let mine := fun (s : State) (r : PostedRound) => r.id == id s && !r.queue && r.op.isNone
    let gets := fun (s : State) (sh : Shape) (t : Nat) => s.detach (.redGet f) sh (fun d => { d with left := 1, acq := true, due := t })
    Accesses (.redCfg f) a 16 false (fun _ => True) (fun s sh => (s.detach (.redCfg f) sh (fun d => { d with
      left := 1, mode := s.me.fpmode.toNat % 4 })).sendReq s.me.nextId (s.reqOf .load (a s) 16) 0) ∧
    Does (.redPost f) posts (fun s sh => s.detach (.redPost f) sh (fun d => { d with due := s.cycles + 12 })) ∧
    Faults (.redPost f) (fun s => s.me.hypCur ≠ 0) cPerm (fun _ => 0) ∧
    Awaits (.redPost f) (fun s => s.me.hypCur = 0 ∧ s.me.ordered true true = false) (fun _ => .order true true) ∧
    Awaits (.redPost f) (fun s => s.me.hypCur = 0 ∧ s.me.ordered true true = true ∧ 4 ≤ s.me.untaken (id s)) (fun s => .rounds (id s)) ∧
    (∀ j, Does (.redGet f) (fun s => s.me.hypCur = 0 ∧ findIdx (mine s) s.me.rounds = some j) (fun s sh =>
      (gets s sh (if (nth s.me.rounds j).any (fun r => r.res.isSome || r.failed) then s.cycles + 8 else 0)).updMe (fun k => { k with
        rounds := updNth (fun r => { r with op := some s.me.nextId }) k.rounds j }))) ∧
    Does (.redGet f) (fun s => s.me.hypCur = 0 ∧ findIdx (mine s) s.me.rounds = none ∧ s.me.posting (id s) ≠ 0)
      (fun s sh => gets s sh 0) ∧
    Faults (.redGet f) (fun s => s.me.hypCur = 0 ∧ findIdx (mine s) s.me.rounds = none ∧ s.me.posting (id s) = 0) cIllegal (fun _ => 0) ∧
    Faults (.redGet f) (fun s => s.me.hypCur ≠ 0) cPerm (fun _ => 0)) ∧
  (∀ (s : State) (d : DetOp),
    let c := s.ev.core
    let x := s.ev.ctx
    let k := s.ctx c x
    let id := d.caps.o1.toNat % 16
    let coll := s.coll (s.pidOf c) id
    let num := mget 0 coll.joined (clusterOf c)
    let dst := d.iw.toNat / 2 ^ 76 % 2 ^ 8
    let ends := fun (t : State) => exec .detachedCompletion s = .next t
    s.det c x s.ev.op = some d → d.due ≤ s.cycles →
    (d.op = 0x3A1 → d.st = .pending → (∀ e ∈ k.outst, e.op = 0x3A1 → d.id ≤ e.id) →
      (coll.member (clusterOf c) = true → ends (((s.updCtx c x (fun k => { k with rounds := k.rounds ++
          [{ id, num, ep := coll.ep, op := (k.getsOpen id).head?.map (·.id) }] })).contribute (s.pidOf c) id (clusterOf c) d.caps.o2
          { core := c, ctx := x }).endPos c x d [(dst, BitVec.ofNat 1024 (num % (2 ^ 32 - 1) + 1))] 0)) ∧
      (coll.member (clusterOf c) = false → ends (s.failOp c x d cIllegal 0 0 0))) ∧
    (d.op = 0x3A2 → d.st = .pending → ∀ r, k.rounds.find? (fun r => r.op == some d.id) = some r →
      let t := s.updCtx c x (fun k => { k with rounds := k.rounds.filter (fun e => e.op != some d.id) })
      (r.failed = true → ends (t.failOp c x d cRedTimeout 0 0 0)) ∧
      (r.failed = false → r.res = none → ends s) ∧
      (∀ v, r.failed = false → r.res = some v → ends (t.endPos c x d [(dst, v),
        (d.iw.toNat / 2 ^ 60 % 2 ^ 8, BitVec.ofNat 1024 (r.num % (2 ^ 32 - 1) + 1 + r.flags.toNat * 2 ^ 32))] 0)))) ∧
  (∀ (s : State) (rd : Round),
    let pid := s.ev.pid
    let id := s.ev.id
    let c := s.coll pid id
    let tmo := c.cfg.toNat / 2 ^ 64 % 2 ^ 32
    let late := tmo ≠ 0 ∧ rd.started + tmo ≤ s.cycles
    let takes := fun (r : PostedRound) => r.id == id && r.num == rd.num && r.ep == rd.ep
    let pending := rd.result = none ∧ rd.failed = false
    nth c.rounds s.ev.round = some rd →
    (∀ v t fl, pending → mget none rd.passed s.ev.router = none → c.routed rd s.ev.router = some (some (v, t), fl) → t ≤ s.cycles →
      (s.ev.router = c.rootOf → late → exec .reductionContribution s = .next s) ∧
      (¬(s.ev.router = c.rootOf ∧ late) → exec .reductionContribution s = .next (s.updRound pid id s.ev.round (fun rd => { rd with
        passed := mset none rd.passed s.ev.router (some v), times := mset 0 rd.times (512 + s.ev.router) s.cycles
        flags := rd.flags ||| fl, result := if s.ev.router = c.rootOf then some v else none, endAt := s.cycles })))) ∧
    (pending → late → exec .reductionTimeout s = .next (s.updRound pid id s.ev.round (fun rd => { rd with
        failed := true, contrib := [], passed := [], flags := 0, endAt := s.cycles }))) ∧
    (∀ p, ¬pending → nth rd.posters s.ev.k = some p → p.block = none → p.gone = false →
      max (rd.endAt + ({ c with cfg := rd.cfg } : Coll).wayDown p.core) (p.came + 12) ≤ s.cycles →
      exec .reductionResultArrival s =
      .next ((s.updRound pid id s.ev.round (fun rd => { rd with posters := delNth rd.posters s.ev.k })).updCtx p.core p.ctx (fun x => { x with
        rounds := updIf takes (fun r => { r with res := rd.result, flags := rd.flags, failed := rd.failed }) x.rounds }))))

/-! Hypotheses (R275 to R293). -/

/-- R275, R288 to R292: new nodes, reclaiming, entering and leaving, resolving, and the status word.
The model's readings and choices enter it by log 14. -/
def Obligations.HypothesisInstructions : Prop := ∀ f : Fields,
  let id := fun (f : Fields) (s : State) => (s.gr f.a).toNat % 2 ^ 8
  let asid := fun s : State => s.me.asid.toNat
  let t := fun s : State => s.nodesAtCore (s.pidOf s.cur) s.cur
  let live := fun (s : State) (n : Nat) => n = 0 ∨ (nodeAt (t s) (asid s) n).st ≠ .free
  let table := fun s : State => s.hasTable = true
  let none_ := fun s : State => s.hasTable = false
  let cost := fun (s : State) (k : Nat) => if (s.diesOf (s.pidOf s.cur)).length ≤ 1 then k else 2 * k
  let change := fun (i : Instr) (f : Fields) (kind k : Nat) (acq : Bool) (s : State) (sh : Shape) =>
    (s.detach i sh (fun d => { d with left := 1, acq, due := s.cycles + cost s k })).submitChange (asid s) (id f s) kind s.me.nextId
  let resolves := fun (i : Instr) (kind : Nat) =>
    Does i (fun s => table s ∧ id f s ≠ 0 ∧ s.me.ordered true true = true) (change i f kind 160 true) ∧
    Awaits i (fun s => table s ∧ id f s ≠ 0 ∧ s.me.ordered true true = false) (fun _ => .order true true) ∧
    Faults i (fun s => none_ s ∨ id f s = 0) cIllegal (fun _ => 0)
  let status := fun s : State =>
    let n := id f s
    let d := nodeAt (t s) (asid s) n
    if n = 0 then 0 else (if d.st = .free then 0 else if d.st = .openNode then 1 else if d.st = .confirmed then 2 else 3) +
      (if eff (t s) (asid s) n = none then 4 else 0) + d.link * 2 ^ 8 + (eff (t s) (asid s) n).getD 0 * 2 ^ 16 + d.depth * 2 ^ 24
  Does (.hnew f) table (change (.hnew f) f 0 120 false) ∧
  Faults (.hnew f) none_ cIllegal (fun _ => 0) ∧
  (∀ sh s, Issues .hnewRcl sh s → table s → exec .hnewRcl s = .next ((change .hnewRcl sh.f 4 120 false (s.begun sh) sh).goesTo s.succ)) ∧
  Does (.henter f) (fun s => table s ∧ live s (id f s) ∧ (eff (t s) (asid s) (id f s)).isSome = true)
    (fun s _ => s.updMe (fun k => { k with hypCur := BitVec.ofNat 8 (id f s) })) ∧
  Faults (.henter f) (fun s => none_ s ∨ ¬live s (id f s)) cIllegal (fun _ => 0) ∧
  Faults (.henter f) (fun s => table s ∧ live s (id f s) ∧ eff (t s) (asid s) (id f s) = none) cHypRefuted (fun s => BitVec.ofNat 64 (id f s)) ∧
  Does .hleave (fun s => table s ∧ s.me.hypCur = 0) (fun s _ => s) ∧
  Does .hleave (fun s => table s ∧ s.me.hypCur ≠ 0) (fun s _ => s.updMe (fun k => { k with
    hypCur := BitVec.ofNat 8 (nodeAt (t s) (asid s) s.me.hypCur.toNat).link })) ∧
  resolves (.hresC f) (if f.o = 1 then 2 else 1) ∧
  resolves (.hresR f) 3 ∧
  Does (.hnstat f) table (fun s _ => s.wrG f.d (BitVec.ofNat 64 (status s)))

/-- R276, R282, R283, R289: what a change does to a node table: `hnew` takes the lowest Free id below the effective parent, a
reclaimed id is Free, a resolve of an Open node confirms or refutes it, and one of another node changes nothing. R284, R275: a
change reaches slices and cores one by one; the end of an allotment drops the table and its versions.
The model's readings and choices enter it by log 32. -/
def Obligations.NodeTables : Prop :=
  (∀ (t : TMap Node) (r : Resolve), mwf ({} : Node) t = true → r.node < 256 →
    let st := fun (t : TMap Node) (n : Nat) => (nodeAt t r.asid n).st
    let changes := fun u : TMap Node => ∃ v, changeOf t r = .to v u
    (r.kind = 0 → ∀ v u, changeOf t r = .to v u → 1 ≤ v ∧ v ≤ 255 ∧ st t v = .free ∧ (∀ j, 1 ≤ j → j < v → st t j ≠ .free) ∧
      st u v = .openNode ∧ eff t r.asid r.node = some (nodeAt u r.asid v).link ∧ ∀ j, j ≠ v → nodeAt u r.asid j = nodeAt t r.asid j) ∧
    (r.kind = 4 → ∀ v u, changeOf t r = .to v u → (st t r.node = .confirmed ∨ st t r.node = .refuted) ∧ st u r.node = .free ∧
      ∀ j, j ≠ r.node → nodeAt u r.asid j = nodeAt t r.asid j) ∧
    ((r.kind = 1 ∨ r.kind = 2) → st t r.node = .openNode → ∃ u, changes u ∧ st u r.node = .confirmed) ∧
    (r.kind = 3 → st t r.node = .openNode → ∃ u, changes u ∧ st u r.node = .refuted) ∧
    ((r.kind = 1 ∨ r.kind = 2 ∨ r.kind = 3) → st t r.node ≠ .openNode → ∃ v, changeOf t r = .same v ∧
      v = if st t r.node = .confirmed then 1 else if st t r.node = .refuted then 2 else 3)) ∧
  (∀ (s : State) (p : Part) (r : Resolve) (rest : List Resolve),
    let pid := s.ev.pid
    (s.part pid = some p → p.resolves = r :: rest → r.slicesLeft.contains s.ev.slice = false → exec .resolveAtSlice s = .next s) ∧
    (s.part pid = some p → p.resolves = r :: rest → s.ev.core ∈ r.coresLeft → exec .resolveAtCore s =
      .next ((s.updPart pid (fun p => { p with
        resolves := { r with coresLeft := r.coresLeft.filter (· != s.ev.core) } :: rest })).endResolve pid)) ∧
    (s.part pid = some p → p.resolves = r :: rest → s.ev.slice ∈ r.slicesLeft → s.vers = [] → exec .resolveAtSlice s =
      .next ((s.updPart pid (fun p => { p with
        resolves := { r with slicesLeft := r.slicesLeft.filter (· != s.ev.slice) } :: rest })).endResolve pid)) ∧
    (s.part pid = some p → p.resolves = r :: rest → s.ev.slice ∈ r.slicesLeft → r.kind = 3 → ∃ u, exec .resolveAtSlice s = .next u ∧
      ∀ vk, verOf pid r.asid (actedNodes r.old p.nodes r.asid r.node 3) vk = true → s.verSlice vk = s.ev.slice → mget none u.vers vk = none) ∧
    exec .asidAllotmentEnd s = .next (((s.dropHyp pid s.ev.asid).dropSpace pid s.ev.asid).updPart pid (fun p => { p with
      spec := { p.spec with asids := p.spec.asids.filter (· != s.ev.asid) } })) ∧
    (∀ asid n c fuel, s.part pid = some p → p.resolves = r :: rest → s.allotted pid r.asid = false →
      s.startResolve pid (fuel + 1) = ((s.updDet r.core r.ctx r.op (fun d => { d with st := .fault cIllegal 0 0 0 })).updPart pid
        (fun p => { p with resolves := rest })).startResolve pid fuel ∧
      ((s.dropSpace pid asid).tlb.all (fun e => !(e.pid == pid && e.asid == asid))) = true ∧
      (n < 256 → nodeAt ((s.dropHyp pid asid).nodesAtCore pid c) asid n = {})))

/-! Streams (R206 to R222, R287, R300). -/

/-- The stream that handle `h` of the strand is bound to is `t`, in context `k`, and no earlier operation on the handle is
outstanding (R206, R212). -/
abbrev Sys2Proof.Machine.Bound (s : State) (h k : Nat) (t : Strm) : Prop := s.strmWait h = false ∧ s.myCore.strmOf s.cx h = some (k, t)

/-- R206 to R221: the stream instructions: defining and loading, opening, closing, attaching an operation, saving, consuming
elements, taking the accumulator, moving, restarting, and the status word.
The model's readings and choices enter it by logs 9, 14. -/
def Obligations.StreamInstructions : Prop := ∀ f : Fields,
  let d := f.d.toNat
  let a := f.a.toNat
  let g := fun s : State => s.gr f.a
  let turn := fun s : State => s.strmWait d = false
  let safe := fun (s : State) (n : Nat) (w : Bool) => s.issueFault (s.myWho .strand) (g s) n n w = none
  let reads := fun (i : Instr) (n : Nat) (s : State) (sh : Shape) (u : State) =>
    (u.detach i sh (fun d => { d with left := 1 })).sendReq u.me.nextId (u.reqOf .load (g s) n) 0
  let defines := fun (i : Instr) (n : Nat) =>
    (∀ k t, Does i (fun s => Bound s d k t ∧ safe s n false) (fun s sh => reads i n s sh (s.updStrm s.cur k (·.close s.cycles)))) ∧
    (∀ k, Does i (fun s => turn s ∧ s.myCore.strmOf s.cx d = none ∧ s.myCore.freeStrm = some k ∧ safe s n false)
      (fun s sh => reads i n s sh (s.putStrm s.cur k (some { ctx := s.cx, handle := d, desc := 0, st := .taken })))) ∧
    Awaits i (fun s => turn s ∧ s.myCore.strmOf s.cx d = none ∧ s.myCore.freeStrm = none ∧ safe s n false) (fun _ => .streamPool) ∧
    Awaits i (fun s => s.strmWait d = true) (fun _ => .stream d)
  let opened := fun (k : Nat) (t : Strm) (s : State) => Bound s a k t ∧ t.isOpen = true
  let left := fun t : Strm => t.total - t.pIss
  let takes := fun (i : Instr) (n k : Nat) (t : Strm) (s : State) (sh : Shape) =>
    let again := t.seen && decide (t.next < t.pIss + n)
    (s.detach i sh (fun d => { d with prog := n })).updStrm s.cur k (fun u => { u with
      pIss := t.pIss + n, pCtx := if u.st == .home then t.pIss + n else u.pCtx
      flt := if again then none else u.flt, seen := u.seen && !again })
  let count := fun s : State => if f.o = 1 then f.imm.toNat % 2 ^ 16 else (s.gr f.b).toNat
  let saved := fun (s : State) (sh : Shape) =>
    let u := s.detach (.ssave f) sh (fun d => { d with left := 8, prog := 1, snap := s.snapshot })
    u.aliasRoll (fun l => l == u.lineLoc (u.pidOf u.cur) u.me.asid.toNat (g s).toNat)
  let saves := fun (s : State) (sh : Shape) (t : Option Strm) =>
    let u := saved s sh
    match u.det s.cur s.cx s.me.nextId with
    | some d => u.sendSave s.cur s.cx d t
    | none => u
  defines (.sdef f) 32 ∧
  defines (.sload f) 64 ∧
  (∀ k t, Does (.sopen f) (fun s => Bound s d k t ∧ t.st = .defined)
    (fun s sh => s.detach (.sopen f) sh (fun d => { d with due := s.cycles + 8 }))) ∧
  (∀ k t, Faults (.sopen f) (fun s => Bound s d k t ∧ t.st ≠ .defined) cIllegal (fun _ => 0)) ∧
  (∀ k t, Does (.sclose f) (fun s => Bound s d k t)
    (fun s sh => (s.updStrm s.cur k (·.close s.cycles)).detach (.sclose f) sh (fun d => { d with due := s.cycles + 48 }))) ∧
  Does (.sclose f) (fun s => turn s ∧ s.myCore.strmOf s.cx d = none)
    (fun s sh => s.detach (.sclose f) sh (fun d => { d with due := s.cycles + 8 })) ∧
  (∀ k t, Does (.sattach f) (fun s => Bound s d k t ∧ t.st = .defined ∧ t.ty = fld f.imm 0 4)
    (fun s _ => s.updStrm s.cur k (fun u => { u with
      att := true, op := f.o.toNat, mode := roundMode f s
      init := accVal t.ty (if tyInt t.ty then s.gr f.a else s.fr f.a) }))) ∧
  (∀ k t, Does (.ssave f) (fun s => Bound s d k t ∧ safe s 64 true ∧ (t.st = .home ∨ t.isOpen = false)) (fun s sh => saves s sh (some t))) ∧
  (∀ k t, Does (.ssave f) (fun s => Bound s d k t ∧ safe s 64 true ∧ t.st ≠ .home ∧ t.isOpen = true)
    (fun s sh => (saved s sh).updStrm s.cur k (·.recall (s.cycles + 24)))) ∧
  Does (.ssave f) (fun s => turn s ∧ s.myCore.strmOf s.cx d = none ∧ safe s 64 true) (fun s sh => saves s sh none) ∧
  (∀ k t, Does (.spop f) (fun s => opened k t s ∧ clsOk f t = true ∧ t.pIss < t.total) (takes (.spop f) 1 k t)) ∧
  (∀ k t, Faults (.spop f) (fun s => opened k t s ∧ (clsOk f t = false ∨ t.total ≤ t.pIss)) cIllegal (fun _ => 0)) ∧
  (∀ k t n, Does (.sstep f) (fun s => opened k t s ∧ n = min (count s) (left t) ∧ n ≠ 0) (takes (.sstep f) n k t)) ∧
  (∀ k t, Does (.sstep f) (fun s => opened k t s ∧ (count s = 0 ∨ left t = 0))
    (fun s sh => s.detach (.sstep f) sh (fun d => { d with st := .done, vals := [(codeAt d.iw 0, 0)], due := s.cycles + 8 }))) ∧
  (∀ k t, Does (.ssink f) (fun s => opened k t s ∧ clsOk f t = true ∧ t.att = true) (fun s sh =>
    s.detach (.ssink f) sh (fun d => { d with
      vals := [(codeAt d.iw 0, (redVal t.ty t.acc.toNat).setWidth 1024)], due := s.cycles + if t.st = .home then 8 else 24 }))) ∧
  (∀ k t, Does (.sfloat f) (opened k t) (fun s _ => s.updStrm s.cur k (fun u => { u with pin := false }))) ∧
  (∀ k t, Does (.srecall f) (opened k t) (fun s sh =>
    (s.detach (.srecall f) sh id).updStrm s.cur k (fun u => { u with pin := true }.recall (s.cycles + 24)))) ∧
  (∀ k t, Does (.sres f) (fun s => opened k t s ∧ clsOk f t = true) (fun s sh => (s.detach (.sres f) sh id).updStrm s.cur k (·.recall (s.cycles + 24)))) ∧
  Does (.sstat f) (fun _ => True) (fun s _ => s.wrG f.d (BitVec.ofNat 64 (strmStat ((s.myCore.strmOf s.cx a).map (·.2)))))

/-- R208, R209, R210: the address of an element, and what consuming `n` elements that have been read leaves: the position, the
elements that remain, and the accumulator, folded in order. R213 to R215, R287: floating to the home of the next element,
hopping, reading ahead, and coming Home.
The model's readings and choices enter it by logs 9, 36. -/
def Obligations.StreamsRun : Prop :=
  (∀ (t : Strm) (n e : Nat),
    let c := t.desc.toNat / 2 ^ 96 % 2 ^ 32
    let stride := fun lo : Nat => ((t.desc.extractLsb' lo 32).toInt : Int)
    t.addr e = BitVec.ofInt 64 ((t.desc.toNat % 2 ^ 64 : Nat) + ((e / c : Nat) : Int) * stride 128 + ((e % c : Nat) : Int) * stride 64) ∧
    (n ≤ t.vals.length → (t.eat n).1.vals = t.vals.drop n ∧ (t.eat n).1.pos = t.pos + n ∧
      (t.eat n).1.acc = (t.vals.take n).foldl (fun a x => (t.fold a x).1) t.acc ∧
      (t.eat n).1.pIss = t.pIss ∧ (t.eat n).1.desc = t.desc) ∧
    (t.att = false → ∀ a x, t.fold a x = (a, 0))) ∧
  (∀ (s : State) (t : Strm),
    let c := s.ev.core
    let k := s.ev.k
    let sets := fun (u : State) (g : Strm → Strm) => u.updStrm c k g
    let a := t.addr t.next
    let refuted := s.strmRefuted c t
    let ends := fun f : Flt => Strm.settled { t with flt := some (f.1, a), seen := false } s.cycles true
    let arrived := t.due ≤ s.cycles
    let sent := (s.ctx c t.ctx).outst.all (fun d => !((d.op == 0x330 || d.op == 0x331) && codeAt d.iw 1 == 0x90 + t.handle) ||
      decide (d.issuedAt + 24 ≤ s.cycles)) = true
    s.strm c k = some t →
    (∀ h, s.floatTo c t = some h → exec .streamFloat s = .next ((sets s (fun t => { t with
      st := .floating, slice := h, floats := t.floats + 1, due := s.cycles + 24 })).startRead c k (s.cycles + 24))) ∧
    (¬arrived → exec .streamHop s = .next s) ∧
    (t.rolled = true → exec .streamHop s = .next s) ∧
    (arrived → t.rolled = false → t.st = .hopping → exec .streamHop s =
      .next (sets ((sets s (fun t => { t with st := .floating })).startRead c k s.cycles) (·.settled s.cycles false))) ∧
    (∀ h, arrived → t.rolled = false → t.st = .floating → t.next < t.total → s.elemHome t t.next = some h → h ≠ t.slice → s.floated h < 64 →
      exec .streamHop s = .next (sets s (fun u => { u with
        st := .hopping, slice := h, hops := t.hops + 1, due := s.cycles + 16 + 24 * dieDist (t.slice / 32) (h / 32) }))) ∧
    (∀ h, arrived → t.rolled = false → t.st = .floating → t.next < t.total → s.elemHome t t.next = some h → h ≠ t.slice → 64 ≤ s.floated h →
      exec .streamHop s = .next (sets s (fun _ => t.goBack s.cycles))) ∧
    (s.elemReadable c t = true → refuted = true →
      exec .streamElementRead s = .next (sets s (fun _ => ends (cHypRefuted, a)))) ∧
    (s.elemReadable c t = true → refuted = false → ∀ e, s.issueFault (t.who c) a t.size t.size false = some e →
      exec .streamElementRead s = .next (sets s (fun _ => ends e))) ∧
    (s.elemReadable c t = true → refuted = false → s.issueFault (t.who c) a t.size t.size false = none →
      ∀ u v, (s.afterOwned (t.who c) a.toNat).load (t.who c) a.toNat t.size t.lease (t.st == .home) = (u, .ok v) → ∃ n, exec .streamElementRead s =
        .next (sets u (fun t => { t with vals := t.vals ++ [BitVec.ofNat 64 v], ready := n }))) ∧
    ((t.st = .home ∨ ((t.st = .floating ∨ t.st = .sinking) ∧ arrived ∧ sent)) →
      exec .consumeMessage s = .next (sets s (fun t => { t with pCtx := t.pIss }))) ∧
    (¬(t.st = .home ∨ ((t.st = .floating ∨ t.st = .sinking) ∧ arrived ∧ sent)) → exec .consumeMessage s = .next s) ∧
    (t.st ≠ .recalling → exec .streamRecallArrival s = .next (sets s (fun _ => t.settled s.cycles false))) ∧
    (t.st = .recalling → ¬arrived → exec .streamRecallArrival s = .next s) ∧
    (t.st = .recalling → arrived → t.closing = true → t.ctx = 16 → exec .streamRecallArrival s = .next (s.putStrm c k none)) ∧
    (t.st = .recalling → arrived → t.closing = true → t.ctx ≠ 16 → exec .streamRecallArrival s =
      .next (sets s (fun t => { t with st := .taken, closing := false, vals := [], flt := none }))) ∧
    (t.st = .recalling → arrived → t.closing = false → (s.ctx c t.ctx).outst = [] → exec .streamRecallArrival s =
      .next ((sets s (fun t => { t with st := .home })).startRead c k s.cycles)) ∧
    (∀ n, t.asked = none → t.st = .floating → (t.recall n).settled (n + 1) false = t.goBack (n + 1)) ∧
    (∀ n, t.asked = none → t.st = .hopping → (t.recall n).settled (n + 1) false = { t with asked := some n }))

/-! Vector memory (R166 to R169). -/

/-- The address of lane `i` (R167): 0 contiguous, 1 strided, 2 by offsets. -/
def Sys2Proof.Machine.laneAddress (form : Nat) (f : Fields) (s : State) (i : Nat) : Word :=
  let w := tyBits (fld f.imm 0 4 ^^^ 8)
  let x := (lane (s.vr f.b) w i : Int)
  let offset := if 2 ^ (w - 1) ≤ lane (s.vr f.b) w i then x - (2 ^ w : Nat) else x
  let base := (s.gr f.a).toNat + if f.o.getLsbD 1 then bufAddr s.cur (fld f.imm 8 2) else 0
  BitVec.ofInt 64 (base + match form with
    | 0 => ((s.gr f.b).toNat + i * (w / 8) : Nat)
    | 1 => i * (s.gr f.b).toInt
    | _ => offset * (if f.o.getLsbD 0 then w / 8 else 1 : Nat))

/-- R166 to R169: a vector access sends one request for each active lane, in lane order; the fault reported is the first kind of
R143's order that a lane meets, of the lowest lane that meets it.
The model's readings and choices enter it by log 9. -/
def Obligations.VectorMemoryAccesses : Prop := ∀ f : Fields,
  let w := tyBits (fld f.imm 0 4 ^^^ 8)
  let n := w / 8
  let lease := if fld f.imm 4 4 = 0 then 3 else fld f.imm 4 4 - 1
  let lanes := fun (form : Nat) (s : State) =>
    ((List.range (1024 / w)).filter (fun i => (s.kr f.c).getLsbD i)).map (fun i => (i, laneAddress form f s i))
  let faults := fun (form : Nat) (write : Bool) (s : State) =>
    (lanes form s).filterMap (fun e => (s.issueFault (s.myWho .vector) e.2 n n write).map (fun x => (x.1, e.2)))
  let none_ := fun (form : Nat) (write : Bool) (s : State) => faults form write s = []
  let first := fun (form : Nat) (write : Bool) (s : State) (c : Nat) (a : Word) =>
    let absent := fun c : Nat => (faults form write s).find? (fun e => e.1 == c) = none
    (faults form write s).find? (fun e => e.1 == c) = some (c, a) ∧
      (c = cAlign ∨ (absent cAlign ∧ (c = cWindow ∨ (absent cWindow ∧ (c = cPerm ∨ (absent cPerm ∧ c = cUncorrectable))))))
  let sends := fun (s : State) (op form : Nat) (r : Nat × Word → MemReq) (t : State) =>
    (((lanes form s).map r).zip (laneDelay s.cur form (lanes form s) 0 [])).foldl (fun t e => t.sendReq op e.1 e.2) t
  let loads := fun (i : Instr) (form : Nat) =>
    Does i (none_ form false) (fun s sh => sends s s.me.nextId form (fun e => { s.reqOf .load e.2 n with lane := e.1, vec := true, lease })
      (s.detach i sh (fun d => { d with
        left := (lanes form s).length, st := if lanes form s = [] then .done else .pending, due := s.cycles + 12 }))) ∧
    ∀ c a, Faults i (fun s => first form false s c a) c (fun _ => a)
  let stores := fun (i : Instr) (form : Nat) =>
    Does i (fun s => none_ form true s ∧ s.me.posted.length < 32) (fun s sh => sends s s.me.nextId form
      (fun e => { s.reqOf .store e.2 n with
        lane := e.1, vec := true, lease, posted := true, data := BitVec.ofNat 64 (lane (s.vr f.d) w e.1) })
      (s.postOp i sh (lanes form s).length ((lanes form s).all (fun e => decide (e.2.toNat < 2 ^ 52))))) ∧
    (∀ c a, Faults i (fun s => first form true s c a) c (fun _ => a)) ∧
    Awaits i (fun s => none_ form true s ∧ 32 ≤ s.me.posted.length) (fun _ => .posted)
  loads (.vld f) 0 ∧
  loads (.vldS f) 1 ∧
  loads (.vgather f) 2 ∧
  stores (.vst f) 0 ∧
  stores (.vstS f) 1 ∧
  stores (.vscatter f) 2

/-! Tiles (R108, R183 to R205). -/

/-- R183 to R191, R197 to R200: a tile instruction whose shape and operands pass their checks detaches, and stands last at its
unit, with what it captured; a full unit holds it back.
The model's readings and choices enter it by log 9. -/
def Obligations.TileInstructions : Prop := ∀ f : Fields,
  let t := fun s : State => tileOf (s.gr f.d)
  let masks := fun s : State => s.pairMasks (fld f.imm 7 2)
  let rows := fun s : State => ends (enabledOf (masks s).1 (t s).m)
  let cols := fun s : State => ends (enabledOf (masks s).2 (t s).n)
  let pair := fun (s : State) (x : BitVec 6) => (s.gr x, s.gReg (x.toNat + 1))
  let span := fun (s : State) (x : BitVec 6) (ty : Nat) (r c : Option (Nat × Nat)) (write : Bool) => match r, c with
    | some r, some c => s.spanFaults (s.myWho .matrix) (pair s x).1 (pair s x).2 (tyBits ty / 8) r.1 r.2 c.1 c.2 write
    | _, _ => []
  let ks := fun s : State => if (t s).k = 0 then none else some (0, (t s).k - 1)
  let cap := fun (s : State) (x : BitVec 6) (m : KMask) => packOp (pair s x).1 (pair s x).2 m
  let third := fun s : State => s.reg s.cur s.cx (0x40 + f.c.toNat)
  let enters := fun (i : Instr) (caps : State → Caps) (fig : State → Nat) (s : State) (sh : Shape) =>
    (s.detach i sh (fun d => { d with
      mode := roundMode f s, caps := { caps s with od := s.reg s.cur s.cx f.d.toNat }, due := s.cycles + 20 + fig s })).updMyCore (fun k =>
        { k with mtx := k.mtx ++ [(s.cx, s.me.nextId)] })
  let tiles := fun (i : Instr) (sc : Nat) (faults : State → List Flt) (e : State → Shape → State) =>
    Does i (fun s => (t s).fault s.cur sc = none ∧ faults s = [] ∧ s.myCore.mtx.length < 16) e ∧
    (∀ c a, Faults i (fun s => (t s).fault s.cur sc = some (c, a)) c (fun _ => a)) ∧
    (∀ c a, Faults i (fun s => (t s).fault s.cur sc = none ∧ firstKind (faults s) = some (c, a)) c (fun _ => a)) ∧
    Awaits i (fun s => (t s).fault s.cur sc = none ∧ faults s = [] ∧ 16 ≤ s.myCore.mtx.length) (fun _ => .tileQueue)
  let mma := fun (i : Instr) (m : Nat) =>
    let sc := tyBits (mmaTy m).2.2 / 8
    tiles i sc (fun s => match rows s, cols s with
        | some r, some c => span s f.a (mmaTy m).1 (some r) (ks s) false ++ span s f.b (mmaTy m).2.1 (ks s) (some c) false
        | _, _ => [])
      (enters i (fun s => { o1 := cap s f.a (masks s).1, o2 := cap s f.b (masks s).2, o3 := third s })
        (fun s => (8 * (t s).n * (t s).k + mmaRate m - 1) / mmaRate m))
  let memory := fun s : State => ({ o1 := cap s f.a (masks s).1, o2 := packOp 0 0 (masks s).2 } : Caps)
  let ct := tyBits (fld f.imm 0 4) / 8
  let mt := fld f.imm 9 4
  let tst := fun (s : State) (sh : Shape) =>
    let u := (enters (.tst f) memory (fun _ => 8) s sh).updDet s.cur s.cx s.me.nextId
      (fun o => { o with snap := s.snapshot })
    match u.det s.cur s.cx s.me.nextId with
    | some o => u.aliasRoll (u.tstHits s.cur s.cx o)
    | none => u
  mma (.mmaF64F64 f) 0 ∧
  mma (.mmaF32F32 f) 1 ∧
  mma (.mmaBf16F32 f) 2 ∧
  mma (.mmaF16F32 f) 3 ∧
  mma (.mmaBf16Bf16 f) 4 ∧
  mma (.mmaF16F16 f) 5 ∧
  mma (.mmaE4m3F32 f) 6 ∧
  mma (.mmaE5m2F32 f) 7 ∧
  mma (.mmaE4m3Bf16 f) 8 ∧
  mma (.mmaE5m2Bf16 f) 9 ∧
  mma (.mmaDy8F32 f) 10 ∧
  mma (.mmaDy8Bf16 f) 11 ∧
  mma (.mmaI8I32 f) 12 ∧
  tiles (.tld f) ct (fun s => span s f.a mt (rows s) (cols s) false) (enters (.tld f) memory (fun _ => 8)) ∧
  tiles (.tst f) ct (fun s => span s f.a mt (rows s) (cols s) true) tst ∧
  tiles (.tzero f) ct (fun _ => []) (enters (.tzero f) (fun s => { o1 := packOp 0 0 (masks s).1, o2 := packOp 0 0 (masks s).2 })
    (fun _ => 1)) ∧
  tiles (.tout f) (tyBits (mmaTy (fld f.imm 0 4)).2.2 / 8) (fun s => match rows s with
      | some _ => span s f.a (mmaTy (fld f.imm 0 4)).2.1 (ks s) (cols s) false
      | none => [])
    (enters (.tout f) (fun s => {
      o1 := cap s f.a (masks s).1, o3 := third s
      o2 := packOp (s.gr f.b) 0 (masks s).1 ||| BitVec.ofNat 1024 ((masks s).2.toNat * 2 ^ 256) }) (fun _ => 0)) ∧
  Does (.tprog f) (fun _ => True) (fun s sh => s.detach (.tprog f) sh (fun d => { d with due := s.cycles + 8 }))

/-- A finite value as a rational number. -/
def Sys2Proof.Machine.FVal.exact (x : FVal) : Rat :=
  match x with
  | .fin neg m e => (if neg then -1 else 1) * m * 2 ^ e
  | _ => 0

/-- R84, R109, R189: the integer minor adds every product and wraps. R108: the fp64 and fp32 minors make one fused multiply-add for each
k, in order. R109, R189: the narrow minors take k in groups of eight, whose scaled products are summed exactly and added with one
rounding. -/
def Obligations.MatrixAccumulation : Prop := ∀ (mode acc a b : Nat) (as bs : List Nat),
  let i8 := fun x : Nat => if x < 2 ^ 7 then (x : Int) else (x : Int) - 2 ^ 8
  let sum : Int := acc + ((as.zip bs).map (fun e => i8 e.1 * i8 e.2)).sum
  let step := fun (F : Fmt) (minor : Nat) => let r := roundWith F mode (fmaX mode false false (unpack F a) (unpack F b) (unpack F acc))
    let q := mmaElem minor mode 127 127 r.1 as bs
    mmaElem minor mode 127 127 acc (a :: as) (b :: bs) = (q.1, r.2 ||| q.2)
  let groups := fun (minor ta tb : Nat) (F : Fmt) => ∀ sA sB : Nat, as ≠ [] → bs ≠ [] →
    let product := fun e : Nat × Nat => if sA = 0xFF ∨ sB = 0xFF then FVal.nan false
      else (mulX (unpackTy ta e.1) (unpackTy tb e.2)).1.shift ((sA : Int) - 127 + ((sB : Int) - 127))
    let S := sumGroup (((as.zip bs).take 8).map product)
    let r := roundWith F mode (addX mode (unpack F acc) S)
    let q := mmaElem minor mode sA sB r.1 (as.drop 8) (bs.drop 8)
    mmaElem minor mode sA sB acc as bs = (q.1, r.2 ||| (if S.isNan then fNv else 0) ||| q.2)
  ((∀ x ∈ as ++ bs, x < 2 ^ 8) → mmaElem 12 mode 127 127 acc as bs = ((sum % 2 ^ 32).toNat, 0)) ∧
  step fp64 0 ∧
  step fp32 1 ∧
  groups 2 11 11 fp32 ∧
  groups 3 10 10 fp32 ∧
  groups 4 11 11 bf16 ∧
  groups 5 10 10 fp16 ∧
  groups 6 12 12 fp32 ∧
  groups 7 13 13 fp32 ∧
  groups 8 12 12 bf16 ∧
  groups 9 13 13 bf16 ∧
  groups 10 14 11 fp32 ∧
  groups 11 14 11 bf16 ∧
  (∀ l : List FVal, (∀ x ∈ l, ∃ n m k, x = .fin n m k) → ∃ n m k, sumGroup l = .fin n m k ∧
    (sumGroup l).exact = (l.map FVal.exact).sum ∧ (m = 0 → (n = true ↔ l ≠ [] ∧ ∀ x ∈ l, ∃ e, x = .fin true 0 e))) ∧
  (∀ m, m < 12 → mmaElem m mode 127 127 acc [] [] = (acc, 0))

/-- R201, R202: posting a tile task, resuming or cancelling a paused one by its ticket. R189, R200, R203 to R205: a tile
operation runs once it is first at its unit; a task is read and checked, becomes ready when its dependence words are full,
commits its sub-tiles in order, pauses at a fault, and completes.
The model's readings and choices enter it by logs 9, 14, 57. -/
def Obligations.TileTasks : Prop :=
  (∀ f : Fields,
    let cl := fun s : State => clusterOf s.cur
    let full := fun s : State => s.taskRoom s.cur = false
    let ends := fun (i : Instr) (sh : Shape) (s : State) (r : Word) =>
      s.detach i sh (fun d => { d with st := .done, vals := [(sh.f.d.toNat, r.setWidth 1024)], due := s.cycles + 8 })
    let ready := fun s : State => s.me.ordered true true = true
    Does (.tpost f) (fun s => ¬full s)
      (fun s sh => (s.detach (.tpost f) sh (fun d => { d with left := 1 })).submitTask (s.gr f.a) (some s.me.nextId)) ∧
    Awaits (.tpost f) full (fun _ => .tasks) ∧
    (∀ i ∈ [Instr.tpostRes, Instr.tpostCan], ∀ sh s, Issues i sh s → ready (s.begun sh) →
      (s.begun sh).pausedTask (s.gr sh.f.a).toNat = none → exec i s = .next ((ends i sh (s.begun sh) 0).goesTo s.succ)) ∧
    (∀ sh s j d, Issues .tpostRes sh s → ready (s.begun sh) → (s.begun sh).pausedTask (s.gr sh.f.a).toNat = some j →
      (s.begun sh).task (cl s) j = some d → d.op.isSome = true → exec .tpostRes s = .next ((ends .tpostRes sh
        (((s.begun sh).taskStatus d 0 d.commit 0).updTask (cl s) j (fun d =>
          { d with st := if d.run then .running else .accepted, status := 0 })) (s.gr sh.f.a)).goesTo s.succ)) ∧
    (∀ sh s j d, Issues .tpostCan sh s → ready (s.begun sh) → (s.begun sh).pausedTask (s.gr sh.f.a).toNat = some j →
      (s.begun sh).task (cl s) j = some d → exec .tpostCan s = .next ((ends .tpostCan sh
        (((s.begun sh).taskStatus d 0x80 d.commit 0).dropTask (cl s) j) (s.gr sh.f.a)).goesTo s.succ))) ∧
  (∀ (s : State) (d : DetOp) (k : TileTask),
    let c := s.ev.core
    let x := s.ev.ctx
    let cl := s.ev.cluster
    let i := s.ev.i
    (s.det c x s.ev.op = some d → isTile d.op = true → s.tileReady c x d = true → exec .detachedCompletion s = .next (s.tileStep c x d)) ∧
    (s.det c x s.ev.op = some d → d.op = 0x2D5 → s.tprogReady c x d = true →
      let seen := if (fieldsOf d.iw).c = 6 then s.hostSeen (c :: (s.ctx c x).mt.past) else s
      (tst (s.ctx c x).badTile 1 = false → exec .detachedCompletion s = .next
        ((seen.updCtx c x (fun k => { k with tileOut := 0, tileFlags := 0 })).endPos c x d [(codeAt d.iw 0,
          BitVec.ofNat 1024 ((s.ctx c x).tileOut.toNat + (s.ctx c x).tileFlags.toNat * 2 ^ 32))] 0)) ∧
      (tst (s.ctx c x).badTile 1 = true → exec .detachedCompletion s = .next (s.failOp c x d cUncorrectable 0 (regSel c x 0x1006) 0))) ∧
    (d.started = false → tst (s.ctx c x).badTile 0 = true →
      s.tileStep c x d = s.stopTile c x { d with started := true, prog := 0 } 0 (cUncorrectable, 0)) ∧
    (d.started = true → (s.tileUnit c x d).flt = none → 0 < d.left →
      let b := s.tileUnit c x d
      let e := { d with prog := d.prog + 1, left := d.left - 1, flags := d.flags ||| b.fl, vals := b.vals.getD d.vals
                        due := s.cycles + tilePer d.op d.tile }
      let t := (b.s.updCtx c x (fun k => { k with tileOut := k.tileOut + BitVec.ofNat 32 b.outl })).updDet c x d.id (fun _ => e)
      s.tileStep c x d = if d.left = 1 then t.tileEnd c x e else t) ∧
    (∀ e, d.started = true → (s.tileUnit c x d).flt = some e → 0 < d.left →
      s.tileStep c x d = (s.tileUnit c x d).s.stopTile c x d d.prog e) ∧
    (s.taskAcceptable cl i = true → exec .tileTaskAccept s = .next (s.taskAccept cl i)) ∧
    (s.task cl i = some k → k.st = .accepted → s.depsFull k = .ok true →
      exec .tileTaskDependenceReady s = .next (s.updTask cl i (fun d => { d with st := .running, run := true }))) ∧
    (s.task cl i = some k → k.st = .running → k.fb = [] →
      let sub := k.subs.find? (fun b => b.core == c)
      let upd := fun (t : State) (f : SubTile → SubTile) =>
        t.updTask cl i (fun d => { d with subs := updIf (fun e => e.core == c) f d.subs })
      let caught := (s.core c).ring.filter (fun e => e.1 == k.ticket)
      let goes := fun t : State => exec .subtileComplete s = .next t
      (∀ t pans, sub = none → k.next < k.total → s.unitFree cl c = true → fetchPanels s k (k.panels k.next) k.pans = (t, .ok pans) →
        goes (t.updTask cl i (fun d => { d with pans, subs := d.subs ++ [{ num := k.next, core := c }], next := k.next + 1 }))) ∧
      (∀ b, sub = some b → caught ≠ [] → goes (upd (s.updCore c (fun k' => { k' with ring := k'.ring.filter (fun e => e.1 != k.ticket) }))
        (fun b => { b with got := b.got + caught.length }))) ∧
      (∀ b, sub = some b → caught = [] → b.got < k.msgs b.num → b.sent = b.got →
        goes (upd s (fun e => if e.sent = e.got then { e with sent := min (k.msgs b.num) (e.got + 8) } else { e with got := e.sent }))) ∧
      (∀ b, sub = some b → caught = [] → k.msgs b.num ≤ b.got → b.row < k.blocks b.num → (s.subBlock k b).flt = none →
        goes ((upd (s.subBlock k b).s (fun b => { b with row := b.row + 1 })).updTask cl i (fun d =>
          { d with flags := d.flags ||| (s.subBlock k b).fl }))) ∧
      (∀ b t, sub = some b → caught = [] → k.msgs b.num ≤ b.got → k.blocks b.num ≤ b.row → b.num = k.commit →
        s.subCommit k b = (t, none) → goes (t.updTask cl i (fun d => { d with
          commit := d.commit + 1, subs := d.subs.filter (fun e => e.num != b.num) })))) ∧
    (∀ e, s.task cl i = some k → s.taskFlt cl i c = some e → k.subs = [] →
      exec .tileTaskPause s = .next (((s.taskStatus k e.1 k.commit e.2).updTask cl i (fun d => { d with
        st := .paused, status := e.1, faddr := e.2, fb := [] })).taskElement k e.1)) ∧
    (∀ e, s.task cl i = some k → s.taskFlt cl i c = some e → exec .tileTaskPause s = .next (s.taskPause cl i e)) ∧
    (s.task cl i = some k → k.st = .running → k.fb ≠ [] → s.taskFlt cl i c = some (cOverdue, 0)) ∧
    (s.task cl i = some k → k.st = .ended → exec .tileTaskComplete s = .next ((s.taskStatus k 0x80 k.commit 0).dropTask cl i)) ∧
    (s.task cl i = some k → k.st = .running → k.total ≤ k.commit → k.addrAt 640 = 0 →
      exec .tileTaskComplete s = .next (((s.taskStatus k 0 k.commit 0).dropTask cl i).taskElement k 0)))

/-! The copy engine (R224 to R237). -/

/-- R224 to R227: a copy command whose record can be read leaves for the engine of its cluster; with no room there it waits.
R224 to R237: the engine reads a command's record, starts it when its handles allow, sends its arrivals when every run is
written, performs them at their sync words, and gives its element and its handles back.
The model's readings and choices enter it by logs 9, 12, 14. -/
def Obligations.CopyEngine : Prop :=
  (∀ f : Fields,
    let a := fun s : State => s.gr f.a
    let room := fun s : State => s.copyRoom s.cur = true
    let hosted := fun s : State => s.hostAt (s.myWho .strand) (a s).toNat = true
    let aligned := fun s : State => (a s).toNat % 128 = 0
    let hole := fun s : State => spaceOf (a s).toNat = .none
    let copies := fun (i : Instr) (minor : Nat) =>
      Does i (fun s => aligned s ∧ ¬hole s ∧ ¬hosted s ∧ room s)
        (fun s sh => (s.detach i sh (fun d => { d with left := 1 })).submitCopy minor (a s) (some s.me.nextId) false s.cycles) ∧
      Awaits i (fun s => aligned s ∧ ¬hole s ∧ ¬hosted s ∧ ¬room s) (fun _ => .engine) ∧
      Faults i (fun s => ¬aligned s) cAlign a ∧
      Faults i (fun s => aligned s ∧ hole s) cWindow a ∧
      Faults i (fun s => aligned s ∧ ¬hole s ∧ hosted s) cPerm a
    copies (.cpy f) 0 ∧
    copies (.cpyb f) 1 ∧
    copies (.mcast f) 2) ∧
  (∀ (s : State) (d : CopyCmd),
    let cl := s.ev.cluster
    let i := s.ev.i
    let p := nth s.net s.ev.k
    s.cmd cl i = some d →
    (s.copyAcceptable cl i = true → exec .copyCommandAccept s = .next (s.copyAccept cl i)) ∧
    let src := match d.hsOf with
      | some (c, h) => s.putHdl c h (mkHdl 3 true (hdlBytes (s.hdl c h)))
      | none => s
    let took := d.hdOf.foldl (fun t e => t.putHdl e.1 e.2 (mkHdl 1 true 0)) src
    (s.copyStartable cl i = true → exec .copyRunStart s =
      .next ((took.updCluster cl (fun c => { c with copyAt := s.cycles + 1 })).nextRun cl i { d with started := true })) ∧
    (d.runs ≤ d.run → s.nextRun cl i d = s.updCmd cl i (fun _ => { d with st := .arriving, due := s.cycles + 20 })) ∧
    (∀ t pend fl, d.run < d.runs → copyRun s d d.run = (t, .ok (pend, fl)) → s.nextRun cl i d = t.updCmd cl i (fun _ => { d with
      st := .running, pend, flags := d.flags ||| fl, due := s.cycles + s.runTime d d.run })) ∧
    (∀ t c, d.run < d.runs → copyRun s d d.run = (t, .error c) →
      s.nextRun cl i d = t.updCmd cl i (fun _ => { d with st := .arriving, status := c })) ∧
    (d.st = .running → d.pend = [] → s.sourceHeld d d.run = false → exec .copyRunStart s = .next (s.nextRun cl i d)) ∧
    (∀ t, d.st = .running → d.pend ≠ [] → d.due ≤ s.cycles → s.ev.k = 0 → copyWrite d d.pend s = (t, [], none) →
      exec .copyRunStart s = .next (t.updCmd cl i (fun _ => if d.runs ≤ d.run + 1
        then { d with st := .arriving, pend := [], run := d.run + 1, due := s.cycles + 20 } else { d with pend := [], run := d.run + 1 }))) ∧
    (∀ t l c, d.st = .running → d.pend ≠ [] → d.due ≤ s.cycles → s.ev.k = 0 → copyWrite d d.pend s = (t, l, some c) →
      exec .copyRunStart s = .next (t.updCmd cl i (fun _ => { d with st := .arriving, status := c, pend := [] }))) ∧
    (d.st = .arriving → d.started = true → d.status = 0 →
      let t := s.updCmd cl i (fun d => { d with st := .done })
      ((∀ r ∈ d.recv, r.2 = 0) → exec .copyArrivalSend s = .next t) ∧
      (∀ r, d.recv = [r] → r.2 ≠ 0 → 2 ^ 52 ≤ r.2.toNat → spaceOf r.2.toNat ≠ .none →
        t.engFault { d.who with node := 0 } r.2.toNat 16 true false (s.maskOk d.core r.2.toNat) = none →
        exec .copyArrivalSend s = .next ((t.send (16384 + cl) (s.homeOf d.pid r.2.toNat) (s.cycles + 20)
          (.arrive cl d.cid 0 r.2 d.bytes)).updCmd cl i (fun d => { d with sent := d.sent + 1 }))) ∧
      (∀ r, d.recv = [r] → r.2 ≠ 0 → (r.2.toNat < 2 ^ 52 ∨ spaceOf r.2.toNat = .none) →
        exec .copyArrivalSend s = .next (t.updCmd cl i (fun d => { d with fails := d.fails ++ [(0, cPerm)] })))) ∧
    (∀ q cid j a n t g, p = some q → q.body = .arrive cl cid j a n → s.performable s.ev.k = true → s.cHeld a.toNat 16 q.sentAt 4096 16 = false →
      s.win.firstBad a.toNat 16 = none → (s.dropPkt s.ev.k).syncArrive a.toNat n = some (t, g) →
      exec .syncWordArrival s = .next (t.updCluster cl (fun c => { c with
        cmds := updIf (fun d => d.cid == cid) (fun d => { d with arrived := d.arrived + 1, due := s.cycles + 20 }) c.cmds }))) ∧
    (s.copyComplete cl i = true →
      let bytes := fun (u : State) (e : Nat × Nat) => hdlBytes (u.hdl e.1 e.2)
      let back := match d.hsOf with
        | some (c, h) => s.putHdl c h (mkHdl (if d.final = 0 then 0 else 2) false (bytes s (c, h)))
        | none => s
      let gave := d.hdOf.foldl (fun u e => u.putHdl e.1 e.2 (mkHdl (if d.status = 0 then 2 else 1) false (bytes u e))) back
      let last := (if d.started = true then gave else s).updCluster cl (fun c => { c with cmds := delNth c.cmds i })
      (d.gone = true → exec .copyCompletion s = .next last) ∧
      (d.gone = false → d.op = none → exec .copyCompletion s = .next (last.element d.core d.ctx 1 true (BitVec.ofNat 64 d.element))) ∧
      (∀ op, d.gone = false → d.op = some op → exec .copyCompletion s = .next (last.updDet d.core d.ctx op (fun o => { o with
        st := .done, left := 0, vals := [(codeAt o.iw 0, (BitVec.ofNat 64 d.element).setWidth 1024)] })))))

/-! Privileged instructions and exceptions (R319 to R333, R368 to R375). -/

/-- R324 to R328: traps, `halt`, interrupts, invalidation of translations, and page modes.
The model's readings and choices enter it by logs 13, 20, 21, 22. -/
def Obligations.TrapsInterruptsTranslations : Prop := ∀ f : Fields,
  let a := fun s : State => (s.gr f.a).toNat
  let n := fun s : State => (s.gr f.b).toNat
  let released := fun s : State => s.me.ordered true true = true
  let core := fun s : State => a s % 2 ^ 12
  let ctx := fun s : State => a s / 2 ^ 12 % 2 ^ 4
  let allowed := fun s : State => released s ∧ (s.me.lvl ≠ 1 ∨ s.inPart (s.pidOf s.cur) (core s) = true)
  let beyond := fun s : State => BitVec.ofNat 64 (max (a s) (2 ^ 52))
  let sweep := fun (s : State) (sw : Bool) => (List.range (n s / 2 ^ 16)).foldl (fun (st : State × Option Nat) j =>
    let r := st.1.setMode (s.pidOf s.cur) s.me.asid.toNat (a s / 2 ^ 16 + j) sw
    (r.1, st.2.orElse (fun _ => r.2))) (s, none)
  let modes := fun (s : State) (sw : Bool) => match (sweep s sw).2 with
    | some k => (sweep s sw).1.post (s.pidOf s.cur) { kind := 3, addr := BitVec.ofNat 64 (keyVa k) }
    | none => (sweep s sw).1
  let pages := fun s : State => a s % 2 ^ 16 = 0 ∧ n s % 2 ^ 16 = 0 ∧ a s + n s ≤ 2 ^ 52
  Faults (.trap f) (fun _ => True) cTrap (fun _ => BitVec.ofNat 64 (f.imm.toNat % 2 ^ 16)) ∧
  Departs .halt (fun s => s.me.outst = [] ∧ s.me.posted = []) (fun s _ => s.exitStrand s.cur s.cx false) ∧
  Awaits .halt (fun s => ¬(s.me.outst = [] ∧ s.me.posted = [])) (fun _ => .drain) ∧
  Does (.ipi f) (fun s => allowed s ∧ s.unavail (core s) = false)
    (fun s sh => s.atRetire sh (.ipi (core s) (ctx s) (s.gr f.b) f.d.toNat)) ∧
  (∀ (s : State) (c : Nat) (p : Retiring) (core ctx dst : Nat) (mask : Word), (s.core c).retiring = [p] → p.due ≤ s.cycles →
    p.act = .ipi core ctx mask dst →
    let t := s.updCore c (fun k => { k with retiring := [] })
    let told := fun (u : State) (v : Word) => (u.putReg c p.ctx dst (v.setWidth 1024)).setFull c p.ctx dst true
    (ctx = 15 ∨ (s.ctx core ctx).st = .free → s.actsNow c = told t 0) ∧
    (ctx ≠ 15 → (s.ctx core ctx).st ≠ .free →
      s.actsNow c = told (t.updCtx core ctx (fun k => { k with ipend := true, kipi := k.kipi ||| mask })) 1)) ∧
  Faults (.ipi f) (fun s => released s ∧ s.unavail (core s) = true) cWindow (fun _ => 0) ∧
  Faults (.ipi f) (fun s => released s ∧ s.unavail (core s) = false ∧ s.me.lvl = 1 ∧ s.inPart (s.pidOf s.cur) (core s) = false) cPerm
    (fun _ => 0) ∧
  Awaits (.ipi f) (fun s => ¬released s) (fun _ => .system) ∧
  Does (.xinv f) (fun s => released s ∧ 0 < n s ∧ a s + n s ≤ 2 ^ 52)
    (fun s _ => s.dropTrans (s.pidOf s.cur) false s.me.asid.toNat (a s) (n s)) ∧
  Does (.xinv f) (fun s => released s ∧ n s = 0) (fun s _ => s) ∧
  Faults (.xinv f) (fun s => released s ∧ 0 < n s ∧ 2 ^ 52 < a s + n s) cWindow beyond ∧
  (∀ sh s, Issues .xinvAll sh s → released (s.begun sh) → 0 < (s.gr sh.f.b).toNat → (s.gr sh.f.a).toNat + (s.gr sh.f.b).toNat ≤ 2 ^ 52 →
    exec .xinvAll s = .next (((s.begun sh).dropTrans (s.pidOf s.cur) true s.me.asid.toNat (s.gr sh.f.a).toNat
      (s.gr sh.f.b).toNat).goesTo s.succ)) ∧
  Does (.rmodeCoh f) (fun s => released s ∧ pages s) (fun s _ => modes s false) ∧
  Faults (.rmodeCoh f) (fun s => released s ∧ (a s % 2 ^ 16 ≠ 0 ∨ n s % 2 ^ 16 ≠ 0)) cAlign (fun _ => 0) ∧
  (∀ sh s, Issues .rmodeSw sh s → sh.f = f → released (s.begun sh) → pages (s.begun sh) → n (s.begun sh) ≠ 0 →
    exec .rmodeSw s = .next ((modes (s.begun sh) true).goesTo s.succ)) ∧
  (∀ sh s, Issues .rmodeSw sh s → sh.f = f → released (s.begun sh) → a (s.begun sh) % 2 ^ 16 = 0 → n (s.begun sh) = 0 →
    exec .rmodeSw s = .next ((s.begun sh).goesTo s.succ))

/-- R329 to R333: copy permission masks, scope tables, cell maps, self-tests, and the saving and restoring of a context.
The model's readings and choices enter it by logs 5, 20, 21, 23, 47. -/
def Obligations.MasksMapsTestsAndContexts : Prop := ∀ f : Fields,
  let a := fun s : State => s.gr f.a
  let b := fun s : State => (s.gr f.b).toNat % 2 ^ 12
  let released := fun s : State => s.me.ordered true true = true
  let pid := fun s : State => s.pidOf s.cur
  let area := fun s : State => if f.a = 0 then BitVec.ofInt 64 (s.me.frec.toNat + 2048 +
    256 * ((if s.me.sat then 16 else s.me.depth.toNat : Nat) - 1 : Int)) else a s
  let whole := fun s : State => ((s.part (pid s)).map (·.splitting)).getD false = false
  let lines := fun s : State => (List.range 5).map (fun j => s.lineLoc (pid s) s.me.asid.toNat ((area s).toNat + 64 * j))
  (∀ t m, Does (.pmask f) (fun s => released s ∧ (a s).toNat % 2 ^ 6 = 0 ∧ s.inPart (pid s) (b s) = true ∧
      s.readChecked (s.myWho .strand) (a s) 512 64 3 = (t, .ok m))
    (fun s _ => t.updCore (b s) (fun k => { k with pmaskNew := some (t.partMask (pid s) m) }))) ∧
  (∀ t l, Does (.scset f) (fun s => released s ∧ (a s).toNat % 2 ^ 8 = 0 ∧ s.accessFault (s.myWho .strand) (a s) 256 256 false = none ∧
      s.scopesAt (s.myWho .strand) (a s).toNat = (t, .ok l))
    (fun s _ => t.updMe (fun k => { k with scopeTab := keep (a s) 8 44, scopes := l }))) ∧
  (∀ t m, Does (.cellset f) (fun s => released s ∧ whole s ∧ s.issueFault (s.myWho .strand) (a s) 64 64 false = none ∧
      s.readMap (s.myWho .strand) (pid s) (a s).toNat = (t, .ok m) ∧
      (t.residents (pid s)).any (fun e => !m.cells.any (fun c => inCell c e.2.pos)) = false)
    (fun s _ => (t.installMap (pid s) m).wrG f.d 0)) ∧
  (∀ sh s, Issues .cellsetOff sh s → released (s.begun sh) → whole s → (s.begun sh).anyBound (pid s) = false → exec .cellsetOff s =
    .next ((((s.begun sh).updPart (pid s) (fun p => { p with cells := none })).wrG sh.f.d 0).goesTo s.succ)) ∧
  (∀ t r, Does (.hwtest f) (fun s => released s ∧ (a s).toNat % 2 ^ 8 ≤ 6 ∧ (a s).toNat < 2 ^ 32 ∧
      s.selfTest (a s) (decide (f.o = 1)) = (t, r)) (fun _ _ => t.wrG f.d (BitVec.ofNat 64 r))) ∧
  Faults (.hwtest f) (fun s => released s ∧ (6 < (a s).toNat % 2 ^ 8 ∨ 2 ^ 32 ≤ (a s).toNat)) cIllegal (fun _ => 0) ∧
  (∀ t, Does (.ctxsave f) (fun s => released s ∧ s.me.pushed = 0 ∧ tst s.me.badTile 0 = false ∧
      s.heldBy s.cur s.snapshot (lines s).contains = false ∧
      (s.aliasRoll (lines s).contains).writeChecked (s.myWho .strand) (area s) 256 8 s.saveImage 3 = (t, none)) (fun _ _ => t)) ∧
  Awaits (.ctxsave f) (fun s => released s ∧ s.me.pushed = 0 ∧ tst s.me.badTile 0 = false ∧
    s.heldBy s.cur s.snapshot (lines s).contains = true) (fun s => .unread (lines s)) ∧
  (∀ sh s, Issues (.ctxsave f) sh s → released (s.begun sh) → s.me.pushed = 0 → tst s.me.badTile 0 = true →
    exec (.ctxsave f) s = .next (((s.withIw sh).emptyDests sh).issueTrap (some sh) cUncorrectable 0 ((s.begun sh).bankSel 0x1006) 0)) ∧
  Awaits (.ctxsave f) (fun s => released s ∧ s.me.pushed ≠ 0) (fun _ => .pushed) ∧
  (∀ t v u l, Does (.ctxload f) (fun s => released s ∧ s.readChecked (s.myWho .strand) (area s) 256 8 3 = (t, .ok v) ∧
      saveOk t.cx v = true ∧ (t.loadImage v).scopesAt (t.hwWho t.cur t.cx) (t.loadImage v).me.scopeTab.toNat = (u, .ok l))
    (fun _ _ => u.updMe (fun k => { k with scopes := l })))

/-- R322, R368, R369: a fault of a strand below its limit of records raises the level, masks interrupts, saves its record, and goes
on at the vector.
The model's readings and choices enter it by logs 5, 13, 43. -/
def Obligations.TrapEntrySavesAndVectors : Prop := ∀ (s t : State) (f : FaultInfo) (rpc : Word),
  let k := s.me
  let d := k.depth.toNat
  let device := k.level = 2 ∨ d + 1 = 16
  k.rett = none → k.sat = false → k.noFrec = false → d + 1 ≤ 16 → f.code ≠ cUncorrectable →
  writeChain s d false rpc [f] = (t, none) →
  s.enterTrap [f] rpc false = t.updMe (fun j => { j with
    plvl := t.me.level, lvl := if device then 2 else 1, ien := false, depth := BitVec.ofNat 4 (min (d + 1) 15)
    sat := decide (d + 1 = 16), hypCur := 0, pc := if device then t.myCore.dvec else t.myCore.kvec
    st := .ready, busyTill := t.cycles + 8, rett := none })

/-- R325, R373: `rett` outside any entry is ILLEGAL, waits for posted operations, and otherwise takes the records of the
entry. R373: the pop of a record that replays nothing and chains to none: the depth falls, the node and the PC are the record's, the
saved level returns, and interrupts are enabled.
The model's readings and choices enter it by log 13. -/
def Obligations.ReturnFromTrap : Prop :=
  (Faults .rett (fun s => s.me.depth = 0 ∧ s.me.sat = false) cIllegal (fun _ => 0) ∧
    Awaits .rett (fun s => (s.me.depth ≠ 0 ∨ s.me.sat = true) ∧ s.me.posted ≠ []) (fun _ => .handler) ∧
    ∀ t, Departs .rett (fun s => (s.me.depth ≠ 0 ∨ s.me.sat = true) ∧ s.me.posted = [] ∧
        s.popRecords 16 = (t, none))
      (fun s _ => t.updMe (fun k => { k with st := .ready, busyTill := s.cycles + 8 }))) ∧
  (∀ (s t : State) (r : RecIn) (n : Nat),
    let slot := (if s.me.sat then 16 else s.me.depth.toNat) - 1
    s.readRecord slot = (t, .ok r) →
    (r.f.skip = true ∨ r.f.iw = 0 → r.chn = false → s.popRecords (n + 1) = (t.updMe (fun k => { k with
      sat := false, depth := BitVec.ofNat 4 slot, hypCur := r.hyp, rett := none, lvl := k.plvl, ien := true, pc := r.rpc }), none)) ∧
    (r.f.skip = false → r.f.iw ≠ 0 → s.popRecords (n + 1) = (t.updMe (fun k => { k with
      sat := false, depth := BitVec.ofNat 4 slot, hypCur := r.hyp, rett := some { now := some r.f, chn := r.chn, rpc := r.rpc } }), none)))

/-- R245, R319, R324: below the level a privileged minor needs, it raises PRIV; on the wrong context a major raises ILLEGAL.
R37, R39, R41: an instruction that reads an empty register waits, for that register or for one that it reads and another
context's read has claimed. R65, R67, R368, R370: what comes of a word that is no instruction, of a malformed line, and of a
fetch that faults.
The model's readings and choices enter it by logs 13, 21, 68. -/
def Obligations.WhatHoldsInstructionsBack : Prop :=
  (∀ (i : Instr) (s : State) (sh : Shape), i.shape s.flds = some sh →
    (∃ body, ∀ u, exec i u = issue i u body) → (s.me.st = .ready ∨ ∃ w n, s.me.st = .waiting w n) → s.gate sh = .go →
    (legalHere s.cx sh.op = false →
      exec i s = .next (((s.withIw sh).emptyDests sh).issueTrap (some sh) cIllegal 0 0 0)) ∧
    (legalHere s.cx sh.op = true → sh.op / 16 = 0x3E → sh.op ≠ 0x3E0 → s.me.level = 0 →
      exec i s = .next (((s.withIw sh).emptyDests sh).issueTrap (some sh) cPriv 0 0 0)) ∧
    (legalHere s.cx sh.op = true → (sh.op = 0x3E9 ∨ (sh.op = 0x3E4 ∧ sh.f.o = 1)) → s.me.level = 1 →
      exec i s = .next (((s.withIw sh).emptyDests sh).issueTrap (some sh) cPriv 0 0 0))) ∧
  (∀ (i : Instr) (s : State) (sh : Shape), i.shape s.flds = some sh →
    (∃ body, ∀ u, exec i u = issue i u body) → (s.me.st = .ready ∨ ∃ w n, s.me.st = .waiting w n) → s.ipiDue = false →
    s.overdue = none → s.me.ending = false → s.me.faults = [] → s.me.pos = none → s.me.rett = none → s.myEff.isSome = true → s.me.outst = [] →
    ∀ c m, (c, m) ∈ readsOf sh → m ≠ .last → s.full s.cur s.cx c = false → ∃ r, (s.full s.cur s.cx r = false ∨
      s.claimed s.cur s.cx r = true) ∧ (∃ m, (r, m) ∈ readsOf sh) ∧ exec i s = .next ((s.withIw sh).enterWait (.reg r))) ∧
  (∀ s : State,
    let goes := fun sh : Shape => (s.me.st = .ready ∨ ∃ w n, s.me.st = .waiting w n) ∧ s.gate sh = .go ∧ legalHere s.cx sh.op = true
    (goes (noShape 0xFFF) → exec .issueIllegalOpcode s = .next (s.issueTrap (some (noShape 0xFFF)) cIllegal s.pcNow 0 0)) ∧
    (goes (noShape 0xFFE) → s.iw ≠ 0 → exec .issueMalformedLine s = .next (s.issueTrap (some (noShape 0xFFE)) cLine s.pcNow 0 0)) ∧
    (goes (noShape 0xFFE) → s.iw = 0 → exec .issueMalformedLine s = .next (s.fetchTrap cLine s.me.pc)) ∧
    legalHere s.cx 0xFFE = true ∧ legalHere s.cx 0xFFF = true ∧
    (∀ t c a, s.fetch s.cur s.cx = (t, .error (c, a)) → (s.me.st = .ready ∨ ∃ w n, s.me.st = .waiting w n) → t.gate (noShape 0) = .go →
      exec .fetchFault s = .next (t.fetchTrap c a)))

/-- R140, R328, R344, R346, R368: reported faults are taken; an interrupt and the fallback release a context from a wait; a core
asks for a context; the Rhizoid forces the fallback; a lease runs out.
The model's readings and choices enter it by logs 43, 44. -/
def Obligations.ContextEvents : Prop := ∀ s : State,
  let c := s.ev.core
  let x := s.ev.ctx
  let k := s.ctx c x
  let here : State := { s with cur := c, cx := x }
  let waits := fun why : WaitWhy => (∃ n, k.st = .waiting why n) ∧ why.suspends = false ∧ s.waitOver c x why = false ∧ k.faults = []
  (k.st = .ready → k.busyTill ≤ s.cycles → k.ending = false → k.faults ≠ [] → exec .trapEntry s = .next here.trapEntry) ∧
  (∀ why, waits why → here.ipiDue = true → exec .ipiDelivery s = .next (s.present c x).1.takeIpi) ∧
  (∀ why n, k.st = .waiting why n → why.suspends = false → s.waitOver c x why = false → k.faults = [] → (s.core c).preempt = some x →
    n ≤ (s.core c).preemptAt → exec .safepointOverdue s = .next ((s.present c x).1.takeOverdue 0)) ∧
  (∀ why n, k.st = .waiting why n → (s.core c).preempt = some x → (s.core c).preemptAt < n → exec .safepointOverdue s = .next s) ∧
  ((s.core c).preempt ≠ some x → exec .safepointOverdue s = .next s) ∧
  (∀ y, (s.core c).preempt = none → s.freeContext c = none → ((s.core c).sorus ≠ [] ∨ (s.core c).deque ≠ []) →
    s.victim c (((s.core c).sorus.map (·.mt.prio) ++ (s.core c).deque.map (·.mt.prio)).foldl max 0) = some y →
    exec .preemptionRequest s = .next (s.updCore c (fun k => { k with preempt := some y, preemptAt := s.cycles }))) ∧
  (∀ d y, s.ev.group = [(d, y)] → (s.ctx d y).st ≠ .free →
    exec .rhizoidForcedFallback s = .next (s.updCtx d y (fun k => { k with forced := true }))) ∧
  (∀ l, s.ev.flag = true → s.slice s.ev.key = some l → l.pinned = false → leaseOver (BitVec.ofNat 8 (s.cycles / 1024)) l.expiry = true →
    exec .leaseExpiryCheck s = .next (s.putSlice s.ev.key (some { l with expired := true }))) ∧
  (∀ l, s.ev.flag = false → s.l1 c s.ev.key = some l → l.pinned = false → leaseOver (BitVec.ofNat 8 (s.cycles / 1024)) l.expiry = true →
    exec .leaseExpiryCheck s = .next (s.putL1 c s.ev.key (some { l with expired := true })))

/-! Launches and host events (R335 to R343). -/

/-- R336 to R343: the next record of a queue is accepted or rejected, its strands are pushed in order, its prefetch list is read
once, it ends when no strand is left, and its event is written when the ring has room. R339: the conditions of the record alone
under which a launch is rejected with a kind 2 event.
The model's readings and choices enter it by log 26. -/
def Obligations.LaunchesRun : Prop :=
  (∀ (s : State) (p : Part) (l : Launch),
    let pid := s.ev.pid
    let seq := s.ev.seq
    let n := (s.ctrl pid 128 32 + 1) % 2 ^ 32
    let slot := s.ctrl pid 0 64 + 128 * (n % 2 ^ s.ctrl pid 64 5)
    let m := lrMeta pid l.rcd
    let first := mkRecord ((l.rcd.extractLsb' 64 52).setWidth 64) false false false 0 0 0 [] 0
    let who := s.rhizoid pid (fld l.rcd 37 2 == 0)
    s.part pid = some p →
    (∀ t v, seqReached (s.ctrl pid 96 32) n = true → s.readAt (s.rhizoid pid false) slot 128 3 = (t, .ok v) → v % 2 ^ 32 = n →
      exec .launchAccept s = .next ((t.putCtrl pid 16 4 n).acceptRecord pid (BitVec.ofNat 1024 v)) ∧
      exec .launchSlotPoll s = .next ((t.putCtrl pid 16 4 n).acceptRecord pid (BitVec.ofNat 1024 v))) ∧
    (∀ c, s.launchAt pid seq = some l → l.ended = false → l.pushed < lrCount l.rcd → s.nextCore pid l = some c → lrKind1 l.rcd = false →
      (s.core c).deque.length < 256 → exec .launchEntryPush s = .next ((s.putLaunch pid seq { l with pushed := l.pushed + 1 }).pushRec c
        first { slot := 0, mt := m, launchEntry := true } true)) ∧
    (∀ c, s.launchAt pid seq = some l → l.ended = false → l.pushed < lrCount l.rcd → s.nextCore pid l = some c → lrKind1 l.rcd = true →
      s.ctxFree c 15 = true → exec .launchEntryPush s = .next ((s.putLaunch pid seq { l with pushed := l.pushed + 1 }).bindRecord c 15
        first 0 m [(3, l.rcd.extractLsb' 256 64)])) ∧
    (s.launchAt pid seq = some l → l.prefetched = false → l.ended = false → exec .launchPrefetch s = .next (eachEntry
      (fun u e => (rangeOf (e % 2 ^ 64) (e / 2 ^ 64 % 2 ^ 32)).foldl (fun u a => u.prefetchLine who a (Nat.xor (e / 2 ^ 96 % 2 ^ 3) 3)) u)
      who (fld l.rcd 512 64) (s.putLaunch pid seq { l with prefetched := true }) 0 (fld l.rcd 576 16))) ∧
    (∀ (u : State) (w : Who) (va lease tgt : Nat) (asid : Nat), va < 2 ^ 52 → u.redirect w.pid w.asid va .read w.user = (u, .ok (asid, va)) →
      u.lineTgt (lineKey w.pid asid va) = tgt →
      u.prefetchLine w va lease = if tgt = 2 ∨ leaseSlice lease = none then u else (u.bringLine w.pid asid va .read w.user lease).1) ∧
    (s.launchAt pid seq = some l → l.ended = false → lrCount l.rcd ≤ l.pushed → s.strandLeft pid seq = false →
      l.rcd.toNat / 2 ^ 592 % 2 ^ 16 = 0 → exec .launchEnd s = .next ((s.putLaunch pid seq { l with ended := true }).post pid
        { kind := 1, status := 0, flags := l.flags, lseq := seq })) ∧
    (s.launchAt pid seq = some l → l.ended = false → lrCount l.rcd ≤ l.pushed → s.strandLeft pid seq = false →
      let r := deadRanges who (fld l.rcd 640 64) (s.putLaunch pid seq { l with ended := true }, 0) 0 (fld l.rcd 592 16)
      exec .launchEnd s = .next (r.1.post pid { kind := 1, status := r.2, flags := l.flags, lseq := seq })) ∧
    (∀ (u : State) (w : Who) (code e c : Nat), e / 2 ^ 64 % 2 ^ 32 ≠ 0 → e % 2 ^ 6 = 0 → e / 2 ^ 64 % 2 ^ 6 = 0 →
      u.issueFault w (BitVec.ofNat 64 (e % 2 ^ 64)) (e / 2 ^ 64 % 2 ^ 32) 64 true = none →
      (discLines w u (rangeOf (e % 2 ^ 64) (e / 2 ^ 64 % 2 ^ 32))).2 = some c → deadRange w (u, code) e = (u, if code = 0 then c else code)) ∧
    (∀ e, p.events.find? (fun e => !(e.kind == 1 && s.storesLeft pid e.lseq)) = some e →
      (s.ctrl pid 288 32 + 2 ^ 32 - s.ctrl pid 320 32) % 2 ^ 32 < 2 ^ s.ctrl pid 256 5 →
      let k := (s.ctrl pid 288 32 + 1) % 2 ^ 32
      let seen := if e.kind = 1 ∨ e.kind = 2 then s.hostSeenOf pid e.lseq else s
      let t := (seen.putEvent pid (seen.ctrl pid 192 64 + 32 * (k % 2 ^ s.ctrl pid 256 5)) k (e.pack k)).putCtrl pid 36 4 k
      let fin := complete32 (p.doneSeqs ++ if e.kind = 1 ∨ e.kind = 2 then [e.lseq] else []).length (t.ctrl pid 160 32)
        (p.doneSeqs ++ if e.kind = 1 ∨ e.kind = 2 then [e.lseq] else [])
      exec .eventPost s = .next ((t.putCtrl pid 20 4 fin.1).updPart pid (fun p => { p with events := p.events.erase e, doneSeqs := fin.2 })))) ∧
  (∀ (s : State) (pid : Nat) (l : BitVec 1024),
    (fld l 128 32 = 0 ∨ 2 ≤ fld l 37 2 ∨ fld l 45 19 ≠ 0 ∨ ¬targetOk (BitVec.ofNat 64 (fld l 64 52)) ∨
      (l.getLsbD 40 = true ∧ l.getLsbD 44 = false)) →
    s.acceptRecord pid l = s.post pid { kind := 2, status := 1, lseq := fld l 0 32 })

/-! The memory system and the fabric (R355 to R367, R376 to R391). -/

/-- R143, R355 to R367: walks, synonyms, fetches and directory transactions for a request that has arrived; write-backs and
evictions; the host and the expanders.
The model's readings and choices enter it by logs 9, 12, 38, 46, 66, 67, 74. -/
def Obligations.MemorySystemEvents : Prop := ∀ (s : State) (sl : SLine),
  let k := s.ev.k
  let key := s.ev.key
  (∀ c r a, s.netReq k = some (c, r, a) →
    exec .pageWalk s = .next (s.walkTo k c r) ∧
    exec .remapFilterMiss s = .next (s.redirect r.pid r.asid r.ea.toNat a r.user).1 ∧
    let fetches := leaseSlice r.lease ≠ none ∧ r.kind ≠ .disc ∧ ¬(r.node ≠ 0 ∧ r.kind = .store)
    (fetches → exec .lineFetchArrival s = .next (s.reach (r.who c .strand) r.ea.toNat a r.lease).1) ∧
    (¬fetches → exec .lineFetchArrival s = .next s) ∧
    let va := r.ea.toNat
    let die := s.homeSlice r.pid va / 32
    (s.tlb.find? (fun t => t.die == die && t.pid == r.pid && t.asid == r.asid && t.page == va / 2 ^ lvlShift t.level) = none →
      (∀ lf ups, walk s die r.pid r.asid va = .ok (lf, ups) → ∃ t, exec .pageWalk s = .next t ∧ t.tlb = lastNOf 4096 die (·.die) ((s.newPage r.pid r.asid va lf).tlb ++
        [{ die, pid := r.pid, asid := r.asid, level := lf.level, page := va / 2 ^ lvlShift lf.level, leaf := lf.e, pteAddr := lf.pte }])) ∧
      (∀ e, walk s die r.pid r.asid va = .error e → exec .pageWalk s = .next { (if e = cXlate then s.noPage r.pid r.asid va else s) with
        net := updNth (fun p => if p.walked then p else { p with walked := true, due := s.cycles }) s.net k })) ∧
    (∀ t p, fetches → s.reach (r.who c .strand) va a r.lease = (t, .ok p) → exec .lineFetchArrival s = .next t ∧ (t.slice p.1).isSome = true) ∧
    (∀ u v lf pasid pva pe, (∀ e ∈ s.remap, ¬(e.home = s.homeSlice r.pid va ∧ e.pid = r.pid ∧ e.asid = r.asid ∧ e.page = va / 2 ^ lvlShift e.level)) →
      s.heldLine r.pid r.asid va a r.user = none → s.leaf r.pid r.asid va = (u, .ok lf) → fld lf.e 9 2 = 3 →
      u.primary r.pid lf = (v, .ok (pasid, pva, pe)) → leafOk (lf.e &&& (pe ||| ~~~0x3C)) a r.user = true →
      (a = .write → v.slice (lineKey r.pid pasid (pva + va % 2 ^ lvlShift lf.level)) = none →
        leafOk (lf.e &&& (pe ||| ~~~0x3C)) .atomic r.user = true) → ∃ t e, exec .remapFilterMiss s = .next t ∧ e ∈ t.remap ∧
        e.home = s.homeSlice r.pid va ∧ e.page = va / 2 ^ lvlShift lf.level ∧ e.primAsid = pasid ∧ e.primVa = BitVec.ofNat 64 pva)) ∧
  (∀ c key r sl, s.cohReq k = some (c, key, r, .read, sl) → r.kind = .load → (s.holders key sl).contains c = false →
    exec .directoryReadMiss s = .next (s.readMiss c key r.lease) ∧
    let copy := fun st : LineSt => ({ st, mask := BitVec.allOnes 64, data := s.view key sl, bad := s.viewBad key sl } : L1Line)
    let listed := fun (dir : DirSt) (owner : Option Nat) => s.putSlice key (some { sl.addSharer c with dir, owner })
    (sl.dir = .I → exec .directoryReadMiss s = .next ((listed .E (some c)).l1Alloc c key r.lease (copy .E))) ∧
    (sl.dir = .S → exec .directoryReadMiss s = .next ((listed .S none).l1Alloc c key r.lease (copy .S))) ∧
    (sl.dir = .O → exec .directoryReadMiss s = .next ((listed .O sl.owner).l1Alloc c key r.lease (copy .S)))) ∧
  (∀ c key r sl, s.cohReq k = some (c, key, r, .write, sl) → r.kind = .store → s.ownTurn k = false → exec .ownershipRequest s = .next s) ∧
  (∀ c key r sl, s.cohReq k = some (c, key, r, .write, sl) → r.kind = .store → s.ownTurn k = true → sl.hostBit = false →
    exec .ownershipRequest s = .next (s.pointerUsed (s.ownLine c key (byteMask (r.ea.toNat % 64) r.n) r.lease) k) ∧
    ((sl.dir = .I ∨ sl.dir = .S ∨ sl.dir = .E) → (s.l1Set c key).length < 16 → ∃ t l x, exec .ownershipRequest s = .next t ∧
      t.l1 c key = some l ∧ l.st = .M ∧ l.data = (s.shedOthers key c).view key sl ∧
      t.slice key = some x ∧ x.dir = .M ∧ x.sharers = [c] ∧ x.dies = 0 ∧ x.owner = some c ∧ x.data = (s.shedOthers key c).view key sl)) ∧
  (∀ c key r sl, s.cohReq k = some (c, key, r, .write, sl) → r.kind = .store → s.ownTurn k = true → sl.hostBit = true →
    exec .ownershipRequest s = .next (s.putSlice key (some { sl with snooping := some c }))) ∧
  (∀ c key r a sl, s.cohReq k = some (c, key, r, a, sl) → sl.dir = .P → c ∈ s.holders key sl → (r.kind = .load ∨ r.kind = .store) →
    let mask := byteMask (r.ea.toNat % 64) r.n
    exec .extensionRequest s = .next (s.extend c key mask r.lease) ∧
    (∀ l, s.l1 c key = some l → l.mask &&& mask ≠ mask → s.otherMasks c key sl &&& mask = 0 → exec .extensionRequest s =
      .next (s.putL1 c key (some { l with mask := l.mask ||| mask, data := mergeLine (mask &&& ~~~l.mask) (s.view key sl) l.data })))) ∧
  (∀ l, s.l1 s.ev.core key = some l → s.ev.flag = true → l.pinned = false → exec .l1WriteBack s = .next (s.l1Drop s.ev.core key) ∧
    (s.l1Drop s.ev.core key).l1 s.ev.core key = none) ∧
  (∀ l, s.l1 s.ev.core key = some l → s.ev.flag = false → l.dirty ≠ 0 → exec .l1WriteBack s = .next (s.l1Clean s.ev.core key)) ∧
  (s.slice key = some sl → sl.pinned = true → exec .sliceEviction s = .next s) ∧
  (s.slice key = some sl → sl.pinned = false → sl.hostBit = false → exec .sliceEviction s = .next (s.evict key) ∧ (s.evict key).slice key = none) ∧
  (s.slice key = some sl → sl.pinned = false → sl.hostBit = true →
    exec .sliceEviction s = .next (s.putSlice key (some { sl with snooping := some Config.nCores }))) ∧
  (s.slice key = some sl → sl.snooping.isSome = true →
    exec .hostBisnpReply s = .next (s.putSlice key (some { sl with hostBit := false, snooping := none }))) ∧
  (∀ p t c, s.part s.ev.pid = some p → s.hostUp = true → s.ev.va.toNat < p.spec.hdm → s.ev.acc = .read →
    s.reach { pid := s.ev.pid, asid := p.spec.hostAsid, engine := true } s.ev.va.toNat .read 3 = (t, .error c) →
    exec .hostM2sRequest s = .next (t.post s.ev.pid { kind := 4, status := c, addr := BitVec.ofNat 64 s.ev.va.toNat })) ∧
  (∀ p t q, s.part s.ev.pid = some p → s.hostUp = true → s.ev.va.toNat < p.spec.hdm → s.ev.acc = .read →
    s.reach { pid := s.ev.pid, asid := p.spec.hostAsid, engine := true } s.ev.va.toNat .read 3 = (t, .ok q) →
    (t.recall q.1).slice q.1 = some sl →
    sl.bad = 0 → exec .hostM2sRequest s = .next ((t.recall q.1).putSlice q.1 (some { sl with hostBit := true }))) ∧
  (∀ p t q, s.part s.ev.pid = some p → s.hostUp = true → s.ev.va.toNat < p.spec.hdm → s.ev.acc = .write → s.ev.image.length = 64 →
    s.reach { pid := s.ev.pid, asid := p.spec.hostAsid, engine := true } s.ev.va.toNat .write 3 = (t, .ok q) →
    let u := (t.recall q.1).keepRecords q.1 t.cycles
    u.slice q.1 = some sl → u.recordHeld q.1 u.cycles = false → exec .hostM2sRequest s = .next ((u.sliceWrite q.1 0 64
      (ofBytes (s.ev.image.map (·.toNat)))).passStore { pid := s.ev.pid, asid := keyAsid q.1, engine := true } (q.2 / 64 * 64) 64)) ∧
  (s.slice key = some sl → s.lineTgt key = 2 → s.ev.flag = true → exec .h2dSnoop s = .next (s.evict key)) ∧
  (s.slice key = some sl → s.lineTgt key = 2 → s.ev.flag = false → ∃ t x, exec .h2dSnoop s = .next t ∧
    t.slice key = some x ∧ x.dirty = 0 ∧ x.owner = none ∧ (x.dir = .S ∨ x.dir = .I)) ∧
  (s.slice key = some sl → s.lineTgt key = 1 → sl.hostBit = false → exec .expanderBisnp s = .next (s.evict key)) ∧
  (s.slice key = some sl → s.lineTgt key = 1 → sl.hostBit = true →
    exec .expanderBisnp s = .next (s.putSlice key (some { sl with snooping := some Config.nCores })))

/-- R376 to R380, R384, R386 to R391: errors and their tests, spares, transport, lanes, firmware, bring-up, partitions and power.
The model's readings and choices enter it by logs 6, 24, 25, 27, 28, 29, 30, 31, 48, 75, 84. -/
def Obligations.FabricEvents : Prop := ∀ s : State,
  let k := s.ev.k
  let n := s.ev.n
  let total := s.power.foldl (· + ·) 0
  let net := s.ev.slot = 0
  let image := (List.range n).map (fun j => BitVec.ofNat 8 (s.dramRead s.ev.va.toNat n / 2 ^ (8 * j) % 2 ^ 8))
  let first := if s.ev.unit = 1 then s.recovery.getD s.ev.image else s.ev.image
  let log := fun (u : State) (kind what : Nat) => ({ u with log := u.log ++ [{ kind, what }] } : State)
  (∀ sel, s.ev.data = some sel → sel.toNat % 2 ^ 8 ≤ 6 → sel.toNat < 2 ^ 32 → k = 0 → s.ev.unit = 0 → exec .softErrorDetected s =
    .next (if sel ∈ s.tests then s else { s with tests := s.tests ++ [sel] })) ∧
  (∀ sel, s.ev.data = some sel → sel.toNat % 2 ^ 8 ≤ 6 → sel.toNat < 2 ^ 32 → k ≠ 0 → sel ∈ s.tests →
    let r := ({ s with tests := s.tests.filter (· != sel) } : State).selfTest sel false
    exec .softErrorDetected s = .next (if r.2 = 1 then log r.1 2 sel.toNat else r.1)) ∧
  (s.unavail s.ev.core = false → (s.cluster (clusterOf s.ev.core)).spareUsed = true →
    exec .coreRetirement s = .next (s.updCore s.ev.core (fun k => { k with unavailable := true }))) ∧
  (s.unavail s.ev.core = false → (s.cluster (clusterOf s.ev.core)).spareUsed = false → s.ev.group = [] →
    exec .coreRetirement s = .next (s.updCluster (clusterOf s.ev.core) (fun k => { k with spareUsed := true }))) ∧
  (∀ p w, net → nth s.net k = some p → p.received = true → n < 2 → s.ev.data = some w → 8 < w.toNat / 4 % 16 →
    exec .transportPacketReceive s = .next { s with net := updNth (fun p => { p with received := false }) s.net k }) ∧
  (∀ p, net → nth s.net k = some p → p.received = true → s.ev.data = none → s.missing k = none →
    (n = 0 → exec .transportPacketReceive s = .next s) ∧ (n = 1 → exec .transportPacketReceive s = .next (log s 7 s.ev.unit)) ∧
    (n = 4 → exec .transportPacketReceive s =
      .next { s with unacked := s.unacked ++ [{ src := p.src, dst := p.dst, seq := p.seq, sentAt := s.cycles }] })) ∧
  (∀ p j, net → nth s.net k = some p → p.received = true → s.ev.data = none → n = 0 → s.missing k = some j →
    exec .transportPacketReceive s = .next ((s.resend j).getD s)) ∧
  (∀ p, net → nth s.net k = some p → p.received = true → n = 3 →
    exec .transportPacketReceive s = .next { s with net := updNth (fun p => { p with received := false }) s.net k }) ∧
  (∀ p, net → nth s.net k = some p → p.received = false → max p.sentAt p.again + 2048 ≤ s.cycles →
    ((p.body.ofStrand = true → p.resends < 8) → ∃ t l, exec .transportResendTimeout s = .next t ∧
      nth t.net k = some { p with received := true, resends := p.resends + 1, again := s.cycles } ∧
      t.log = s.log ++ l ∧ l ≠ [] ∧ (∀ e ∈ l, e = { kind := 3, what := p.src * 2 ^ 16 + p.dst }) ∧
      (∀ j q, nth s.net j = some q → j < k ∨ q.src ≠ p.src ∨ q.dst ≠ p.dst ∨ q.received = true → nth t.net j = some q) ∧
      (∀ j q, k ≤ j → nth s.net j = some q → q.src = p.src → q.dst = p.dst → q.resends < 8 →
        ∃ r, nth t.net j = some r ∧ r.received = true ∧ r.body = q.body)) ∧
    (∀ c x op r, p.body = .mem c x op r → 8 ≤ p.resends →
      exec .transportResendTimeout s = .next ((s.dropPkt k).answerFault c x op r cTransport r.ea ((s.dropPkt k).replyAt c r)))) ∧
  (k ≠ 1 → n < 32 → 1 ≤ fld (mget linkReset s.links n) 5 2 → fld (mget linkReset s.links n) 7 2 < 2 → ∃ t, exec .laneFailure s = .next t ∧
    let r := mget linkReset t.links n
    fld r 0 5 = fld (mget linkReset s.links n) 0 5 ∧ fld r 5 2 = fld (mget linkReset s.links n) 5 2 - 1 ∧
    fld r 7 2 = fld (mget linkReset s.links n) 7 2 ∧ ∀ j, j ≠ n → mget linkReset t.links j = mget linkReset s.links j) ∧
  (∀ kind, k = 0 → agentKind s.ev.unit = some kind → s.ev.va.toNat + n ≤ 2 ^ 40 → s.fwPending = [] →
    (s.accepting s.ev.unit = false → exec .firmwareSwitch s = .next (match imageVer kind image with
      | some v => { s with fwVer := mset 0 s.fwVer s.ev.unit v }
      | none => log s 5 s.ev.unit)) ∧
    (s.accepting s.ev.unit = true → exec .firmwareSwitch s =
      .next { s with fwPending := [{ agent := s.ev.unit, addr := s.ev.va.toNat, len := n }] })) ∧
  (1 < k → 16 ≤ mget 0 s.bring 1 → exec .firmwareSwitch s = .next { s with recovery := some s.ev.image }) ∧
  (s.ev.flag = true → s.ev.unit ∉ s.holds → exec .recalibration s = .next { s with holds := s.holds ++ [s.ev.unit] }) ∧
  (s.ev.flag = false → exec .recalibration s = .next { s with holds := s.holds.filter (· != s.ev.unit) }) ∧
  (s.ev.slot = 1 → exec .coldReset s = .next { State.reset with
    schedule := s.schedule, fresh := s.fresh, recovery := s.recovery }) ∧
  (s.ev.slot ≠ 1 → s.ev.unit < 16 → mget 0 s.bring s.ev.unit = 0 →
    (∀ v, imageVer 0 first = some v →
      exec .coldReset s = .next { s with fwVer := mset 0 s.fwVer s.ev.unit v, bring := mset 0 s.bring s.ev.unit 1 }) ∧
    (imageVer 0 first = none → ∃ t, exec .coldReset s = .next t ∧ mget 0 t.bring s.ev.unit = 17 ∧
      t.log = s.log ++ [{ kind := 5, what := 256 * s.ev.unit + 1 }] ∧
      (∀ c, c / 256 = s.ev.unit → (t.core c).unavailable = true) ∧ (∀ c, c / 256 ≠ s.ev.unit → t.core c = s.core c) ∧
      (∀ e, e < 24 → (edgeDies e).1 = s.ev.unit ∨ (edgeDies e).2 = s.ev.unit → fld (mget 0 t.edges e) 0 2 ≠ 0))) ∧
  (∀ p, s.ev.spec = some p → s.specOk p = true → ∃ t, exec .hostPartitionCreate s = .next t ∧ t.part p.pid = some { spec := p } ∧
    t.dram = s.dram.write p.ctrl (4 * 2 ^ 64 + 4 * 2 ^ 256 + (s.dram.read p.ctrl 64 / 2 ^ 352 % 2 ^ 10) * 2 ^ 352) 64 ∧
    t.replies = s.replies ++ [{ pid := p.pid, ctrl := p.ctrl, asdir := p.asdir, decoders := (List.range 8).map (mget 0 s.hdm) }]) ∧
  (s.sampledAt + 1500 ≤ s.cycles → exec .powerSample s = .next { s with power := (n :: s.power).take 10000, sampledAt := s.cycles }) ∧
  (s.throttledAt + 15000 ≤ s.cycles → 5500000 * s.power.length < total → s.throttle < 4 →
    exec .throttleStep s = .next { s with throttle := s.throttle + 1, throttledAt := s.cycles }) ∧
  (s.throttledAt + 15000 ≤ s.cycles → s.power = [] ∨ total < 5200000 * s.power.length → 0 < s.throttle →
    exec .throttleStep s = .next { s with throttle := s.throttle - 1, throttledAt := s.cycles })

/-! The machine as a whole (R37, R40, R46, R47, R63 to R67, R141, R318). -/

/-- Cold reset: what the field maps give the special registers, full registers and memory words, Free contexts at device level,
zero at every address. The values that the specification leaves open are the model's (log 1, log 2); none is named here. -/
def Obligations.ResetState : Prop :=
  let r := State.reset
  (r.MemOk ∧ ∀ a, r.win.full a = true ∧ r.dram.full a = true ∧ r.far.full a = true ∧ r.host.full a = true) ∧
  ∀ c x : Nat, (r.ctx c x).st = .free ∧ (r.ctx c x).lvl = 2 ∧ (∀ code, r.full c x code = true) ∧
    r.sr c x 0x002 = 0 ∧ r.sr c x 0x005 = 0 ∧ r.sr c x 0x006 = 0 ∧ r.sr c x 0x008 = 64 ∧ r.sr c x 0x009 = 256 ∧
    r.sr c x 0x00C = 0 ∧ r.sr c x 0x100 = 2 ∧ r.sr c x 0x101 = 0 ∧ r.sr c x 0x104 = 0 ∧ r.sr c x 0x105 = 0 ∧
    (r.sr c x 0x110).toNat % 2 ^ 16 = 0 ∧ r.sr c x 0x111 = 0 ∧
    (∀ n, 0x1B0 ≤ n → n < 0x1C0 → r.sr c x n = 0) ∧ ∀ p a n, nodeAt (r.nodesAtCore p c) a n = {}

/-- Whatever happens, every memory stays in its canonical form. -/
def Obligations.MemoryStaysCanonical : Prop := ∀ s t : State, s.MemOk → step s = .next t → t.MemOk

/-- Every instruction, and every event, goes on; only an issue from a context that holds no strand stops.
The model's readings and choices enter it by log 3. -/
def Obligations.ExecutionGoesOn : Prop := ∀ (i : Instr) (s : State), GoesOn (exec i s) ∨
  (s.me.st = .free ∧ exec i s = .fault .noStrand)

/-- No step stops or refuses.
The model's readings and choices enter it by logs 3, 43. -/
def Obligations.EveryStepGoesOn : Prop := ∀ s : State, GoesOn (step s)

/-- R31, R63 to R67: the step of a core with an issue slot executes, for the context that the wheel picks, the instruction that
the line at its PC holds there; without choices left, it does so where no event is due; where no context may issue the ck ends.
The model's readings and choices enter it by log 3. -/
def Obligations.StepRunsTheInstruction : Prop := ∀ (s t : State) (c x : Nat) (l : Line),
  let head := fun s : State => fld (s.ctx c x).pc 1 5 - 1
  let at_ := fun s : State => ({ s with cur := c, cx := x } : State)
  let runs := fun (s : State) (o : Host.Outcome State Fault Refusal) => (at_ s).replay = none → (at_ s).fetch c x = (t, .ok l) →
    o = exec (decodeAt l (head s)) { t with iw := iwAt l (head s), iwH := lineH l }
  (∀ rest, s.schedule = .issue c :: rest → s.wheelPick c = some x → runs { s with schedule := rest } (step s)) ∧
  (s.schedule = [] → s.due s.candidates = none → s.issuer = some (c, x) → runs s (step s)) ∧
  (∀ rest i e, s.schedule = .event i e :: rest → isEvent i = true → step s = exec i { s with schedule := rest, ev := e }) ∧
  (∀ rest, s.schedule = .tick :: rest → ({ s with schedule := rest } : State).mustIssue = some (c, x) → runs s (step s)) ∧
  (∀ rest, s.schedule = .tick :: rest → ({ s with schedule := rest } : State).mustIssue = none →
    step s = .next (endCk { s with schedule := rest })) ∧
  (s.schedule = [] → s.due s.candidates = none → s.issuer = none → step s = .next (endCk s))

/-- R63 to R76: words with their tails, as the specification writes them out beside their fields, and the instructions they are. -/
def Obligations.DecodedWords : Prop :=
  decode 0x8445 0xFFE70000 = .loop { d := 5, imm := 0xFFFFFFFFE7 } ∧
  decode 0xD042 0x4008800C007D = .ldF { d := 18, a := 31, o := 2, la := 3, imm := 0x4008 } ∧
  decode 0x5930 0x0030 = .qmov { a := 12 } ∧
  decode 0x9D00 0x04005859 = .fmaF64 { d := 16, a := 22, b := 22, c := 16 } ∧
  decode 0xF31B 0x001040000020 = .sstep { d := 11, a := 8, o := 1, imm := 16 } ∧
  decode 0xB808 0x003C0032 = .cpy { d := 40, a := 12, la := 15 } ∧
  decode 0xFC79 0x0008C0006051 = .ldM { d := 25, a := 20, b := 24, o := 3, imm := 8 } ∧
  decode 0x7A1A 0x1000 = .redPost { d := 10, b := 4 } ∧
  decode 0x7E39 0x5450 = .ipi { d := 9, a := 20, b := 21 }

/-- R64, R70 to R73: the word of every well-formed instruction, with every value of its fields, decodes to it, and its internal
word carries those fields.
The model's readings and choices enter it by log 59. -/
def Obligations.EncodedInstructionsDecode : Prop := ∀ (g : Fields) (i : Instr) (h : BitVec 16) (t : BitVec 48),
  i.wf g = true → encode g i = some (h, t) →
  decode h t = i ∧ ∀ sh, i.shape g = some sh → fieldsOf (expand h t) = sh.f ∧ expand h t = sh.iw

/-- R37, R40, R46, R47: what a result leaves in its register, and in the others.
The model's readings and choices enter it by log 42. -/
def Obligations.RegisterWrites : Prop := ∀ (s : State) (d : BitVec 6),
  (∀ v, Wrote s (s.wrG d v) d.toNat (v.setWidth 1024)) ∧
  (d.toNat < 32 → ∀ v, Wrote s (s.wrF d v) (0x40 + d.toNat) (v.setWidth 1024)) ∧
  (d.toNat < 32 → ∀ v, Wrote s (s.wrV d v) (0x60 + d.toNat) v) ∧
  (d.toNat < 8 → ∀ v, Wrote s (s.wrK d v) (0x80 + d.toNat) (v.setWidth 1024)) ∧
  (∀ v code, code ≠ d.toNat → (s.wrG d v).reg s.cur s.cx code = s.reg s.cur s.cx code ∧
    (s.wrG d v).full s.cur s.cx code = s.full s.cur s.cx code) ∧
  (d.toNat < 32 → ∀ v code, code ≠ 0x40 + d.toNat → (s.wrF d v).reg s.cur s.cx code = s.reg s.cur s.cx code ∧
    (s.wrF d v).full s.cur s.cx code = s.full s.cur s.cx code) ∧
  (d.toNat < 32 → ∀ v code, code ≠ 0x60 + d.toNat → (s.wrV d v).reg s.cur s.cx code = s.reg s.cur s.cx code ∧
    (s.wrV d v).full s.cur s.cx code = s.full s.cur s.cx code) ∧
  (d.toNat < 8 → ∀ v code, code ≠ 0x80 + d.toNat → (s.wrK d v).reg s.cur s.cx code = s.reg s.cur s.cx code ∧
    (s.wrK d v).full s.cur s.cx code = s.full s.cur s.cx code) ∧
  (∀ v w c x code, (c ≠ s.cur ∨ x ≠ s.cx) → (s.wrG d v).reg c x code = s.reg c x code ∧ (s.wrF d v).reg c x code = s.reg c x code ∧
    (s.wrV d w).reg c x code = s.reg c x code ∧ ∀ m, (s.wrK d m).reg c x code = s.reg c x code)

/-- R30, R37, R98: a register instruction that can raise no exception retires and changes its destination, the marked sources'
full bits, with rounding the sticky flags, and the PC: every other register, special register, accumulator and exception
register, and every byte of memory, is as before. -/
def Obligations.RegisterInstructionsKeepTheRest : Prop := ∀ (f : Fields) (i : Instr) (sh : Shape) (s : State),
  let plain : List Instr := [
    .add f, .sub f, .and f, .or f, .xor f, .andn f, .shl f, .shr f, .sar f, .rotl f, .mul f, .minI64 f, .maxI64 f, .minN64 f,
    .maxN64 f, .clz f, .ctz f, .popc f, .sextI8 f, .sextI16 f, .sextI32 f, .zextN8 f, .zextN16 f, .zextN32 f, .cmpEq f, .cmpNe f,
    .cmpLt f, .cmpGe f, .cmpLo f, .cmpHs f, .mulhI64 f, .mulhN64 f, .sel f, .bfx f, .bfi f, .addi f, .li f, .lea f, .nop, .br f,
    .call f, .bz f, .bnz f, .loop f, .bcEq f, .bcNe f, .bcLt f, .bcGe f, .bcLo f, .bcHs f, .fmv f, .fclassF64 f, .fclassF32 f,
    .vbcast f, .vperm f, .vslideUp f, .vslideDn f, .vmov f, .vsel f, .kand f, .kor f, .kxor f, .knot f, .kset f, .kpop f]
  let flagged : List Instr := [
    .faddF64 f, .fsubF64 f, .fmulF64 f, .fminF64 f, .fmaxF64 f, .fsgnF64 f, .faddF32 f, .fsubF32 f, .fmulF32 f, .fminF32 f,
    .fmaxF32 f, .fsgnF32 f, .fmaF64 f, .fmsF64 f, .fnmaF64 f, .fmaF32 f, .fmsF32 f, .fnmaF32 f, .fcmpEqF64 f, .fcmpLtF64 f,
    .fcmpLeF64 f, .fcmpUnF64 f, .fcmpEqF32 f, .fcmpLtF32 f, .fcmpLeF32 f, .fcmpUnF32 f, .vadd f, .vsub f, .vmul f, .vfma f]
  i ∈ plain ∨ (i ∈ flagged ∧ s.me.fpmode.extractLsb' 2 5 = 0) → Issues i sh s → ∃ t, exec i s = .next t ∧
  RegisterOnly s t ∧ SameMemory s t ∧
  (∀ code, code ∉ writesOf sh ∨ isShared code = true → t.reg s.cur s.cx code = s.reg s.cur s.cx code) ∧
  (∀ code, code ∉ writesOf sh → (∀ m, (code, m) ∈ readsOf sh → m = .plain) → t.full s.cur s.cx code = s.full s.cur s.cx code) ∧
  t.me.fpflags &&& s.me.fpflags = s.me.fpflags ∧ (i ∈ plain → t.me.fpflags = s.me.fpflags)

/-- R134, R144, R150: an access that no check of R143 stops leaves, when it issues, every byte of memory as it is, every register with
its full bit but its destination and its marked sources, the sticky flags, the node, the depth and the level: it is performed at its
home, later. -/
def Obligations.AccessesKeepMemoryAtIssue : Prop := ∀ (f : Fields) (i : Instr) (a : State → Word) (n : Nat) (write : Bool) (sh : Shape)
    (s : State),
  let ea := memAddress f true
  let g := fun s : State => s.gr f.a
  let fl := if f.o.getLsbD 0 then 4 else 8
  let m := tyBits (fld f.imm 0 4) / 8
  (i, n, write) ∈ [
    (Instr.ldB f, 1, false), (.ldH f, 2, false), (.ldW f, 4, false), (.ldD f, 8, false), (.ldF f, fl, false),
    (.stB f, 1, true), (.stH f, 2, true), (.stW f, 4, true), (.stD f, 8, true), (.stF f, fl, true)] ∧ a = ea ∨
  (i, n, write) ∈ [
    (Instr.amoAdd f, m, true), (.amoAnd f, m, true), (.amoOr f, m, true), (.amoXor f, m, true), (.amoMin f, m, true),
    (.amoMax f, m, true), (.amoSwap f, m, true), (.amoCas f, m, true), (.amoAddF32 f, 4, true), (.amoAddF64 f, 8, true)] ∧ a = g ∧
    s.rmwFault (a s) n = none →
  Issues i sh s → s.issueFault (s.myWho .strand) (a s) n n write = none → ∃ t, exec i s = .next t ∧ SameMemory s t ∧
  (∀ code, t.reg s.cur s.cx code = s.reg s.cur s.cx code) ∧
  (∀ code, code ∉ writesOf sh → (∀ m, (code, m) ∈ readsOf sh → m = .plain) → t.full s.cur s.cx code = s.full s.cur s.cx code) ∧
  t.me.fpflags = s.me.fpflags ∧ t.me.hypCur = s.me.hypCur ∧ t.me.depth = s.me.depth ∧ t.me.lvl = s.me.lvl

end Statements
end

