-- ==== Sys2Proof/Laws/Maps.lean ====
section
/-!
SUPPORT. The laws of maps in canonical form: a read after a write, and that every operation keeps the form. The laws of lists
by index.
-/
namespace Sys2Proof.Machine

section
variable {α : Type}

theorem mget_mdel (d : α) (m : TMap α) (k j : Nat) : mget d (mdel m k) j = if j = k then d else mget d m j := by
  induction m with
  | nil => simp [mdel, mget]
  | cons e m ih =>
    obtain ⟨i, v⟩ := e
    simp only [mdel] at ih
    by_cases h : i = k
    · subst h
      simp only [mdel, List.filter_cons, bne_self_eq_false, Bool.false_eq_true, ↓reduceIte, ih, mget]
      split
      · rfl
      · rename_i hj; rw [if_neg (fun h => hj h.symm)]
    · simp only [mdel, List.filter_cons, bne_iff_ne, ne_eq, h, not_false_eq_true, ↓reduceIte, mget, ih]
      split <;> split <;> simp_all

theorem mget_mins (d : α) (m : TMap α) (k j : Nat) (v : α) : mget d (mins k v m) j = if k = j then v else mget d m j := by
  induction m with
  | nil => simp [mins, mget]
  | cons e m ih =>
    obtain ⟨i, w⟩ := e
    simp only [mins]
    split
    · simp [mget]
    · rename_i h
      simp only [mget, ih]
      by_cases hi : i = j
      · have : k ≠ j := by omega
        simp [hi, this]
      · simp [hi]

variable [DecidableEq α]

/-- A read after a write. -/
theorem mget_mset (d : α) (m : TMap α) (k j : Nat) (v : α) : mget d (mset d m k v) j = if j = k then v else mget d m j := by
  unfold mset
  split
  · rename_i h
    rw [mget_mdel, h]
  · rw [mget_mins, mget_mdel]
    by_cases h : j = k
    · simp [h]
    · rw [if_neg (fun e => h e.symm), if_neg h, if_neg h]

@[simp] theorem mget_mset_self (d : α) (m : TMap α) (k : Nat) (v : α) : mget d (mset d m k v) k = v := by simp [mget_mset]

theorem mget_mset_ne (d : α) (m : TMap α) {k j : Nat} (v : α) (h : j ≠ k) : mget d (mset d m k v) j = mget d m j := by
  simp [mget_mset, h]

/-- The canonical form keeps every key above the head's. -/
theorem mwf_cons (d : α) (k : Nat) (v : α) (m : TMap α) :
    mwf d ((k, v) :: m) = true ↔ v ≠ d ∧ (∀ e ∈ m, k < e.1) ∧ mwf d m = true := by
  simp [mwf, and_assoc]

theorem mwf_filter (d : α) (p : Nat × α → Bool) {m : TMap α} (h : mwf d m = true) : mwf d (m.filter p) = true := by
  induction m with
  | nil => rfl
  | cons e m ih =>
    obtain ⟨k, v⟩ := e
    rw [mwf_cons] at h
    rw [List.filter_cons]
    split
    · rw [mwf_cons]
      exact ⟨h.1, fun e he => h.2.1 e (List.mem_of_mem_filter he), ih h.2.2⟩
    · exact ih h.2.2

theorem mwf_mdel (d : α) {m : TMap α} (k : Nat) (h : mwf d m = true) : mwf d (mdel m k) = true := mwf_filter d _ h

omit [DecidableEq α] in
theorem mem_mins {k : Nat} {v : α} {m : TMap α} {e : Nat × α} (h : e ∈ mins k v m) : e = (k, v) ∨ e ∈ m := by
  induction m with
  | nil => simpa [mins] using h
  | cons x m ih =>
    obtain ⟨j, w⟩ := x
    simp only [mins] at h
    split at h
    · simpa using h
    · rcases List.mem_cons.1 h with h | h
      · exact .inr (List.mem_cons.2 (.inl h))
      · rcases ih h with h | h
        · exact .inl h
        · exact .inr (List.mem_cons_of_mem _ h)

theorem mwf_mins (d : α) {m : TMap α} {k : Nat} {v : α} (h : mwf d m = true) (hv : v ≠ d) (hk : ∀ e ∈ m, e.1 ≠ k) :
    mwf d (mins k v m) = true := by
  induction m with
  | nil => simp [mins, mwf, hv]
  | cons x m ih =>
    obtain ⟨j, w⟩ := x
    rw [mwf_cons] at h
    simp only [mins]
    have hj : j ≠ k := hk (j, w) (by simp)
    split
    · rename_i hle
      rw [mwf_cons, mwf_cons]
      refine ⟨hv, ?_, h⟩
      intro e he
      rcases List.mem_cons.1 he with rfl | he
      · exact Nat.lt_of_le_of_ne hle (fun h => hj h.symm)
      · exact Nat.lt_of_le_of_lt hle (h.2.1 e he)
    · rename_i hle
      rw [mwf_cons]
      refine ⟨h.1, ?_, ih h.2.2 (fun e he => hk e (List.mem_cons_of_mem _ he))⟩
      intro e he
      rcases mem_mins he with rfl | he
      · exact Nat.lt_of_not_le hle
      · exact h.2.1 e he

/-- Every write keeps the canonical form. -/
theorem mwf_mset (d : α) {m : TMap α} (k : Nat) (v : α) (h : mwf d m = true) : mwf d (mset d m k v) = true := by
  unfold mset
  split
  · exact mwf_mdel d k h
  · rename_i hv
    exact mwf_mins d (mwf_mdel d k h) hv (fun e he => by simpa [mdel] using (List.mem_filter.1 he).2)

omit [DecidableEq α] in
theorem mget_of_lt (d : α) {m : TMap α} {k : Nat} (h : ∀ e ∈ m, k < e.1) : mget d m k = d := by
  induction m with
  | nil => rfl
  | cons e m ih =>
    obtain ⟨j, v⟩ := e
    have hj : k < j := h (j, v) (by simp)
    simp only [mget]
    rw [if_neg (by omega)]
    exact ih (fun e he => h e (List.mem_cons_of_mem _ he))

/-- Maps in canonical form that read alike are the same list. -/
theorem mwf_ext (d : α) {m n : TMap α} (hm : mwf d m = true) (hn : mwf d n = true) (h : ∀ k, mget d m k = mget d n k) :
    m = n := by
  induction m generalizing n with
  | nil =>
    cases n with
    | nil => rfl
    | cons e n =>
      obtain ⟨k, v⟩ := e
      rw [mwf_cons] at hn
      have := h k
      simp [mget] at this
      exact absurd this.symm hn.1
  | cons e m ih =>
    obtain ⟨k, v⟩ := e
    rw [mwf_cons] at hm
    cases n with
    | nil =>
      have := h k
      simp [mget] at this
      exact absurd this hm.1
    | cons f n =>
      obtain ⟨j, w⟩ := f
      rw [mwf_cons] at hn
      have hkj : k = j := by
        rcases Nat.lt_trichotomy k j with hlt | heq | hlt
        · have h1 := h k
          rw [mget_of_lt d (m := (j, w) :: n) (by
            intro e he
            rcases List.mem_cons.1 he with rfl | he
            · exact hlt
            · exact Nat.lt_trans hlt (hn.2.1 e he))] at h1
          simp [mget] at h1
          exact absurd h1 hm.1
        · exact heq
        · have h1 := h j
          rw [mget_of_lt d (m := (k, v) :: m) (by
            intro e he
            rcases List.mem_cons.1 he with rfl | he
            · exact hlt
            · exact Nat.lt_trans hlt (hm.2.1 e he))] at h1
          simp [mget] at h1
          exact absurd h1.symm hn.1
      subst hkj
      have hv : v = w := by simpa [mget] using h k
      subst hv
      congr 1
      refine ih hm.2.2 hn.2.2 (fun i => ?_)
      by_cases hi : k = i
      · subst hi
        rw [mget_of_lt d hm.2.1, mget_of_lt d hn.2.1]
      · simpa [mget, hi] using h i

end

/-! Lists by index. -/

theorem length_updNth {α : Type} (f : α → α) (l : List α) (k : Nat) : (updNth f l k).length = l.length := by
  induction l generalizing k with
  | nil => rfl
  | cons x l ih => cases k <;> simp [updNth, ih]

theorem nth_updNth {α : Type} (f : α → α) (l : List α) (k j : Nat) :
    nth (updNth f l k) j = if j = k then (nth l j).map f else nth l j := by
  induction l generalizing k j with
  | nil => simp [updNth, nth]
  | cons x l ih => cases k <;> cases j <;> simp [updNth, nth, ih]

theorem length_updIf {α : Type} (p : α → Bool) (f : α → α) (l : List α) : (updIf p f l).length = l.length := by simp [updIf]

end Sys2Proof.Machine
end

