-- ==== Sys2Proof/Laws/State.lean ====
section
/-!
SUPPORT. What each update of the state leaves as it is, field by field, and what it changes: no later proof unfolds a record
update.
-/
namespace Sys2Proof.Machine

/-! `State.setCore`. -/

@[simp] theorem State.setCore_cycles (s : State) (c : Nat) (k : Core) : (s.setCore c k).cycles = s.cycles := rfl
@[simp] theorem State.setCore_cur (s : State) (c : Nat) (k : Core) : (s.setCore c k).cur = s.cur := rfl
@[simp] theorem State.setCore_cx (s : State) (c : Nat) (k : Core) : (s.setCore c k).cx = s.cx := rfl
@[simp] theorem State.setCore_iw (s : State) (c : Nat) (k : Core) : (s.setCore c k).iw = s.iw := rfl
@[simp] theorem State.setCore_iwH (s : State) (c : Nat) (k : Core) : (s.setCore c k).iwH = s.iwH := rfl
@[simp] theorem State.setCore_ev (s : State) (c : Nat) (k : Core) : (s.setCore c k).ev = s.ev := rfl
@[simp] theorem State.setCore_schedule (s : State) (c : Nat) (k : Core) : (s.setCore c k).schedule = s.schedule := rfl
@[simp] theorem State.setCore_fresh (s : State) (c : Nat) (k : Core) : (s.setCore c k).fresh = s.fresh := rfl
@[simp] theorem State.setCore_clusters (s : State) (c : Nat) (k : Core) : (s.setCore c k).clusters = s.clusters := rfl
@[simp] theorem State.setCore_parts (s : State) (c : Nat) (k : Core) : (s.setCore c k).parts = s.parts := rfl
@[simp] theorem State.setCore_launches (s : State) (c : Nat) (k : Core) : (s.setCore c k).launches = s.launches := rfl
@[simp] theorem State.setCore_win (s : State) (c : Nat) (k : Core) : (s.setCore c k).win = s.win := rfl
@[simp] theorem State.setCore_dram (s : State) (c : Nat) (k : Core) : (s.setCore c k).dram = s.dram := rfl
@[simp] theorem State.setCore_far (s : State) (c : Nat) (k : Core) : (s.setCore c k).far = s.far := rfl
@[simp] theorem State.setCore_host (s : State) (c : Nat) (k : Core) : (s.setCore c k).host = s.host := rfl
@[simp] theorem State.setCore_slices (s : State) (c : Nat) (k : Core) : (s.setCore c k).slices = s.slices := rfl
@[simp] theorem State.setCore_vers (s : State) (c : Nat) (k : Core) : (s.setCore c k).vers = s.vers := rfl
@[simp] theorem State.setCore_hostWr (s : State) (c : Nat) (k : Core) : (s.setCore c k).hostWr = s.hostWr := rfl
@[simp] theorem State.setCore_swPages (s : State) (c : Nat) (k : Core) : (s.setCore c k).swPages = s.swPages := rfl
@[simp] theorem State.setCore_pages (s : State) (c : Nat) (k : Core) : (s.setCore c k).pages = s.pages := rfl
@[simp] theorem State.setCore_recs (s : State) (c : Nat) (k : Core) : (s.setCore c k).recs = s.recs := rfl
@[simp] theorem State.setCore_evLines (s : State) (c : Nat) (k : Core) : (s.setCore c k).evLines = s.evLines := rfl
@[simp] theorem State.setCore_rot (s : State) (c : Nat) (k : Core) : (s.setCore c k).rot = s.rot := rfl
@[simp] theorem State.setCore_tlb (s : State) (c : Nat) (k : Core) : (s.setCore c k).tlb = s.tlb := rfl
@[simp] theorem State.setCore_wcache (s : State) (c : Nat) (k : Core) : (s.setCore c k).wcache = s.wcache := rfl
@[simp] theorem State.setCore_remap (s : State) (c : Nat) (k : Core) : (s.setCore c k).remap = s.remap := rfl
@[simp] theorem State.setCore_waiters (s : State) (c : Nat) (k : Core) : (s.setCore c k).waiters = s.waiters := rfl
@[simp] theorem State.setCore_net (s : State) (c : Nat) (k : Core) : (s.setCore c k).net = s.net := rfl
@[simp] theorem State.setCore_pairSeq (s : State) (c : Nat) (k : Core) : (s.setCore c k).pairSeq = s.pairSeq := rfl
@[simp] theorem State.setCore_unacked (s : State) (c : Nat) (k : Core) : (s.setCore c k).unacked = s.unacked := rfl
@[simp] theorem State.setCore_joinMeta (s : State) (c : Nat) (k : Core) : (s.setCore c k).joinMeta = s.joinMeta := rfl
@[simp] theorem State.setCore_devId (s : State) (c : Nat) (k : Core) : (s.setCore c k).devId = s.devId := rfl
@[simp] theorem State.setCore_fwVer (s : State) (c : Nat) (k : Core) : (s.setCore c k).fwVer = s.fwVer := rfl
@[simp] theorem State.setCore_links (s : State) (c : Nat) (k : Core) : (s.setCore c k).links = s.links := rfl
@[simp] theorem State.setCore_lostLanes (s : State) (c : Nat) (k : Core) : (s.setCore c k).lostLanes = s.lostLanes := rfl
@[simp] theorem State.setCore_edges (s : State) (c : Nat) (k : Core) : (s.setCore c k).edges = s.edges := rfl
@[simp] theorem State.setCore_hdm (s : State) (c : Nat) (k : Core) : (s.setCore c k).hdm = s.hdm := rfl
@[simp] theorem State.setCore_replies (s : State) (c : Nat) (k : Core) : (s.setCore c k).replies = s.replies := rfl
@[simp] theorem State.setCore_fwPending (s : State) (c : Nat) (k : Core) : (s.setCore c k).fwPending = s.fwPending := rfl
@[simp] theorem State.setCore_recovery (s : State) (c : Nat) (k : Core) : (s.setCore c k).recovery = s.recovery := rfl
@[simp] theorem State.setCore_bring (s : State) (c : Nat) (k : Core) : (s.setCore c k).bring = s.bring := rfl
@[simp] theorem State.setCore_granularity (s : State) (c : Nat) (k : Core) : (s.setCore c k).granularity = s.granularity := rfl
@[simp] theorem State.setCore_tests (s : State) (c : Nat) (k : Core) : (s.setCore c k).tests = s.tests := rfl
@[simp] theorem State.setCore_log (s : State) (c : Nat) (k : Core) : (s.setCore c k).log = s.log := rfl
@[simp] theorem State.setCore_throttle (s : State) (c : Nat) (k : Core) : (s.setCore c k).throttle = s.throttle := rfl
@[simp] theorem State.setCore_throttledAt (s : State) (c : Nat) (k : Core) : (s.setCore c k).throttledAt = s.throttledAt := rfl
@[simp] theorem State.setCore_power (s : State) (c : Nat) (k : Core) : (s.setCore c k).power = s.power := rfl
@[simp] theorem State.setCore_sampledAt (s : State) (c : Nat) (k : Core) : (s.setCore c k).sampledAt = s.sampledAt := rfl
@[simp] theorem State.setCore_holds (s : State) (c : Nat) (k : Core) : (s.setCore c k).holds = s.holds := rfl

/-! `State.updCore`. -/

@[simp] theorem State.updCore_cycles (s : State) (c : Nat) (g : Core → Core) : (s.updCore c g).cycles = s.cycles := rfl
@[simp] theorem State.updCore_cur (s : State) (c : Nat) (g : Core → Core) : (s.updCore c g).cur = s.cur := rfl
@[simp] theorem State.updCore_cx (s : State) (c : Nat) (g : Core → Core) : (s.updCore c g).cx = s.cx := rfl
@[simp] theorem State.updCore_iw (s : State) (c : Nat) (g : Core → Core) : (s.updCore c g).iw = s.iw := rfl
@[simp] theorem State.updCore_iwH (s : State) (c : Nat) (g : Core → Core) : (s.updCore c g).iwH = s.iwH := rfl
@[simp] theorem State.updCore_ev (s : State) (c : Nat) (g : Core → Core) : (s.updCore c g).ev = s.ev := rfl
@[simp] theorem State.updCore_schedule (s : State) (c : Nat) (g : Core → Core) : (s.updCore c g).schedule = s.schedule := rfl
@[simp] theorem State.updCore_fresh (s : State) (c : Nat) (g : Core → Core) : (s.updCore c g).fresh = s.fresh := rfl
@[simp] theorem State.updCore_clusters (s : State) (c : Nat) (g : Core → Core) : (s.updCore c g).clusters = s.clusters := rfl
@[simp] theorem State.updCore_parts (s : State) (c : Nat) (g : Core → Core) : (s.updCore c g).parts = s.parts := rfl
@[simp] theorem State.updCore_launches (s : State) (c : Nat) (g : Core → Core) : (s.updCore c g).launches = s.launches := rfl
@[simp] theorem State.updCore_win (s : State) (c : Nat) (g : Core → Core) : (s.updCore c g).win = s.win := rfl
@[simp] theorem State.updCore_dram (s : State) (c : Nat) (g : Core → Core) : (s.updCore c g).dram = s.dram := rfl
@[simp] theorem State.updCore_far (s : State) (c : Nat) (g : Core → Core) : (s.updCore c g).far = s.far := rfl
@[simp] theorem State.updCore_host (s : State) (c : Nat) (g : Core → Core) : (s.updCore c g).host = s.host := rfl
@[simp] theorem State.updCore_slices (s : State) (c : Nat) (g : Core → Core) : (s.updCore c g).slices = s.slices := rfl
@[simp] theorem State.updCore_vers (s : State) (c : Nat) (g : Core → Core) : (s.updCore c g).vers = s.vers := rfl
@[simp] theorem State.updCore_hostWr (s : State) (c : Nat) (g : Core → Core) : (s.updCore c g).hostWr = s.hostWr := rfl
@[simp] theorem State.updCore_swPages (s : State) (c : Nat) (g : Core → Core) : (s.updCore c g).swPages = s.swPages := rfl
@[simp] theorem State.updCore_pages (s : State) (c : Nat) (g : Core → Core) : (s.updCore c g).pages = s.pages := rfl
@[simp] theorem State.updCore_recs (s : State) (c : Nat) (g : Core → Core) : (s.updCore c g).recs = s.recs := rfl
@[simp] theorem State.updCore_evLines (s : State) (c : Nat) (g : Core → Core) : (s.updCore c g).evLines = s.evLines := rfl
@[simp] theorem State.updCore_rot (s : State) (c : Nat) (g : Core → Core) : (s.updCore c g).rot = s.rot := rfl
@[simp] theorem State.updCore_tlb (s : State) (c : Nat) (g : Core → Core) : (s.updCore c g).tlb = s.tlb := rfl
@[simp] theorem State.updCore_wcache (s : State) (c : Nat) (g : Core → Core) : (s.updCore c g).wcache = s.wcache := rfl
@[simp] theorem State.updCore_remap (s : State) (c : Nat) (g : Core → Core) : (s.updCore c g).remap = s.remap := rfl
@[simp] theorem State.updCore_waiters (s : State) (c : Nat) (g : Core → Core) : (s.updCore c g).waiters = s.waiters := rfl
@[simp] theorem State.updCore_net (s : State) (c : Nat) (g : Core → Core) : (s.updCore c g).net = s.net := rfl
@[simp] theorem State.updCore_pairSeq (s : State) (c : Nat) (g : Core → Core) : (s.updCore c g).pairSeq = s.pairSeq := rfl
@[simp] theorem State.updCore_unacked (s : State) (c : Nat) (g : Core → Core) : (s.updCore c g).unacked = s.unacked := rfl
@[simp] theorem State.updCore_joinMeta (s : State) (c : Nat) (g : Core → Core) : (s.updCore c g).joinMeta = s.joinMeta := rfl
@[simp] theorem State.updCore_devId (s : State) (c : Nat) (g : Core → Core) : (s.updCore c g).devId = s.devId := rfl
@[simp] theorem State.updCore_fwVer (s : State) (c : Nat) (g : Core → Core) : (s.updCore c g).fwVer = s.fwVer := rfl
@[simp] theorem State.updCore_links (s : State) (c : Nat) (g : Core → Core) : (s.updCore c g).links = s.links := rfl
@[simp] theorem State.updCore_lostLanes (s : State) (c : Nat) (g : Core → Core) : (s.updCore c g).lostLanes = s.lostLanes := rfl
@[simp] theorem State.updCore_edges (s : State) (c : Nat) (g : Core → Core) : (s.updCore c g).edges = s.edges := rfl
@[simp] theorem State.updCore_hdm (s : State) (c : Nat) (g : Core → Core) : (s.updCore c g).hdm = s.hdm := rfl
@[simp] theorem State.updCore_replies (s : State) (c : Nat) (g : Core → Core) : (s.updCore c g).replies = s.replies := rfl
@[simp] theorem State.updCore_fwPending (s : State) (c : Nat) (g : Core → Core) : (s.updCore c g).fwPending = s.fwPending := rfl
@[simp] theorem State.updCore_recovery (s : State) (c : Nat) (g : Core → Core) : (s.updCore c g).recovery = s.recovery := rfl
@[simp] theorem State.updCore_bring (s : State) (c : Nat) (g : Core → Core) : (s.updCore c g).bring = s.bring := rfl
@[simp] theorem State.updCore_granularity (s : State) (c : Nat) (g : Core → Core) : (s.updCore c g).granularity = s.granularity := rfl
@[simp] theorem State.updCore_tests (s : State) (c : Nat) (g : Core → Core) : (s.updCore c g).tests = s.tests := rfl
@[simp] theorem State.updCore_log (s : State) (c : Nat) (g : Core → Core) : (s.updCore c g).log = s.log := rfl
@[simp] theorem State.updCore_throttle (s : State) (c : Nat) (g : Core → Core) : (s.updCore c g).throttle = s.throttle := rfl
@[simp] theorem State.updCore_throttledAt (s : State) (c : Nat) (g : Core → Core) : (s.updCore c g).throttledAt = s.throttledAt := rfl
@[simp] theorem State.updCore_power (s : State) (c : Nat) (g : Core → Core) : (s.updCore c g).power = s.power := rfl
@[simp] theorem State.updCore_sampledAt (s : State) (c : Nat) (g : Core → Core) : (s.updCore c g).sampledAt = s.sampledAt := rfl
@[simp] theorem State.updCore_holds (s : State) (c : Nat) (g : Core → Core) : (s.updCore c g).holds = s.holds := rfl

/-! `State.setCtx`. -/

@[simp] theorem State.setCtx_cycles (s : State) (c x : Nat) (k : Ctx) : (s.setCtx c x k).cycles = s.cycles := rfl
@[simp] theorem State.setCtx_cur (s : State) (c x : Nat) (k : Ctx) : (s.setCtx c x k).cur = s.cur := rfl
@[simp] theorem State.setCtx_cx (s : State) (c x : Nat) (k : Ctx) : (s.setCtx c x k).cx = s.cx := rfl
@[simp] theorem State.setCtx_iw (s : State) (c x : Nat) (k : Ctx) : (s.setCtx c x k).iw = s.iw := rfl
@[simp] theorem State.setCtx_iwH (s : State) (c x : Nat) (k : Ctx) : (s.setCtx c x k).iwH = s.iwH := rfl
@[simp] theorem State.setCtx_ev (s : State) (c x : Nat) (k : Ctx) : (s.setCtx c x k).ev = s.ev := rfl
@[simp] theorem State.setCtx_schedule (s : State) (c x : Nat) (k : Ctx) : (s.setCtx c x k).schedule = s.schedule := rfl
@[simp] theorem State.setCtx_fresh (s : State) (c x : Nat) (k : Ctx) : (s.setCtx c x k).fresh = s.fresh := rfl
@[simp] theorem State.setCtx_clusters (s : State) (c x : Nat) (k : Ctx) : (s.setCtx c x k).clusters = s.clusters := rfl
@[simp] theorem State.setCtx_parts (s : State) (c x : Nat) (k : Ctx) : (s.setCtx c x k).parts = s.parts := rfl
@[simp] theorem State.setCtx_launches (s : State) (c x : Nat) (k : Ctx) : (s.setCtx c x k).launches = s.launches := rfl
@[simp] theorem State.setCtx_win (s : State) (c x : Nat) (k : Ctx) : (s.setCtx c x k).win = s.win := rfl
@[simp] theorem State.setCtx_dram (s : State) (c x : Nat) (k : Ctx) : (s.setCtx c x k).dram = s.dram := rfl
@[simp] theorem State.setCtx_far (s : State) (c x : Nat) (k : Ctx) : (s.setCtx c x k).far = s.far := rfl
@[simp] theorem State.setCtx_host (s : State) (c x : Nat) (k : Ctx) : (s.setCtx c x k).host = s.host := rfl
@[simp] theorem State.setCtx_slices (s : State) (c x : Nat) (k : Ctx) : (s.setCtx c x k).slices = s.slices := rfl
@[simp] theorem State.setCtx_vers (s : State) (c x : Nat) (k : Ctx) : (s.setCtx c x k).vers = s.vers := rfl
@[simp] theorem State.setCtx_hostWr (s : State) (c x : Nat) (k : Ctx) : (s.setCtx c x k).hostWr = s.hostWr := rfl
@[simp] theorem State.setCtx_swPages (s : State) (c x : Nat) (k : Ctx) : (s.setCtx c x k).swPages = s.swPages := rfl
@[simp] theorem State.setCtx_pages (s : State) (c x : Nat) (k : Ctx) : (s.setCtx c x k).pages = s.pages := rfl
@[simp] theorem State.setCtx_recs (s : State) (c x : Nat) (k : Ctx) : (s.setCtx c x k).recs = s.recs := rfl
@[simp] theorem State.setCtx_evLines (s : State) (c x : Nat) (k : Ctx) : (s.setCtx c x k).evLines = s.evLines := rfl
@[simp] theorem State.setCtx_rot (s : State) (c x : Nat) (k : Ctx) : (s.setCtx c x k).rot = s.rot := rfl
@[simp] theorem State.setCtx_tlb (s : State) (c x : Nat) (k : Ctx) : (s.setCtx c x k).tlb = s.tlb := rfl
@[simp] theorem State.setCtx_wcache (s : State) (c x : Nat) (k : Ctx) : (s.setCtx c x k).wcache = s.wcache := rfl
@[simp] theorem State.setCtx_remap (s : State) (c x : Nat) (k : Ctx) : (s.setCtx c x k).remap = s.remap := rfl
@[simp] theorem State.setCtx_waiters (s : State) (c x : Nat) (k : Ctx) : (s.setCtx c x k).waiters = s.waiters := rfl
@[simp] theorem State.setCtx_net (s : State) (c x : Nat) (k : Ctx) : (s.setCtx c x k).net = s.net := rfl
@[simp] theorem State.setCtx_pairSeq (s : State) (c x : Nat) (k : Ctx) : (s.setCtx c x k).pairSeq = s.pairSeq := rfl
@[simp] theorem State.setCtx_unacked (s : State) (c x : Nat) (k : Ctx) : (s.setCtx c x k).unacked = s.unacked := rfl
@[simp] theorem State.setCtx_joinMeta (s : State) (c x : Nat) (k : Ctx) : (s.setCtx c x k).joinMeta = s.joinMeta := rfl
@[simp] theorem State.setCtx_devId (s : State) (c x : Nat) (k : Ctx) : (s.setCtx c x k).devId = s.devId := rfl
@[simp] theorem State.setCtx_fwVer (s : State) (c x : Nat) (k : Ctx) : (s.setCtx c x k).fwVer = s.fwVer := rfl
@[simp] theorem State.setCtx_links (s : State) (c x : Nat) (k : Ctx) : (s.setCtx c x k).links = s.links := rfl
@[simp] theorem State.setCtx_lostLanes (s : State) (c x : Nat) (k : Ctx) : (s.setCtx c x k).lostLanes = s.lostLanes := rfl
@[simp] theorem State.setCtx_edges (s : State) (c x : Nat) (k : Ctx) : (s.setCtx c x k).edges = s.edges := rfl
@[simp] theorem State.setCtx_hdm (s : State) (c x : Nat) (k : Ctx) : (s.setCtx c x k).hdm = s.hdm := rfl
@[simp] theorem State.setCtx_replies (s : State) (c x : Nat) (k : Ctx) : (s.setCtx c x k).replies = s.replies := rfl
@[simp] theorem State.setCtx_fwPending (s : State) (c x : Nat) (k : Ctx) : (s.setCtx c x k).fwPending = s.fwPending := rfl
@[simp] theorem State.setCtx_recovery (s : State) (c x : Nat) (k : Ctx) : (s.setCtx c x k).recovery = s.recovery := rfl
@[simp] theorem State.setCtx_bring (s : State) (c x : Nat) (k : Ctx) : (s.setCtx c x k).bring = s.bring := rfl
@[simp] theorem State.setCtx_granularity (s : State) (c x : Nat) (k : Ctx) : (s.setCtx c x k).granularity = s.granularity := rfl
@[simp] theorem State.setCtx_tests (s : State) (c x : Nat) (k : Ctx) : (s.setCtx c x k).tests = s.tests := rfl
@[simp] theorem State.setCtx_log (s : State) (c x : Nat) (k : Ctx) : (s.setCtx c x k).log = s.log := rfl
@[simp] theorem State.setCtx_throttle (s : State) (c x : Nat) (k : Ctx) : (s.setCtx c x k).throttle = s.throttle := rfl
@[simp] theorem State.setCtx_throttledAt (s : State) (c x : Nat) (k : Ctx) : (s.setCtx c x k).throttledAt = s.throttledAt := rfl
@[simp] theorem State.setCtx_power (s : State) (c x : Nat) (k : Ctx) : (s.setCtx c x k).power = s.power := rfl
@[simp] theorem State.setCtx_sampledAt (s : State) (c x : Nat) (k : Ctx) : (s.setCtx c x k).sampledAt = s.sampledAt := rfl
@[simp] theorem State.setCtx_holds (s : State) (c x : Nat) (k : Ctx) : (s.setCtx c x k).holds = s.holds := rfl

/-! `State.updCtx`. -/

@[simp] theorem State.updCtx_cycles (s : State) (c x : Nat) (g : Ctx → Ctx) : (s.updCtx c x g).cycles = s.cycles := rfl
@[simp] theorem State.updCtx_cur (s : State) (c x : Nat) (g : Ctx → Ctx) : (s.updCtx c x g).cur = s.cur := rfl
@[simp] theorem State.updCtx_cx (s : State) (c x : Nat) (g : Ctx → Ctx) : (s.updCtx c x g).cx = s.cx := rfl
@[simp] theorem State.updCtx_iw (s : State) (c x : Nat) (g : Ctx → Ctx) : (s.updCtx c x g).iw = s.iw := rfl
@[simp] theorem State.updCtx_iwH (s : State) (c x : Nat) (g : Ctx → Ctx) : (s.updCtx c x g).iwH = s.iwH := rfl
@[simp] theorem State.updCtx_ev (s : State) (c x : Nat) (g : Ctx → Ctx) : (s.updCtx c x g).ev = s.ev := rfl
@[simp] theorem State.updCtx_schedule (s : State) (c x : Nat) (g : Ctx → Ctx) : (s.updCtx c x g).schedule = s.schedule := rfl
@[simp] theorem State.updCtx_fresh (s : State) (c x : Nat) (g : Ctx → Ctx) : (s.updCtx c x g).fresh = s.fresh := rfl
@[simp] theorem State.updCtx_clusters (s : State) (c x : Nat) (g : Ctx → Ctx) : (s.updCtx c x g).clusters = s.clusters := rfl
@[simp] theorem State.updCtx_parts (s : State) (c x : Nat) (g : Ctx → Ctx) : (s.updCtx c x g).parts = s.parts := rfl
@[simp] theorem State.updCtx_launches (s : State) (c x : Nat) (g : Ctx → Ctx) : (s.updCtx c x g).launches = s.launches := rfl
@[simp] theorem State.updCtx_win (s : State) (c x : Nat) (g : Ctx → Ctx) : (s.updCtx c x g).win = s.win := rfl
@[simp] theorem State.updCtx_dram (s : State) (c x : Nat) (g : Ctx → Ctx) : (s.updCtx c x g).dram = s.dram := rfl
@[simp] theorem State.updCtx_far (s : State) (c x : Nat) (g : Ctx → Ctx) : (s.updCtx c x g).far = s.far := rfl
@[simp] theorem State.updCtx_host (s : State) (c x : Nat) (g : Ctx → Ctx) : (s.updCtx c x g).host = s.host := rfl
@[simp] theorem State.updCtx_slices (s : State) (c x : Nat) (g : Ctx → Ctx) : (s.updCtx c x g).slices = s.slices := rfl
@[simp] theorem State.updCtx_vers (s : State) (c x : Nat) (g : Ctx → Ctx) : (s.updCtx c x g).vers = s.vers := rfl
@[simp] theorem State.updCtx_hostWr (s : State) (c x : Nat) (g : Ctx → Ctx) : (s.updCtx c x g).hostWr = s.hostWr := rfl
@[simp] theorem State.updCtx_swPages (s : State) (c x : Nat) (g : Ctx → Ctx) : (s.updCtx c x g).swPages = s.swPages := rfl
@[simp] theorem State.updCtx_pages (s : State) (c x : Nat) (g : Ctx → Ctx) : (s.updCtx c x g).pages = s.pages := rfl
@[simp] theorem State.updCtx_recs (s : State) (c x : Nat) (g : Ctx → Ctx) : (s.updCtx c x g).recs = s.recs := rfl
@[simp] theorem State.updCtx_evLines (s : State) (c x : Nat) (g : Ctx → Ctx) : (s.updCtx c x g).evLines = s.evLines := rfl
@[simp] theorem State.updCtx_rot (s : State) (c x : Nat) (g : Ctx → Ctx) : (s.updCtx c x g).rot = s.rot := rfl
@[simp] theorem State.updCtx_tlb (s : State) (c x : Nat) (g : Ctx → Ctx) : (s.updCtx c x g).tlb = s.tlb := rfl
@[simp] theorem State.updCtx_wcache (s : State) (c x : Nat) (g : Ctx → Ctx) : (s.updCtx c x g).wcache = s.wcache := rfl
@[simp] theorem State.updCtx_remap (s : State) (c x : Nat) (g : Ctx → Ctx) : (s.updCtx c x g).remap = s.remap := rfl
@[simp] theorem State.updCtx_waiters (s : State) (c x : Nat) (g : Ctx → Ctx) : (s.updCtx c x g).waiters = s.waiters := rfl
@[simp] theorem State.updCtx_net (s : State) (c x : Nat) (g : Ctx → Ctx) : (s.updCtx c x g).net = s.net := rfl
@[simp] theorem State.updCtx_pairSeq (s : State) (c x : Nat) (g : Ctx → Ctx) : (s.updCtx c x g).pairSeq = s.pairSeq := rfl
@[simp] theorem State.updCtx_unacked (s : State) (c x : Nat) (g : Ctx → Ctx) : (s.updCtx c x g).unacked = s.unacked := rfl
@[simp] theorem State.updCtx_joinMeta (s : State) (c x : Nat) (g : Ctx → Ctx) : (s.updCtx c x g).joinMeta = s.joinMeta := rfl
@[simp] theorem State.updCtx_devId (s : State) (c x : Nat) (g : Ctx → Ctx) : (s.updCtx c x g).devId = s.devId := rfl
@[simp] theorem State.updCtx_fwVer (s : State) (c x : Nat) (g : Ctx → Ctx) : (s.updCtx c x g).fwVer = s.fwVer := rfl
@[simp] theorem State.updCtx_links (s : State) (c x : Nat) (g : Ctx → Ctx) : (s.updCtx c x g).links = s.links := rfl
@[simp] theorem State.updCtx_lostLanes (s : State) (c x : Nat) (g : Ctx → Ctx) : (s.updCtx c x g).lostLanes = s.lostLanes := rfl
@[simp] theorem State.updCtx_edges (s : State) (c x : Nat) (g : Ctx → Ctx) : (s.updCtx c x g).edges = s.edges := rfl
@[simp] theorem State.updCtx_hdm (s : State) (c x : Nat) (g : Ctx → Ctx) : (s.updCtx c x g).hdm = s.hdm := rfl
@[simp] theorem State.updCtx_replies (s : State) (c x : Nat) (g : Ctx → Ctx) : (s.updCtx c x g).replies = s.replies := rfl
@[simp] theorem State.updCtx_fwPending (s : State) (c x : Nat) (g : Ctx → Ctx) : (s.updCtx c x g).fwPending = s.fwPending := rfl
@[simp] theorem State.updCtx_recovery (s : State) (c x : Nat) (g : Ctx → Ctx) : (s.updCtx c x g).recovery = s.recovery := rfl
@[simp] theorem State.updCtx_bring (s : State) (c x : Nat) (g : Ctx → Ctx) : (s.updCtx c x g).bring = s.bring := rfl
@[simp] theorem State.updCtx_granularity (s : State) (c x : Nat) (g : Ctx → Ctx) : (s.updCtx c x g).granularity = s.granularity := rfl
@[simp] theorem State.updCtx_tests (s : State) (c x : Nat) (g : Ctx → Ctx) : (s.updCtx c x g).tests = s.tests := rfl
@[simp] theorem State.updCtx_log (s : State) (c x : Nat) (g : Ctx → Ctx) : (s.updCtx c x g).log = s.log := rfl
@[simp] theorem State.updCtx_throttle (s : State) (c x : Nat) (g : Ctx → Ctx) : (s.updCtx c x g).throttle = s.throttle := rfl
@[simp] theorem State.updCtx_throttledAt (s : State) (c x : Nat) (g : Ctx → Ctx) : (s.updCtx c x g).throttledAt = s.throttledAt := rfl
@[simp] theorem State.updCtx_power (s : State) (c x : Nat) (g : Ctx → Ctx) : (s.updCtx c x g).power = s.power := rfl
@[simp] theorem State.updCtx_sampledAt (s : State) (c x : Nat) (g : Ctx → Ctx) : (s.updCtx c x g).sampledAt = s.sampledAt := rfl
@[simp] theorem State.updCtx_holds (s : State) (c x : Nat) (g : Ctx → Ctx) : (s.updCtx c x g).holds = s.holds := rfl

/-! `State.updMe`. -/

@[simp] theorem State.updMe_cycles (s : State) (g : Ctx → Ctx) : (s.updMe g).cycles = s.cycles := rfl
@[simp] theorem State.updMe_cur (s : State) (g : Ctx → Ctx) : (s.updMe g).cur = s.cur := rfl
@[simp] theorem State.updMe_cx (s : State) (g : Ctx → Ctx) : (s.updMe g).cx = s.cx := rfl
@[simp] theorem State.updMe_iw (s : State) (g : Ctx → Ctx) : (s.updMe g).iw = s.iw := rfl
@[simp] theorem State.updMe_iwH (s : State) (g : Ctx → Ctx) : (s.updMe g).iwH = s.iwH := rfl
@[simp] theorem State.updMe_ev (s : State) (g : Ctx → Ctx) : (s.updMe g).ev = s.ev := rfl
@[simp] theorem State.updMe_schedule (s : State) (g : Ctx → Ctx) : (s.updMe g).schedule = s.schedule := rfl
@[simp] theorem State.updMe_fresh (s : State) (g : Ctx → Ctx) : (s.updMe g).fresh = s.fresh := rfl
@[simp] theorem State.updMe_clusters (s : State) (g : Ctx → Ctx) : (s.updMe g).clusters = s.clusters := rfl
@[simp] theorem State.updMe_parts (s : State) (g : Ctx → Ctx) : (s.updMe g).parts = s.parts := rfl
@[simp] theorem State.updMe_launches (s : State) (g : Ctx → Ctx) : (s.updMe g).launches = s.launches := rfl
@[simp] theorem State.updMe_win (s : State) (g : Ctx → Ctx) : (s.updMe g).win = s.win := rfl
@[simp] theorem State.updMe_dram (s : State) (g : Ctx → Ctx) : (s.updMe g).dram = s.dram := rfl
@[simp] theorem State.updMe_far (s : State) (g : Ctx → Ctx) : (s.updMe g).far = s.far := rfl
@[simp] theorem State.updMe_host (s : State) (g : Ctx → Ctx) : (s.updMe g).host = s.host := rfl
@[simp] theorem State.updMe_slices (s : State) (g : Ctx → Ctx) : (s.updMe g).slices = s.slices := rfl
@[simp] theorem State.updMe_vers (s : State) (g : Ctx → Ctx) : (s.updMe g).vers = s.vers := rfl
@[simp] theorem State.updMe_hostWr (s : State) (g : Ctx → Ctx) : (s.updMe g).hostWr = s.hostWr := rfl
@[simp] theorem State.updMe_swPages (s : State) (g : Ctx → Ctx) : (s.updMe g).swPages = s.swPages := rfl
@[simp] theorem State.updMe_pages (s : State) (g : Ctx → Ctx) : (s.updMe g).pages = s.pages := rfl
@[simp] theorem State.updMe_recs (s : State) (g : Ctx → Ctx) : (s.updMe g).recs = s.recs := rfl
@[simp] theorem State.updMe_evLines (s : State) (g : Ctx → Ctx) : (s.updMe g).evLines = s.evLines := rfl
@[simp] theorem State.updMe_rot (s : State) (g : Ctx → Ctx) : (s.updMe g).rot = s.rot := rfl
@[simp] theorem State.updMe_tlb (s : State) (g : Ctx → Ctx) : (s.updMe g).tlb = s.tlb := rfl
@[simp] theorem State.updMe_wcache (s : State) (g : Ctx → Ctx) : (s.updMe g).wcache = s.wcache := rfl
@[simp] theorem State.updMe_remap (s : State) (g : Ctx → Ctx) : (s.updMe g).remap = s.remap := rfl
@[simp] theorem State.updMe_waiters (s : State) (g : Ctx → Ctx) : (s.updMe g).waiters = s.waiters := rfl
@[simp] theorem State.updMe_net (s : State) (g : Ctx → Ctx) : (s.updMe g).net = s.net := rfl
@[simp] theorem State.updMe_pairSeq (s : State) (g : Ctx → Ctx) : (s.updMe g).pairSeq = s.pairSeq := rfl
@[simp] theorem State.updMe_unacked (s : State) (g : Ctx → Ctx) : (s.updMe g).unacked = s.unacked := rfl
@[simp] theorem State.updMe_joinMeta (s : State) (g : Ctx → Ctx) : (s.updMe g).joinMeta = s.joinMeta := rfl
@[simp] theorem State.updMe_devId (s : State) (g : Ctx → Ctx) : (s.updMe g).devId = s.devId := rfl
@[simp] theorem State.updMe_fwVer (s : State) (g : Ctx → Ctx) : (s.updMe g).fwVer = s.fwVer := rfl
@[simp] theorem State.updMe_links (s : State) (g : Ctx → Ctx) : (s.updMe g).links = s.links := rfl
@[simp] theorem State.updMe_lostLanes (s : State) (g : Ctx → Ctx) : (s.updMe g).lostLanes = s.lostLanes := rfl
@[simp] theorem State.updMe_edges (s : State) (g : Ctx → Ctx) : (s.updMe g).edges = s.edges := rfl
@[simp] theorem State.updMe_hdm (s : State) (g : Ctx → Ctx) : (s.updMe g).hdm = s.hdm := rfl
@[simp] theorem State.updMe_replies (s : State) (g : Ctx → Ctx) : (s.updMe g).replies = s.replies := rfl
@[simp] theorem State.updMe_fwPending (s : State) (g : Ctx → Ctx) : (s.updMe g).fwPending = s.fwPending := rfl
@[simp] theorem State.updMe_recovery (s : State) (g : Ctx → Ctx) : (s.updMe g).recovery = s.recovery := rfl
@[simp] theorem State.updMe_bring (s : State) (g : Ctx → Ctx) : (s.updMe g).bring = s.bring := rfl
@[simp] theorem State.updMe_granularity (s : State) (g : Ctx → Ctx) : (s.updMe g).granularity = s.granularity := rfl
@[simp] theorem State.updMe_tests (s : State) (g : Ctx → Ctx) : (s.updMe g).tests = s.tests := rfl
@[simp] theorem State.updMe_log (s : State) (g : Ctx → Ctx) : (s.updMe g).log = s.log := rfl
@[simp] theorem State.updMe_throttle (s : State) (g : Ctx → Ctx) : (s.updMe g).throttle = s.throttle := rfl
@[simp] theorem State.updMe_throttledAt (s : State) (g : Ctx → Ctx) : (s.updMe g).throttledAt = s.throttledAt := rfl
@[simp] theorem State.updMe_power (s : State) (g : Ctx → Ctx) : (s.updMe g).power = s.power := rfl
@[simp] theorem State.updMe_sampledAt (s : State) (g : Ctx → Ctx) : (s.updMe g).sampledAt = s.sampledAt := rfl
@[simp] theorem State.updMe_holds (s : State) (g : Ctx → Ctx) : (s.updMe g).holds = s.holds := rfl

/-! `State.updMyCore`. -/

@[simp] theorem State.updMyCore_cycles (s : State) (g : Core → Core) : (s.updMyCore g).cycles = s.cycles := rfl
@[simp] theorem State.updMyCore_cur (s : State) (g : Core → Core) : (s.updMyCore g).cur = s.cur := rfl
@[simp] theorem State.updMyCore_cx (s : State) (g : Core → Core) : (s.updMyCore g).cx = s.cx := rfl
@[simp] theorem State.updMyCore_iw (s : State) (g : Core → Core) : (s.updMyCore g).iw = s.iw := rfl
@[simp] theorem State.updMyCore_iwH (s : State) (g : Core → Core) : (s.updMyCore g).iwH = s.iwH := rfl
@[simp] theorem State.updMyCore_ev (s : State) (g : Core → Core) : (s.updMyCore g).ev = s.ev := rfl
@[simp] theorem State.updMyCore_schedule (s : State) (g : Core → Core) : (s.updMyCore g).schedule = s.schedule := rfl
@[simp] theorem State.updMyCore_fresh (s : State) (g : Core → Core) : (s.updMyCore g).fresh = s.fresh := rfl
@[simp] theorem State.updMyCore_clusters (s : State) (g : Core → Core) : (s.updMyCore g).clusters = s.clusters := rfl
@[simp] theorem State.updMyCore_parts (s : State) (g : Core → Core) : (s.updMyCore g).parts = s.parts := rfl
@[simp] theorem State.updMyCore_launches (s : State) (g : Core → Core) : (s.updMyCore g).launches = s.launches := rfl
@[simp] theorem State.updMyCore_win (s : State) (g : Core → Core) : (s.updMyCore g).win = s.win := rfl
@[simp] theorem State.updMyCore_dram (s : State) (g : Core → Core) : (s.updMyCore g).dram = s.dram := rfl
@[simp] theorem State.updMyCore_far (s : State) (g : Core → Core) : (s.updMyCore g).far = s.far := rfl
@[simp] theorem State.updMyCore_host (s : State) (g : Core → Core) : (s.updMyCore g).host = s.host := rfl
@[simp] theorem State.updMyCore_slices (s : State) (g : Core → Core) : (s.updMyCore g).slices = s.slices := rfl
@[simp] theorem State.updMyCore_vers (s : State) (g : Core → Core) : (s.updMyCore g).vers = s.vers := rfl
@[simp] theorem State.updMyCore_hostWr (s : State) (g : Core → Core) : (s.updMyCore g).hostWr = s.hostWr := rfl
@[simp] theorem State.updMyCore_swPages (s : State) (g : Core → Core) : (s.updMyCore g).swPages = s.swPages := rfl
@[simp] theorem State.updMyCore_pages (s : State) (g : Core → Core) : (s.updMyCore g).pages = s.pages := rfl
@[simp] theorem State.updMyCore_recs (s : State) (g : Core → Core) : (s.updMyCore g).recs = s.recs := rfl
@[simp] theorem State.updMyCore_evLines (s : State) (g : Core → Core) : (s.updMyCore g).evLines = s.evLines := rfl
@[simp] theorem State.updMyCore_rot (s : State) (g : Core → Core) : (s.updMyCore g).rot = s.rot := rfl
@[simp] theorem State.updMyCore_tlb (s : State) (g : Core → Core) : (s.updMyCore g).tlb = s.tlb := rfl
@[simp] theorem State.updMyCore_wcache (s : State) (g : Core → Core) : (s.updMyCore g).wcache = s.wcache := rfl
@[simp] theorem State.updMyCore_remap (s : State) (g : Core → Core) : (s.updMyCore g).remap = s.remap := rfl
@[simp] theorem State.updMyCore_waiters (s : State) (g : Core → Core) : (s.updMyCore g).waiters = s.waiters := rfl
@[simp] theorem State.updMyCore_net (s : State) (g : Core → Core) : (s.updMyCore g).net = s.net := rfl
@[simp] theorem State.updMyCore_pairSeq (s : State) (g : Core → Core) : (s.updMyCore g).pairSeq = s.pairSeq := rfl
@[simp] theorem State.updMyCore_unacked (s : State) (g : Core → Core) : (s.updMyCore g).unacked = s.unacked := rfl
@[simp] theorem State.updMyCore_joinMeta (s : State) (g : Core → Core) : (s.updMyCore g).joinMeta = s.joinMeta := rfl
@[simp] theorem State.updMyCore_devId (s : State) (g : Core → Core) : (s.updMyCore g).devId = s.devId := rfl
@[simp] theorem State.updMyCore_fwVer (s : State) (g : Core → Core) : (s.updMyCore g).fwVer = s.fwVer := rfl
@[simp] theorem State.updMyCore_links (s : State) (g : Core → Core) : (s.updMyCore g).links = s.links := rfl
@[simp] theorem State.updMyCore_lostLanes (s : State) (g : Core → Core) : (s.updMyCore g).lostLanes = s.lostLanes := rfl
@[simp] theorem State.updMyCore_edges (s : State) (g : Core → Core) : (s.updMyCore g).edges = s.edges := rfl
@[simp] theorem State.updMyCore_hdm (s : State) (g : Core → Core) : (s.updMyCore g).hdm = s.hdm := rfl
@[simp] theorem State.updMyCore_replies (s : State) (g : Core → Core) : (s.updMyCore g).replies = s.replies := rfl
@[simp] theorem State.updMyCore_fwPending (s : State) (g : Core → Core) : (s.updMyCore g).fwPending = s.fwPending := rfl
@[simp] theorem State.updMyCore_recovery (s : State) (g : Core → Core) : (s.updMyCore g).recovery = s.recovery := rfl
@[simp] theorem State.updMyCore_bring (s : State) (g : Core → Core) : (s.updMyCore g).bring = s.bring := rfl
@[simp] theorem State.updMyCore_granularity (s : State) (g : Core → Core) : (s.updMyCore g).granularity = s.granularity := rfl
@[simp] theorem State.updMyCore_tests (s : State) (g : Core → Core) : (s.updMyCore g).tests = s.tests := rfl
@[simp] theorem State.updMyCore_log (s : State) (g : Core → Core) : (s.updMyCore g).log = s.log := rfl
@[simp] theorem State.updMyCore_throttle (s : State) (g : Core → Core) : (s.updMyCore g).throttle = s.throttle := rfl
@[simp] theorem State.updMyCore_throttledAt (s : State) (g : Core → Core) : (s.updMyCore g).throttledAt = s.throttledAt := rfl
@[simp] theorem State.updMyCore_power (s : State) (g : Core → Core) : (s.updMyCore g).power = s.power := rfl
@[simp] theorem State.updMyCore_sampledAt (s : State) (g : Core → Core) : (s.updMyCore g).sampledAt = s.sampledAt := rfl
@[simp] theorem State.updMyCore_holds (s : State) (g : Core → Core) : (s.updMyCore g).holds = s.holds := rfl

/-! `State.updCluster`. -/

@[simp] theorem State.updCluster_cycles (s : State) (n : Nat) (g : Cluster → Cluster) : (s.updCluster n g).cycles = s.cycles := rfl
@[simp] theorem State.updCluster_cur (s : State) (n : Nat) (g : Cluster → Cluster) : (s.updCluster n g).cur = s.cur := rfl
@[simp] theorem State.updCluster_cx (s : State) (n : Nat) (g : Cluster → Cluster) : (s.updCluster n g).cx = s.cx := rfl
@[simp] theorem State.updCluster_iw (s : State) (n : Nat) (g : Cluster → Cluster) : (s.updCluster n g).iw = s.iw := rfl
@[simp] theorem State.updCluster_iwH (s : State) (n : Nat) (g : Cluster → Cluster) : (s.updCluster n g).iwH = s.iwH := rfl
@[simp] theorem State.updCluster_ev (s : State) (n : Nat) (g : Cluster → Cluster) : (s.updCluster n g).ev = s.ev := rfl
@[simp] theorem State.updCluster_schedule (s : State) (n : Nat) (g : Cluster → Cluster) : (s.updCluster n g).schedule = s.schedule := rfl
@[simp] theorem State.updCluster_fresh (s : State) (n : Nat) (g : Cluster → Cluster) : (s.updCluster n g).fresh = s.fresh := rfl
@[simp] theorem State.updCluster_cores (s : State) (n : Nat) (g : Cluster → Cluster) : (s.updCluster n g).cores = s.cores := rfl
@[simp] theorem State.updCluster_parts (s : State) (n : Nat) (g : Cluster → Cluster) : (s.updCluster n g).parts = s.parts := rfl
@[simp] theorem State.updCluster_launches (s : State) (n : Nat) (g : Cluster → Cluster) : (s.updCluster n g).launches = s.launches := rfl
@[simp] theorem State.updCluster_win (s : State) (n : Nat) (g : Cluster → Cluster) : (s.updCluster n g).win = s.win := rfl
@[simp] theorem State.updCluster_dram (s : State) (n : Nat) (g : Cluster → Cluster) : (s.updCluster n g).dram = s.dram := rfl
@[simp] theorem State.updCluster_far (s : State) (n : Nat) (g : Cluster → Cluster) : (s.updCluster n g).far = s.far := rfl
@[simp] theorem State.updCluster_host (s : State) (n : Nat) (g : Cluster → Cluster) : (s.updCluster n g).host = s.host := rfl
@[simp] theorem State.updCluster_slices (s : State) (n : Nat) (g : Cluster → Cluster) : (s.updCluster n g).slices = s.slices := rfl
@[simp] theorem State.updCluster_vers (s : State) (n : Nat) (g : Cluster → Cluster) : (s.updCluster n g).vers = s.vers := rfl
@[simp] theorem State.updCluster_hostWr (s : State) (n : Nat) (g : Cluster → Cluster) : (s.updCluster n g).hostWr = s.hostWr := rfl
@[simp] theorem State.updCluster_swPages (s : State) (n : Nat) (g : Cluster → Cluster) : (s.updCluster n g).swPages = s.swPages := rfl
@[simp] theorem State.updCluster_pages (s : State) (n : Nat) (g : Cluster → Cluster) : (s.updCluster n g).pages = s.pages := rfl
@[simp] theorem State.updCluster_recs (s : State) (n : Nat) (g : Cluster → Cluster) : (s.updCluster n g).recs = s.recs := rfl
@[simp] theorem State.updCluster_evLines (s : State) (n : Nat) (g : Cluster → Cluster) : (s.updCluster n g).evLines = s.evLines := rfl
@[simp] theorem State.updCluster_rot (s : State) (n : Nat) (g : Cluster → Cluster) : (s.updCluster n g).rot = s.rot := rfl
@[simp] theorem State.updCluster_tlb (s : State) (n : Nat) (g : Cluster → Cluster) : (s.updCluster n g).tlb = s.tlb := rfl
@[simp] theorem State.updCluster_wcache (s : State) (n : Nat) (g : Cluster → Cluster) : (s.updCluster n g).wcache = s.wcache := rfl
@[simp] theorem State.updCluster_remap (s : State) (n : Nat) (g : Cluster → Cluster) : (s.updCluster n g).remap = s.remap := rfl
@[simp] theorem State.updCluster_waiters (s : State) (n : Nat) (g : Cluster → Cluster) : (s.updCluster n g).waiters = s.waiters := rfl
@[simp] theorem State.updCluster_net (s : State) (n : Nat) (g : Cluster → Cluster) : (s.updCluster n g).net = s.net := rfl
@[simp] theorem State.updCluster_pairSeq (s : State) (n : Nat) (g : Cluster → Cluster) : (s.updCluster n g).pairSeq = s.pairSeq := rfl
@[simp] theorem State.updCluster_unacked (s : State) (n : Nat) (g : Cluster → Cluster) : (s.updCluster n g).unacked = s.unacked := rfl
@[simp] theorem State.updCluster_joinMeta (s : State) (n : Nat) (g : Cluster → Cluster) : (s.updCluster n g).joinMeta = s.joinMeta := rfl
@[simp] theorem State.updCluster_devId (s : State) (n : Nat) (g : Cluster → Cluster) : (s.updCluster n g).devId = s.devId := rfl
@[simp] theorem State.updCluster_fwVer (s : State) (n : Nat) (g : Cluster → Cluster) : (s.updCluster n g).fwVer = s.fwVer := rfl
@[simp] theorem State.updCluster_links (s : State) (n : Nat) (g : Cluster → Cluster) : (s.updCluster n g).links = s.links := rfl
@[simp] theorem State.updCluster_lostLanes (s : State) (n : Nat) (g : Cluster → Cluster) : (s.updCluster n g).lostLanes = s.lostLanes := rfl
@[simp] theorem State.updCluster_edges (s : State) (n : Nat) (g : Cluster → Cluster) : (s.updCluster n g).edges = s.edges := rfl
@[simp] theorem State.updCluster_hdm (s : State) (n : Nat) (g : Cluster → Cluster) : (s.updCluster n g).hdm = s.hdm := rfl
@[simp] theorem State.updCluster_replies (s : State) (n : Nat) (g : Cluster → Cluster) : (s.updCluster n g).replies = s.replies := rfl
@[simp] theorem State.updCluster_fwPending (s : State) (n : Nat) (g : Cluster → Cluster) : (s.updCluster n g).fwPending = s.fwPending := rfl
@[simp] theorem State.updCluster_recovery (s : State) (n : Nat) (g : Cluster → Cluster) : (s.updCluster n g).recovery = s.recovery := rfl
@[simp] theorem State.updCluster_bring (s : State) (n : Nat) (g : Cluster → Cluster) : (s.updCluster n g).bring = s.bring := rfl
@[simp] theorem State.updCluster_granularity (s : State) (n : Nat) (g : Cluster → Cluster) : (s.updCluster n g).granularity = s.granularity := rfl
@[simp] theorem State.updCluster_tests (s : State) (n : Nat) (g : Cluster → Cluster) : (s.updCluster n g).tests = s.tests := rfl
@[simp] theorem State.updCluster_log (s : State) (n : Nat) (g : Cluster → Cluster) : (s.updCluster n g).log = s.log := rfl
@[simp] theorem State.updCluster_throttle (s : State) (n : Nat) (g : Cluster → Cluster) : (s.updCluster n g).throttle = s.throttle := rfl
@[simp] theorem State.updCluster_throttledAt (s : State) (n : Nat) (g : Cluster → Cluster) : (s.updCluster n g).throttledAt = s.throttledAt := rfl
@[simp] theorem State.updCluster_power (s : State) (n : Nat) (g : Cluster → Cluster) : (s.updCluster n g).power = s.power := rfl
@[simp] theorem State.updCluster_sampledAt (s : State) (n : Nat) (g : Cluster → Cluster) : (s.updCluster n g).sampledAt = s.sampledAt := rfl
@[simp] theorem State.updCluster_holds (s : State) (n : Nat) (g : Cluster → Cluster) : (s.updCluster n g).holds = s.holds := rfl

/-! `State.updPart`. -/

@[simp] theorem State.updPart_cycles (s : State) (p : Nat) (g : Part → Part) : (s.updPart p g).cycles = s.cycles := rfl
@[simp] theorem State.updPart_cur (s : State) (p : Nat) (g : Part → Part) : (s.updPart p g).cur = s.cur := rfl
@[simp] theorem State.updPart_cx (s : State) (p : Nat) (g : Part → Part) : (s.updPart p g).cx = s.cx := rfl
@[simp] theorem State.updPart_iw (s : State) (p : Nat) (g : Part → Part) : (s.updPart p g).iw = s.iw := rfl
@[simp] theorem State.updPart_iwH (s : State) (p : Nat) (g : Part → Part) : (s.updPart p g).iwH = s.iwH := rfl
@[simp] theorem State.updPart_ev (s : State) (p : Nat) (g : Part → Part) : (s.updPart p g).ev = s.ev := rfl
@[simp] theorem State.updPart_schedule (s : State) (p : Nat) (g : Part → Part) : (s.updPart p g).schedule = s.schedule := rfl
@[simp] theorem State.updPart_fresh (s : State) (p : Nat) (g : Part → Part) : (s.updPart p g).fresh = s.fresh := rfl
@[simp] theorem State.updPart_cores (s : State) (p : Nat) (g : Part → Part) : (s.updPart p g).cores = s.cores := rfl
@[simp] theorem State.updPart_clusters (s : State) (p : Nat) (g : Part → Part) : (s.updPart p g).clusters = s.clusters := rfl
@[simp] theorem State.updPart_launches (s : State) (p : Nat) (g : Part → Part) : (s.updPart p g).launches = s.launches := rfl
@[simp] theorem State.updPart_win (s : State) (p : Nat) (g : Part → Part) : (s.updPart p g).win = s.win := rfl
@[simp] theorem State.updPart_dram (s : State) (p : Nat) (g : Part → Part) : (s.updPart p g).dram = s.dram := rfl
@[simp] theorem State.updPart_far (s : State) (p : Nat) (g : Part → Part) : (s.updPart p g).far = s.far := rfl
@[simp] theorem State.updPart_host (s : State) (p : Nat) (g : Part → Part) : (s.updPart p g).host = s.host := rfl
@[simp] theorem State.updPart_slices (s : State) (p : Nat) (g : Part → Part) : (s.updPart p g).slices = s.slices := rfl
@[simp] theorem State.updPart_vers (s : State) (p : Nat) (g : Part → Part) : (s.updPart p g).vers = s.vers := rfl
@[simp] theorem State.updPart_hostWr (s : State) (p : Nat) (g : Part → Part) : (s.updPart p g).hostWr = s.hostWr := rfl
@[simp] theorem State.updPart_swPages (s : State) (p : Nat) (g : Part → Part) : (s.updPart p g).swPages = s.swPages := rfl
@[simp] theorem State.updPart_pages (s : State) (p : Nat) (g : Part → Part) : (s.updPart p g).pages = s.pages := rfl
@[simp] theorem State.updPart_recs (s : State) (p : Nat) (g : Part → Part) : (s.updPart p g).recs = s.recs := rfl
@[simp] theorem State.updPart_evLines (s : State) (p : Nat) (g : Part → Part) : (s.updPart p g).evLines = s.evLines := rfl
@[simp] theorem State.updPart_rot (s : State) (p : Nat) (g : Part → Part) : (s.updPart p g).rot = s.rot := rfl
@[simp] theorem State.updPart_tlb (s : State) (p : Nat) (g : Part → Part) : (s.updPart p g).tlb = s.tlb := rfl
@[simp] theorem State.updPart_wcache (s : State) (p : Nat) (g : Part → Part) : (s.updPart p g).wcache = s.wcache := rfl
@[simp] theorem State.updPart_remap (s : State) (p : Nat) (g : Part → Part) : (s.updPart p g).remap = s.remap := rfl
@[simp] theorem State.updPart_waiters (s : State) (p : Nat) (g : Part → Part) : (s.updPart p g).waiters = s.waiters := rfl
@[simp] theorem State.updPart_net (s : State) (p : Nat) (g : Part → Part) : (s.updPart p g).net = s.net := rfl
@[simp] theorem State.updPart_pairSeq (s : State) (p : Nat) (g : Part → Part) : (s.updPart p g).pairSeq = s.pairSeq := rfl
@[simp] theorem State.updPart_unacked (s : State) (p : Nat) (g : Part → Part) : (s.updPart p g).unacked = s.unacked := rfl
@[simp] theorem State.updPart_joinMeta (s : State) (p : Nat) (g : Part → Part) : (s.updPart p g).joinMeta = s.joinMeta := rfl
@[simp] theorem State.updPart_devId (s : State) (p : Nat) (g : Part → Part) : (s.updPart p g).devId = s.devId := rfl
@[simp] theorem State.updPart_fwVer (s : State) (p : Nat) (g : Part → Part) : (s.updPart p g).fwVer = s.fwVer := rfl
@[simp] theorem State.updPart_links (s : State) (p : Nat) (g : Part → Part) : (s.updPart p g).links = s.links := rfl
@[simp] theorem State.updPart_lostLanes (s : State) (p : Nat) (g : Part → Part) : (s.updPart p g).lostLanes = s.lostLanes := rfl
@[simp] theorem State.updPart_edges (s : State) (p : Nat) (g : Part → Part) : (s.updPart p g).edges = s.edges := rfl
@[simp] theorem State.updPart_hdm (s : State) (p : Nat) (g : Part → Part) : (s.updPart p g).hdm = s.hdm := rfl
@[simp] theorem State.updPart_replies (s : State) (p : Nat) (g : Part → Part) : (s.updPart p g).replies = s.replies := rfl
@[simp] theorem State.updPart_fwPending (s : State) (p : Nat) (g : Part → Part) : (s.updPart p g).fwPending = s.fwPending := rfl
@[simp] theorem State.updPart_recovery (s : State) (p : Nat) (g : Part → Part) : (s.updPart p g).recovery = s.recovery := rfl
@[simp] theorem State.updPart_bring (s : State) (p : Nat) (g : Part → Part) : (s.updPart p g).bring = s.bring := rfl
@[simp] theorem State.updPart_granularity (s : State) (p : Nat) (g : Part → Part) : (s.updPart p g).granularity = s.granularity := rfl
@[simp] theorem State.updPart_tests (s : State) (p : Nat) (g : Part → Part) : (s.updPart p g).tests = s.tests := rfl
@[simp] theorem State.updPart_log (s : State) (p : Nat) (g : Part → Part) : (s.updPart p g).log = s.log := rfl
@[simp] theorem State.updPart_throttle (s : State) (p : Nat) (g : Part → Part) : (s.updPart p g).throttle = s.throttle := rfl
@[simp] theorem State.updPart_throttledAt (s : State) (p : Nat) (g : Part → Part) : (s.updPart p g).throttledAt = s.throttledAt := rfl
@[simp] theorem State.updPart_power (s : State) (p : Nat) (g : Part → Part) : (s.updPart p g).power = s.power := rfl
@[simp] theorem State.updPart_sampledAt (s : State) (p : Nat) (g : Part → Part) : (s.updPart p g).sampledAt = s.sampledAt := rfl
@[simp] theorem State.updPart_holds (s : State) (p : Nat) (g : Part → Part) : (s.updPart p g).holds = s.holds := rfl

/-! What they change. -/

theorem State.core_setCore (s : State) (c d : Nat) (k : Core) : (s.setCore c k).core d = if d = c then k else s.core d := by
  simp [State.core, State.setCore, mget_mset]

theorem State.core_updCore (s : State) (c d : Nat) (g : Core → Core) :
    (s.updCore c g).core d = if d = c then g (s.core c) else s.core d := s.core_setCore c d _

@[simp] theorem State.core_updCore_self (s : State) (c : Nat) (g : Core → Core) : (s.updCore c g).core c = g (s.core c) := by
  simp [State.core_updCore]

theorem State.core_setCtx (s : State) (c x d : Nat) (k : Ctx) :
    (s.setCtx c x k).core d = if d = c then { s.core c with ctxs := mset {} (s.core c).ctxs x k } else s.core d :=
  s.core_updCore c d _

theorem State.ctx_setCtx (s : State) (c x d y : Nat) (k : Ctx) :
    (s.setCtx c x k).ctx d y = if d = c ∧ y = x then k else s.ctx d y := by
  simp only [State.ctx, State.core_setCtx]
  by_cases hd : d = c
  · subst hd; simp [mget_mset]
  · simp [hd]

theorem State.ctx_updCtx (s : State) (c x d y : Nat) (g : Ctx → Ctx) :
    (s.updCtx c x g).ctx d y = if d = c ∧ y = x then g (s.ctx c x) else s.ctx d y := s.ctx_setCtx c x d y _

@[simp] theorem State.ctx_updCtx_self (s : State) (c x : Nat) (g : Ctx → Ctx) : (s.updCtx c x g).ctx c x = g (s.ctx c x) := by
  simp [State.ctx_updCtx]

@[simp] theorem State.me_updMe (s : State) (g : Ctx → Ctx) : (s.updMe g).me = g s.me := s.ctx_updCtx_self _ _ g

/-- An update of a core that keeps its contexts keeps every context. -/
theorem State.ctx_updCore (s : State) (c d y : Nat) (g : Core → Core) (h : (g (s.core c)).ctxs = (s.core c).ctxs) :
    (s.updCore c g).ctx d y = s.ctx d y := by
  simp only [State.ctx, State.core_updCore]
  by_cases hd : d = c
  · subst hd; simp [h]
  · simp [hd]

/-! A context's update leaves the rest of every core. -/

@[simp] theorem State.updCtx_core_shg (s : State) (c x d : Nat) (g : Ctx → Ctx) : ((s.updCtx c x g).core d).shg = (s.core d).shg := by
  rw [State.updCtx, State.core_setCtx]; split <;> simp_all
@[simp] theorem State.updCtx_core_shfe (s : State) (c x d : Nat) (g : Ctx → Ctx) : ((s.updCtx c x g).core d).shfe = (s.core d).shfe := by
  rw [State.updCtx, State.core_setCtx]; split <;> simp_all
@[simp] theorem State.updCtx_core_late (s : State) (c x d : Nat) (g : Ctx → Ctx) : ((s.updCtx c x g).core d).late = (s.core d).late := by
  rw [State.updCtx, State.core_setCtx]; split <;> simp_all
@[simp] theorem State.updCtx_core_sorusDepth (s : State) (c x d : Nat) (g : Ctx → Ctx) : ((s.updCtx c x g).core d).sorusDepth = (s.core d).sorusDepth := by
  rw [State.updCtx, State.core_setCtx]; split <;> simp_all
@[simp] theorem State.updCtx_core_spawnLim (s : State) (c x d : Nat) (g : Ctx → Ctx) : ((s.updCtx c x g).core d).spawnLim = (s.core d).spawnLim := by
  rw [State.updCtx, State.core_setCtx]; split <;> simp_all
@[simp] theorem State.updCtx_core_scaleUflow (s : State) (c x d : Nat) (g : Ctx → Ctx) : ((s.updCtx c x g).core d).scaleUflow = (s.core d).scaleUflow := by
  rw [State.updCtx, State.core_setCtx]; split <;> simp_all
@[simp] theorem State.updCtx_core_kvec (s : State) (c x d : Nat) (g : Ctx → Ctx) : ((s.updCtx c x g).core d).kvec = (s.core d).kvec := by
  rw [State.updCtx, State.core_setCtx]; split <;> simp_all
@[simp] theorem State.updCtx_core_dvec (s : State) (c x d : Nat) (g : Ctx → Ctx) : ((s.updCtx c x g).core d).dvec = (s.core d).dvec := by
  rw [State.updCtx, State.core_setCtx]; split <;> simp_all
@[simp] theorem State.updCtx_core_spillOff (s : State) (c x d : Nat) (g : Ctx → Ctx) : ((s.updCtx c x g).core d).spillOff = (s.core d).spillOff := by
  rw [State.updCtx, State.core_setCtx]; split <;> simp_all
@[simp] theorem State.updCtx_core_spillCap (s : State) (c x d : Nat) (g : Ctx → Ctx) : ((s.updCtx c x g).core d).spillCap = (s.core d).spillCap := by
  rw [State.updCtx, State.core_setCtx]; split <;> simp_all
@[simp] theorem State.updCtx_core_pmask (s : State) (c x d : Nat) (g : Ctx → Ctx) : ((s.updCtx c x g).core d).pmask = (s.core d).pmask := by
  rw [State.updCtx, State.core_setCtx]; split <;> simp_all
@[simp] theorem State.updCtx_core_pmaskNew (s : State) (c x d : Nat) (g : Ctx → Ctx) : ((s.updCtx c x g).core d).pmaskNew = (s.core d).pmaskNew := by
  rw [State.updCtx, State.core_setCtx]; split <;> simp_all
@[simp] theorem State.updCtx_core_lastRr (s : State) (c x d : Nat) (g : Ctx → Ctx) : ((s.updCtx c x g).core d).lastRr = (s.core d).lastRr := by
  rw [State.updCtx, State.core_setCtx]; split <;> simp_all
@[simp] theorem State.updCtx_core_issuedAt (s : State) (c x d : Nat) (g : Ctx → Ctx) : ((s.updCtx c x g).core d).issuedAt = (s.core d).issuedAt := by
  rw [State.updCtx, State.core_setCtx]; split <;> simp_all
@[simp] theorem State.updCtx_core_boundIn (s : State) (c x d : Nat) (g : Ctx → Ctx) : ((s.updCtx c x g).core d).boundIn = (s.core d).boundIn := by
  rw [State.updCtx, State.core_setCtx]; split <;> simp_all
@[simp] theorem State.updCtx_core_deque (s : State) (c x d : Nat) (g : Ctx → Ctx) : ((s.updCtx c x g).core d).deque = (s.core d).deque := by
  rw [State.updCtx, State.core_setCtx]; split <;> simp_all
@[simp] theorem State.updCtx_core_retiring (s : State) (c x d : Nat) (g : Ctx → Ctx) : ((s.updCtx c x g).core d).retiring = (s.core d).retiring := by
  rw [State.updCtx, State.core_setCtx]; split <;> simp_all
@[simp] theorem State.updCtx_core_portAt (s : State) (c x d : Nat) (g : Ctx → Ctx) : ((s.updCtx c x g).core d).portAt = (s.core d).portAt := by
  rw [State.updCtx, State.core_setCtx]; split <;> simp_all
@[simp] theorem State.updCtx_core_sorus (s : State) (c x d : Nat) (g : Ctx → Ctx) : ((s.updCtx c x g).core d).sorus = (s.core d).sorus := by
  rw [State.updCtx, State.core_setCtx]; split <;> simp_all
@[simp] theorem State.updCtx_core_offers (s : State) (c x d : Nat) (g : Ctx → Ctx) : ((s.updCtx c x g).core d).offers = (s.core d).offers := by
  rw [State.updCtx, State.core_setCtx]; split <;> simp_all
@[simp] theorem State.updCtx_core_spilled (s : State) (c x d : Nat) (g : Ctx → Ctx) : ((s.updCtx c x g).core d).spilled = (s.core d).spilled := by
  rw [State.updCtx, State.core_setCtx]; split <;> simp_all
@[simp] theorem State.updCtx_core_refill (s : State) (c x d : Nat) (g : Ctx → Ctx) : ((s.updCtx c x g).core d).refill = (s.core d).refill := by
  rw [State.updCtx, State.core_setCtx]; split <;> simp_all
@[simp] theorem State.updCtx_core_streams (s : State) (c x d : Nat) (g : Ctx → Ctx) : ((s.updCtx c x g).core d).streams = (s.core d).streams := by
  rw [State.updCtx, State.core_setCtx]; split <;> simp_all
@[simp] theorem State.updCtx_core_opens (s : State) (c x d : Nat) (g : Ctx → Ctx) : ((s.updCtx c x g).core d).opens = (s.core d).opens := by
  rw [State.updCtx, State.core_setCtx]; split <;> simp_all
@[simp] theorem State.updCtx_core_l1 (s : State) (c x d : Nat) (g : Ctx → Ctx) : ((s.updCtx c x g).core d).l1 = (s.core d).l1 := by
  rw [State.updCtx, State.core_setCtx]; split <;> simp_all
@[simp] theorem State.updCtx_core_icache (s : State) (c x d : Nat) (g : Ctx → Ctx) : ((s.updCtx c x g).core d).icache = (s.core d).icache := by
  rw [State.updCtx, State.core_setCtx]; split <;> simp_all
@[simp] theorem State.updCtx_core_icBad (s : State) (c x d : Nat) (g : Ctx → Ctx) : ((s.updCtx c x g).core d).icBad = (s.core d).icBad := by
  rw [State.updCtx, State.core_setCtx]; split <;> simp_all
@[simp] theorem State.updCtx_core_shbad (s : State) (c x d : Nat) (g : Ctx → Ctx) : ((s.updCtx c x g).core d).shbad = (s.core d).shbad := by
  rw [State.updCtx, State.core_setCtx]; split <;> simp_all
@[simp] theorem State.updCtx_core_icFill (s : State) (c x d : Nat) (g : Ctx → Ctx) : ((s.updCtx c x g).core d).icFill = (s.core d).icFill := by
  rw [State.updCtx, State.core_setCtx]; split <;> simp_all
@[simp] theorem State.updCtx_core_qin (s : State) (c x d : Nat) (g : Ctx → Ctx) : ((s.updCtx c x g).core d).qin = (s.core d).qin := by
  rw [State.updCtx, State.core_setCtx]; split <;> simp_all
@[simp] theorem State.updCtx_core_qinOf (s : State) (c x d : Nat) (g : Ctx → Ctx) : ((s.updCtx c x g).core d).qinOf = (s.core d).qinOf := by
  rw [State.updCtx, State.core_setCtx]; split <;> simp_all
@[simp] theorem State.updCtx_core_qout (s : State) (c x d : Nat) (g : Ctx → Ctx) : ((s.updCtx c x g).core d).qout = (s.core d).qout := by
  rw [State.updCtx, State.core_setCtx]; split <;> simp_all
@[simp] theorem State.updCtx_core_rdBits (s : State) (c x d : Nat) (g : Ctx → Ctx) : ((s.updCtx c x g).core d).rdBits = (s.core d).rdBits := by
  rw [State.updCtx, State.core_setCtx]; split <;> simp_all
@[simp] theorem State.updCtx_core_rdLeft (s : State) (c x d : Nat) (g : Ctx → Ctx) : ((s.updCtx c x g).core d).rdLeft = (s.core d).rdLeft := by
  rw [State.updCtx, State.core_setCtx]; split <;> simp_all
@[simp] theorem State.updCtx_core_rdCount (s : State) (c x d : Nat) (g : Ctx → Ctx) : ((s.updCtx c x g).core d).rdCount = (s.core d).rdCount := by
  rw [State.updCtx, State.core_setCtx]; split <;> simp_all
@[simp] theorem State.updCtx_core_wrBits (s : State) (c x d : Nat) (g : Ctx → Ctx) : ((s.updCtx c x g).core d).wrBits = (s.core d).wrBits := by
  rw [State.updCtx, State.core_setCtx]; split <;> simp_all
@[simp] theorem State.updCtx_core_wrLen (s : State) (c x d : Nat) (g : Ctx → Ctx) : ((s.updCtx c x g).core d).wrLen = (s.core d).wrLen := by
  rw [State.updCtx, State.core_setCtx]; split <;> simp_all
@[simp] theorem State.updCtx_core_wrCount (s : State) (c x d : Nat) (g : Ctx → Ctx) : ((s.updCtx c x g).core d).wrCount = (s.core d).wrCount := by
  rw [State.updCtx, State.core_setCtx]; split <;> simp_all
@[simp] theorem State.updCtx_core_chan (s : State) (c x d : Nat) (g : Ctx → Ctx) : ((s.updCtx c x g).core d).chan = (s.core d).chan := by
  rw [State.updCtx, State.core_setCtx]; split <;> simp_all
@[simp] theorem State.updCtx_core_postab (s : State) (c x d : Nat) (g : Ctx → Ctx) : ((s.updCtx c x g).core d).postab = (s.core d).postab := by
  rw [State.updCtx, State.core_setCtx]; split <;> simp_all
@[simp] theorem State.updCtx_core_preempt (s : State) (c x d : Nat) (g : Ctx → Ctx) : ((s.updCtx c x g).core d).preempt = (s.core d).preempt := by
  rw [State.updCtx, State.core_setCtx]; split <;> simp_all
@[simp] theorem State.updCtx_core_preemptAt (s : State) (c x d : Nat) (g : Ctx → Ctx) : ((s.updCtx c x g).core d).preemptAt = (s.core d).preemptAt := by
  rw [State.updCtx, State.core_setCtx]; split <;> simp_all
@[simp] theorem State.updCtx_core_preemptMet (s : State) (c x d : Nat) (g : Ctx → Ctx) : ((s.updCtx c x g).core d).preemptMet = (s.core d).preemptMet := by
  rw [State.updCtx, State.core_setCtx]; split <;> simp_all
@[simp] theorem State.updCtx_core_svb (s : State) (c x d : Nat) (g : Ctx → Ctx) : ((s.updCtx c x g).core d).svb = (s.core d).svb := by
  rw [State.updCtx, State.core_setCtx]; split <;> simp_all
@[simp] theorem State.updCtx_core_mtx (s : State) (c x d : Nat) (g : Ctx → Ctx) : ((s.updCtx c x g).core d).mtx = (s.core d).mtx := by
  rw [State.updCtx, State.core_setCtx]; split <;> simp_all
@[simp] theorem State.updCtx_core_cStop (s : State) (c x d : Nat) (g : Ctx → Ctx) : ((s.updCtx c x g).core d).cStop = (s.core d).cStop := by
  rw [State.updCtx, State.core_setCtx]; split <;> simp_all
@[simp] theorem State.updCtx_core_ring (s : State) (c x d : Nat) (g : Ctx → Ctx) : ((s.updCtx c x g).core d).ring = (s.core d).ring := by
  rw [State.updCtx, State.core_setCtx]; split <;> simp_all
@[simp] theorem State.updCtx_core_probe (s : State) (c x d : Nat) (g : Ctx → Ctx) : ((s.updCtx c x g).core d).probe = (s.core d).probe := by
  rw [State.updCtx, State.core_setCtx]; split <;> simp_all
@[simp] theorem State.updCtx_core_unavailable (s : State) (c x d : Nat) (g : Ctx → Ctx) : ((s.updCtx c x g).core d).unavailable = (s.core d).unavailable := by
  rw [State.updCtx, State.core_setCtx]; split <;> simp_all
@[simp] theorem State.updCtx_core_badQ (s : State) (c x d : Nat) (g : Ctx → Ctx) : ((s.updCtx c x g).core d).badQ = (s.core d).badQ := by
  rw [State.updCtx, State.core_setCtx]; split <;> simp_all

end Sys2Proof.Machine
end

