-- ==== Sys2Proof/Laws/Regs.lean ====
section
/-!
SUPPORT. Registers: what a read gives after each operation that writes a register or a full/empty bit (R37, R40, R46, R47).
-/
namespace Sys2Proof.Machine

/-- What decides a register's value: the core's shared values and the context's own maps. -/
theorem State.reg_congr {s t : State} {c x : Nat} (hs : (t.core c).shg = (s.core c).shg) (hg : (t.ctx c x).g = (s.ctx c x).g)
    (hf : (t.ctx c x).f = (s.ctx c x).f) (hv : (t.ctx c x).v = (s.ctx c x).v) (hk : (t.ctx c x).k = (s.ctx c x).k) (code : Nat) :
    t.reg c x code = s.reg c x code := by
  simp only [State.reg, hs, hg, hf, hv, hk]

/-- A change of a context's other fields keeps every register. -/
theorem State.reg_updCtx_of (s : State) (c x d y : Nat) (g : Ctx → Ctx) (hg : (g (s.ctx c x)).g = (s.ctx c x).g)
    (hf : (g (s.ctx c x)).f = (s.ctx c x).f) (hv : (g (s.ctx c x)).v = (s.ctx c x).v) (hk : (g (s.ctx c x)).k = (s.ctx c x).k)
    (code : Nat) : (s.updCtx c x g).reg d y code = s.reg d y code := by
  apply State.reg_congr
  · simp
  all_goals
    rw [State.ctx_updCtx]
    split
    · rename_i h; rw [h.1, h.2]; assumption
    · rfl

/-- A change of a core that keeps its contexts and shared values keeps every register. -/
theorem State.reg_updCore_of (s : State) (c d y : Nat) (g : Core → Core) (hc : (g (s.core c)).ctxs = (s.core c).ctxs)
    (hs : (g (s.core c)).shg = (s.core c).shg) (code : Nat) : (s.updCore c g).reg d y code = s.reg d y code := by
  have hx := s.ctx_updCore c d y g hc
  apply State.reg_congr
  · rw [State.core_updCore]; split
    · rename_i h; rw [h]; exact hs
    · rfl
  all_goals rw [hx]

@[simp] theorem State.reg_setFull (s : State) (c x code : Nat) (b : Bool) (d y r : Nat) :
    (s.setFull c x code b).reg d y r = s.reg d y r := by
  unfold State.setFull
  split
  · rfl
  · split
    · exact s.reg_updCore_of c d y _ rfl rfl r
    · exact s.reg_updCtx_of c x d y _ rfl rfl rfl rfl r

/-- A written register reads back what it holds of the value (R46, R47). -/
theorem State.reg_putReg_self (s : State) (c x code : Nat) (v : Vec) (h : isFixed code = false) :
    (s.putReg c x code v).reg c x code = regVal code v := by
  have h0 : code ≠ 0 := by intro e; simp [isFixed, e] at h
  have h1 : code ≠ 128 := by intro e; simp [isFixed, e] at h
  unfold State.putReg
  rw [h, if_neg Bool.false_ne_true]
  by_cases hs : isShared code = true
  · rw [if_pos hs]
    have hr : code < 0x60 := by
      simp only [isShared, Bool.and_eq_true, decide_eq_true_eq] at hs; omega
    simp [State.reg, regVal, h0, h1, hs, hr]
  · rw [if_neg hs]
    simp only [State.reg, h0, h1, hs, if_false, regVal, State.ctx_updCtx_self]
    by_cases h4 : code < 0x40
    · have : code < 0x60 := by omega
      simp [h4, this]
    · by_cases h6 : code < 0x60
      · simp [h4, h6]
      · by_cases h8 : code < 0x80
        · simp [h4, h6, h8]
        · simp [h4, h6, h8]

/-- A write of one register leaves every other. -/
theorem State.reg_putReg_ne (s : State) (c x code : Nat) (v : Vec) {d y r : Nat}
    (h : r ≠ code ∨ (isShared code = true ∧ d ≠ c) ∨ (isShared code = false ∧ ¬(d = c ∧ y = x))) :
    (s.putReg c x code v).reg d y r = s.reg d y r := by
  unfold State.putReg
  split
  · rfl
  · split
    · rename_i hs
      have hctx := s.ctx_updCore c d y (fun k => { k with shg := mset 0 k.shg code (v.setWidth 64), shbad := mset false k.shbad code false }) rfl
      simp only [State.reg, hctx, State.core_updCore]
      by_cases hd : d = c
      · subst hd
        have hr : r ≠ code := by
          rcases h with h | h | h
          · exact h
          · exact absurd rfl h.2
          · rw [hs] at h; exact absurd h.1 Bool.noConfusion
        simp [mget_mset, hr]
      · simp [hd]
    · rename_i hs
      simp only [State.reg, State.updCtx_core_shg, State.ctx_updCtx]
      by_cases hd : d = c ∧ y = x
      · obtain ⟨rfl, rfl⟩ := hd
        have hr : r ≠ code := by
          rcases h with h | h | h
          · exact h
          · exact absurd h.1 hs
          · exact absurd ⟨rfl, rfl⟩ h.2
        simp only [and_self, if_true]
        by_cases h4 : code < 0x40
        · simp [h4, mget_mset, hr]
        · by_cases h6 : code < 0x60
          · simp [h4, h6, mget_mset, hr]
          · by_cases h8 : code < 0x80
            · simp [h4, h6, h8, mget_mset, hr]
            · simp [h4, h6, h8, mget_mset, hr]
      · simp [hd]

theorem State.full_setFull_self (s : State) (c x code : Nat) (b : Bool) (h : isFixed code = false) :
    (s.setFull c x code b).full c x code = b := by
  unfold State.setFull
  rw [h, if_neg Bool.false_ne_true]
  split <;> simp_all [State.full]

theorem State.full_putReg (s : State) (c x code : Nat) (v : Vec) (d y r : Nat) :
    (s.putReg c x code v).full d y r = s.full d y r := by
  unfold State.putReg
  split
  · rfl
  · split
    · have hctx := s.ctx_updCore c d y (fun k => { k with shg := mset 0 k.shg code (v.setWidth 64), shbad := mset false k.shbad code false }) rfl
      simp only [State.full, hctx, State.core_updCore]
      by_cases hd : d = c
      · subst hd; simp
      · simp [hd]
    · simp only [State.full, State.updCtx_core_shfe, State.ctx_updCtx]
      split
      · rfl
      · split
        · rfl
        · split
          · rename_i h; rw [h.1, h.2]; split <;> (try split) <;> (try split) <;> rfl
          · rfl

/-- A register that a context has of its own: a completion's write is there, and the register is full (R33). -/
theorem State.fill_self (s : State) (c x code : Nat) (v : Vec) (h : isFixed code = false) (hs : isShared code = false) :
    (s.fill c x code v).reg c x code = regVal code v ∧ (s.fill c x code v).full c x code = true := by
  rw [State.fill, hs, if_neg Bool.false_ne_true]
  exact ⟨by rw [State.reg_setFull, State.reg_putReg_self _ _ _ _ _ h], State.full_setFull_self _ _ _ _ _ h⟩

/-- g0 and k0 are no shared registers. -/
theorem isShared_of_fixed {code : Nat} (h : isFixed code = true) : isShared code = false := by
  simp only [isFixed, Bool.or_eq_true, beq_iff_eq] at h
  rcases h with h | h <;> rw [h] <;> rfl

/-- g0 and k0 discard what is written (R47). -/
theorem State.fill_fixed (s : State) (c x code : Nat) (v : Vec) (h : isFixed code = true) : s.fill c x code v = s := by
  simp [State.fill, State.putReg, State.setFull, h, isShared_of_fixed h]

/-- A write that is not due changes no value yet (R40). -/
@[simp] theorem State.reg_later (s : State) (c : Nat) (l : Late) (d y r : Nat) : (s.later c l).reg d y r = s.reg d y r :=
  s.reg_updCore_of c d y _ rfl rfl r

/-- A late clear changes no value (R37, R41). -/
@[simp] theorem State.reg_retireClear (s : State) (c x code : Nat) (b : Bool) (d y r : Nat) :
    (s.retireClear c x code b).reg d y r = s.reg d y r := by
  unfold State.retireClear
  split
  · rfl
  · exact s.reg_later _ _ _ _ _

end Sys2Proof.Machine
end

