-- ==== Sys2Proof/Laws/Issue.lean ====
section
/-!
SUPPORT. The issue of one instruction: what its effect starts from (`State.begun`), what its retirement leaves, and how `issue`
answers when nothing is due before it.
-/
namespace Sys2Proof.Machine

/-! What only cores, registers and the counts of the issue stage differ in. -/

theorem onlyCores_trans {s t u : State} (h : t = s.onlyCores t) (k : u = t.onlyCores u) : u = s.onlyCores u := by
  rw [h] at k; exact k
theorem onlyIssue_trans {s t u : Core} (h : t = s.onlyIssue t) (k : u = t.onlyIssue u) : u = s.onlyIssue u := by
  rw [h] at k; exact k
theorem onlyRegs_trans {s t u : Ctx} (h : t = s.onlyRegs t) (k : u = t.onlyRegs u) : u = s.onlyRegs u := by
  rw [h] at k; exact k

@[simp] theorem onlyCores_cycles (s t : State) : (s.onlyCores t).cycles = s.cycles := rfl
@[simp] theorem onlyCores_cur (s t : State) : (s.onlyCores t).cur = s.cur := rfl
@[simp] theorem onlyCores_cx (s t : State) : (s.onlyCores t).cx = s.cx := rfl
@[simp] theorem onlyCores_iw (s t : State) : (s.onlyCores t).iw = t.iw := rfl
@[simp] theorem onlyCores_iwH (s t : State) : (s.onlyCores t).iwH = s.iwH := rfl
@[simp] theorem onlyCores_ev (s t : State) : (s.onlyCores t).ev = s.ev := rfl
@[simp] theorem onlyCores_schedule (s t : State) : (s.onlyCores t).schedule = s.schedule := rfl
@[simp] theorem onlyCores_fresh (s t : State) : (s.onlyCores t).fresh = s.fresh := rfl
@[simp] theorem onlyCores_cores (s t : State) : (s.onlyCores t).cores = t.cores := rfl
@[simp] theorem onlyCores_clusters (s t : State) : (s.onlyCores t).clusters = s.clusters := rfl
@[simp] theorem onlyCores_parts (s t : State) : (s.onlyCores t).parts = s.parts := rfl
@[simp] theorem onlyCores_launches (s t : State) : (s.onlyCores t).launches = s.launches := rfl
@[simp] theorem onlyCores_win (s t : State) : (s.onlyCores t).win = s.win := rfl
@[simp] theorem onlyCores_dram (s t : State) : (s.onlyCores t).dram = s.dram := rfl
@[simp] theorem onlyCores_far (s t : State) : (s.onlyCores t).far = s.far := rfl
@[simp] theorem onlyCores_host (s t : State) : (s.onlyCores t).host = s.host := rfl
@[simp] theorem onlyCores_slices (s t : State) : (s.onlyCores t).slices = s.slices := rfl
@[simp] theorem onlyCores_vers (s t : State) : (s.onlyCores t).vers = s.vers := rfl
@[simp] theorem onlyCores_hostWr (s t : State) : (s.onlyCores t).hostWr = s.hostWr := rfl
@[simp] theorem onlyCores_swPages (s t : State) : (s.onlyCores t).swPages = s.swPages := rfl
@[simp] theorem onlyCores_pages (s t : State) : (s.onlyCores t).pages = s.pages := rfl
@[simp] theorem onlyCores_recs (s t : State) : (s.onlyCores t).recs = s.recs := rfl
@[simp] theorem onlyCores_evLines (s t : State) : (s.onlyCores t).evLines = s.evLines := rfl
@[simp] theorem onlyCores_rot (s t : State) : (s.onlyCores t).rot = s.rot := rfl
@[simp] theorem onlyCores_tlb (s t : State) : (s.onlyCores t).tlb = s.tlb := rfl
@[simp] theorem onlyCores_wcache (s t : State) : (s.onlyCores t).wcache = s.wcache := rfl
@[simp] theorem onlyCores_remap (s t : State) : (s.onlyCores t).remap = s.remap := rfl
@[simp] theorem onlyCores_waiters (s t : State) : (s.onlyCores t).waiters = s.waiters := rfl
@[simp] theorem onlyCores_net (s t : State) : (s.onlyCores t).net = s.net := rfl
@[simp] theorem onlyCores_pairSeq (s t : State) : (s.onlyCores t).pairSeq = s.pairSeq := rfl
@[simp] theorem onlyCores_unacked (s t : State) : (s.onlyCores t).unacked = s.unacked := rfl
@[simp] theorem onlyCores_joinMeta (s t : State) : (s.onlyCores t).joinMeta = s.joinMeta := rfl
@[simp] theorem onlyCores_devId (s t : State) : (s.onlyCores t).devId = s.devId := rfl
@[simp] theorem onlyCores_fwVer (s t : State) : (s.onlyCores t).fwVer = s.fwVer := rfl
@[simp] theorem onlyCores_links (s t : State) : (s.onlyCores t).links = s.links := rfl
@[simp] theorem onlyCores_lostLanes (s t : State) : (s.onlyCores t).lostLanes = s.lostLanes := rfl
@[simp] theorem onlyCores_edges (s t : State) : (s.onlyCores t).edges = s.edges := rfl
@[simp] theorem onlyCores_hdm (s t : State) : (s.onlyCores t).hdm = s.hdm := rfl
@[simp] theorem onlyCores_replies (s t : State) : (s.onlyCores t).replies = s.replies := rfl
@[simp] theorem onlyCores_fwPending (s t : State) : (s.onlyCores t).fwPending = s.fwPending := rfl
@[simp] theorem onlyCores_recovery (s t : State) : (s.onlyCores t).recovery = s.recovery := rfl
@[simp] theorem onlyCores_bring (s t : State) : (s.onlyCores t).bring = s.bring := rfl
@[simp] theorem onlyCores_granularity (s t : State) : (s.onlyCores t).granularity = s.granularity := rfl
@[simp] theorem onlyCores_tests (s t : State) : (s.onlyCores t).tests = s.tests := rfl
@[simp] theorem onlyCores_log (s t : State) : (s.onlyCores t).log = s.log := rfl
@[simp] theorem onlyCores_throttle (s t : State) : (s.onlyCores t).throttle = s.throttle := rfl
@[simp] theorem onlyCores_throttledAt (s t : State) : (s.onlyCores t).throttledAt = s.throttledAt := rfl
@[simp] theorem onlyCores_power (s t : State) : (s.onlyCores t).power = s.power := rfl
@[simp] theorem onlyCores_sampledAt (s t : State) : (s.onlyCores t).sampledAt = s.sampledAt := rfl
@[simp] theorem onlyCores_holds (s t : State) : (s.onlyCores t).holds = s.holds := rfl

@[simp] theorem onlyIssue_ctxs (k j : Core) : (k.onlyIssue j).ctxs = j.ctxs := rfl
@[simp] theorem onlyIssue_shg (k j : Core) : (k.onlyIssue j).shg = k.shg := rfl
@[simp] theorem onlyIssue_shfe (k j : Core) : (k.onlyIssue j).shfe = j.shfe := rfl
@[simp] theorem onlyIssue_late (k j : Core) : (k.onlyIssue j).late = j.late := rfl
@[simp] theorem onlyIssue_sorusDepth (k j : Core) : (k.onlyIssue j).sorusDepth = k.sorusDepth := rfl
@[simp] theorem onlyIssue_spawnLim (k j : Core) : (k.onlyIssue j).spawnLim = k.spawnLim := rfl
@[simp] theorem onlyIssue_scaleUflow (k j : Core) : (k.onlyIssue j).scaleUflow = k.scaleUflow := rfl
@[simp] theorem onlyIssue_kvec (k j : Core) : (k.onlyIssue j).kvec = k.kvec := rfl
@[simp] theorem onlyIssue_dvec (k j : Core) : (k.onlyIssue j).dvec = k.dvec := rfl
@[simp] theorem onlyIssue_spillOff (k j : Core) : (k.onlyIssue j).spillOff = k.spillOff := rfl
@[simp] theorem onlyIssue_spillCap (k j : Core) : (k.onlyIssue j).spillCap = k.spillCap := rfl
@[simp] theorem onlyIssue_pmask (k j : Core) : (k.onlyIssue j).pmask = k.pmask := rfl
@[simp] theorem onlyIssue_pmaskNew (k j : Core) : (k.onlyIssue j).pmaskNew = k.pmaskNew := rfl
@[simp] theorem onlyIssue_lastRr (k j : Core) : (k.onlyIssue j).lastRr = j.lastRr := rfl
@[simp] theorem onlyIssue_issuedAt (k j : Core) : (k.onlyIssue j).issuedAt = j.issuedAt := rfl
@[simp] theorem onlyIssue_boundIn (k j : Core) : (k.onlyIssue j).boundIn = k.boundIn := rfl
@[simp] theorem onlyIssue_deque (k j : Core) : (k.onlyIssue j).deque = k.deque := rfl
@[simp] theorem onlyIssue_retiring (k j : Core) : (k.onlyIssue j).retiring = k.retiring := rfl
@[simp] theorem onlyIssue_portAt (k j : Core) : (k.onlyIssue j).portAt = k.portAt := rfl
@[simp] theorem onlyIssue_sorus (k j : Core) : (k.onlyIssue j).sorus = k.sorus := rfl
@[simp] theorem onlyIssue_offers (k j : Core) : (k.onlyIssue j).offers = k.offers := rfl
@[simp] theorem onlyIssue_spilled (k j : Core) : (k.onlyIssue j).spilled = k.spilled := rfl
@[simp] theorem onlyIssue_refill (k j : Core) : (k.onlyIssue j).refill = k.refill := rfl
@[simp] theorem onlyIssue_streams (k j : Core) : (k.onlyIssue j).streams = k.streams := rfl
@[simp] theorem onlyIssue_opens (k j : Core) : (k.onlyIssue j).opens = k.opens := rfl
@[simp] theorem onlyIssue_l1 (k j : Core) : (k.onlyIssue j).l1 = k.l1 := rfl
@[simp] theorem onlyIssue_icache (k j : Core) : (k.onlyIssue j).icache = k.icache := rfl
@[simp] theorem onlyIssue_icBad (k j : Core) : (k.onlyIssue j).icBad = k.icBad := rfl
@[simp] theorem onlyIssue_shbad (k j : Core) : (k.onlyIssue j).shbad = k.shbad := rfl
@[simp] theorem onlyIssue_icFill (k j : Core) : (k.onlyIssue j).icFill = k.icFill := rfl
@[simp] theorem onlyIssue_qin (k j : Core) : (k.onlyIssue j).qin = k.qin := rfl
@[simp] theorem onlyIssue_qinOf (k j : Core) : (k.onlyIssue j).qinOf = k.qinOf := rfl
@[simp] theorem onlyIssue_qout (k j : Core) : (k.onlyIssue j).qout = k.qout := rfl
@[simp] theorem onlyIssue_rdBits (k j : Core) : (k.onlyIssue j).rdBits = k.rdBits := rfl
@[simp] theorem onlyIssue_rdLeft (k j : Core) : (k.onlyIssue j).rdLeft = k.rdLeft := rfl
@[simp] theorem onlyIssue_rdCount (k j : Core) : (k.onlyIssue j).rdCount = k.rdCount := rfl
@[simp] theorem onlyIssue_wrBits (k j : Core) : (k.onlyIssue j).wrBits = k.wrBits := rfl
@[simp] theorem onlyIssue_wrLen (k j : Core) : (k.onlyIssue j).wrLen = k.wrLen := rfl
@[simp] theorem onlyIssue_wrCount (k j : Core) : (k.onlyIssue j).wrCount = k.wrCount := rfl
@[simp] theorem onlyIssue_chan (k j : Core) : (k.onlyIssue j).chan = k.chan := rfl
@[simp] theorem onlyIssue_postab (k j : Core) : (k.onlyIssue j).postab = k.postab := rfl
@[simp] theorem onlyIssue_preempt (k j : Core) : (k.onlyIssue j).preempt = k.preempt := rfl
@[simp] theorem onlyIssue_preemptAt (k j : Core) : (k.onlyIssue j).preemptAt = k.preemptAt := rfl
@[simp] theorem onlyIssue_preemptMet (k j : Core) : (k.onlyIssue j).preemptMet = k.preemptMet := rfl
@[simp] theorem onlyIssue_svb (k j : Core) : (k.onlyIssue j).svb = k.svb := rfl
@[simp] theorem onlyIssue_mtx (k j : Core) : (k.onlyIssue j).mtx = k.mtx := rfl
@[simp] theorem onlyIssue_cStop (k j : Core) : (k.onlyIssue j).cStop = k.cStop := rfl
@[simp] theorem onlyIssue_ring (k j : Core) : (k.onlyIssue j).ring = k.ring := rfl
@[simp] theorem onlyIssue_probe (k j : Core) : (k.onlyIssue j).probe = k.probe := rfl
@[simp] theorem onlyIssue_unavailable (k j : Core) : (k.onlyIssue j).unavailable = k.unavailable := rfl
@[simp] theorem onlyIssue_badQ (k j : Core) : (k.onlyIssue j).badQ = k.badQ := rfl

@[simp] theorem onlyRegs_st (k j : Ctx) : (k.onlyRegs j).st = j.st := rfl
@[simp] theorem onlyRegs_busyTill (k j : Ctx) : (k.onlyRegs j).busyTill = j.busyTill := rfl
@[simp] theorem onlyRegs_boundAt (k j : Ctx) : (k.onlyRegs j).boundAt = k.boundAt := rfl
@[simp] theorem onlyRegs_eligAt (k j : Ctx) : (k.onlyRegs j).eligAt = k.eligAt := rfl
@[simp] theorem onlyRegs_pc (k j : Ctx) : (k.onlyRegs j).pc = j.pc := rfl
@[simp] theorem onlyRegs_g (k j : Ctx) : (k.onlyRegs j).g = j.g := rfl
@[simp] theorem onlyRegs_f (k j : Ctx) : (k.onlyRegs j).f = j.f := rfl
@[simp] theorem onlyRegs_v (k j : Ctx) : (k.onlyRegs j).v = j.v := rfl
@[simp] theorem onlyRegs_k (k j : Ctx) : (k.onlyRegs j).k = j.k := rfl
@[simp] theorem onlyRegs_fe (k j : Ctx) : (k.onlyRegs j).fe = j.fe := rfl
@[simp] theorem onlyRegs_bad (k j : Ctx) : (k.onlyRegs j).bad = j.bad := rfl
@[simp] theorem onlyRegs_wlimit (k j : Ctx) : (k.onlyRegs j).wlimit = k.wlimit := rfl
@[simp] theorem onlyRegs_fpmode (k j : Ctx) : (k.onlyRegs j).fpmode = k.fpmode := rfl
@[simp] theorem onlyRegs_fpflags (k j : Ctx) : (k.onlyRegs j).fpflags = j.fpflags := rfl
@[simp] theorem onlyRegs_tprog (k j : Ctx) : (k.onlyRegs j).tprog = k.tprog := rfl
@[simp] theorem onlyRegs_outl (k j : Ctx) : (k.onlyRegs j).outl = k.outl := rfl
@[simp] theorem onlyRegs_hypCur (k j : Ctx) : (k.onlyRegs j).hypCur = k.hypCur := rfl
@[simp] theorem onlyRegs_scopeTab (k j : Ctx) : (k.onlyRegs j).scopeTab = k.scopeTab := rfl
@[simp] theorem onlyRegs_scopes (k j : Ctx) : (k.onlyRegs j).scopes = k.scopes := rfl
@[simp] theorem onlyRegs_lvl (k j : Ctx) : (k.onlyRegs j).lvl = k.lvl := rfl
@[simp] theorem onlyRegs_plvl (k j : Ctx) : (k.onlyRegs j).plvl = k.plvl := rfl
@[simp] theorem onlyRegs_depth (k j : Ctx) : (k.onlyRegs j).depth = k.depth := rfl
@[simp] theorem onlyRegs_ipend (k j : Ctx) : (k.onlyRegs j).ipend = k.ipend := rfl
@[simp] theorem onlyRegs_ien (k j : Ctx) : (k.onlyRegs j).ien = k.ien := rfl
@[simp] theorem onlyRegs_sat (k j : Ctx) : (k.onlyRegs j).sat = k.sat := rfl
@[simp] theorem onlyRegs_frec (k j : Ctx) : (k.onlyRegs j).frec = k.frec := rfl
@[simp] theorem onlyRegs_kipi (k j : Ctx) : (k.onlyRegs j).kipi = k.kipi := rfl
@[simp] theorem onlyRegs_kscr (k j : Ctx) : (k.onlyRegs j).kscr = k.kscr := rfl
@[simp] theorem onlyRegs_asid (k j : Ctx) : (k.onlyRegs j).asid = k.asid := rfl
@[simp] theorem onlyRegs_mt (k j : Ctx) : (k.onlyRegs j).mt = k.mt := rfl
@[simp] theorem onlyRegs_orph (k j : Ctx) : (k.onlyRegs j).orph = k.orph := rfl
@[simp] theorem onlyRegs_jn (k j : Ctx) : (k.onlyRegs j).jn = k.jn := rfl
@[simp] theorem onlyRegs_jword (k j : Ctx) : (k.onlyRegs j).jword = k.jword := rfl
@[simp] theorem onlyRegs_jcl (k j : Ctx) : (k.onlyRegs j).jcl = k.jcl := rfl
@[simp] theorem onlyRegs_outst (k j : Ctx) : (k.onlyRegs j).outst = j.outst := rfl
@[simp] theorem onlyRegs_posted (k j : Ctx) : (k.onlyRegs j).posted = j.posted := rfl
@[simp] theorem onlyRegs_faults (k j : Ctx) : (k.onlyRegs j).faults = j.faults := rfl
@[simp] theorem onlyRegs_nextId (k j : Ctx) : (k.onlyRegs j).nextId = k.nextId := rfl
@[simp] theorem onlyRegs_sinceSpt (k j : Ctx) : (k.onlyRegs j).sinceSpt = j.sinceSpt := rfl
@[simp] theorem onlyRegs_paced (k j : Ctx) : (k.onlyRegs j).paced = k.paced := rfl
@[simp] theorem onlyRegs_strm (k j : Ctx) : (k.onlyRegs j).strm = k.strm := rfl
@[simp] theorem onlyRegs_chans (k j : Ctx) : (k.onlyRegs j).chans = k.chans := rfl
@[simp] theorem onlyRegs_q1 (k j : Ctx) : (k.onlyRegs j).q1 = k.q1 := rfl
@[simp] theorem onlyRegs_q3 (k j : Ctx) : (k.onlyRegs j).q3 = k.q3 := rfl
@[simp] theorem onlyRegs_q5 (k j : Ctx) : (k.onlyRegs j).q5 = k.q5 := rfl
@[simp] theorem onlyRegs_pushed (k j : Ctx) : (k.onlyRegs j).pushed = k.pushed := rfl
@[simp] theorem onlyRegs_rounds (k j : Ctx) : (k.onlyRegs j).rounds = k.rounds := rfl
@[simp] theorem onlyRegs_pos (k j : Ctx) : (k.onlyRegs j).pos = k.pos := rfl
@[simp] theorem onlyRegs_rett (k j : Ctx) : (k.onlyRegs j).rett = k.rett := rfl
@[simp] theorem onlyRegs_sent (k j : Ctx) : (k.onlyRegs j).sent = k.sent := rfl
@[simp] theorem onlyRegs_reserved (k j : Ctx) : (k.onlyRegs j).reserved = k.reserved := rfl
@[simp] theorem onlyRegs_tileOut (k j : Ctx) : (k.onlyRegs j).tileOut = k.tileOut := rfl
@[simp] theorem onlyRegs_tileFlags (k j : Ctx) : (k.onlyRegs j).tileFlags = k.tileFlags := rfl
@[simp] theorem onlyRegs_badTile (k j : Ctx) : (k.onlyRegs j).badTile = k.badTile := rfl
@[simp] theorem onlyRegs_forced (k j : Ctx) : (k.onlyRegs j).forced = k.forced := rfl
@[simp] theorem onlyRegs_noFrec (k j : Ctx) : (k.onlyRegs j).noFrec = k.noFrec := rfl
@[simp] theorem onlyRegs_ending (k j : Ctx) : (k.onlyRegs j).ending = k.ending := rfl

/-- Everywhere only registers, late writes and the counts of the issue stage differ. -/
structure OnlyRegs (s t : State) : Prop where
  rest : t = s.onlyCores t
  core : ∀ c, t.core c = (s.core c).onlyIssue (t.core c)
  ctx : ∀ c x, t.ctx c x = (s.ctx c x).onlyRegs (t.ctx c x)

theorem OnlyRegs.refl (s : State) : OnlyRegs s s := ⟨rfl, fun _ => rfl, fun _ _ => rfl⟩
theorem OnlyRegs.trans {s t u : State} (h : OnlyRegs s t) (k : OnlyRegs t u) : OnlyRegs s u :=
  ⟨onlyCores_trans h.rest k.rest, fun c => onlyIssue_trans (h.core c) (k.core c), fun c x => onlyRegs_trans (h.ctx c x) (k.ctx c x)⟩

theorem onlyRegs_updCore (s : State) (c : Nat) (g : Core → Core) (hc : (g (s.core c)).ctxs = (s.core c).ctxs)
    (hg : g (s.core c) = (s.core c).onlyIssue (g (s.core c))) : OnlyRegs s (s.updCore c g) := by
  refine ⟨rfl, fun d => ?_, fun d y => ?_⟩
  · rw [State.core_updCore]; split
    · rename_i h; rw [h]; exact hg
    · rfl
  · rw [State.ctx_updCore _ _ _ _ _ hc]; rfl

theorem onlyRegs_updCtx (s : State) (c x : Nat) (g : Ctx → Ctx) (hg : g (s.ctx c x) = (s.ctx c x).onlyRegs (g (s.ctx c x))) :
    OnlyRegs s (s.updCtx c x g) := by
  refine ⟨rfl, fun d => ?_, fun d y => ?_⟩
  · rw [State.updCtx, State.core_setCtx]; split
    · rename_i h; rw [h]; rfl
    · rfl
  · rw [State.ctx_updCtx]; split
    · rename_i h; rw [h.1, h.2]; exact hg
    · rfl

theorem onlyRegs_setFull (s : State) (c x code : Nat) (b : Bool) : OnlyRegs s (s.setFull c x code b) := by
  unfold State.setFull
  split
  · exact OnlyRegs.refl s
  · split
    · exact onlyRegs_updCore s c (fun k => { k with shfe := mset true k.shfe code b }) rfl rfl
    · exact onlyRegs_updCtx s c x (fun k => { k with fe := mset true k.fe code b }) rfl

theorem onlyRegs_later (s : State) (c : Nat) (l : Late) : OnlyRegs s (s.later c l) :=
  onlyRegs_updCore s c (fun k => { k with late := k.late ++ [l] }) rfl rfl

theorem onlyRegs_retireClear (s : State) (c x code : Nat) (b : Bool) : OnlyRegs s (s.retireClear c x code b) := by
  unfold State.retireClear
  split
  · exact OnlyRegs.refl s
  · exact onlyRegs_later s _ _

theorem OnlyRegs.foldl {α : Type} (g : State → α → State) (h : ∀ s a, OnlyRegs s (g s a)) (l : List α) :
    ∀ s : State, OnlyRegs s (l.foldl g s) := by
  induction l with
  | nil => exact OnlyRegs.refl
  | cons a l ih => exact fun s => (h s a).trans (ih (g s a))

theorem onlyRegs_clearMark (s : State) (e : Nat × Mark) : OnlyRegs s (s.clearMark e) := by
  unfold State.clearMark
  split
  · exact OnlyRegs.refl s
  · exact onlyRegs_retireClear s _ _ _ _

theorem onlyRegs_clearMarks (s : State) (sh : Shape) : OnlyRegs s (s.clearMarks sh) :=
  OnlyRegs.foldl State.clearMark onlyRegs_clearMark (readsOf sh) s

/-- What an issue changes in the counts of a context (R34, R45, R372). -/
def Ctx.counted (k : Ctx) (n : Nat) : Ctx :=
  { k with
    outst := k.outst.map (fun d => { d with since := d.since + 1, yret := d.yret + n })
    posted := k.posted.map (fun d => { d with yret := d.yret + n })
    faults := k.faults.map (fun d => { d with yret := d.yret + n })
    sinceSpt := k.sinceSpt + 1 }

theorem countIssue_eq (s : State) (b : Bool) : s.countIssue b = s.updCtx s.cur s.cx (fun k => k.counted b.toNat) := rfl

theorem onlyRegs_countIssue (s : State) (b : Bool) : OnlyRegs s (s.countIssue b) := by
  rw [countIssue_eq]
  exact onlyRegs_updCtx s _ _ (fun k => k.counted b.toNat) rfl

theorem reg_clearMark (s : State) (e : Nat × Mark) (c x r : Nat) : (s.clearMark e).reg c x r = s.reg c x r := by
  unfold State.clearMark
  split
  · rfl
  · exact s.reg_retireClear _ _ _ _ _ _ _

theorem reg_clearMarks (s : State) (sh : Shape) (c x r : Nat) : (s.clearMarks sh).reg c x r = s.reg c x r := by
  rw [State.clearMarks]
  induction readsOf sh generalizing s with
  | nil => rfl
  | cons e l ih => rw [List.foldl_cons, ih, reg_clearMark]

/-! A clear of marks is a late write: until it is due, contexts keep everything. -/

/-- The same context acts, and contexts are the same. -/
def SameCtxs (s t : State) : Prop := t.cur = s.cur ∧ t.cx = s.cx ∧ t.iw = s.iw ∧ ∀ c x, t.ctx c x = s.ctx c x

theorem SameCtxs.refl (s : State) : SameCtxs s s := ⟨rfl, rfl, rfl, fun _ _ => rfl⟩
theorem SameCtxs.trans {s t u : State} (h : SameCtxs s t) (k : SameCtxs t u) : SameCtxs s u :=
  ⟨k.1.trans h.1, k.2.1.trans h.2.1, k.2.2.1.trans h.2.2.1, fun c x => (k.2.2.2 c x).trans (h.2.2.2 c x)⟩

theorem sameCtxs_clearMark (s : State) (e : Nat × Mark) : SameCtxs s (s.clearMark e) := by
  unfold State.clearMark State.retireClear
  split
  · exact SameCtxs.refl s
  · split
    · exact SameCtxs.refl s
    · exact ⟨rfl, rfl, rfl, fun d y => State.ctx_updCore _ _ _ _ _ rfl⟩

theorem sameCtxs_clearMarks (s : State) (sh : Shape) : SameCtxs s (s.clearMarks sh) := by
  rw [State.clearMarks]
  induction readsOf sh generalizing s with
  | nil => exact SameCtxs.refl s
  | cons e l ih => rw [List.foldl_cons]; exact (sameCtxs_clearMark s e).trans (ih _)

/-! `State.begun`. -/

theorem onlyRegs_begun (s : State) (sh : Shape) : OnlyRegs (s.withIw sh) (s.begun sh) :=
  (onlyRegs_clearMarks (s.withIw sh) sh).trans (onlyRegs_countIssue _ _)

@[simp] theorem begun_iw (s : State) (sh : Shape) : (s.begun sh).iw = sh.iw := (sameCtxs_clearMarks (s.withIw sh) sh).2.2.1

@[simp] theorem begun_cycles (s : State) (sh : Shape) : (s.begun sh).cycles = s.cycles := by
  rw [(onlyRegs_begun s sh).rest]; exact onlyCores_cycles _ _
@[simp] theorem begun_cur (s : State) (sh : Shape) : (s.begun sh).cur = s.cur := by
  rw [(onlyRegs_begun s sh).rest]; exact onlyCores_cur _ _
@[simp] theorem begun_cx (s : State) (sh : Shape) : (s.begun sh).cx = s.cx := by
  rw [(onlyRegs_begun s sh).rest]; exact onlyCores_cx _ _
@[simp] theorem begun_iwH (s : State) (sh : Shape) : (s.begun sh).iwH = s.iwH := by
  rw [(onlyRegs_begun s sh).rest]; exact onlyCores_iwH _ _
@[simp] theorem begun_ev (s : State) (sh : Shape) : (s.begun sh).ev = s.ev := by
  rw [(onlyRegs_begun s sh).rest]; exact onlyCores_ev _ _
@[simp] theorem begun_schedule (s : State) (sh : Shape) : (s.begun sh).schedule = s.schedule := by
  rw [(onlyRegs_begun s sh).rest]; exact onlyCores_schedule _ _
@[simp] theorem begun_fresh (s : State) (sh : Shape) : (s.begun sh).fresh = s.fresh := by
  rw [(onlyRegs_begun s sh).rest]; exact onlyCores_fresh _ _
@[simp] theorem begun_clusters (s : State) (sh : Shape) : (s.begun sh).clusters = s.clusters := by
  rw [(onlyRegs_begun s sh).rest]; exact onlyCores_clusters _ _
@[simp] theorem begun_parts (s : State) (sh : Shape) : (s.begun sh).parts = s.parts := by
  rw [(onlyRegs_begun s sh).rest]; exact onlyCores_parts _ _
@[simp] theorem begun_launches (s : State) (sh : Shape) : (s.begun sh).launches = s.launches := by
  rw [(onlyRegs_begun s sh).rest]; exact onlyCores_launches _ _
@[simp] theorem begun_win (s : State) (sh : Shape) : (s.begun sh).win = s.win := by
  rw [(onlyRegs_begun s sh).rest]; exact onlyCores_win _ _
@[simp] theorem begun_dram (s : State) (sh : Shape) : (s.begun sh).dram = s.dram := by
  rw [(onlyRegs_begun s sh).rest]; exact onlyCores_dram _ _
@[simp] theorem begun_far (s : State) (sh : Shape) : (s.begun sh).far = s.far := by
  rw [(onlyRegs_begun s sh).rest]; exact onlyCores_far _ _
@[simp] theorem begun_host (s : State) (sh : Shape) : (s.begun sh).host = s.host := by
  rw [(onlyRegs_begun s sh).rest]; exact onlyCores_host _ _
@[simp] theorem begun_slices (s : State) (sh : Shape) : (s.begun sh).slices = s.slices := by
  rw [(onlyRegs_begun s sh).rest]; exact onlyCores_slices _ _
@[simp] theorem begun_vers (s : State) (sh : Shape) : (s.begun sh).vers = s.vers := by
  rw [(onlyRegs_begun s sh).rest]; exact onlyCores_vers _ _
@[simp] theorem begun_hostWr (s : State) (sh : Shape) : (s.begun sh).hostWr = s.hostWr := by
  rw [(onlyRegs_begun s sh).rest]; exact onlyCores_hostWr _ _
@[simp] theorem begun_swPages (s : State) (sh : Shape) : (s.begun sh).swPages = s.swPages := by
  rw [(onlyRegs_begun s sh).rest]; exact onlyCores_swPages _ _
@[simp] theorem begun_pages (s : State) (sh : Shape) : (s.begun sh).pages = s.pages := by
  rw [(onlyRegs_begun s sh).rest]; exact onlyCores_pages _ _
@[simp] theorem begun_recs (s : State) (sh : Shape) : (s.begun sh).recs = s.recs := by
  rw [(onlyRegs_begun s sh).rest]; exact onlyCores_recs _ _
@[simp] theorem begun_tlb (s : State) (sh : Shape) : (s.begun sh).tlb = s.tlb := by
  rw [(onlyRegs_begun s sh).rest]; exact onlyCores_tlb _ _
@[simp] theorem begun_wcache (s : State) (sh : Shape) : (s.begun sh).wcache = s.wcache := by
  rw [(onlyRegs_begun s sh).rest]; exact onlyCores_wcache _ _
@[simp] theorem begun_remap (s : State) (sh : Shape) : (s.begun sh).remap = s.remap := by
  rw [(onlyRegs_begun s sh).rest]; exact onlyCores_remap _ _
@[simp] theorem begun_waiters (s : State) (sh : Shape) : (s.begun sh).waiters = s.waiters := by
  rw [(onlyRegs_begun s sh).rest]; exact onlyCores_waiters _ _
@[simp] theorem begun_net (s : State) (sh : Shape) : (s.begun sh).net = s.net := by
  rw [(onlyRegs_begun s sh).rest]; exact onlyCores_net _ _
@[simp] theorem begun_pairSeq (s : State) (sh : Shape) : (s.begun sh).pairSeq = s.pairSeq := by
  rw [(onlyRegs_begun s sh).rest]; exact onlyCores_pairSeq _ _
@[simp] theorem begun_joinMeta (s : State) (sh : Shape) : (s.begun sh).joinMeta = s.joinMeta := by
  rw [(onlyRegs_begun s sh).rest]; exact onlyCores_joinMeta _ _
@[simp] theorem begun_devId (s : State) (sh : Shape) : (s.begun sh).devId = s.devId := by
  rw [(onlyRegs_begun s sh).rest]; exact onlyCores_devId _ _
@[simp] theorem begun_fwVer (s : State) (sh : Shape) : (s.begun sh).fwVer = s.fwVer := by
  rw [(onlyRegs_begun s sh).rest]; exact onlyCores_fwVer _ _
@[simp] theorem begun_links (s : State) (sh : Shape) : (s.begun sh).links = s.links := by
  rw [(onlyRegs_begun s sh).rest]; exact onlyCores_links _ _
@[simp] theorem begun_lostLanes (s : State) (sh : Shape) : (s.begun sh).lostLanes = s.lostLanes := by
  rw [(onlyRegs_begun s sh).rest]; exact onlyCores_lostLanes _ _
@[simp] theorem begun_edges (s : State) (sh : Shape) : (s.begun sh).edges = s.edges := by
  rw [(onlyRegs_begun s sh).rest]; exact onlyCores_edges _ _
@[simp] theorem begun_hdm (s : State) (sh : Shape) : (s.begun sh).hdm = s.hdm := by
  rw [(onlyRegs_begun s sh).rest]; exact onlyCores_hdm _ _
@[simp] theorem begun_bring (s : State) (sh : Shape) : (s.begun sh).bring = s.bring := by
  rw [(onlyRegs_begun s sh).rest]; exact onlyCores_bring _ _
@[simp] theorem begun_granularity (s : State) (sh : Shape) : (s.begun sh).granularity = s.granularity := by
  rw [(onlyRegs_begun s sh).rest]; exact onlyCores_granularity _ _
@[simp] theorem begun_tests (s : State) (sh : Shape) : (s.begun sh).tests = s.tests := by
  rw [(onlyRegs_begun s sh).rest]; exact onlyCores_tests _ _
@[simp] theorem begun_log (s : State) (sh : Shape) : (s.begun sh).log = s.log := by
  rw [(onlyRegs_begun s sh).rest]; exact onlyCores_log _ _
@[simp] theorem begun_throttle (s : State) (sh : Shape) : (s.begun sh).throttle = s.throttle := by
  rw [(onlyRegs_begun s sh).rest]; exact onlyCores_throttle _ _
@[simp] theorem begun_throttledAt (s : State) (sh : Shape) : (s.begun sh).throttledAt = s.throttledAt := by
  rw [(onlyRegs_begun s sh).rest]; exact onlyCores_throttledAt _ _
@[simp] theorem begun_power (s : State) (sh : Shape) : (s.begun sh).power = s.power := by
  rw [(onlyRegs_begun s sh).rest]; exact onlyCores_power _ _
@[simp] theorem begun_sampledAt (s : State) (sh : Shape) : (s.begun sh).sampledAt = s.sampledAt := by
  rw [(onlyRegs_begun s sh).rest]; exact onlyCores_sampledAt _ _
@[simp] theorem begun_holds (s : State) (sh : Shape) : (s.begun sh).holds = s.holds := by
  rw [(onlyRegs_begun s sh).rest]; exact onlyCores_holds _ _

@[simp] theorem begun_core_shg (s : State) (sh : Shape) (c : Nat) : ((s.begun sh).core c).shg = (s.core c).shg := by
  rw [(onlyRegs_begun s sh).core c]; exact onlyIssue_shg _ _
@[simp] theorem begun_core_sorusDepth (s : State) (sh : Shape) (c : Nat) : ((s.begun sh).core c).sorusDepth = (s.core c).sorusDepth := by
  rw [(onlyRegs_begun s sh).core c]; exact onlyIssue_sorusDepth _ _
@[simp] theorem begun_core_spawnLim (s : State) (sh : Shape) (c : Nat) : ((s.begun sh).core c).spawnLim = (s.core c).spawnLim := by
  rw [(onlyRegs_begun s sh).core c]; exact onlyIssue_spawnLim _ _
@[simp] theorem begun_core_scaleUflow (s : State) (sh : Shape) (c : Nat) : ((s.begun sh).core c).scaleUflow = (s.core c).scaleUflow := by
  rw [(onlyRegs_begun s sh).core c]; exact onlyIssue_scaleUflow _ _
@[simp] theorem begun_core_kvec (s : State) (sh : Shape) (c : Nat) : ((s.begun sh).core c).kvec = (s.core c).kvec := by
  rw [(onlyRegs_begun s sh).core c]; exact onlyIssue_kvec _ _
@[simp] theorem begun_core_dvec (s : State) (sh : Shape) (c : Nat) : ((s.begun sh).core c).dvec = (s.core c).dvec := by
  rw [(onlyRegs_begun s sh).core c]; exact onlyIssue_dvec _ _
@[simp] theorem begun_core_spillOff (s : State) (sh : Shape) (c : Nat) : ((s.begun sh).core c).spillOff = (s.core c).spillOff := by
  rw [(onlyRegs_begun s sh).core c]; exact onlyIssue_spillOff _ _
@[simp] theorem begun_core_spillCap (s : State) (sh : Shape) (c : Nat) : ((s.begun sh).core c).spillCap = (s.core c).spillCap := by
  rw [(onlyRegs_begun s sh).core c]; exact onlyIssue_spillCap _ _
@[simp] theorem begun_core_pmask (s : State) (sh : Shape) (c : Nat) : ((s.begun sh).core c).pmask = (s.core c).pmask := by
  rw [(onlyRegs_begun s sh).core c]; exact onlyIssue_pmask _ _
@[simp] theorem begun_core_pmaskNew (s : State) (sh : Shape) (c : Nat) : ((s.begun sh).core c).pmaskNew = (s.core c).pmaskNew := by
  rw [(onlyRegs_begun s sh).core c]; exact onlyIssue_pmaskNew _ _
@[simp] theorem begun_core_boundIn (s : State) (sh : Shape) (c : Nat) : ((s.begun sh).core c).boundIn = (s.core c).boundIn := by
  rw [(onlyRegs_begun s sh).core c]; exact onlyIssue_boundIn _ _
@[simp] theorem begun_core_deque (s : State) (sh : Shape) (c : Nat) : ((s.begun sh).core c).deque = (s.core c).deque := by
  rw [(onlyRegs_begun s sh).core c]; exact onlyIssue_deque _ _
@[simp] theorem begun_core_retiring (s : State) (sh : Shape) (c : Nat) : ((s.begun sh).core c).retiring = (s.core c).retiring := by
  rw [(onlyRegs_begun s sh).core c]; exact onlyIssue_retiring _ _
@[simp] theorem begun_core_portAt (s : State) (sh : Shape) (c : Nat) : ((s.begun sh).core c).portAt = (s.core c).portAt := by
  rw [(onlyRegs_begun s sh).core c]; exact onlyIssue_portAt _ _
@[simp] theorem begun_core_sorus (s : State) (sh : Shape) (c : Nat) : ((s.begun sh).core c).sorus = (s.core c).sorus := by
  rw [(onlyRegs_begun s sh).core c]; exact onlyIssue_sorus _ _
@[simp] theorem begun_core_offers (s : State) (sh : Shape) (c : Nat) : ((s.begun sh).core c).offers = (s.core c).offers := by
  rw [(onlyRegs_begun s sh).core c]; exact onlyIssue_offers _ _
@[simp] theorem begun_core_spilled (s : State) (sh : Shape) (c : Nat) : ((s.begun sh).core c).spilled = (s.core c).spilled := by
  rw [(onlyRegs_begun s sh).core c]; exact onlyIssue_spilled _ _
@[simp] theorem begun_core_refill (s : State) (sh : Shape) (c : Nat) : ((s.begun sh).core c).refill = (s.core c).refill := by
  rw [(onlyRegs_begun s sh).core c]; exact onlyIssue_refill _ _
@[simp] theorem begun_core_streams (s : State) (sh : Shape) (c : Nat) : ((s.begun sh).core c).streams = (s.core c).streams := by
  rw [(onlyRegs_begun s sh).core c]; exact onlyIssue_streams _ _
@[simp] theorem begun_core_opens (s : State) (sh : Shape) (c : Nat) : ((s.begun sh).core c).opens = (s.core c).opens := by
  rw [(onlyRegs_begun s sh).core c]; exact onlyIssue_opens _ _
@[simp] theorem begun_core_l1 (s : State) (sh : Shape) (c : Nat) : ((s.begun sh).core c).l1 = (s.core c).l1 := by
  rw [(onlyRegs_begun s sh).core c]; exact onlyIssue_l1 _ _
@[simp] theorem begun_core_icache (s : State) (sh : Shape) (c : Nat) : ((s.begun sh).core c).icache = (s.core c).icache := by
  rw [(onlyRegs_begun s sh).core c]; exact onlyIssue_icache _ _
@[simp] theorem begun_core_icFill (s : State) (sh : Shape) (c : Nat) : ((s.begun sh).core c).icFill = (s.core c).icFill := by
  rw [(onlyRegs_begun s sh).core c]; exact onlyIssue_icFill _ _
@[simp] theorem begun_core_qin (s : State) (sh : Shape) (c : Nat) : ((s.begun sh).core c).qin = (s.core c).qin := by
  rw [(onlyRegs_begun s sh).core c]; exact onlyIssue_qin _ _
@[simp] theorem begun_core_qinOf (s : State) (sh : Shape) (c : Nat) : ((s.begun sh).core c).qinOf = (s.core c).qinOf := by
  rw [(onlyRegs_begun s sh).core c]; exact onlyIssue_qinOf _ _
@[simp] theorem begun_core_qout (s : State) (sh : Shape) (c : Nat) : ((s.begun sh).core c).qout = (s.core c).qout := by
  rw [(onlyRegs_begun s sh).core c]; exact onlyIssue_qout _ _
@[simp] theorem begun_core_rdBits (s : State) (sh : Shape) (c : Nat) : ((s.begun sh).core c).rdBits = (s.core c).rdBits := by
  rw [(onlyRegs_begun s sh).core c]; exact onlyIssue_rdBits _ _
@[simp] theorem begun_core_rdLeft (s : State) (sh : Shape) (c : Nat) : ((s.begun sh).core c).rdLeft = (s.core c).rdLeft := by
  rw [(onlyRegs_begun s sh).core c]; exact onlyIssue_rdLeft _ _
@[simp] theorem begun_core_rdCount (s : State) (sh : Shape) (c : Nat) : ((s.begun sh).core c).rdCount = (s.core c).rdCount := by
  rw [(onlyRegs_begun s sh).core c]; exact onlyIssue_rdCount _ _
@[simp] theorem begun_core_wrBits (s : State) (sh : Shape) (c : Nat) : ((s.begun sh).core c).wrBits = (s.core c).wrBits := by
  rw [(onlyRegs_begun s sh).core c]; exact onlyIssue_wrBits _ _
@[simp] theorem begun_core_wrLen (s : State) (sh : Shape) (c : Nat) : ((s.begun sh).core c).wrLen = (s.core c).wrLen := by
  rw [(onlyRegs_begun s sh).core c]; exact onlyIssue_wrLen _ _
@[simp] theorem begun_core_wrCount (s : State) (sh : Shape) (c : Nat) : ((s.begun sh).core c).wrCount = (s.core c).wrCount := by
  rw [(onlyRegs_begun s sh).core c]; exact onlyIssue_wrCount _ _
@[simp] theorem begun_core_chan (s : State) (sh : Shape) (c : Nat) : ((s.begun sh).core c).chan = (s.core c).chan := by
  rw [(onlyRegs_begun s sh).core c]; exact onlyIssue_chan _ _
@[simp] theorem begun_core_postab (s : State) (sh : Shape) (c : Nat) : ((s.begun sh).core c).postab = (s.core c).postab := by
  rw [(onlyRegs_begun s sh).core c]; exact onlyIssue_postab _ _
@[simp] theorem begun_core_preempt (s : State) (sh : Shape) (c : Nat) : ((s.begun sh).core c).preempt = (s.core c).preempt := by
  rw [(onlyRegs_begun s sh).core c]; exact onlyIssue_preempt _ _
@[simp] theorem begun_core_preemptAt (s : State) (sh : Shape) (c : Nat) : ((s.begun sh).core c).preemptAt = (s.core c).preemptAt := by
  rw [(onlyRegs_begun s sh).core c]; exact onlyIssue_preemptAt _ _
@[simp] theorem begun_core_svb (s : State) (sh : Shape) (c : Nat) : ((s.begun sh).core c).svb = (s.core c).svb := by
  rw [(onlyRegs_begun s sh).core c]; exact onlyIssue_svb _ _
@[simp] theorem begun_core_mtx (s : State) (sh : Shape) (c : Nat) : ((s.begun sh).core c).mtx = (s.core c).mtx := by
  rw [(onlyRegs_begun s sh).core c]; exact onlyIssue_mtx _ _
@[simp] theorem begun_core_cStop (s : State) (sh : Shape) (c : Nat) : ((s.begun sh).core c).cStop = (s.core c).cStop := by
  rw [(onlyRegs_begun s sh).core c]; exact onlyIssue_cStop _ _
@[simp] theorem begun_core_ring (s : State) (sh : Shape) (c : Nat) : ((s.begun sh).core c).ring = (s.core c).ring := by
  rw [(onlyRegs_begun s sh).core c]; exact onlyIssue_ring _ _
@[simp] theorem begun_core_probe (s : State) (sh : Shape) (c : Nat) : ((s.begun sh).core c).probe = (s.core c).probe := by
  rw [(onlyRegs_begun s sh).core c]; exact onlyIssue_probe _ _
@[simp] theorem begun_core_unavailable (s : State) (sh : Shape) (c : Nat) : ((s.begun sh).core c).unavailable = (s.core c).unavailable := by
  rw [(onlyRegs_begun s sh).core c]; exact onlyIssue_unavailable _ _
@[simp] theorem begun_core_icBad (s : State) (sh : Shape) (c : Nat) : ((s.begun sh).core c).icBad = (s.core c).icBad := by
  rw [(onlyRegs_begun s sh).core c]; exact onlyIssue_icBad _ _
@[simp] theorem begun_core_shbad (s : State) (sh : Shape) (c : Nat) : ((s.begun sh).core c).shbad = (s.core c).shbad := by
  rw [(onlyRegs_begun s sh).core c]; exact onlyIssue_shbad _ _
@[simp] theorem begun_core_preemptMet (s : State) (sh : Shape) (c : Nat) : ((s.begun sh).core c).preemptMet = (s.core c).preemptMet := by
  rw [(onlyRegs_begun s sh).core c]; exact onlyIssue_preemptMet _ _
@[simp] theorem begun_core_badQ (s : State) (sh : Shape) (c : Nat) : ((s.begun sh).core c).badQ = (s.core c).badQ := by
  rw [(onlyRegs_begun s sh).core c]; exact onlyIssue_badQ _ _

/-- The context the effect starts from: its counts are one on. -/
theorem begun_me (s : State) (sh : Shape) : (s.begun sh).me = s.me.counted (!sh.det).toNat := by
  have h := sameCtxs_clearMarks (s.withIw sh) sh
  have hme : ((s.withIw sh).clearMarks sh).me = s.me := by
    unfold State.me
    rw [h.1, h.2.1]
    exact h.2.2.2 s.cur s.cx
  rw [State.begun, countIssue_eq, ← hme]
  exact State.me_updMe _ _

/-- Every other context is as it was. -/
theorem begun_ctx_ne (s : State) (sh : Shape) {c x : Nat} (h : ¬(c = s.cur ∧ x = s.cx)) : (s.begun sh).ctx c x = s.ctx c x := by
  have k := sameCtxs_clearMarks (s.withIw sh) sh
  have e : (s.begun sh).ctx c x = ((s.withIw sh).clearMarks sh).ctx c x := by
    rw [State.begun, countIssue_eq, State.ctx_updCtx, k.1, k.2.1, if_neg h]
  rw [e]
  exact k.2.2.2 c x

@[simp] theorem begun_me_st (s : State) (sh : Shape) : (s.begun sh).me.st = s.me.st := by rw [begun_me]; rfl
@[simp] theorem begun_me_busyTill (s : State) (sh : Shape) : (s.begun sh).me.busyTill = s.me.busyTill := by rw [begun_me]; rfl
@[simp] theorem begun_me_boundAt (s : State) (sh : Shape) : (s.begun sh).me.boundAt = s.me.boundAt := by rw [begun_me]; rfl
@[simp] theorem begun_me_eligAt (s : State) (sh : Shape) : (s.begun sh).me.eligAt = s.me.eligAt := by rw [begun_me]; rfl
@[simp] theorem begun_me_pc (s : State) (sh : Shape) : (s.begun sh).me.pc = s.me.pc := by rw [begun_me]; rfl
@[simp] theorem begun_me_g (s : State) (sh : Shape) : (s.begun sh).me.g = s.me.g := by rw [begun_me]; rfl
@[simp] theorem begun_me_f (s : State) (sh : Shape) : (s.begun sh).me.f = s.me.f := by rw [begun_me]; rfl
@[simp] theorem begun_me_v (s : State) (sh : Shape) : (s.begun sh).me.v = s.me.v := by rw [begun_me]; rfl
@[simp] theorem begun_me_k (s : State) (sh : Shape) : (s.begun sh).me.k = s.me.k := by rw [begun_me]; rfl
@[simp] theorem begun_me_fe (s : State) (sh : Shape) : (s.begun sh).me.fe = s.me.fe := by rw [begun_me]; rfl
@[simp] theorem begun_me_bad (s : State) (sh : Shape) : (s.begun sh).me.bad = s.me.bad := by rw [begun_me]; rfl
@[simp] theorem begun_me_wlimit (s : State) (sh : Shape) : (s.begun sh).me.wlimit = s.me.wlimit := by rw [begun_me]; rfl
@[simp] theorem begun_me_fpmode (s : State) (sh : Shape) : (s.begun sh).me.fpmode = s.me.fpmode := by rw [begun_me]; rfl
@[simp] theorem begun_me_fpflags (s : State) (sh : Shape) : (s.begun sh).me.fpflags = s.me.fpflags := by rw [begun_me]; rfl
@[simp] theorem begun_me_tprog (s : State) (sh : Shape) : (s.begun sh).me.tprog = s.me.tprog := by rw [begun_me]; rfl
@[simp] theorem begun_me_outl (s : State) (sh : Shape) : (s.begun sh).me.outl = s.me.outl := by rw [begun_me]; rfl
@[simp] theorem begun_me_hypCur (s : State) (sh : Shape) : (s.begun sh).me.hypCur = s.me.hypCur := by rw [begun_me]; rfl
@[simp] theorem begun_me_scopeTab (s : State) (sh : Shape) : (s.begun sh).me.scopeTab = s.me.scopeTab := by rw [begun_me]; rfl
@[simp] theorem begun_me_scopes (s : State) (sh : Shape) : (s.begun sh).me.scopes = s.me.scopes := by rw [begun_me]; rfl
@[simp] theorem begun_me_lvl (s : State) (sh : Shape) : (s.begun sh).me.lvl = s.me.lvl := by rw [begun_me]; rfl
@[simp] theorem begun_me_plvl (s : State) (sh : Shape) : (s.begun sh).me.plvl = s.me.plvl := by rw [begun_me]; rfl
@[simp] theorem begun_me_depth (s : State) (sh : Shape) : (s.begun sh).me.depth = s.me.depth := by rw [begun_me]; rfl
@[simp] theorem begun_me_ipend (s : State) (sh : Shape) : (s.begun sh).me.ipend = s.me.ipend := by rw [begun_me]; rfl
@[simp] theorem begun_me_ien (s : State) (sh : Shape) : (s.begun sh).me.ien = s.me.ien := by rw [begun_me]; rfl
@[simp] theorem begun_me_sat (s : State) (sh : Shape) : (s.begun sh).me.sat = s.me.sat := by rw [begun_me]; rfl
@[simp] theorem begun_me_frec (s : State) (sh : Shape) : (s.begun sh).me.frec = s.me.frec := by rw [begun_me]; rfl
@[simp] theorem begun_me_kipi (s : State) (sh : Shape) : (s.begun sh).me.kipi = s.me.kipi := by rw [begun_me]; rfl
@[simp] theorem begun_me_kscr (s : State) (sh : Shape) : (s.begun sh).me.kscr = s.me.kscr := by rw [begun_me]; rfl
@[simp] theorem begun_me_asid (s : State) (sh : Shape) : (s.begun sh).me.asid = s.me.asid := by rw [begun_me]; rfl
@[simp] theorem begun_me_mt (s : State) (sh : Shape) : (s.begun sh).me.mt = s.me.mt := by rw [begun_me]; rfl
@[simp] theorem begun_me_orph (s : State) (sh : Shape) : (s.begun sh).me.orph = s.me.orph := by rw [begun_me]; rfl
@[simp] theorem begun_me_jn (s : State) (sh : Shape) : (s.begun sh).me.jn = s.me.jn := by rw [begun_me]; rfl
@[simp] theorem begun_me_jword (s : State) (sh : Shape) : (s.begun sh).me.jword = s.me.jword := by rw [begun_me]; rfl
@[simp] theorem begun_me_jcl (s : State) (sh : Shape) : (s.begun sh).me.jcl = s.me.jcl := by rw [begun_me]; rfl
@[simp] theorem begun_me_nextId (s : State) (sh : Shape) : (s.begun sh).me.nextId = s.me.nextId := by rw [begun_me]; rfl
@[simp] theorem begun_me_paced (s : State) (sh : Shape) : (s.begun sh).me.paced = s.me.paced := by rw [begun_me]; rfl
@[simp] theorem begun_me_strm (s : State) (sh : Shape) : (s.begun sh).me.strm = s.me.strm := by rw [begun_me]; rfl
@[simp] theorem begun_me_chans (s : State) (sh : Shape) : (s.begun sh).me.chans = s.me.chans := by rw [begun_me]; rfl
@[simp] theorem begun_me_q1 (s : State) (sh : Shape) : (s.begun sh).me.q1 = s.me.q1 := by rw [begun_me]; rfl
@[simp] theorem begun_me_q3 (s : State) (sh : Shape) : (s.begun sh).me.q3 = s.me.q3 := by rw [begun_me]; rfl
@[simp] theorem begun_me_q5 (s : State) (sh : Shape) : (s.begun sh).me.q5 = s.me.q5 := by rw [begun_me]; rfl
@[simp] theorem begun_me_pushed (s : State) (sh : Shape) : (s.begun sh).me.pushed = s.me.pushed := by rw [begun_me]; rfl
@[simp] theorem begun_me_rounds (s : State) (sh : Shape) : (s.begun sh).me.rounds = s.me.rounds := by rw [begun_me]; rfl
@[simp] theorem begun_me_pos (s : State) (sh : Shape) : (s.begun sh).me.pos = s.me.pos := by rw [begun_me]; rfl
@[simp] theorem begun_me_rett (s : State) (sh : Shape) : (s.begun sh).me.rett = s.me.rett := by rw [begun_me]; rfl
@[simp] theorem begun_me_sent (s : State) (sh : Shape) : (s.begun sh).me.sent = s.me.sent := by rw [begun_me]; rfl
@[simp] theorem begun_me_reserved (s : State) (sh : Shape) : (s.begun sh).me.reserved = s.me.reserved := by rw [begun_me]; rfl
@[simp] theorem begun_me_tileOut (s : State) (sh : Shape) : (s.begun sh).me.tileOut = s.me.tileOut := by rw [begun_me]; rfl
@[simp] theorem begun_me_tileFlags (s : State) (sh : Shape) : (s.begun sh).me.tileFlags = s.me.tileFlags := by rw [begun_me]; rfl
@[simp] theorem begun_me_forced (s : State) (sh : Shape) : (s.begun sh).me.forced = s.me.forced := by rw [begun_me]; rfl
@[simp] theorem begun_me_noFrec (s : State) (sh : Shape) : (s.begun sh).me.noFrec = s.me.noFrec := by rw [begun_me]; rfl
@[simp] theorem begun_me_ending (s : State) (sh : Shape) : (s.begun sh).me.ending = s.me.ending := by rw [begun_me]; rfl

/-- Registers hold what they held. -/
@[simp] theorem begun_reg (s : State) (sh : Shape) (c x r : Nat) : (s.begun sh).reg c x r = s.reg c x r := by
  rw [State.begun, countIssue_eq, State.reg_updCtx_of _ _ _ _ _ (fun k => k.counted _) rfl rfl rfl rfl]
  exact reg_clearMarks _ sh c x r

/-- Outside a replay an operand is the register's value. -/
theorem begun_opnd (s : State) (sh : Shape) (h : s.me.rett = none) (role r : Nat) :
    (s.begun sh).opnd role r = s.reg s.cur s.cx r := by
  simp [State.opnd, State.replay, h]

theorem begun_gOp (s : State) (sh : Shape) (h : s.me.rett = none) (role : Nat) (x : BitVec 6) : (s.begun sh).gOp role x = s.gr x := by
  rw [State.gOp, begun_opnd s sh h]; rfl
theorem begun_fOp (s : State) (sh : Shape) (h : s.me.rett = none) (role : Nat) (x : BitVec 6) : (s.begun sh).fOp role x = s.fr x := by
  rw [State.fOp, begun_opnd s sh h]; rfl
theorem begun_vOp (s : State) (sh : Shape) (h : s.me.rett = none) (role : Nat) (x : BitVec 6) : (s.begun sh).vOp role x = s.vr x := by
  rw [State.vOp, begun_opnd s sh h]; rfl
theorem begun_kOp (s : State) (sh : Shape) (h : s.me.rett = none) (role : Nat) (x : BitVec 6) : (s.begun sh).kOp role x = s.kr x := by
  rw [State.kOp, begun_opnd s sh h]; rfl

theorem begun_succ (s : State) (sh : Shape) : (s.begun sh).succ = s.succ := by
  unfold State.succ
  rw [begun_me_rett, begun_me_pc, begun_iwH]

theorem begun_pcNow (s : State) (sh : Shape) : (s.begun sh).pcNow = s.pcNow := by
  unfold State.pcNow State.replay
  rw [begun_me_rett, begun_me_pc]

/-! How `issue` answers. -/

/-- The state in which an instruction is issued keeps what is due before it. -/
theorem Issues.calm' {i : Instr} {sh : Shape} {s : State} (h : Issues i sh s) : (s.withIw sh).overdue = none := h.calm
theorem Issues.quiet' {i : Instr} {sh : Shape} {s : State} (h : Issues i sh s) : (s.withIw sh).ipiDue = false := h.quiet
theorem Issues.due' {i : Instr} {sh : Shape} {s : State} (h : Issues i sh s) : (s.withIw sh).gate sh = .go := h.due
theorem Issues.legal' {i : Instr} {sh : Shape} {s : State} (h : Issues i sh s) : (s.withIw sh).early sh = none := h.legal
theorem Issues.sound' {i : Instr} {sh : Shape} {s : State} (h : Issues i sh s) : (s.withIw sh).badReg sh = none := h.sound

theorem Issues.effOf {i : Instr} {sh : Shape} {s : State} (h : Issues i sh s) (body : State → Shape → Eff) :
    (s.withIw sh).effOf sh body = body (s.begun sh) sh := by
  unfold State.effOf
  rw [h.legal', h.sound']
  rfl

/-- An instruction that may issue comes to its own effect. -/
theorem issue_go {i : Instr} {sh : Shape} {s : State} (h : Issues i sh s) (body : State → Shape → Eff) :
    issue i s body = .next ((s.withIw sh).settle sh (body (s.begun sh) sh)) := by
  have e : (s.withIw sh).issueStep sh body = (s.withIw sh).settle sh (body (s.begun sh) sh) := by
    unfold State.issueStep
    rw [h.due', h.effOf]
  unfold issue
  rw [h.shape]
  rcases h.here with hs | ⟨w, n, hs⟩ <;> rw [hs] <;> exact congrArg Host.Outcome.next e

/-- No coordinate is judged of a strand that stays where it is. -/
theorem posTrap_none (s t : State) (sh : Shape) (hp : s.me.pos.all (stays sh) = true) : s.posTrap t sh = none := by
  unfold State.posTrap
  cases h : s.me.pos with
  | none => rfl
  | some b =>
    rw [h] at hp
    have e : (sh.det || (!(writesOf sh).contains b.crd && !b.moved)) = true := hp
    exact if_pos (by revert e; cases sh.det <;> cases (writesOf sh).contains b.crd <;> simp)

/-- And its retirement does not move it. -/
theorem posMove_stays (t : State) (sh : Shape) (ht : t.me.pos.all (stays sh) = true) : t.posMove sh = t := by
  unfold State.posMove
  cases h : t.me.pos with
  | none => rfl
  | some b =>
    rw [h] at ht
    have e : (sh.det || (!(writesOf sh).contains b.crd && !b.moved)) = true := ht
    by_cases hd : sh.det = true
    · exact if_pos hd
    · simp only [hd, Bool.false_or, Bool.and_eq_true, Bool.not_eq_true', Bool.false_eq_true, if_false] at e ⊢
      simp only [e.1, e.2, Bool.not_false, Bool.true_or, if_true, Bool.false_eq_true, if_false]

/-- Retirement outside a replay of a strand that stays where it is. -/
theorem retire_eq (s t : State) (sh : Shape) (pc : Option Word) (ht : t.me.pos.all (stays sh) = true) (hr : t.me.rett = none) :
    s.retire t sh pc = t.goesTo (pc.getD s.succ) := by
  have h3 : t.useSlot.me.rett = none := by
    unfold State.useSlot
    rw [State.me_updMe]
    show ((t.coreSlot t.cur t.cx t.me.paced.isSome).me).rett = none
    have e : (t.coreSlot t.cur t.cx t.me.paced.isSome).me = t.me := State.ctx_updCore _ _ _ _ _ rfl
    rw [e]; exact hr
  unfold State.retire
  rw [posMove_stays t sh ht]
  simp only [h3]
  rfl

/-- An effect that retires. -/
theorem issue_done {i : Instr} {sh : Shape} {s t : State} {body : State → Shape → Eff} (h : Issues i sh s)
    (hb : body (s.begun sh) sh = .done t) (hp : t.me.pos.all (stays sh) = true) (hr : t.me.rett = none) :
    issue i s body = .next (t.goesTo s.succ) := by
  rw [issue_go h, hb]
  unfold State.settle
  simp only [posTrap_none (s.withIw sh) t sh h.free, h.calm', h.quiet', Bool.false_eq_true, if_false]
  rw [retire_eq (s.withIw sh) t sh none hp hr]
  rfl

/-- An effect that transfers control. -/
theorem issue_jump {i : Instr} {sh : Shape} {s t : State} {pc : Word} {body : State → Shape → Eff} (h : Issues i sh s)
    (hb : body (s.begun sh) sh = .jump t pc) (hp : t.me.pos.all (stays sh) = true) (hr : t.me.rett = none) :
    issue i s body = .next (t.goesTo pc) := by
  rw [issue_go h, hb]
  unfold State.settle
  simp only [posTrap_none (s.withIw sh) t sh h.free, h.calm', h.quiet', Bool.false_eq_true, if_false]
  rw [retire_eq (s.withIw sh) t sh (some pc) hp hr]
  rfl

/-- An effect by which the strand leaves. -/
theorem issue_left {i : Instr} {sh : Shape} {s t : State} {body : State → Shape → Eff} (h : Issues i sh s)
    (hb : body (s.begun sh) sh = .left t) : issue i s body = .next (s.leaves t) := by
  have hf : (s.withIw sh).me.forced = false := by
    have := h.calm'
    unfold State.overdue at this
    split at this
    · exact absurd this (by simp)
    · rename_i hn; simpa using hn
  rw [issue_go h, hb]
  unfold State.settle
  simp only [h.calm', h.quiet', hf, Bool.false_and, Bool.false_eq_true, if_false, ite_self]
  rfl

/-- A wait. -/
theorem issue_wait {i : Instr} {sh : Shape} {s : State} {w : WaitWhy} {body : State → Shape → Eff} (h : Issues i sh s)
    (hb : body (s.begun sh) sh = .wait w) : issue i s body = .next ((s.withIw sh).enterWait w) := by
  rw [issue_go h, hb]
  unfold State.settle State.waitOr
  simp only [h.calm', h.quiet', Bool.false_eq_true, if_false, ite_self]

/-- A fault found at issue. -/
theorem issue_trap {i : Instr} {sh : Shape} {s : State} {c : Nat} {a aux : Word} {fx : Flags} {body : State → Shape → Eff}
    (h : Issues i sh s) (hb : body (s.begun sh) sh = .trap c a aux fx) :
    issue i s body = .next (((s.withIw sh).emptyDests sh).issueTrap (some sh) c a aux fx) := by
  rw [issue_go h, hb]
  rfl

/-! Retirement. -/

theorem goesTo_me (t : State) (pc : Word) :
    (t.goesTo pc).me = { t.me with busyTill := t.cycles + 8, st := .ready, pc := pc } := by
  unfold State.goesTo
  rw [State.me_updMe]
  unfold State.useSlot
  rw [State.me_updMe]
  have e : t.mySlot.me = t.me := State.ctx_updCore _ _ _ _ _ rfl
  rw [e]

theorem goesTo_ctx_ne (t : State) (pc : Word) {c x : Nat} (h : ¬(c = t.cur ∧ x = t.cx)) : (t.goesTo pc).ctx c x = t.ctx c x := by
  have e1 : (t.goesTo pc).ctx c x = t.useSlot.ctx c x := by
    unfold State.goesTo State.updMe
    rw [State.ctx_updCtx]
    exact if_neg h
  have e2 : t.useSlot.ctx c x = t.mySlot.ctx c x := by
    unfold State.useSlot State.updMe
    rw [State.ctx_updCtx]
    exact if_neg h
  rw [e1, e2]
  exact State.ctx_updCore _ _ _ _ _ rfl

theorem onlyRegs_goesTo (t : State) (pc : Word) : OnlyRegs t (t.goesTo pc) := by
  have h1 : OnlyRegs t (t.mySlot) :=
    onlyRegs_updCore t t.cur (fun k => { k with issuedAt := t.cycles + 1, lastRr := if t.me.paced.isSome then k.lastRr else t.cx }) rfl rfl
  have h2 : OnlyRegs (t.mySlot) t.useSlot :=
    onlyRegs_updCtx _ _ _ (fun k => { k with busyTill := t.cycles + 8, st := .ready }) rfl
  have h3 : OnlyRegs t.useSlot (t.goesTo pc) := onlyRegs_updCtx _ _ _ (fun k => { k with pc := pc }) rfl
  exact (h1.trans h2).trans h3

@[simp] theorem goesTo_reg (t : State) (pc : Word) (c x r : Nat) : (t.goesTo pc).reg c x r = t.reg c x r := by
  unfold State.goesTo State.useSlot State.updMe State.mySlot State.coreSlot
  rw [State.reg_updCtx_of _ _ _ _ _ (fun k => { k with pc := pc }) rfl rfl rfl rfl,
    State.reg_updCtx_of _ _ _ _ _ (fun k => { k with busyTill := t.cycles + 8, st := .ready }) rfl rfl rfl rfl]
  exact State.reg_updCore_of _ _ _ _ _ rfl rfl _

end Sys2Proof.Machine
end

