-- ==== Sys2Proof/Laws/Memory.lean ====
section
/-!
SUPPORT. Memory: a byte read after a write, and that every memory operation keeps the canonical form.
-/
namespace Sys2Proof.Machine

/-! Bytes. -/

theorem Mem.byte_put (m : Mem) (a b : Nat) (v : Byte) : (m.put a v).byte b = if b = a then v else m.byte b := mget_mset 0 _ _ _ _

/-- A byte after a write of `n` bytes: the written one inside the range, the old one outside. -/
theorem Mem.byte_write (m : Mem) (a v n b : Nat) :
    (m.write a v n).byte b = if a ≤ b ∧ b < a + n then BitVec.ofNat 8 (v / 256 ^ (b - a)) else m.byte b := by
  induction n generalizing m a v with
  | zero =>
    rw [if_neg (by omega)]; rfl
  | succ n ih =>
    rw [Mem.write, ih, Mem.byte_put]
    by_cases h0 : b = a
    · subst h0
      rw [if_neg (by omega), if_pos rfl, if_pos (by omega)]
      simp
    · by_cases h1 : a + 1 ≤ b ∧ b < a + 1 + n
      · rw [if_pos h1, if_pos (by omega), Nat.div_div_eq_div_mul]
        have : b - a = (b - (a + 1)) + 1 := by omega
        rw [this, Nat.pow_succ, Nat.mul_comm]
      · rw [if_neg h1, if_neg h0, if_neg (by omega)]

@[simp] theorem Mem.byte_setFull (m : Mem) (a b : Nat) (f : Bool) : (m.setFull a f).byte b = m.byte b := rfl
@[simp] theorem Mem.byte_setBad (m : Mem) (a b : Nat) (f : Bool) : (m.setBad a f).byte b = m.byte b := rfl

theorem Mem.full_setFull (m : Mem) (a b : Nat) (f : Bool) : (m.setFull a f).full b = if b / 8 = a / 8 then f else m.full b :=
  mget_mset true _ _ _ _

theorem Mem.byte_foldl (l : List Nat) (g : Mem → Nat → Mem) (h : ∀ m k b, (g m k).byte b = m.byte b) (m : Mem) (b : Nat) :
    (l.foldl g m).byte b = m.byte b := by
  induction l generalizing m with
  | nil => rfl
  | cons x l ih => rw [List.foldl_cons, ih, h]

@[simp] theorem Mem.byte_fillWords (m : Mem) (a n b : Nat) : (m.fillWords a n).byte b = m.byte b :=
  Mem.byte_foldl _ (fun m w => m.setFull (8 * w) true) (fun _ _ _ => rfl) _ _

/-- A store changes the bytes of its range and no others (R141, R145). -/
theorem Mem.byte_store (m : Mem) (a v n b : Nat) :
    (m.store a v n).byte b = if a ≤ b ∧ b < a + n then BitVec.ofNat 8 (v / 256 ^ (b - a)) else m.byte b := by
  unfold Mem.store
  rw [Mem.byte_foldl _ _ (fun m k b => by split <;> simp), Mem.byte_fillWords, Mem.byte_write]

/-! The number that a range holds. -/

theorem Mem.read_congr (m m' : Mem) (a n : Nat) (h : ∀ b, a ≤ b → b < a + n → m.byte b = m'.byte b) : m.read a n = m'.read a n := by
  induction n generalizing a with
  | zero => rfl
  | succ n ih =>
    rw [Mem.read, Mem.read, h a (by omega) (by omega), ih (a + 1) (fun b h1 h2 => h b (by omega) (by omega))]

theorem Mem.read_bytes (m : Mem) (a v n : Nat)
    (h : ∀ b, a ≤ b → b < a + n → m.byte b = BitVec.ofNat 8 (v / 256 ^ (b - a))) : m.read a n = v % 256 ^ n := by
  induction n generalizing a v with
  | zero => simp [Mem.read, Nat.mod_one]
  | succ n ih =>
    rw [Mem.read, h a (by omega) (by omega), ih (a + 1) (v / 256) (fun b h1 h2 => by
      rw [h b (by omega) (by omega), Nat.div_div_eq_div_mul]
      have : b - a = (b - (a + 1)) + 1 := by omega
      rw [this, Nat.pow_succ, Nat.mul_comm])]
    simp only [BitVec.toNat_ofNat, Nat.sub_self, Nat.pow_zero, Nat.div_one]
    rw [Nat.pow_succ 256 n, Nat.mul_comm (256 ^ n), Nat.mod_mul]

/-- What was stored is read back (R134). -/
theorem Mem.read_store (m : Mem) (a v n : Nat) : (m.store a v n).read a n = v % 256 ^ n :=
  Mem.read_bytes _ _ _ _ (fun b h1 h2 => by rw [Mem.byte_store, if_pos ⟨h1, h2⟩])

/-- A store leaves what lies outside its range. -/
theorem Mem.read_store_disjoint (m : Mem) (a v n b k : Nat) (h : b + k ≤ a ∨ a + n ≤ b) :
    (m.store a v n).read b k = m.read b k :=
  Mem.read_congr _ _ _ _ (fun c h1 h2 => by rw [Mem.byte_store, if_neg (by omega)])

/-! The canonical form. -/

theorem Mem.wf_put {m : Mem} (h : m.wf) (a : Nat) (b : Byte) : (m.put a b).wf := ⟨mwf_mset 0 a b h.1, h.2⟩
theorem Mem.wf_setFull {m : Mem} (h : m.wf) (a : Nat) (b : Bool) : (m.setFull a b).wf := ⟨h.1, mwf_mset true _ b h.2.1, h.2.2⟩
theorem Mem.wf_setBad {m : Mem} (h : m.wf) (a : Nat) (b : Bool) : (m.setBad a b).wf := ⟨h.1, h.2.1, mwf_mset false _ b h.2.2⟩

theorem Mem.wf_write {m : Mem} (h : m.wf) (a v n : Nat) : (m.write a v n).wf := by
  induction n generalizing m a v with
  | zero => exact h
  | succ n ih => exact ih (Mem.wf_put h _ _) _ _

theorem Mem.wf_foldl {α : Type} (l : List α) (g : Mem → α → Mem) (hg : ∀ m x, m.wf → (g m x).wf) {m : Mem} (h : m.wf) :
    (l.foldl g m).wf := by
  induction l generalizing m with
  | nil => exact h
  | cons x l ih => exact ih (hg m x h)

theorem Mem.wf_fillWords {m : Mem} (h : m.wf) (a n : Nat) : (m.fillWords a n).wf :=
  Mem.wf_foldl _ (fun m w => m.setFull (8 * w) true) (fun _ _ h => Mem.wf_setFull h _ _) h

theorem Mem.wf_store {m : Mem} (h : m.wf) (a v n : Nat) : (m.store a v n).wf :=
  Mem.wf_foldl _ _ (fun _ _ h => by split; exacts [Mem.wf_setBad h _ _, h]) (Mem.wf_fillWords (Mem.wf_write h _ _ _) _ _)

theorem Mem.wf_empty : ({} : Mem).wf := ⟨rfl, rfl, rfl⟩

/-- Memories in canonical form that read alike are equal data. -/
theorem Mem.ext_wf {m n : Mem} (hm : m.wf) (hn : n.wf) (hb : ∀ a, m.byte a = n.byte a)
    (hf : ∀ a, m.full a = n.full a) (hd : ∀ a, m.isBad a = n.isBad a) : m = n := by
  obtain ⟨c, f, d⟩ := m
  obtain ⟨c', f', d'⟩ := n
  have h1 : c = c' := mwf_ext 0 hm.1 hn.1 hb
  have h2 : f = f' := mwf_ext true hm.2.1 hn.2.1 (fun k => by simpa [Mem.full] using hf (8 * k))
  have h3 : d = d' := mwf_ext false hm.2.2 hn.2.2 (fun k => by simpa [Mem.isBad] using hd (8 * k))
  rw [h1, h2, h3]

end Sys2Proof.Machine
end

