-- ==== Sys2Proof/Laws/PerInstr.lean ====
section
/-!
SUPPORT. For every instruction: the opcode map names it under its own opcode, from the fields of its shape (R73, R81).
-/
namespace Sys2Proof.Laws.Enc
open Sys2Proof Sys2Proof.Enc

/-- The opcode map makes `i` from the fields of its shape, where those are fields that the row accepts. -/
def Statement (i : Instr) : Prop :=
  ∀ (g : Fields) (sh : Shape), i.wf g = true → i.shape g = some sh → ∃ c, lookupOp opTable sh.op = some c ∧ c sh.f = i

/-- The rows of each major. -/
def majors : List (Nat × List (Nat × (Fields → Instr))) := [
  (0x00, opTable00), (0x01, opTable01), (0x02, opTable02), (0x03, opTable03), (0x04, opTable04), (0x05, opTable05),
  (0x10, opTable10), (0x11, opTable11), (0x12, opTable12), (0x18, opTable18), (0x19, opTable19), (0x1C, opTable1C),
  (0x1D, opTable1D), (0x1E, opTable1E), (0x1F, opTable1F), (0x20, opTable20), (0x21, opTable21), (0x22, opTable22),
  (0x23, opTable23), (0x24, opTable24), (0x25, opTable25), (0x26, opTable26), (0x27, opTable27), (0x28, opTable28),
  (0x2C, opTable2C), (0x2D, opTable2D), (0x32, opTable32), (0x33, opTable33), (0x38, opTable38), (0x39, opTable39),
  (0x3A, opTable3A), (0x3B, opTable3B), (0x3C, opTable3C), (0x3D, opTable3D), (0x3E, opTable3E)]

/-- The rows of major `n`. -/
def rowsOf : List (Nat × List (Nat × (Fields → Instr))) → Nat → List (Nat × (Fields → Instr))
  | [], _ => []
  | (m, l) :: ts, n => if m = n then l else rowsOf ts n

/-- Each row stands under its own major. -/
def Sorted (ts : List (Nat × List (Nat × (Fields → Instr)))) : Bool := ts.all (fun t => t.2.all (fun r => r.1 / 16 == t.1))

theorem lookup_other {op n : Nat} (h : n ≠ op / 16) : ∀ {l : List (Nat × (Fields → Instr))},
    l.all (fun r => r.1 / 16 == n) = true → ∀ m, lookupOp (l ++ m) op = lookupOp m op
  | [], _, _ => rfl
  | r :: l, hl, m => by
    simp only [List.all_cons, Bool.and_eq_true, beq_iff_eq] at hl
    have hr : r.1 ≠ op := by rintro rfl; exact h hl.1.symm
    simp only [List.cons_append, lookupOp, hr, if_false]
    exact lookup_other h hl.2 m

theorem lookup_left {op : Nat} {c : Fields → Instr} : ∀ {l : List (Nat × (Fields → Instr))}, lookupOp l op = some c →
    ∀ m, lookupOp (l ++ m) op = some c
  | r :: l, h, m => by
    simp only [List.cons_append, lookupOp] at h ⊢
    split at h
    · simpa [*] using h
    · simpa [*] using lookup_left h m

/-- A row found under its major is the row found in the whole map. -/
theorem lookup_flat {op : Nat} {c : Fields → Instr} : ∀ {ts : List (Nat × List (Nat × (Fields → Instr)))},
    Sorted ts = true → lookupOp (rowsOf ts (op / 16)) op = some c →
    lookupOp (ts.flatMap (·.2)) op = some c
  | [], _, h => by simp [rowsOf, lookupOp] at h
  | t :: ts, hs, h => by
    simp only [Sorted, List.all_cons, Bool.and_eq_true] at hs
    rw [List.flatMap_cons]
    by_cases ht : t.1 = op / 16
    · exact lookup_left (by simpa [rowsOf, ht] using h) _
    · rw [lookup_other ht hs.1]
      exact lookup_flat hs.2 (by simpa [rowsOf, ht] using h)

theorem majors_sorted : Sorted majors = true := by decide +kernel

theorem majors_all : opTable = majors.flatMap (·.2) := by
  unfold opTable majors
  simp only [List.flatMap_cons, List.flatMap_nil, List.append_nil, List.append_assoc]

theorem lookup_major {op : Nat} {c : Fields → Instr}
    (h : lookupOp (rowsOf majors (op / 16)) op = some c) : lookupOp opTable op = some c := by
  rw [majors_all]
  exact lookup_flat majors_sorted h

/-- A row whose fields alone make it. -/
theorem of_fields {i : Instr} (s : Fields → Shape) (c : Fields → Instr) (op : Nat) (hs : ∀ g, i.shape g = some (s g))
    (ho : ∀ g, (s g).op = op) (hc : lookupOp opTable op = some c) (hi : ∀ g, c (s g).f = i) : Statement i := by
  intro g sh _ h
  rw [hs g] at h
  cases h
  exact ⟨c, (ho g).symm ▸ hc, hi g⟩

/-- A row that is one form of its opcode. -/
theorem of_form {i : Instr} (s : Fields → Shape) (c : Fields → Instr) (op : Nat) (hs : ∀ g, i.shape g = some (s g))
    (ho : ∀ g, (s g).op = op) (hc : lookupOp opTable op = some c) (hi : ∀ g, (s g).ok = true → c (s g).f = i) : Statement i := by
  intro g sh hw h
  have hk : (s g).ok = true := by
    rw [Instr.wf, hs g] at hw
    simp only [Shape.valid, Bool.and_eq_true] at hw
    exact hw.1.2
  rw [hs g] at h
  cases h
  exact ⟨c, (ho g).symm ▸ hc, hi g hk⟩

/-- A row with no fields of its own to read. -/
theorem of_none {i : Instr} (hs : ∀ g, i.shape g = none) : Statement i := by
  intro g sh _ h
  rw [hs g] at h
  cases h

theorem add (f : Fields) : Statement (.add f) := of_fields _ _ 0x000 (fun _ => rfl) (fun _ => rfl) (lookup_major rfl) fun _ => rfl
theorem sub (f : Fields) : Statement (.sub f) := of_fields _ _ 0x001 (fun _ => rfl) (fun _ => rfl) (lookup_major rfl) fun _ => rfl
theorem and (f : Fields) : Statement (.and f) := of_fields _ _ 0x002 (fun _ => rfl) (fun _ => rfl) (lookup_major rfl) fun _ => rfl
theorem or (f : Fields) : Statement (.or f) := of_fields _ _ 0x003 (fun _ => rfl) (fun _ => rfl) (lookup_major rfl) fun _ => rfl
theorem xor (f : Fields) : Statement (.xor f) := of_fields _ _ 0x004 (fun _ => rfl) (fun _ => rfl) (lookup_major rfl) fun _ => rfl
theorem andn (f : Fields) : Statement (.andn f) := of_fields _ _ 0x005 (fun _ => rfl) (fun _ => rfl) (lookup_major rfl) fun _ => rfl
theorem shl (f : Fields) : Statement (.shl f) := of_fields _ _ 0x006 (fun _ => rfl) (fun _ => rfl) (lookup_major rfl) fun _ => rfl
theorem shr (f : Fields) : Statement (.shr f) := of_fields _ _ 0x007 (fun _ => rfl) (fun _ => rfl) (lookup_major rfl) fun _ => rfl
theorem sar (f : Fields) : Statement (.sar f) := of_fields _ _ 0x008 (fun _ => rfl) (fun _ => rfl) (lookup_major rfl) fun _ => rfl
theorem rotl (f : Fields) : Statement (.rotl f) := of_fields _ _ 0x009 (fun _ => rfl) (fun _ => rfl) (lookup_major rfl) fun _ => rfl
theorem mul (f : Fields) : Statement (.mul f) := of_fields _ _ 0x00A (fun _ => rfl) (fun _ => rfl) (lookup_major rfl) fun _ => rfl
theorem minI64 (f : Fields) : Statement (.minI64 f) := of_fields _ _ 0x00B (fun _ => rfl) (fun _ => rfl) (lookup_major rfl) fun _ => rfl
theorem maxI64 (f : Fields) : Statement (.maxI64 f) := of_fields _ _ 0x00C (fun _ => rfl) (fun _ => rfl) (lookup_major rfl) fun _ => rfl
theorem minN64 (f : Fields) : Statement (.minN64 f) := of_fields _ _ 0x00D (fun _ => rfl) (fun _ => rfl) (lookup_major rfl) fun _ => rfl
theorem maxN64 (f : Fields) : Statement (.maxN64 f) := of_fields _ _ 0x00E (fun _ => rfl) (fun _ => rfl) (lookup_major rfl) fun _ => rfl
theorem clz (f : Fields) : Statement (.clz f) := of_fields _ _ 0x010 (fun _ => rfl) (fun _ => rfl) (lookup_major rfl) fun _ => rfl
theorem ctz (f : Fields) : Statement (.ctz f) := of_fields _ _ 0x011 (fun _ => rfl) (fun _ => rfl) (lookup_major rfl) fun _ => rfl
theorem popc (f : Fields) : Statement (.popc f) := of_fields _ _ 0x012 (fun _ => rfl) (fun _ => rfl) (lookup_major rfl) fun _ => rfl
theorem sextI8 (f : Fields) : Statement (.sextI8 f) := of_fields _ _ 0x013 (fun _ => rfl) (fun _ => rfl) (lookup_major rfl) fun _ => rfl
theorem sextI16 (f : Fields) : Statement (.sextI16 f) := of_fields _ _ 0x014 (fun _ => rfl) (fun _ => rfl) (lookup_major rfl) fun _ => rfl
theorem sextI32 (f : Fields) : Statement (.sextI32 f) := of_fields _ _ 0x015 (fun _ => rfl) (fun _ => rfl) (lookup_major rfl) fun _ => rfl
theorem zextN8 (f : Fields) : Statement (.zextN8 f) := of_fields _ _ 0x016 (fun _ => rfl) (fun _ => rfl) (lookup_major rfl) fun _ => rfl
theorem zextN16 (f : Fields) : Statement (.zextN16 f) := of_fields _ _ 0x017 (fun _ => rfl) (fun _ => rfl) (lookup_major rfl) fun _ => rfl
theorem zextN32 (f : Fields) : Statement (.zextN32 f) := of_fields _ _ 0x018 (fun _ => rfl) (fun _ => rfl) (lookup_major rfl) fun _ => rfl
theorem cmpEq (f : Fields) : Statement (.cmpEq f) := of_fields _ _ 0x019 (fun _ => rfl) (fun _ => rfl) (lookup_major rfl) fun _ => rfl
theorem cmpNe (f : Fields) : Statement (.cmpNe f) := of_fields _ _ 0x01A (fun _ => rfl) (fun _ => rfl) (lookup_major rfl) fun _ => rfl
theorem cmpLt (f : Fields) : Statement (.cmpLt f) := of_fields _ _ 0x01B (fun _ => rfl) (fun _ => rfl) (lookup_major rfl) fun _ => rfl
theorem cmpGe (f : Fields) : Statement (.cmpGe f) := of_fields _ _ 0x01C (fun _ => rfl) (fun _ => rfl) (lookup_major rfl) fun _ => rfl
theorem cmpLo (f : Fields) : Statement (.cmpLo f) := of_fields _ _ 0x01D (fun _ => rfl) (fun _ => rfl) (lookup_major rfl) fun _ => rfl
theorem cmpHs (f : Fields) : Statement (.cmpHs f) := of_fields _ _ 0x01E (fun _ => rfl) (fun _ => rfl) (lookup_major rfl) fun _ => rfl
theorem mulhI64 (f : Fields) : Statement (.mulhI64 f) := of_fields _ _ 0x020 (fun _ => rfl) (fun _ => rfl) (lookup_major rfl) fun _ => rfl
theorem mulhN64 (f : Fields) : Statement (.mulhN64 f) := of_fields _ _ 0x021 (fun _ => rfl) (fun _ => rfl) (lookup_major rfl) fun _ => rfl
theorem divI64 (f : Fields) : Statement (.divI64 f) := of_fields _ _ 0x022 (fun _ => rfl) (fun _ => rfl) (lookup_major rfl) fun _ => rfl
theorem divN64 (f : Fields) : Statement (.divN64 f) := of_fields _ _ 0x023 (fun _ => rfl) (fun _ => rfl) (lookup_major rfl) fun _ => rfl
theorem remI64 (f : Fields) : Statement (.remI64 f) := of_fields _ _ 0x024 (fun _ => rfl) (fun _ => rfl) (lookup_major rfl) fun _ => rfl
theorem remN64 (f : Fields) : Statement (.remN64 f) := of_fields _ _ 0x025 (fun _ => rfl) (fun _ => rfl) (lookup_major rfl) fun _ => rfl
theorem sel (f : Fields) : Statement (.sel f) := of_fields _ _ 0x026 (fun _ => rfl) (fun _ => rfl) (lookup_major rfl) fun _ => rfl
theorem bfx (f : Fields) : Statement (.bfx f) := of_fields _ _ 0x027 (fun _ => rfl) (fun _ => rfl) (lookup_major rfl) fun _ => rfl
theorem bfi (f : Fields) : Statement (.bfi f) := of_fields _ _ 0x028 (fun _ => rfl) (fun _ => rfl) (lookup_major rfl) fun _ => rfl
theorem addi (f : Fields) : Statement (.addi f) := of_fields _ _ 0x030 (fun _ => rfl) (fun _ => rfl) (lookup_major rfl) fun _ => rfl
theorem li (f : Fields) : Statement (.li f) := of_fields _ _ 0x031 (fun _ => rfl) (fun _ => rfl) (lookup_major rfl) fun _ => rfl
theorem lea (f : Fields) : Statement (.lea f) := of_fields _ _ 0x032 (fun _ => rfl) (fun _ => rfl) (lookup_major rfl) fun _ => rfl
theorem br (f : Fields) : Statement (.br f) := of_fields _ _ 0x040 (fun _ => rfl) (fun _ => rfl) (lookup_major rfl) fun _ => rfl
theorem call (f : Fields) : Statement (.call f) := of_fields _ _ 0x041 (fun _ => rfl) (fun _ => rfl) (lookup_major rfl) fun _ => rfl
theorem bz (f : Fields) : Statement (.bz f) := of_fields _ _ 0x042 (fun _ => rfl) (fun _ => rfl) (lookup_major rfl) fun _ => rfl
theorem bnz (f : Fields) : Statement (.bnz f) := of_fields _ _ 0x043 (fun _ => rfl) (fun _ => rfl) (lookup_major rfl) fun _ => rfl
theorem loop (f : Fields) : Statement (.loop f) := of_fields _ _ 0x044 (fun _ => rfl) (fun _ => rfl) (lookup_major rfl) fun _ => rfl
theorem bcEq (f : Fields) : Statement (.bcEq f) := of_fields _ _ 0x045 (fun _ => rfl) (fun _ => rfl) (lookup_major rfl) fun _ => rfl
theorem bcNe (f : Fields) : Statement (.bcNe f) := of_fields _ _ 0x046 (fun _ => rfl) (fun _ => rfl) (lookup_major rfl) fun _ => rfl
theorem bcLt (f : Fields) : Statement (.bcLt f) := of_fields _ _ 0x047 (fun _ => rfl) (fun _ => rfl) (lookup_major rfl) fun _ => rfl
theorem bcGe (f : Fields) : Statement (.bcGe f) := of_fields _ _ 0x048 (fun _ => rfl) (fun _ => rfl) (lookup_major rfl) fun _ => rfl
theorem bcLo (f : Fields) : Statement (.bcLo f) := of_fields _ _ 0x049 (fun _ => rfl) (fun _ => rfl) (lookup_major rfl) fun _ => rfl
theorem bcHs (f : Fields) : Statement (.bcHs f) := of_fields _ _ 0x04A (fun _ => rfl) (fun _ => rfl) (lookup_major rfl) fun _ => rfl
theorem jr (f : Fields) : Statement (.jr f) := of_fields _ _ 0x052 (fun _ => rfl) (fun _ => rfl) (lookup_major rfl) fun _ => rfl
theorem jt (f : Fields) : Statement (.jt f) := of_fields _ _ 0x053 (fun _ => rfl) (fun _ => rfl) (lookup_major rfl) fun _ => rfl
theorem spt (f : Fields) : Statement (.spt f) := of_fields _ _ 0x054 (fun _ => rfl) (fun _ => rfl) (lookup_major rfl) fun _ => rfl
theorem rdsr (f : Fields) : Statement (.rdsr f) := of_fields _ _ 0x055 (fun _ => rfl) (fun _ => rfl) (lookup_major rfl) fun _ => rfl
theorem wrsr (f : Fields) : Statement (.wrsr f) := by
  refine of_form _ _ 0x056 (fun _ => rfl) (fun _ => rfl) (lookup_major rfl) fun g h => ?_
  have hn : ∀ x : BitVec 40, srOwn x.toNat = true → f.imm ≠ x := by
    rintro x hx rfl
    simp [hx] at h
  simp [hn 274#40 rfl, hn 273#40 rfl, hn 260#40 rfl, hn 272#40 rfl, hn 257#40 rfl, hn 258#40 rfl]
theorem ldB (f : Fields) : Statement (.ldB f) := of_fields _ _ 0x100 (fun _ => rfl) (fun _ => rfl) (lookup_major rfl) fun _ => rfl
theorem ldH (f : Fields) : Statement (.ldH f) := of_fields _ _ 0x101 (fun _ => rfl) (fun _ => rfl) (lookup_major rfl) fun _ => rfl
theorem ldW (f : Fields) : Statement (.ldW f) := of_fields _ _ 0x102 (fun _ => rfl) (fun _ => rfl) (lookup_major rfl) fun _ => rfl
theorem ldD (f : Fields) : Statement (.ldD f) := of_fields _ _ 0x103 (fun _ => rfl) (fun _ => rfl) (lookup_major rfl) fun _ => rfl
theorem ldF (f : Fields) : Statement (.ldF f) := of_fields _ _ 0x104 (fun _ => rfl) (fun _ => rfl) (lookup_major rfl) fun _ => rfl
theorem stB (f : Fields) : Statement (.stB f) := of_fields _ _ 0x105 (fun _ => rfl) (fun _ => rfl) (lookup_major rfl) fun _ => rfl
theorem stH (f : Fields) : Statement (.stH f) := of_fields _ _ 0x106 (fun _ => rfl) (fun _ => rfl) (lookup_major rfl) fun _ => rfl
theorem stW (f : Fields) : Statement (.stW f) := of_fields _ _ 0x107 (fun _ => rfl) (fun _ => rfl) (lookup_major rfl) fun _ => rfl
theorem stD (f : Fields) : Statement (.stD f) := of_fields _ _ 0x108 (fun _ => rfl) (fun _ => rfl) (lookup_major rfl) fun _ => rfl
theorem stF (f : Fields) : Statement (.stF f) := of_fields _ _ 0x109 (fun _ => rfl) (fun _ => rfl) (lookup_major rfl) fun _ => rfl
theorem pf (f : Fields) : Statement (.pf f) := of_fields _ _ 0x10A (fun _ => rfl) (fun _ => rfl) (lookup_major rfl) fun _ => rfl
theorem amoAdd (f : Fields) : Statement (.amoAdd f) := of_fields _ _ 0x110 (fun _ => rfl) (fun _ => rfl) (lookup_major rfl) fun _ => rfl
theorem amoAnd (f : Fields) : Statement (.amoAnd f) := of_fields _ _ 0x111 (fun _ => rfl) (fun _ => rfl) (lookup_major rfl) fun _ => rfl
theorem amoOr (f : Fields) : Statement (.amoOr f) := of_fields _ _ 0x112 (fun _ => rfl) (fun _ => rfl) (lookup_major rfl) fun _ => rfl
theorem amoXor (f : Fields) : Statement (.amoXor f) := of_fields _ _ 0x113 (fun _ => rfl) (fun _ => rfl) (lookup_major rfl) fun _ => rfl
theorem amoMin (f : Fields) : Statement (.amoMin f) := of_fields _ _ 0x114 (fun _ => rfl) (fun _ => rfl) (lookup_major rfl) fun _ => rfl
theorem amoMax (f : Fields) : Statement (.amoMax f) := of_fields _ _ 0x115 (fun _ => rfl) (fun _ => rfl) (lookup_major rfl) fun _ => rfl
theorem amoSwap (f : Fields) : Statement (.amoSwap f) := of_fields _ _ 0x116 (fun _ => rfl) (fun _ => rfl) (lookup_major rfl) fun _ => rfl
theorem amoCas (f : Fields) : Statement (.amoCas f) := of_fields _ _ 0x117 (fun _ => rfl) (fun _ => rfl) (lookup_major rfl) fun _ => rfl
theorem amoAddF32 (f : Fields) : Statement (.amoAddF32 f) := of_fields _ _ 0x118 (fun _ => rfl) (fun _ => rfl) (lookup_major rfl) fun _ => rfl
theorem amoAddF64 (f : Fields) : Statement (.amoAddF64 f) := of_fields _ _ 0x119 (fun _ => rfl) (fun _ => rfl) (lookup_major rfl) fun _ => rfl
theorem fence (f : Fields) : Statement (.fence f) := of_fields _ _ 0x120 (fun _ => rfl) (fun _ => rfl) (lookup_major rfl) fun _ => rfl
theorem wb (f : Fields) : Statement (.wb f) := of_fields _ _ 0x121 (fun _ => rfl) (fun _ => rfl) (lookup_major rfl) fun _ => rfl
theorem inv (f : Fields) : Statement (.inv f) := of_fields _ _ 0x122 (fun _ => rfl) (fun _ => rfl) (lookup_major rfl) fun _ => rfl
theorem disc (f : Fields) : Statement (.disc f) := of_fields _ _ 0x123 (fun _ => rfl) (fun _ => rfl) (lookup_major rfl) fun _ => rfl
theorem ldfeClr (f : Fields) : Statement (.ldfeClr f) := of_fields _ _ 0x180 (fun _ => rfl) (fun _ => rfl) (lookup_major rfl) fun _ => rfl
theorem ldfeKeep (f : Fields) : Statement (.ldfeKeep f) := of_fields _ _ 0x181 (fun _ => rfl) (fun _ => rfl) (lookup_major rfl) fun _ => rfl
theorem stfeWait (f : Fields) : Statement (.stfeWait f) := of_fields _ _ 0x182 (fun _ => rfl) (fun _ => rfl) (lookup_major rfl) fun _ => rfl
theorem stfeFail (f : Fields) : Statement (.stfeFail f) := of_fields _ _ 0x183 (fun _ => rfl) (fun _ => rfl) (lookup_major rfl) fun _ => rfl
theorem setfe (f : Fields) : Statement (.setfe f) := of_fields _ _ 0x184 (fun _ => rfl) (fun _ => rfl) (lookup_major rfl) fun _ => rfl
theorem clrfe (f : Fields) : Statement (.clrfe f) := of_fields _ _ 0x185 (fun _ => rfl) (fun _ => rfl) (lookup_major rfl) fun _ => rfl
theorem swarrive (f : Fields) : Statement (.swarrive f) := of_fields _ _ 0x190 (fun _ => rfl) (fun _ => rfl) (lookup_major rfl) fun _ => rfl
theorem swwait (f : Fields) : Statement (.swwait f) := of_fields _ _ 0x191 (fun _ => rfl) (fun _ => rfl) (lookup_major rfl) fun _ => rfl
theorem qbind (f : Fields) : Statement (.qbind f) := by
  refine of_form _ _ 0x192 (fun _ => rfl) (fun _ => rfl) (lookup_major rfl) fun g h => ?_
  simp [z, o0, i0] at h
  simp [h]
theorem qmov (f : Fields) : Statement (.qmov f) := of_fields _ _ 0x193 (fun _ => rfl) (fun _ => rfl) (lookup_major rfl) fun _ => rfl
theorem faddF64 (f : Fields) : Statement (.faddF64 f) := of_fields _ _ 0x1C0 (fun _ => rfl) (fun _ => rfl) (lookup_major rfl) fun _ => rfl
theorem fsubF64 (f : Fields) : Statement (.fsubF64 f) := of_fields _ _ 0x1C1 (fun _ => rfl) (fun _ => rfl) (lookup_major rfl) fun _ => rfl
theorem fmulF64 (f : Fields) : Statement (.fmulF64 f) := of_fields _ _ 0x1C2 (fun _ => rfl) (fun _ => rfl) (lookup_major rfl) fun _ => rfl
theorem fminF64 (f : Fields) : Statement (.fminF64 f) := of_fields _ _ 0x1C3 (fun _ => rfl) (fun _ => rfl) (lookup_major rfl) fun _ => rfl
theorem fmaxF64 (f : Fields) : Statement (.fmaxF64 f) := of_fields _ _ 0x1C4 (fun _ => rfl) (fun _ => rfl) (lookup_major rfl) fun _ => rfl
theorem faddF32 (f : Fields) : Statement (.faddF32 f) := of_fields _ _ 0x1C5 (fun _ => rfl) (fun _ => rfl) (lookup_major rfl) fun _ => rfl
theorem fsubF32 (f : Fields) : Statement (.fsubF32 f) := of_fields _ _ 0x1C6 (fun _ => rfl) (fun _ => rfl) (lookup_major rfl) fun _ => rfl
theorem fmulF32 (f : Fields) : Statement (.fmulF32 f) := of_fields _ _ 0x1C7 (fun _ => rfl) (fun _ => rfl) (lookup_major rfl) fun _ => rfl
theorem fminF32 (f : Fields) : Statement (.fminF32 f) := of_fields _ _ 0x1C8 (fun _ => rfl) (fun _ => rfl) (lookup_major rfl) fun _ => rfl
theorem fmaxF32 (f : Fields) : Statement (.fmaxF32 f) := of_fields _ _ 0x1C9 (fun _ => rfl) (fun _ => rfl) (lookup_major rfl) fun _ => rfl
theorem fsgnF64 (f : Fields) : Statement (.fsgnF64 f) := of_fields _ _ 0x1CA (fun _ => rfl) (fun _ => rfl) (lookup_major rfl) fun _ => rfl
theorem fsgnF32 (f : Fields) : Statement (.fsgnF32 f) := of_fields _ _ 0x1CB (fun _ => rfl) (fun _ => rfl) (lookup_major rfl) fun _ => rfl
theorem fmv (f : Fields) : Statement (.fmv f) := of_fields _ _ 0x1CC (fun _ => rfl) (fun _ => rfl) (lookup_major rfl) fun _ => rfl
theorem fmaF64 (f : Fields) : Statement (.fmaF64 f) := of_fields _ _ 0x1D0 (fun _ => rfl) (fun _ => rfl) (lookup_major rfl) fun _ => rfl
theorem fmsF64 (f : Fields) : Statement (.fmsF64 f) := of_fields _ _ 0x1D1 (fun _ => rfl) (fun _ => rfl) (lookup_major rfl) fun _ => rfl
theorem fnmaF64 (f : Fields) : Statement (.fnmaF64 f) := of_fields _ _ 0x1D2 (fun _ => rfl) (fun _ => rfl) (lookup_major rfl) fun _ => rfl
theorem fmaF32 (f : Fields) : Statement (.fmaF32 f) := of_fields _ _ 0x1D3 (fun _ => rfl) (fun _ => rfl) (lookup_major rfl) fun _ => rfl
theorem fmsF32 (f : Fields) : Statement (.fmsF32 f) := of_fields _ _ 0x1D4 (fun _ => rfl) (fun _ => rfl) (lookup_major rfl) fun _ => rfl
theorem fnmaF32 (f : Fields) : Statement (.fnmaF32 f) := of_fields _ _ 0x1D5 (fun _ => rfl) (fun _ => rfl) (lookup_major rfl) fun _ => rfl
theorem fdivF64 (f : Fields) : Statement (.fdivF64 f) := of_fields _ _ 0x1D6 (fun _ => rfl) (fun _ => rfl) (lookup_major rfl) fun _ => rfl
theorem fsqrtF64 (f : Fields) : Statement (.fsqrtF64 f) := of_fields _ _ 0x1D7 (fun _ => rfl) (fun _ => rfl) (lookup_major rfl) fun _ => rfl
theorem fdivF32 (f : Fields) : Statement (.fdivF32 f) := of_fields _ _ 0x1D8 (fun _ => rfl) (fun _ => rfl) (lookup_major rfl) fun _ => rfl
theorem fsqrtF32 (f : Fields) : Statement (.fsqrtF32 f) := of_fields _ _ 0x1D9 (fun _ => rfl) (fun _ => rfl) (lookup_major rfl) fun _ => rfl
theorem fcmpEqF64 (f : Fields) : Statement (.fcmpEqF64 f) := of_fields _ _ 0x1E0 (fun _ => rfl) (fun _ => rfl) (lookup_major rfl) fun _ => rfl
theorem fcmpLtF64 (f : Fields) : Statement (.fcmpLtF64 f) := of_fields _ _ 0x1E1 (fun _ => rfl) (fun _ => rfl) (lookup_major rfl) fun _ => rfl
theorem fcmpLeF64 (f : Fields) : Statement (.fcmpLeF64 f) := of_fields _ _ 0x1E2 (fun _ => rfl) (fun _ => rfl) (lookup_major rfl) fun _ => rfl
theorem fcmpUnF64 (f : Fields) : Statement (.fcmpUnF64 f) := of_fields _ _ 0x1E3 (fun _ => rfl) (fun _ => rfl) (lookup_major rfl) fun _ => rfl
theorem fcmpEqF32 (f : Fields) : Statement (.fcmpEqF32 f) := of_fields _ _ 0x1E4 (fun _ => rfl) (fun _ => rfl) (lookup_major rfl) fun _ => rfl
theorem fcmpLtF32 (f : Fields) : Statement (.fcmpLtF32 f) := of_fields _ _ 0x1E5 (fun _ => rfl) (fun _ => rfl) (lookup_major rfl) fun _ => rfl
theorem fcmpLeF32 (f : Fields) : Statement (.fcmpLeF32 f) := of_fields _ _ 0x1E6 (fun _ => rfl) (fun _ => rfl) (lookup_major rfl) fun _ => rfl
theorem fcmpUnF32 (f : Fields) : Statement (.fcmpUnF32 f) := of_fields _ _ 0x1E7 (fun _ => rfl) (fun _ => rfl) (lookup_major rfl) fun _ => rfl
theorem fclassF64 (f : Fields) : Statement (.fclassF64 f) := of_fields _ _ 0x1E8 (fun _ => rfl) (fun _ => rfl) (lookup_major rfl) fun _ => rfl
theorem fclassF32 (f : Fields) : Statement (.fclassF32 f) := of_fields _ _ 0x1E9 (fun _ => rfl) (fun _ => rfl) (lookup_major rfl) fun _ => rfl
theorem fcvt (f : Fields) : Statement (.fcvt f) := of_fields _ _ 0x1F0 (fun _ => rfl) (fun _ => rfl) (lookup_major rfl) fun _ => rfl
theorem vld (f : Fields) : Statement (.vld f) := of_fields _ _ 0x200 (fun _ => rfl) (fun _ => rfl) (lookup_major rfl) fun _ => rfl
theorem vst (f : Fields) : Statement (.vst f) := of_fields _ _ 0x201 (fun _ => rfl) (fun _ => rfl) (lookup_major rfl) fun _ => rfl
theorem vldS (f : Fields) : Statement (.vldS f) := of_fields _ _ 0x202 (fun _ => rfl) (fun _ => rfl) (lookup_major rfl) fun _ => rfl
theorem vstS (f : Fields) : Statement (.vstS f) := of_fields _ _ 0x203 (fun _ => rfl) (fun _ => rfl) (lookup_major rfl) fun _ => rfl
theorem vgather (f : Fields) : Statement (.vgather f) := of_fields _ _ 0x204 (fun _ => rfl) (fun _ => rfl) (lookup_major rfl) fun _ => rfl
theorem vscatter (f : Fields) : Statement (.vscatter f) := of_fields _ _ 0x205 (fun _ => rfl) (fun _ => rfl) (lookup_major rfl) fun _ => rfl
theorem vadd (f : Fields) : Statement (.vadd f) := of_fields _ _ 0x210 (fun _ => rfl) (fun _ => rfl) (lookup_major rfl) fun _ => rfl
theorem vsub (f : Fields) : Statement (.vsub f) := of_fields _ _ 0x211 (fun _ => rfl) (fun _ => rfl) (lookup_major rfl) fun _ => rfl
theorem vmul (f : Fields) : Statement (.vmul f) := of_fields _ _ 0x212 (fun _ => rfl) (fun _ => rfl) (lookup_major rfl) fun _ => rfl
theorem vmin (f : Fields) : Statement (.vmin f) := of_fields _ _ 0x213 (fun _ => rfl) (fun _ => rfl) (lookup_major rfl) fun _ => rfl
theorem vmax (f : Fields) : Statement (.vmax f) := of_fields _ _ 0x214 (fun _ => rfl) (fun _ => rfl) (lookup_major rfl) fun _ => rfl
theorem vabs (f : Fields) : Statement (.vabs f) := of_fields _ _ 0x215 (fun _ => rfl) (fun _ => rfl) (lookup_major rfl) fun _ => rfl
theorem vneg (f : Fields) : Statement (.vneg f) := of_fields _ _ 0x216 (fun _ => rfl) (fun _ => rfl) (lookup_major rfl) fun _ => rfl
theorem vfma (f : Fields) : Statement (.vfma f) := of_fields _ _ 0x220 (fun _ => rfl) (fun _ => rfl) (lookup_major rfl) fun _ => rfl
theorem vfms (f : Fields) : Statement (.vfms f) := of_fields _ _ 0x221 (fun _ => rfl) (fun _ => rfl) (lookup_major rfl) fun _ => rfl
theorem vdiv (f : Fields) : Statement (.vdiv f) := of_fields _ _ 0x222 (fun _ => rfl) (fun _ => rfl) (lookup_major rfl) fun _ => rfl
theorem vsqrt (f : Fields) : Statement (.vsqrt f) := of_fields _ _ 0x223 (fun _ => rfl) (fun _ => rfl) (lookup_major rfl) fun _ => rfl
theorem vand (f : Fields) : Statement (.vand f) := of_fields _ _ 0x230 (fun _ => rfl) (fun _ => rfl) (lookup_major rfl) fun _ => rfl
theorem vor (f : Fields) : Statement (.vor f) := of_fields _ _ 0x231 (fun _ => rfl) (fun _ => rfl) (lookup_major rfl) fun _ => rfl
theorem vxor (f : Fields) : Statement (.vxor f) := of_fields _ _ 0x232 (fun _ => rfl) (fun _ => rfl) (lookup_major rfl) fun _ => rfl
theorem vshl (f : Fields) : Statement (.vshl f) := of_fields _ _ 0x233 (fun _ => rfl) (fun _ => rfl) (lookup_major rfl) fun _ => rfl
theorem vshr (f : Fields) : Statement (.vshr f) := of_fields _ _ 0x234 (fun _ => rfl) (fun _ => rfl) (lookup_major rfl) fun _ => rfl
theorem vsar (f : Fields) : Statement (.vsar f) := of_fields _ _ 0x235 (fun _ => rfl) (fun _ => rfl) (lookup_major rfl) fun _ => rfl
theorem vcmpEq (f : Fields) : Statement (.vcmpEq f) := of_fields _ _ 0x240 (fun _ => rfl) (fun _ => rfl) (lookup_major rfl) fun _ => rfl
theorem vcmpNe (f : Fields) : Statement (.vcmpNe f) := of_fields _ _ 0x241 (fun _ => rfl) (fun _ => rfl) (lookup_major rfl) fun _ => rfl
theorem vcmpLt (f : Fields) : Statement (.vcmpLt f) := of_fields _ _ 0x242 (fun _ => rfl) (fun _ => rfl) (lookup_major rfl) fun _ => rfl
theorem vcmpLe (f : Fields) : Statement (.vcmpLe f) := of_fields _ _ 0x243 (fun _ => rfl) (fun _ => rfl) (lookup_major rfl) fun _ => rfl
theorem vcmpUn (f : Fields) : Statement (.vcmpUn f) := of_fields _ _ 0x244 (fun _ => rfl) (fun _ => rfl) (lookup_major rfl) fun _ => rfl
theorem vsel (f : Fields) : Statement (.vsel f) := of_fields _ _ 0x245 (fun _ => rfl) (fun _ => rfl) (lookup_major rfl) fun _ => rfl
theorem vcvt (f : Fields) : Statement (.vcvt f) := of_fields _ _ 0x250 (fun _ => rfl) (fun _ => rfl) (lookup_major rfl) fun _ => rfl
theorem vbcast (f : Fields) : Statement (.vbcast f) := of_fields _ _ 0x260 (fun _ => rfl) (fun _ => rfl) (lookup_major rfl) fun _ => rfl
theorem vperm (f : Fields) : Statement (.vperm f) := of_fields _ _ 0x261 (fun _ => rfl) (fun _ => rfl) (lookup_major rfl) fun _ => rfl
theorem vslideUp (f : Fields) : Statement (.vslideUp f) := of_fields _ _ 0x262 (fun _ => rfl) (fun _ => rfl) (lookup_major rfl) fun _ => rfl
theorem vslideDn (f : Fields) : Statement (.vslideDn f) := of_fields _ _ 0x263 (fun _ => rfl) (fun _ => rfl) (lookup_major rfl) fun _ => rfl
theorem vmov (f : Fields) : Statement (.vmov f) := of_fields _ _ 0x264 (fun _ => rfl) (fun _ => rfl) (lookup_major rfl) fun _ => rfl
theorem vredAdd (f : Fields) : Statement (.vredAdd f) := of_fields _ _ 0x270 (fun _ => rfl) (fun _ => rfl) (lookup_major rfl) fun _ => rfl
theorem vredMin (f : Fields) : Statement (.vredMin f) := of_fields _ _ 0x271 (fun _ => rfl) (fun _ => rfl) (lookup_major rfl) fun _ => rfl
theorem vredMax (f : Fields) : Statement (.vredMax f) := of_fields _ _ 0x272 (fun _ => rfl) (fun _ => rfl) (lookup_major rfl) fun _ => rfl
theorem vscan (f : Fields) : Statement (.vscan f) := of_fields _ _ 0x273 (fun _ => rfl) (fun _ => rfl) (lookup_major rfl) fun _ => rfl
theorem kand (f : Fields) : Statement (.kand f) := of_fields _ _ 0x280 (fun _ => rfl) (fun _ => rfl) (lookup_major rfl) fun _ => rfl
theorem kor (f : Fields) : Statement (.kor f) := of_fields _ _ 0x281 (fun _ => rfl) (fun _ => rfl) (lookup_major rfl) fun _ => rfl
theorem kxor (f : Fields) : Statement (.kxor f) := of_fields _ _ 0x282 (fun _ => rfl) (fun _ => rfl) (lookup_major rfl) fun _ => rfl
theorem knot (f : Fields) : Statement (.knot f) := of_fields _ _ 0x283 (fun _ => rfl) (fun _ => rfl) (lookup_major rfl) fun _ => rfl
theorem kset (f : Fields) : Statement (.kset f) := of_fields _ _ 0x284 (fun _ => rfl) (fun _ => rfl) (lookup_major rfl) fun _ => rfl
theorem kpop (f : Fields) : Statement (.kpop f) := of_fields _ _ 0x285 (fun _ => rfl) (fun _ => rfl) (lookup_major rfl) fun _ => rfl
theorem mmaF64F64 (f : Fields) : Statement (.mmaF64F64 f) := of_fields _ _ 0x2C0 (fun _ => rfl) (fun _ => rfl) (lookup_major rfl) fun _ => rfl
theorem mmaF32F32 (f : Fields) : Statement (.mmaF32F32 f) := of_fields _ _ 0x2C1 (fun _ => rfl) (fun _ => rfl) (lookup_major rfl) fun _ => rfl
theorem mmaBf16F32 (f : Fields) : Statement (.mmaBf16F32 f) := of_fields _ _ 0x2C2 (fun _ => rfl) (fun _ => rfl) (lookup_major rfl) fun _ => rfl
theorem mmaF16F32 (f : Fields) : Statement (.mmaF16F32 f) := of_fields _ _ 0x2C3 (fun _ => rfl) (fun _ => rfl) (lookup_major rfl) fun _ => rfl
theorem mmaBf16Bf16 (f : Fields) : Statement (.mmaBf16Bf16 f) := of_fields _ _ 0x2C4 (fun _ => rfl) (fun _ => rfl) (lookup_major rfl) fun _ => rfl
theorem mmaF16F16 (f : Fields) : Statement (.mmaF16F16 f) := of_fields _ _ 0x2C5 (fun _ => rfl) (fun _ => rfl) (lookup_major rfl) fun _ => rfl
theorem mmaE4m3F32 (f : Fields) : Statement (.mmaE4m3F32 f) := of_fields _ _ 0x2C6 (fun _ => rfl) (fun _ => rfl) (lookup_major rfl) fun _ => rfl
theorem mmaE5m2F32 (f : Fields) : Statement (.mmaE5m2F32 f) := of_fields _ _ 0x2C7 (fun _ => rfl) (fun _ => rfl) (lookup_major rfl) fun _ => rfl
theorem mmaE4m3Bf16 (f : Fields) : Statement (.mmaE4m3Bf16 f) := of_fields _ _ 0x2C8 (fun _ => rfl) (fun _ => rfl) (lookup_major rfl) fun _ => rfl
theorem mmaE5m2Bf16 (f : Fields) : Statement (.mmaE5m2Bf16 f) := of_fields _ _ 0x2C9 (fun _ => rfl) (fun _ => rfl) (lookup_major rfl) fun _ => rfl
theorem mmaDy8F32 (f : Fields) : Statement (.mmaDy8F32 f) := of_fields _ _ 0x2CA (fun _ => rfl) (fun _ => rfl) (lookup_major rfl) fun _ => rfl
theorem mmaDy8Bf16 (f : Fields) : Statement (.mmaDy8Bf16 f) := of_fields _ _ 0x2CB (fun _ => rfl) (fun _ => rfl) (lookup_major rfl) fun _ => rfl
theorem mmaI8I32 (f : Fields) : Statement (.mmaI8I32 f) := of_fields _ _ 0x2CC (fun _ => rfl) (fun _ => rfl) (lookup_major rfl) fun _ => rfl
theorem tld (f : Fields) : Statement (.tld f) := of_fields _ _ 0x2D0 (fun _ => rfl) (fun _ => rfl) (lookup_major rfl) fun _ => rfl
theorem tst (f : Fields) : Statement (.tst f) := of_fields _ _ 0x2D1 (fun _ => rfl) (fun _ => rfl) (lookup_major rfl) fun _ => rfl
theorem tzero (f : Fields) : Statement (.tzero f) := of_fields _ _ 0x2D2 (fun _ => rfl) (fun _ => rfl) (lookup_major rfl) fun _ => rfl
theorem tout (f : Fields) : Statement (.tout f) := of_fields _ _ 0x2D3 (fun _ => rfl) (fun _ => rfl) (lookup_major rfl) fun _ => rfl
theorem tpost (f : Fields) : Statement (.tpost f) := by
  refine of_form _ _ 0x2D4 (fun _ => rfl) (fun _ => rfl) (lookup_major rfl) fun g h => ?_
  simp [z, o0, i0] at h
  simp [h]
theorem tprog (f : Fields) : Statement (.tprog f) := of_fields _ _ 0x2D5 (fun _ => rfl) (fun _ => rfl) (lookup_major rfl) fun _ => rfl
theorem sdef (f : Fields) : Statement (.sdef f) := of_fields _ _ 0x320 (fun _ => rfl) (fun _ => rfl) (lookup_major rfl) fun _ => rfl
theorem sopen (f : Fields) : Statement (.sopen f) := of_fields _ _ 0x321 (fun _ => rfl) (fun _ => rfl) (lookup_major rfl) fun _ => rfl
theorem sclose (f : Fields) : Statement (.sclose f) := of_fields _ _ 0x322 (fun _ => rfl) (fun _ => rfl) (lookup_major rfl) fun _ => rfl
theorem sattach (f : Fields) : Statement (.sattach f) := of_fields _ _ 0x323 (fun _ => rfl) (fun _ => rfl) (lookup_major rfl) fun _ => rfl
theorem ssave (f : Fields) : Statement (.ssave f) := of_fields _ _ 0x324 (fun _ => rfl) (fun _ => rfl) (lookup_major rfl) fun _ => rfl
theorem sload (f : Fields) : Statement (.sload f) := of_fields _ _ 0x325 (fun _ => rfl) (fun _ => rfl) (lookup_major rfl) fun _ => rfl
theorem spop (f : Fields) : Statement (.spop f) := of_fields _ _ 0x330 (fun _ => rfl) (fun _ => rfl) (lookup_major rfl) fun _ => rfl
theorem sstep (f : Fields) : Statement (.sstep f) := of_fields _ _ 0x331 (fun _ => rfl) (fun _ => rfl) (lookup_major rfl) fun _ => rfl
theorem ssink (f : Fields) : Statement (.ssink f) := of_fields _ _ 0x332 (fun _ => rfl) (fun _ => rfl) (lookup_major rfl) fun _ => rfl
theorem sfloat (f : Fields) : Statement (.sfloat f) := of_fields _ _ 0x333 (fun _ => rfl) (fun _ => rfl) (lookup_major rfl) fun _ => rfl
theorem srecall (f : Fields) : Statement (.srecall f) := of_fields _ _ 0x334 (fun _ => rfl) (fun _ => rfl) (lookup_major rfl) fun _ => rfl
theorem sres (f : Fields) : Statement (.sres f) := of_fields _ _ 0x335 (fun _ => rfl) (fun _ => rfl) (lookup_major rfl) fun _ => rfl
theorem sstat (f : Fields) : Statement (.sstat f) := of_fields _ _ 0x336 (fun _ => rfl) (fun _ => rfl) (lookup_major rfl) fun _ => rfl
theorem cpy (f : Fields) : Statement (.cpy f) := of_fields _ _ 0x380 (fun _ => rfl) (fun _ => rfl) (lookup_major rfl) fun _ => rfl
theorem cpyb (f : Fields) : Statement (.cpyb f) := of_fields _ _ 0x381 (fun _ => rfl) (fun _ => rfl) (lookup_major rfl) fun _ => rfl
theorem mcast (f : Fields) : Statement (.mcast f) := of_fields _ _ 0x382 (fun _ => rfl) (fun _ => rfl) (lookup_major rfl) fun _ => rfl
theorem hwait (f : Fields) : Statement (.hwait f) := of_fields _ _ 0x390 (fun _ => rfl) (fun _ => rfl) (lookup_major rfl) fun _ => rfl
theorem hset (f : Fields) : Statement (.hset f) := of_fields _ _ 0x391 (fun _ => rfl) (fun _ => rfl) (lookup_major rfl) fun _ => rfl
theorem hfree (f : Fields) : Statement (.hfree f) := of_fields _ _ 0x392 (fun _ => rfl) (fun _ => rfl) (lookup_major rfl) fun _ => rfl
theorem hstat (f : Fields) : Statement (.hstat f) := of_fields _ _ 0x393 (fun _ => rfl) (fun _ => rfl) (lookup_major rfl) fun _ => rfl
theorem redCfg (f : Fields) : Statement (.redCfg f) := of_fields _ _ 0x3A0 (fun _ => rfl) (fun _ => rfl) (lookup_major rfl) fun _ => rfl
theorem redPost (f : Fields) : Statement (.redPost f) := of_fields _ _ 0x3A1 (fun _ => rfl) (fun _ => rfl) (lookup_major rfl) fun _ => rfl
theorem redGet (f : Fields) : Statement (.redGet f) := of_fields _ _ 0x3A2 (fun _ => rfl) (fun _ => rfl) (lookup_major rfl) fun _ => rfl
theorem bsGet (f : Fields) : Statement (.bsGet f) := of_fields _ _ 0x3B0 (fun _ => rfl) (fun _ => rfl) (lookup_major rfl) fun _ => rfl
theorem bsPut (f : Fields) : Statement (.bsPut f) := of_fields _ _ 0x3B1 (fun _ => rfl) (fun _ => rfl) (lookup_major rfl) fun _ => rfl
theorem bsPeek (f : Fields) : Statement (.bsPeek f) := of_fields _ _ 0x3B2 (fun _ => rfl) (fun _ => rfl) (lookup_major rfl) fun _ => rfl
theorem bsDec (f : Fields) : Statement (.bsDec f) := of_fields _ _ 0x3B3 (fun _ => rfl) (fun _ => rfl) (lookup_major rfl) fun _ => rfl
theorem bsAlign (f : Fields) : Statement (.bsAlign f) := of_fields _ _ 0x3B4 (fun _ => rfl) (fun _ => rfl) (lookup_major rfl) fun _ => rfl
theorem spawn (f : Fields) : Statement (.spawn f) := of_fields _ _ 0x3C0 (fun _ => rfl) (fun _ => rfl) (lookup_major rfl) fun _ => rfl
theorem fork (f : Fields) : Statement (.fork f) := of_fields _ _ 0x3C1 (fun _ => rfl) (fun _ => rfl) (lookup_major rfl) fun _ => rfl
theorem join (f : Fields) : Statement (.join f) := of_fields _ _ 0x3C2 (fun _ => rfl) (fun _ => rfl) (lookup_major rfl) fun _ => rfl
theorem jinit (f : Fields) : Statement (.jinit f) := of_fields _ _ 0x3C3 (fun _ => rfl) (fun _ => rfl) (lookup_major rfl) fun _ => rfl
theorem park (f : Fields) : Statement (.park f) := of_fields _ _ 0x3C5 (fun _ => rfl) (fun _ => rfl) (lookup_major rfl) fun _ => rfl
theorem ldM (f : Fields) : Statement (.ldM f) := of_fields _ _ 0x3C7 (fun _ => rfl) (fun _ => rfl) (lookup_major rfl) fun _ => rfl
theorem mig (f : Fields) : Statement (.mig f) := of_fields _ _ 0x3C8 (fun _ => rfl) (fun _ => rfl) (lookup_major rfl) fun _ => rfl
theorem pbind (f : Fields) : Statement (.pbind f) := of_fields _ _ 0x3C9 (fun _ => rfl) (fun _ => rfl) (lookup_major rfl) fun _ => rfl
theorem nbr (f : Fields) : Statement (.nbr f) := of_fields _ _ 0x3CC (fun _ => rfl) (fun _ => rfl) (lookup_major rfl) fun _ => rfl
theorem cellq (f : Fields) : Statement (.cellq f) := of_fields _ _ 0x3CD (fun _ => rfl) (fun _ => rfl) (lookup_major rfl) fun _ => rfl
theorem hnew (f : Fields) : Statement (.hnew f) := by
  refine of_form _ _ 0x3D0 (fun _ => rfl) (fun _ => rfl) (lookup_major rfl) fun g h => ?_
  simp [z, o0, i0] at h
  simp [h]
theorem henter (f : Fields) : Statement (.henter f) := of_fields _ _ 0x3D1 (fun _ => rfl) (fun _ => rfl) (lookup_major rfl) fun _ => rfl
theorem hresC (f : Fields) : Statement (.hresC f) := of_fields _ _ 0x3D3 (fun _ => rfl) (fun _ => rfl) (lookup_major rfl) fun _ => rfl
theorem hresR (f : Fields) : Statement (.hresR f) := of_fields _ _ 0x3D4 (fun _ => rfl) (fun _ => rfl) (lookup_major rfl) fun _ => rfl
theorem hnstat (f : Fields) : Statement (.hnstat f) := of_fields _ _ 0x3D5 (fun _ => rfl) (fun _ => rfl) (lookup_major rfl) fun _ => rfl
theorem trap (f : Fields) : Statement (.trap f) := of_fields _ _ 0x3E0 (fun _ => rfl) (fun _ => rfl) (lookup_major rfl) fun _ => rfl
theorem ipi (f : Fields) : Statement (.ipi f) := of_fields _ _ 0x3E3 (fun _ => rfl) (fun _ => rfl) (lookup_major rfl) fun _ => rfl
theorem xinv (f : Fields) : Statement (.xinv f) := by
  refine of_form _ _ 0x3E4 (fun _ => rfl) (fun _ => rfl) (lookup_major rfl) fun g h => ?_
  simp [z, o0, i0] at h
  simp [h]
theorem rmodeCoh (f : Fields) : Statement (.rmodeCoh f) := by
  refine of_form _ _ 0x3E5 (fun _ => rfl) (fun _ => rfl) (lookup_major rfl) fun g h => ?_
  simp [z, o0, i0] at h
  simp [h]
theorem pmask (f : Fields) : Statement (.pmask f) := of_fields _ _ 0x3E6 (fun _ => rfl) (fun _ => rfl) (lookup_major rfl) fun _ => rfl
theorem scset (f : Fields) : Statement (.scset f) := of_fields _ _ 0x3E7 (fun _ => rfl) (fun _ => rfl) (lookup_major rfl) fun _ => rfl
theorem cellset (f : Fields) : Statement (.cellset f) := by
  refine of_form _ _ 0x3E8 (fun _ => rfl) (fun _ => rfl) (lookup_major rfl) fun g h => ?_
  simp [z, o0, i0] at h
  simp [h]
theorem hwtest (f : Fields) : Statement (.hwtest f) := of_fields _ _ 0x3E9 (fun _ => rfl) (fun _ => rfl) (lookup_major rfl) fun _ => rfl
theorem ctxsave (f : Fields) : Statement (.ctxsave f) := of_fields _ _ 0x3EA (fun _ => rfl) (fun _ => rfl) (lookup_major rfl) fun _ => rfl
theorem ctxload (f : Fields) : Statement (.ctxload f) := of_fields _ _ 0x3EB (fun _ => rfl) (fun _ => rfl) (lookup_major rfl) fun _ => rfl
theorem nop : Statement .nop := of_fields _ _ 0x050 (fun _ => rfl) (fun _ => rfl) (lookup_major rfl) fun _ => rfl
theorem ret : Statement .ret := of_fields _ _ 0x051 (fun _ => rfl) (fun _ => rfl) (lookup_major rfl) fun _ => rfl
theorem wrsrHypRst : Statement .wrsrHypRst := by
  refine of_form _ _ 0x056 (fun _ => rfl) (fun _ => rfl) (lookup_major rfl) fun g h => ?_
  simp [o0] at h
  simp [h]
theorem wrsrSpill : Statement .wrsrSpill := by
  refine of_form _ _ 0x056 (fun _ => rfl) (fun _ => rfl) (lookup_major rfl) fun g h => ?_
  simp [o0] at h
  simp [h]
theorem wrsrKipi : Statement .wrsrKipi := by
  refine of_form _ _ 0x056 (fun _ => rfl) (fun _ => rfl) (lookup_major rfl) fun g h => ?_
  simp [o0] at h
  simp [h]
theorem wrsrPart : Statement .wrsrPart := by
  refine of_form _ _ 0x056 (fun _ => rfl) (fun _ => rfl) (lookup_major rfl) fun g h => ?_
  simp [o0] at h
  simp [h]
theorem wrsrKvec : Statement .wrsrKvec := by
  refine of_form _ _ 0x056 (fun _ => rfl) (fun _ => rfl) (lookup_major rfl) fun g h => ?_
  simp only [Bool.and_eq_true, Bool.or_eq_true, beq_iff_eq] at h
  rcases h.2 with h | h <;> simp [h]
theorem qbindOff : Statement .qbindOff := by
  refine of_form _ _ 0x192 (fun _ => rfl) (fun _ => rfl) (lookup_major rfl) fun g h => ?_
  simp [i0] at h
  simp [h]
theorem tpostRes : Statement .tpostRes := by
  refine of_form _ _ 0x2D4 (fun _ => rfl) (fun _ => rfl) (lookup_major rfl) fun g h => ?_
  simp [i0] at h
  simp [h]
theorem tpostCan : Statement .tpostCan := by
  refine of_form _ _ 0x2D4 (fun _ => rfl) (fun _ => rfl) (lookup_major rfl) fun g h => ?_
  simp [i0] at h
  simp [h]
theorem yield : Statement .yield := of_fields _ _ 0x3C4 (fun _ => rfl) (fun _ => rfl) (lookup_major rfl) fun _ => rfl
theorem exit : Statement .exit := of_fields _ _ 0x3C6 (fun _ => rfl) (fun _ => rfl) (lookup_major rfl) fun _ => rfl
theorem punbind : Statement .punbind := of_fields _ _ 0x3CA (fun _ => rfl) (fun _ => rfl) (lookup_major rfl) fun _ => rfl
theorem ppub : Statement .ppub := of_fields _ _ 0x3CB (fun _ => rfl) (fun _ => rfl) (lookup_major rfl) fun _ => rfl
theorem hnewRcl : Statement .hnewRcl := by
  refine of_form _ _ 0x3D0 (fun _ => rfl) (fun _ => rfl) (lookup_major rfl) fun g h => ?_
  simp [i0] at h
  simp [h]
theorem hleave : Statement .hleave := of_fields _ _ 0x3D2 (fun _ => rfl) (fun _ => rfl) (lookup_major rfl) fun _ => rfl
theorem rett : Statement .rett := of_fields _ _ 0x3E1 (fun _ => rfl) (fun _ => rfl) (lookup_major rfl) fun _ => rfl
theorem halt : Statement .halt := of_fields _ _ 0x3E2 (fun _ => rfl) (fun _ => rfl) (lookup_major rfl) fun _ => rfl
theorem xinvAll : Statement .xinvAll := by
  refine of_form _ _ 0x3E4 (fun _ => rfl) (fun _ => rfl) (lookup_major rfl) fun g h => ?_
  simp [i0] at h
  simp [h]
theorem rmodeSw : Statement .rmodeSw := by
  refine of_form _ _ 0x3E5 (fun _ => rfl) (fun _ => rfl) (lookup_major rfl) fun g h => ?_
  simp [i0] at h
  simp [h]
theorem cellsetOff : Statement .cellsetOff := by
  refine of_form _ _ 0x3E8 (fun _ => rfl) (fun _ => rfl) (lookup_major rfl) fun g h => ?_
  simp [i0] at h
  simp [h]
theorem issueIllegalOpcode : Statement .issueIllegalOpcode := of_none fun _ => rfl
theorem issueMalformedLine : Statement .issueMalformedLine := of_none fun _ => rfl
theorem fetchFault : Statement .fetchFault := of_none fun _ => rfl
theorem contextBind : Statement .contextBind := of_none fun _ => rfl
theorem detachedCompletion : Statement .detachedCompletion := of_none fun _ => rfl
theorem memoryRequestAtHome : Statement .memoryRequestAtHome := of_none fun _ => rfl
theorem parkNotice : Statement .parkNotice := of_none fun _ => rfl
theorem wakeupArrival : Statement .wakeupArrival := of_none fun _ => rfl
theorem waitLimitExpiry : Statement .waitLimitExpiry := of_none fun _ => rfl
theorem withdrawalAtHome : Statement .withdrawalAtHome := of_none fun _ => rfl
theorem postedFaultReport : Statement .postedFaultReport := of_none fun _ => rfl
theorem trapEntry : Statement .trapEntry := of_none fun _ => rfl
theorem safepointOverdue : Statement .safepointOverdue := of_none fun _ => rfl
theorem preemptionRequest : Statement .preemptionRequest := of_none fun _ => rfl
theorem leaseExpiryCheck : Statement .leaseExpiryCheck := of_none fun _ => rfl
theorem dequeEntryTakeable : Statement .dequeEntryTakeable := of_none fun _ => rfl
theorem stealProbe : Statement .stealProbe := of_none fun _ => rfl
theorem sorusArrival : Statement .sorusArrival := of_none fun _ => rfl
theorem sorusRefill : Statement .sorusRefill := of_none fun _ => rfl
theorem sorusOfferExpiry : Statement .sorusOfferExpiry := of_none fun _ => rfl
theorem joinAtCounter : Statement .joinAtCounter := of_none fun _ => rfl
theorem joinDecrement : Statement .joinDecrement := of_none fun _ => rfl
theorem parkRecordAtHome : Statement .parkRecordAtHome := of_none fun _ => rfl
theorem cellSplit : Statement .cellSplit := of_none fun _ => rfl
theorem syncWordArrival : Statement .syncWordArrival := of_none fun _ => rfl
theorem streamFloat : Statement .streamFloat := of_none fun _ => rfl
theorem streamHop : Statement .streamHop := of_none fun _ => rfl
theorem streamElementRead : Statement .streamElementRead := of_none fun _ => rfl
theorem consumeMessage : Statement .consumeMessage := of_none fun _ => rfl
theorem streamRecallArrival : Statement .streamRecallArrival := of_none fun _ => rfl
theorem tileTaskAccept : Statement .tileTaskAccept := of_none fun _ => rfl
theorem tileTaskDependenceReady : Statement .tileTaskDependenceReady := of_none fun _ => rfl
theorem subtileComplete : Statement .subtileComplete := of_none fun _ => rfl
theorem tileTaskPause : Statement .tileTaskPause := of_none fun _ => rfl
theorem tileTaskComplete : Statement .tileTaskComplete := of_none fun _ => rfl
theorem copyCommandAccept : Statement .copyCommandAccept := of_none fun _ => rfl
theorem copyRunStart : Statement .copyRunStart := of_none fun _ => rfl
theorem copyArrivalSend : Statement .copyArrivalSend := of_none fun _ => rfl
theorem copyCompletion : Statement .copyCompletion := of_none fun _ => rfl
theorem reductionContribution : Statement .reductionContribution := of_none fun _ => rfl
theorem reductionResultArrival : Statement .reductionResultArrival := of_none fun _ => rfl
theorem reductionTimeout : Statement .reductionTimeout := of_none fun _ => rfl
theorem resolveAtSlice : Statement .resolveAtSlice := of_none fun _ => rfl
theorem resolveAtCore : Statement .resolveAtCore := of_none fun _ => rfl
theorem ipiDelivery : Statement .ipiDelivery := of_none fun _ => rfl
theorem launchAccept : Statement .launchAccept := of_none fun _ => rfl
theorem launchSlotPoll : Statement .launchSlotPoll := of_none fun _ => rfl
theorem launchEntryPush : Statement .launchEntryPush := of_none fun _ => rfl
theorem launchPrefetch : Statement .launchPrefetch := of_none fun _ => rfl
theorem launchEnd : Statement .launchEnd := of_none fun _ => rfl
theorem eventPost : Statement .eventPost := of_none fun _ => rfl
theorem pageWalk : Statement .pageWalk := of_none fun _ => rfl
theorem remapFilterMiss : Statement .remapFilterMiss := of_none fun _ => rfl
theorem directoryReadMiss : Statement .directoryReadMiss := of_none fun _ => rfl
theorem ownershipRequest : Statement .ownershipRequest := of_none fun _ => rfl
theorem l1WriteBack : Statement .l1WriteBack := of_none fun _ => rfl
theorem sliceEviction : Statement .sliceEviction := of_none fun _ => rfl
theorem extensionRequest : Statement .extensionRequest := of_none fun _ => rfl
theorem hostM2sRequest : Statement .hostM2sRequest := of_none fun _ => rfl
theorem h2dSnoop : Statement .h2dSnoop := of_none fun _ => rfl
theorem expanderBisnp : Statement .expanderBisnp := of_none fun _ => rfl
theorem softErrorDetected : Statement .softErrorDetected := of_none fun _ => rfl
theorem coreRetirement : Statement .coreRetirement := of_none fun _ => rfl
theorem transportPacketReceive : Statement .transportPacketReceive := of_none fun _ => rfl
theorem transportResendTimeout : Statement .transportResendTimeout := of_none fun _ => rfl
theorem laneFailure : Statement .laneFailure := of_none fun _ => rfl
theorem coldReset : Statement .coldReset := of_none fun _ => rfl
theorem hostPartitionCreate : Statement .hostPartitionCreate := of_none fun _ => rfl
theorem firmwareSwitch : Statement .firmwareSwitch := of_none fun _ => rfl
theorem powerSample : Statement .powerSample := of_none fun _ => rfl
theorem throttleStep : Statement .throttleStep := of_none fun _ => rfl
theorem rhizoidForcedFallback : Statement .rhizoidForcedFallback := of_none fun _ => rfl
theorem recalibration : Statement .recalibration := of_none fun _ => rfl
theorem asidAllotmentEnd : Statement .asidAllotmentEnd := of_none fun _ => rfl
theorem hostBisnpReply : Statement .hostBisnpReply := of_none fun _ => rfl
theorem lineFetchArrival : Statement .lineFetchArrival := of_none fun _ => rfl

end Sys2Proof.Laws.Enc
end

