-- ==== Sys2Proof/Laws/Retire.lean ====
section
/-!
SUPPORT. What a retiring instruction's writes leave as it is, and how an instruction whose effect is known completes, jumps,
leaves, waits or traps.
-/
namespace Sys2Proof.Machine

/-! Writes touch registers only. -/

theorem onlyRegs_putReg (s : State) (c x code : Nat) (v : Vec) (h : isShared code = false) : OnlyRegs s (s.putReg c x code v) := by
  unfold State.putReg
  split
  · exact OnlyRegs.refl s
  · rw [h, if_neg Bool.false_ne_true]
    refine onlyRegs_updCtx s c x _ ?_
    split
    · rfl
    · split
      · rfl
      · split <;> rfl

theorem onlyRegs_fill (s : State) (c x code : Nat) (v : Vec) : OnlyRegs s (s.fill c x code v) := by
  unfold State.fill
  split
  · exact onlyRegs_later s c _
  · rename_i h
    exact (onlyRegs_putReg s c x code v (by simpa using h)).trans (onlyRegs_setFull _ c x code true)

theorem onlyRegs_retireReg (s : State) (c x code : Nat) (v : Vec) : OnlyRegs s (s.retireReg c x code v) := by
  unfold State.retireReg
  split
  · exact onlyRegs_later s c _
  · exact (onlyRegs_fill s c x code v).trans (onlyRegs_updCore _ c (fun k => k.dropClears x (fun l => l.code == code)) rfl rfl)

theorem onlyRegs_wrG (s : State) (d : BitVec 6) (v : Word) : OnlyRegs s (s.wrG d v) := onlyRegs_retireReg s _ _ _ _
theorem onlyRegs_wrF (s : State) (d : BitVec 6) (v : Word) : OnlyRegs s (s.wrF d v) := onlyRegs_retireReg s _ _ _ _
theorem onlyRegs_wrV (s : State) (d : BitVec 6) (v : Vec) : OnlyRegs s (s.wrV d v) := onlyRegs_retireReg s _ _ _ _
theorem onlyRegs_wrK (s : State) (d : BitVec 6) (v : KMask) : OnlyRegs s (s.wrK d v) := onlyRegs_retireReg s _ _ _ _

theorem onlyRegs_addFlags (s : State) (c x : Nat) (fl : Flags) : OnlyRegs s (s.addFlags c x fl) :=
  onlyRegs_updCtx s c x (fun k => { k with fpflags := k.fpflags ||| fl }) rfl

theorem OnlyRegs.cur {s t : State} (h : OnlyRegs s t) : t.cur = s.cur := by rw [h.rest]; exact onlyCores_cur _ _
theorem OnlyRegs.cx {s t : State} (h : OnlyRegs s t) : t.cx = s.cx := by rw [h.rest]; exact onlyCores_cx _ _
theorem OnlyRegs.me {s t : State} (h : OnlyRegs s t) : t.me = s.me.onlyRegs t.me := by
  unfold State.me
  rw [h.cur, h.cx]
  exact h.ctx _ _
theorem OnlyRegs.pos {s t : State} (h : OnlyRegs s t) : t.me.pos = s.me.pos := by rw [h.me]; exact onlyRegs_pos _ _
theorem OnlyRegs.rett {s t : State} (h : OnlyRegs s t) : t.me.rett = s.me.rett := by rw [h.me]; exact onlyRegs_rett _ _

/-- Registers, late writes and the counts of the issue stage are no memory. -/
theorem OnlyRegs.sameMemory {s t : State} (h : OnlyRegs s t) : SameMemory s t where
  win := by rw [h.rest]; exact onlyCores_win _ _
  dram := by rw [h.rest]; exact onlyCores_dram _ _
  far := by rw [h.rest]; exact onlyCores_far _ _
  host := by rw [h.rest]; exact onlyCores_host _ _
  slices := by rw [h.rest]; exact onlyCores_slices _ _
  vers := by rw [h.rest]; exact onlyCores_vers _ _
  l1 := fun c => by rw [h.core c]; exact onlyIssue_l1 _ _

/-! How an instruction with a known effect ends. -/

variable {i : Instr} {body : State → Shape → Eff} {ok : State → Prop}

/-- An instruction whose effect is to retire completes. -/
theorem completes_of {e : State → Shape → State} (hx : ∀ s, exec i s = issue i s body)
    (hb : ∀ sh s, Issues i sh s → ok s → body (s.begun sh) sh = .done (e s sh))
    (hp : ∀ sh s, Issues i sh s → ok s → (e s sh).me.pos.all (stays sh) = true ∧ (e s sh).me.rett = none) : Completes i ok e := fun sh s h ho => by
  rw [hx, issue_done h (hb sh s h ho) (hp sh s h ho).1 (hp sh s h ho).2]

/-- The same for `Does`: conditions and effect of the state that the effect starts from. -/
theorem does_of {e : State → Shape → State} (hx : ∀ s, exec i s = issue i s body)
    (hb : ∀ sh s, Issues i sh s → ok (s.begun sh) → body (s.begun sh) sh = .done (e (s.begun sh) sh))
    (hp : ∀ sh s, Issues i sh s → ok (s.begun sh) →
      (e (s.begun sh) sh).me.pos.all (stays sh) = true ∧ (e (s.begun sh) sh).me.rett = none) : Does i ok e := fun sh s h ho => by
  rw [hx, issue_done h (hb sh s h ho) (hp sh s h ho).1 (hp sh s h ho).2]

theorem departs_of {e : State → Shape → State} (hx : ∀ s, exec i s = issue i s body)
    (hb : ∀ sh s, Issues i sh s → ok (s.begun sh) → body (s.begun sh) sh = .left (e (s.begun sh) sh)) : Departs i ok e :=
  fun sh s h ho => by rw [hx, issue_left h (hb sh s h ho)]

theorem awaits_of {w : State → WaitWhy} (hx : ∀ s, exec i s = issue i s body)
    (hb : ∀ sh s, Issues i sh s → ok (s.begun sh) → body (s.begun sh) sh = .wait (w (s.begun sh))) : Awaits i ok w :=
  fun sh s h ho => by rw [hx, issue_wait h (hb sh s h ho)]

theorem faults_of {c : Nat} {a : State → Word} (hx : ∀ s, exec i s = issue i s body)
    (hb : ∀ sh s, Issues i sh s → ok (s.begun sh) → body (s.begun sh) sh = .trap c (a (s.begun sh)) 0 0) : Faults i ok c a :=
  fun sh s h ho => by rw [hx, issue_trap h (hb sh s h ho)]

/-- The same, where the effect only writes registers. -/
theorem completes_regs {e : State → Shape → State} (hx : ∀ s, exec i s = issue i s body)
    (hb : ∀ sh s, Issues i sh s → ok s → body (s.begun sh) sh = .done (e s sh))
    (hr : ∀ sh s, OnlyRegs (s.begun sh) (e s sh)) : Completes i ok e :=
  completes_of hx hb (fun sh s h _ => ⟨by rw [(hr sh s).pos, begun_me_pos]; exact h.free,
    by rw [(hr sh s).rett, begun_me_rett]; exact h.fresh⟩)

/-- An instruction that transfers control. -/
theorem jumps_regs {e : State → Shape → State} {pc : State → Word} (hx : ∀ s, exec i s = issue i s body)
    (hb : ∀ sh s, Issues i sh s → ok s → body (s.begun sh) sh = .jump (e s sh) (pc s))
    (hr : ∀ sh s, OnlyRegs (s.begun sh) (e s sh)) : Jumps i ok e pc := fun sh s h ho => by
  rw [hx, issue_jump h (hb sh s h ho) (by rw [(hr sh s).pos, begun_me_pos]; exact h.free)
    (by rw [(hr sh s).rett, begun_me_rett]; exact h.fresh)]

/-- One that does not, stated with its successor. -/
theorem jumps_succ {e : State → Shape → State} {pc : State → Word} (hc : Completes i ok e)
    (hs : ∀ sh s, Issues i sh s → s.succ = pc s) : Jumps i ok e pc := fun sh s h ho => by rw [hc sh s h ho, hs sh s h]

theorem leaves_of {e : State → Shape → State} (hx : ∀ s, exec i s = issue i s body)
    (hb : ∀ sh s, Issues i sh s → ok s → body (s.begun sh) sh = .left (e s sh)) : Leaves i ok e := fun sh s h ho => by
  rw [hx, issue_left h (hb sh s h ho)]

theorem waits_of {w : State → WaitWhy} (hx : ∀ s, exec i s = issue i s body)
    (hb : ∀ sh s, Issues i sh s → ok s → body (s.begun sh) sh = .wait (w s)) : Waits i ok w := fun sh s h ho => by
  rw [hx, issue_wait h (hb sh s h ho)]

theorem traps_of {c : Nat} {a : State → Word} (hx : ∀ s, exec i s = issue i s body)
    (hb : ∀ sh s, Issues i sh s → ok s → body (s.begun sh) sh = .trap c (a s) 0 0) : Traps i ok c a := fun sh s h ho => by
  rw [hx, issue_trap h (hb sh s h ho)]

end Sys2Proof.Machine
end

