-- ==== Sys2Proof/Tests/Slice0.lean ====
section
/-!
SUPPORT. Tests: words of the encodings, ill-formed terms, single steps, and for every statement with hypotheses a state and
operands that meet them.
-/
namespace Sys2Proof.Tests
set_option Elab.async false
set_option autoImplicit false
open Sys2Proof Sys2Proof.Machine

/-! Words written out from the encodings (R63 to R82); majors and minors from R81, fields from R70. -/

/-- `add g3, g1, g2` in HS: TL 1, major 0, minor 0, d3:0 = 3; tail d5:4 = 0, a = 1, marks 0, b3:0 = 2, b5:4 = 0 (R64, R70). -/
theorem test_word_add : decode 0x4003 0x0804 = .add { d := 3, a := 1, b := 2 } := by decide +kernel

/-- `clz g4, g1` in HS: major 0x01, minor 0. -/
theorem test_word_clz : decode 0x4104 0x0004 = .clz { d := 4, a := 1 } := by decide +kernel

/-- `mulh.n64 g1, g2, g3` in HW (R120). -/
theorem test_word_mulh : decode 0x8211 0x00000C08 = .mulhN64 { d := 1, a := 2, b := 3 } := by decide +kernel

/-- `li g6, -256, 48` in HW: o = 3 in tail bits 15:14, immediate in bits 31:16 (R70, R122). -/
theorem test_word_li : decode 0x8316 0xFF00C000 = .li { d := 6, o := 3, imm := 0xFFFFFFFF00 } := by decide +kernel

/-- `ret`, `yield`, `exit`, `rett` and `halt` in H0 (R125, R254, R325). -/
theorem test_word_h0 : decode 0x0510 0 = .ret ∧ decode 0x3C40 0 = .yield ∧ decode 0x3C60 0 = .exit ∧ decode 0x3E10 0 = .rett ∧
    decode 0x3E20 0 = .halt := by decide +kernel

/-- `vld.f64 v16, [A:g2], la=6` with typed offset 0x100 in HL, as the specification writes it. -/
theorem test_word_vld : decode 0xE000 0x010080180001 = .vld { d := 16, o := 2, la := 6, imm := 0x100 } := by decide +kernel

/-- The worked words of the other families: scalar floating point, memory, queues, streams, engines, parallel work,
collectives, system. -/
theorem test_words_of_the_specification : Obligations.DecodedWords := by unfold Obligations.DecodedWords; decide +kernel

/-- `wrsr` of a register by number is a row of its own (R127, R323): `wrsr 0x112, g2` clears a node table. -/
theorem test_word_wrsr : decode 0x8560 0x01120008 = .wrsrHypRst ∧ decode 0x8560 0x00050008 = .wrsr { a := 2, imm := 5 } := by
  decide +kernel

/-- The option bit of `qbind.off` in HW (R158). -/
theorem test_word_qbindOff : decode 0x9928 0x40000000 = .qbindOff := by decide +kernel

/-- An unassigned minor, and the reserved mark 3 (R75, R78). -/
theorem test_word_illegal : decode 0x00F0 0 = .issueIllegalOpcode ∧ decode 0x4003 0x0B04 = .issueIllegalOpcode := by decide +kernel

/-- A line whose head count is 0 or whose line word has a bit above the count set is malformed (R65). -/
theorem test_malformed : decodeAt 0 0 = .issueMalformedLine ∧ decodeAt (lineWith 0 0x0500 0 ||| 0x20) 0 = .issueMalformedLine ∧
    decodeAt (lineWith 0 0x0500 0) 0 = .nop := by decide +kernel

/-! Ill-formed terms, one for each check of well-formedness. -/

/-- A register that its class does not have. -/
theorem test_wf_register : (Instr.faddF64 { d := 32 }).wf {} = false ∧ (Instr.faddF64 { d := 31 }).wf {} = true := by decide +kernel
/-- A mark on a field that takes none, and one on k0 (R164). -/
theorem test_wf_mark : (Instr.kand { ma := .last }).wf {} = false ∧ (Instr.kand { a := 1, ma := .last }).wf {} = true := by decide +kernel
/-- A lookahead in an instruction that does not detach (R76). -/
theorem test_wf_lookahead : (Instr.add { la := 1 }).wf {} = false ∧ (Instr.divI64 { la := 1 }).wf {} = true := by decide +kernel
/-- An immediate that the longest format cannot hold (R71). -/
theorem test_wf_immediate : (Instr.addi { imm := 0x80000000 }).wf {} = false ∧ (Instr.addi { imm := 0x7FFFFFFF }).wf {} = true := by
  decide +kernel
/-- A field that the I layout does not have (R70). -/
theorem test_wf_layout : (Instr.addi { b := 1 }).wf {} = false := by decide +kernel
/-- An option or a type code that the row reserves (R78, R122, R172). -/
theorem test_wf_reserved : (Instr.lea { o := 2 }).wf {} = false ∧ (Instr.vand { imm := 0 }).wf {} = false ∧
    (Instr.vand { imm := 11 }).wf {} = true := by decide +kernel
/-- A channel register below 8 (R158). -/
theorem test_wf_channel : (Instr.qbind { d := 7 }).wf {} = false ∧ (Instr.qbind { d := 8 }).wf {} = true := by decide +kernel

/-! The state a witness is made of. -/

/-- A strand at device level, at the first head of a line, with numbers in g1 to g3 and g5. -/
def strand : Ctx := { st := .ready, pc := 0x100002, g := [(1, 0x1000), (2, 8), (3, 64), (5, 1)] }

/-- Core 0 with that strand, or another, in context 0. -/
def with_ (k : Ctx) : State := { State.reset with cores := [(0, { ctxs := [(0, k)] })], iwH := 1 }

/-- The strand of `with_`. -/
def plain : State := with_ strand

/-- `s` with the word of `i` in the issue stage. -/
def holding (s : State) (i : Instr) (g : Fields := {}) : State := { s with iw := i.iw g }

/-- Whether `Issues` holds, checked. -/
def issues (i : Instr) (sh : Shape) (s : State) : Bool :=
  i.shape s.flds == some sh && s.me.st == .ready && s.me.rett.isNone && s.gate sh == .go && (s.early sh).isNone &&
  (s.badReg sh).isNone && s.overdue.isNone && !s.ipiDue && s.me.pos.all (stays sh)

theorem issues_spec {i : Instr} {sh : Shape} {s : State} (h : issues i sh s = true) : Issues i sh s := by
  simp only [issues, Bool.and_eq_true, beq_iff_eq, Option.isNone_iff_eq_none, Bool.not_eq_true'] at h
  obtain ⟨⟨⟨⟨⟨⟨⟨⟨h1, h2⟩, h3⟩, h4⟩, h5⟩, h6⟩, h7⟩, h8⟩, h9⟩ := h
  exact ⟨h1, .inl h2, h3, h4, h5, h6, h7, h8, h9⟩

/-- Whether `i` is well-formed and issues at `s`, and what it starts from meets `ok`. -/
def meets (i : Instr) (s : State) (ok : State → Bool := fun _ => true) : Bool :=
  match i.shape s.flds with
  | some sh => sh.valid && (issues i sh s && ok (s.begun sh))
  | none => false

/-- What `meets` checks: the hypotheses of `Completes`, `Does` and their like. -/
theorem meets_spec {i : Instr} {s : State} {ok : State → Bool} (h : meets i s ok = true) :
    ∃ sh, Issues i sh s ∧ ok (s.begun sh) = true := by
  unfold meets at h
  split at h
  · simp only [Bool.and_eq_true] at h
    exact ⟨_, issues_spec h.2.1, h.2.2⟩
  · cases h

/-! A state and operands for the hypotheses of each statement. -/


/-- Fields of one, two and three sources. -/
def f1 : Fields := { d := 4, a := 1 }
def f2 : Fields := { d := 4, a := 1, b := 2 }
def f3 : Fields := { d := 4, a := 1, b := 2, c := 3 }

theorem witness_IntegerArithmeticResults : [Instr.add f2, .sub f2, .and f2, .or f2, .xor f2, .andn f2, .shl f2, .shr f2, .sar f2,
    .rotl f2, .mul f2, .minI64 f2, .maxI64 f2, .minN64 f2, .maxN64 f2].all (meets · plain) = true := by decide +kernel

theorem witness_UnaryCompareAndFieldResults : [Instr.clz f1, .ctz f1, .popc f1, .sextI8 f1, .sextI16 f1, .sextI32 f1, .zextN8 f1,
    .zextN16 f1, .zextN32 f1, .cmpEq f2, .cmpNe f2, .cmpLt f2, .cmpGe f2, .cmpLo f2, .cmpHs f2, .mulhI64 f2, .mulhN64 f2, .sel f3,
    .bfx f2, .bfi f3, .addi f1, .li { d := 4 }, .lea { d := 4 }].all (meets · plain) = true := by decide +kernel

/-- A strand with a head address in g1, and one with 1 in every register read. -/
def atHead : State := with_ { strand with g := [(1, 0x200004), (2, 0x200004)] }
def counted : State := with_ { strand with g := [(1, 1), (4, 1)] }

/-- Taken and not taken, at the values where the clauses meet; targets that pass the check and targets that fail it. -/
theorem witness_ControlTransferResults :
    [Instr.br {}, .call { d := 1 }, .nop].all (meets · plain) = true ∧
    [Instr.bz { a := 1 }, .bnz { a := 1 }, .loop { d := 4 }, .bcEq f1, .bcNe f1, .bcLt f1, .bcGe f1, .bcLo f1, .bcHs f1].all (meets · counted) = true ∧
    counted.gr 1 = counted.gr 4 ∧ counted.gr 4 - 1 = 0 ∧ plain.gr 1 ≠ plain.gr 4 ∧ plain.gr 4 - 1 ≠ 0 ∧
    meets (.bz { a := 1 }) plain = true ∧ meets (.bz { a := 4 }) plain = true ∧ plain.gr 4 = 0 ∧ meets (.loop { d := 4 }) plain = true ∧
    meets .ret (holding atHead .ret) (fun s => decide (targetOk (s.gr 1))) = true ∧
    meets .ret (holding plain .ret) (fun s => decide (¬targetOk (s.gr 1))) = true ∧
    [Instr.jr f1, .jt { a := 1, b := 2, c := 3 }].all (meets · atHead (fun s => decide (targetOk (s.gr 1) ∧ targetOk (s.gr 2)))) = true ∧
    [Instr.jr f1, .jt { a := 2, b := 3, c := 5 }].all (meets · plain (fun s => decide (¬targetOk (s.gr 1) ∧ ¬targetOk (s.gr 3)))) = true := by decide +kernel

/-- A strand with every floating exception enabled, and a signalling NaN in f1 and in every lane of v1. -/
def alarmed : State := with_ { strand with
  fpmode := 0x7C, f := [(0x41, 0x7FF0000000000001), (0x42, 0xFFFFFFFF7F800001)], v := [(0x61, 0x7FF0000000000001)] }

def enabled (s : State) : Flags := s.me.fpmode.extractLsb' 2 5

theorem witness_FloatArithmeticResults : [Instr.faddF64 f2, .fsubF64 f2, .fmulF64 f2, .fminF64 f2, .fmaxF64 f2, .faddF32 f2,
    .fsubF32 f2, .fmulF32 f2, .fminF32 f2, .fmaxF32 f2, .fsgnF64 f2, .fsgnF32 f2, .fmv f1, .fmaF64 f3, .fmsF64 f3, .fnmaF64 f3,
    .fmaF32 f3, .fmsF32 f3, .fnmaF32 f3].all (fun i => meets i plain (fun s => enabled s == 0) && meets i alarmed) = true ∧
    (roundWith fp64 0 (addX 0 (fSource 8 1 alarmed) (fSource 8 2 alarmed))).2 &&& enabled alarmed ≠ 0 ∧
    (roundWith fp32 0 (mulX (fSource 9 2 alarmed) (fSource 9 1 alarmed))).2 &&& enabled alarmed ≠ 0 := by decide +kernel

/-- `fcvt` from FP64 to `.i64` and to FP32. -/
theorem witness_FloatCompareAndConvertResults : [Instr.fcmpEqF64 f2, .fcmpLtF64 f2, .fcmpLeF64 f2, .fcmpUnF64 f2, .fcmpEqF32 f2,
    .fcmpLtF32 f2, .fcmpLeF32 f2, .fcmpUnF32 f2, .fclassF64 f1, .fclassF32 f1, .fcvt { f1 with imm := 0x403 },
    .fcvt { f1 with imm := 0x409 }].all (fun i => meets i plain (fun s => enabled s == 0) && meets i alarmed) = true ∧
    tyInt 3 = true ∧ tyInt 9 = false ∧ (round fp32 0 (fSource 8 1 alarmed)).2 &&& enabled alarmed ≠ 0 := by decide +kernel

theorem witness_DivisionAndRootResults : [Instr.divI64 f2, .divN64 f2, .remI64 f2, .remN64 f2, .fdivF64 f2, .fsqrtF64 f1, .fdivF32 f2,
    .fsqrtF32 f1].all (fun i => meets i plain && meets i alarmed) = true ∧ plain.gr 2 ≠ 0 ∧ alarmed.gr 6 = 0 := by decide +kernel

theorem witness_RoundingKeepsRepresentedValues : ∃ F ∈ [fp64, fp32, fp16, bf16], ∃ x, x < 2 ^ F.w ∧ (unpack F x).isNan = false :=
  ⟨fp64, by decide, 0x3FF0000000000000, by decide +kernel, by decide +kernel⟩

/-- Fields of a lane-wise instruction on `.i32` (type code 2, R162) and on FP64 (0), under the mask k1. -/
def v2 (n : BitVec 40) : Fields := { d := 4, a := 1, b := 2, c := 1, imm := n ^^^ 8 }
def v1 (n : BitVec 40) : Fields := { d := 4, a := 1, c := 1, imm := n ^^^ 8 }

theorem witness_VectorLaneResults :
    ([Instr.vadd (v2 2), .vsub (v2 2), .vmul (v2 2), .vmin (v2 2), .vmax (v2 2), .vabs (v1 2), .vneg (v1 2), .vfma (v2 8), .vfms (v2 8),
      .vand (v2 2), .vor (v2 2), .vxor (v2 2), .vshl (v2 2), .vshr (v2 2), .vsar (v2 2), .vdiv (v2 8), .vsqrt (v1 8)].all
      (fun i => meets i plain (fun s => enabled s == 0) && meets i alarmed)) = true ∧
    plain.me.rett = none ∧ 2 ∈ [0, 1, 2, 3, 4, 5, 6, 7, 8, 9, 10, 11] ∧ 31 < 1024 / tyBits 2 ∧ (plain.kr 0).getLsbD 31 = true ∧
    (plain.kr 1).getLsbD 31 = false := by decide +kernel

theorem witness_VectorMovementResults : [Instr.vbcast (v1 8), .vperm (v2 2), .vslideUp (v2 2), .vslideDn (v2 2), .vmov (v1 2),
    .vredAdd (v1 8), .vredMin (v1 8), .vredMax (v1 2), .vscan (v1 8)].all
    (fun i => meets i plain (fun s => enabled s == 0) && meets i alarmed) = true := by decide +kernel

theorem witness_VectorCompareAndMaskResults : [Instr.vcmpEq (v2 2), .vcmpNe (v2 2), .vcmpLt (v2 8), .vcmpLe (v2 8), .vcmpUn (v2 8),
    .vsel (v2 2), .kand { f2 with d := 2 }, .kor { f2 with d := 2 }, .kxor { f2 with d := 2 }, .knot { f1 with d := 2 },
    .kset { f2 with d := 2 }, .kset { f1 with d := 2, o := 1 }, .kpop f1].all
    (fun i => meets i plain (fun s => enabled s == 0) && meets i alarmed) = true ∧ tyInt 8 = false := by decide +kernel

/-- FP64 to BF16 with no scale block. -/
def cvt : Fields := { d := 4, a := 1, c := 1, imm := 0x40B }
/-- The same under k0, on a signalling NaN with exceptions enabled. -/
def cvt0 : Fields := { cvt with c := 0 }

theorem witness_VectorConversionResults :
    (let out := fun s : State => vcvtOf cvt (roundMode cvt s) (s.vr 1) (s.gr 0) (fun i => (s.kr 1).getLsbD i)
    meets (.vcvt cvt) plain = true ∧ (out plain).fl &&& enabled plain = 0 ∧ (out plain).els.all (fun e => e.2.isSome) = true) ∧
    meets (.vcvt cvt0) alarmed = true ∧
    (vcvtOf cvt0 (roundMode cvt0 alarmed) (alarmed.vr 1) (alarmed.gr 0) (fun i => (alarmed.kr 0).getLsbD i)).fl &&& enabled alarmed ≠ 0 := by
  decide +kernel

/-- Operations that the strand of core 0 has posted, and not seen performed. -/
def pend (n : Nat) : List PostOp := List.replicate n { id := 0, i := .nop, pc := 0 }
def busy : State := with_ { strand with posted := pend 1 }
def stuffed : State := with_ { strand with posted := pend 32 }
/-- A store to virtual memory on its way, which the own core's accesses come after (R134). -/
def near : State := with_ { strand with posted := [{ id := 0, i := .nop, pc := 0, virt := true }] }

/-- At level 0 of a core in no partition. -/
def user : State := with_ { strand with lvl := 0 }

/-- Byte 2^52 is the first that no mapping holds; a user may not touch the buffer K. -/
theorem witness_AccessChecks :
    plain.windowFault 0x1000 8 = none ∧ plain.windowFault (2 ^ 52 - 1) 2 = some (2 ^ 52) ∧ 0xFFF % 8 ≠ 0 ∧
    user.windowPerm (user.myWho .strand) 0xFF000000000C0000 8 false = false ∧ user.windowFault 0xFF000000000C0000 8 = none ∧
    plain.windowPerm (plain.myWho .strand) 0x1000 8 true = true ∧ (plain.myWho .strand).node = 0 ∧
    plain.windowPerm (plain.myWho .strand) 0xFF00000000000000 4 false = true ∧ plain.windowFault 0xFF00000000000000 4 = none ∧
    ({ plain with win := { bad := [(0x1FE0000000000000, true)] } } : State).win.firstBad 0xFF00000000000000 4 = some 0xFF00000000000000 := by
  decide +kernel

/-- Thirty-two posted operations (R144). -/
def manyPosted (s : State) : Bool := 32 ≤ s.me.posted.length

/-- The fields of a prefetch; g1 at the buffer W. -/
def fp : Fields := { f2 with d := 0 }
/-- An odd address. -/
def fodd : Fields := { f2 with b := 5 }
def inWindow : State := with_ { strand with g := [(1, 0xFF00000000000000)] }
def fpWindow (s : State) : Bool := 2 ^ 52 ≤ (memAddress fp true s).toNat

/-- Each access at 0x1008, aligned; then one byte above it, where the halves and words fault. -/
theorem witness_LoadsAndStoresSendTheirRequest :
    let ok := fun (n : Nat) (w : Bool) (s : State) => s.issueFault (s.myWho .strand) (memAddress f2 true s) n n w == none
    meets (.ldB f2) plain (ok 1 false) = true ∧ meets (.ldH f2) plain (ok 2 false) = true ∧ meets (.ldW f2) plain (ok 4 false) = true ∧
    meets (.ldD f2) plain (ok 8 false) = true ∧ meets (.ldF f2) plain (ok 8 false) = true ∧
    meets (.pf fp) plain (!fpWindow ·) = true ∧ meets (.pf fp) inWindow fpWindow = true ∧
    meets (.ldD fodd) plain (fun s => s.issueFault (s.myWho .strand) (memAddress fodd true s) 8 8 false == some (cAlign, 0x1001)) = true ∧
    [Instr.stB f2, .stH f2, .stW f2, .stD f2, .stF f2].all (fun i => meets i busy (fun s => ok 8 true s && !manyPosted s) &&
      meets i stuffed (fun s => ok 8 true s && manyPosted s)) = true := by decide +kernel

/-- Without a scope, with scope 1 and nothing to wait for, with scope 1 and a posted store. -/
theorem witness_AtomicsSendTheirRequest :
    let bad := fun (n : Nat) (s : State) => if 2 ^ 52 ≤ (s.gr 1).toNat then s.win.firstBad (s.gr 1).toNat n else none
    let clear := fun (n : Nat) (s : State) => s.issueFault (s.myWho .strand) (s.gr 1) n n true == none
    let ok := fun (n : Nat) (s : State) => clear n s && bad n s == none
    let f := fun (sc : BitVec 40) => ({ f2 with imm := 7 + sc } : Fields)
    let fc := fun (sc : BitVec 40) => ({ f3 with imm := 7 + sc } : Fields)
    let ff := fun (sc : BitVec 40) => ({ f2 with imm := sc } : Fields)
    let all := fun sc : BitVec 40 => [Instr.amoAdd (f sc), .amoAnd (f sc), .amoOr (f sc), .amoXor (f sc), .amoMin (f sc), .amoMax (f sc), .amoSwap (f sc),
      .amoCas (fc sc), .amoAddF32 (ff sc), .amoAddF64 (ff sc)]
    let broken := fun k : Ctx => ({ with_ { k with g := [(1, 0xFF00000000000000), (2, 8)] } with win := { bad := [(0x1FE0000000000000, true)] } } : State)
    (all 0).all (meets · plain (ok 8)) = true ∧
    (all 0x100).all (meets · plain (fun s => ok 8 s && decide (MayPass s 1 true true))) = true ∧
    (all 0x100).all (meets · busy (fun s => ok 8 s && !decide (MayPass s 1 true true))) = true ∧
    (all 0x100).all (meets · near (fun s => ok 8 s && decide (MayPass s 1 true true) && !s.me.ordered true true)) = true ∧
    (all 0).all (meets · (broken strand) (fun s => clear 8 s && bad 8 s == some 0xFF00000000000000)) = true ∧
    meets (.amoAdd { f2 with a := 5, imm := 7 }) plain
      (fun s => s.issueFault (s.myWho .strand) (s.gr 5) 8 8 true == some (cAlign, 1)) = true := by decide +kernel

/-- g1 at a sync word in the buffer W, g2 = 2^32, g3 = 64, g6 = 128. -/
def atSync : State := with_ { strand with g := [(1, 0xFF00000000000000), (2, 0x100000000), (3, 64), (4, 0x1000), (6, 128), (7, 0x10000000000000)] }
def atSync1 : State := with_ { strand with g := [(1, 0xFF00000000000000), (2, 0xFFFFFFFF), (3, 64)], posted := pend 1 }
/-- The same with its sync word failing its check. -/
def atSync2 : State := { atSync with win := { bad := [(0x1FE0000000000001, true)] } }

theorem witness_SynchronisingAccessesAndFences :
    let ok := fun (w : Bool) (s : State) => s.issueFault (s.myWho .strand) (memAddress f1 true s) 8 8 w == none && s.me.hypCur == 0
    let es := fun s : State => memAddress f1 false s
    let sync := fun s : State => s.rmwFault (es s) 16 == none && decide (2 ^ 52 ≤ (es s).toNat)
    let range := fun (k : Nat) (s : State) => s.windowFault (s.gr 4).toNat (s.gr 6).toNat == none && decide ((s.gr 4).toNat < 2 ^ 52) &&
      decide (s.me.posted.length < k)
    [Instr.ldfeClr f1, .ldfeKeep f1, .stfeWait f1, .stfeFail { f1 with c := 3 }].all (meets · atSync (ok true)) = true ∧
    [Instr.setfe { f1 with d := 0 }, .clrfe { f1 with d := 0 }].all (meets · atSync (fun s => ok true s && decide (s.me.posted.length < 32))) = true ∧
    meets (.swarrive f2) atSync1 (fun s => sync s && decide ((s.gr 2).toNat < 2 ^ 32 ∧ MayPass s 0 true true)) = true ∧
    meets (.swarrive { f2 with c := 2 }) atSync1 (fun s => sync s && decide ((s.gr 2).toNat < 2 ^ 32 ∧ ¬MayPass s 2 true true)) = true ∧
    meets (.swarrive { f2 with c := 3 }) atSync (fun s => decide (2 ^ 32 ≤ (s.gr 2).toNat)) = true ∧
    meets (.swwait f2) atSync sync = true ∧
    meets (.swwait f2) atSync2 (fun s => s.rmwFault (es s) 16 == some (cUncorrectable, 0xFF00000000000008)) = true ∧
    meets (.swwait { f2 with a := 4 }) atSync (fun s => decide ((memAddress { f2 with a := 4 } false s).toNat < 2 ^ 52) &&
      s.rmwFault (memAddress { f2 with a := 4 } false s) 16 == none) = true ∧
    meets (.fence {}) busy (fun s => decide (MayPass s 0 true true)) = true ∧
    meets (.fence { c := 1 }) near (fun s => decide (MayPass s 1 true true) && !s.me.ordered true true) = true ∧
    meets (.fence { c := 2 }) plain (fun s => decide (MayPass s 2 true true)) = true ∧
    meets (.fence { c := 2, o := 1 }) busy (fun s => !decide (MayPass s 2 false true)) = true ∧
    [Instr.wb { a := 4, b := 6, c := 6 }, .inv { a := 4, b := 6, c := 1 }].all (meets · atSync (range 32)) = true ∧
    [Instr.wb { a := 4, b := 0 }, .inv { a := 4, b := 0 }, .disc { a := 4 }].all (meets · atSync (fun s => s.gr 0 == 0)) = true ∧
    [Instr.wb { a := 1, b := 6 }, .inv { a := 1, b := 6 }].all (meets · atSync (fun s =>
      s.windowFault (s.gr 1).toNat (s.gr 6).toNat == none && decide (2 ^ 52 ≤ (s.gr 1).toNat))) = true ∧
    [Instr.wb { a := 7, b := 6 }, .inv { a := 7, b := 6 }].all (meets · atSync (fun s =>
      s.windowFault (s.gr 7).toNat (s.gr 6).toNat == some (2 ^ 52))) = true ∧
    meets (.disc { a := 4, b := 6 }) atSync (fun s => range 32 s && s.issueFault (s.myWho .strand) (s.gr 4) (s.gr 6).toNat 64 true == none &&
      decide ((s.gr 4).toNat % 64 = 0 ∧ (s.gr 6).toNat % 64 = 0)) = true ∧
    meets (.disc { a := 4, b := 5 }) plain (fun s => decide ((s.gr 5).toNat % 64 ≠ 0)) = true := by decide +kernel

/-- A packet that has arrived, alone on its way, named by the event. -/
def packet (b : Msg) : Pkt := { src := 8192, dst := 0, body := b, received := true }
def arrived (s : State) (b : Msg) : State := { s with net := [packet b] }

/-- A request for a word of buffer W of core 0. -/
def req (kind : ReqKind) : MemReq := { kind, ea := 0xFF00000000000000, n := 8, data := 7 }
/-- A request for the address 1000 (hexadecimal). -/
def lineReq (k : ReqKind) : MemReq := { req k with ea := 0x1000 }

/-- That word failing its check; the same word empty. -/
def spoilt : State := { plain with win := { bad := [(0x1FE0000000000000, true)] } }
def emptied : State := { plain with win := { fe := [(0x1FE0000000000000, false)] } }

def isOk : Done → Bool
  | .ok _ _ => true
  | _ => false
def isFlt : Done → Bool
  | .flt _ _ => true
  | _ => false
def isWait : Done → Bool
  | .wait _ => true
  | _ => false
def isHold : Done → Bool
  | .hold => true
  | _ => false

/-- A posted store to a line of the record of a copy command that is not read yet, with the earlier store of its submitter still to be
performed (R225); bytes of the buffer C kept for the replay of a tile instruction (R194). -/
def recordHeld : State := { with_ { strand with posted := pend 1 } with
  net := [{ packet (.mem 0 0 1 (req .store)) with sentAt := 5 }]
  clusters := [(0, { cmds := [{ core := 0, ctx := 0, op := some 1, minor := 0, addr := 0xFF00000000000000, after := 1 }] })] }
def cReq : MemReq := { req .load with ea := 0xFF00000000080000 }
def cKept : State := { with_ strand with cores := [(0, { ctxs := [(0, strand)], cStop := [(1, 0, 64)] })] }

/-- A store to a line of DRAM that core 0 owns, written there while other copies remain (R153); its packet. -/
def ownedPkt : Pkt := { packet (.mem 0 0 1 { req .store with ea := 0x1000 }) with own := some [], walked := true }

/-- A load answered, one that faults, one that waits; a store that no stream holds back; the overwriting of a position that an earlier
store of its strand keeps back. -/
theorem witness_RequestsArePerformedAtTheirHome :
    let free := fun (a : State) (r : MemReq) => !a.heldBy 0 r.snap (a.watched 0 r) && a.ownTurn 0 && !a.tstBars 0 0 1 0 && !a.ev.flag
    let come := fun (s : State) (r : MemReq) (p : Done → Bool) =>
      let a := arrived s (.mem 0 0 1 r)
      decide (IsNext a (packet (.mem 0 0 1 r))) && free a r && (r.kind != .reserve) && (r.kind != .ppub) && (a.awaits 0 r == 0) && a.recordKept r 0 == some a &&
        a.ownedBefore 0 0 r == none && p (a.perform 0 0 0 .strand r).2
    let o : State := { plain with net := [ownedPkt] }
    come plain (req .load) isOk = true ∧ come plain (req .store) isOk = true ∧ come spoilt (req .load) isFlt = true ∧
    come emptied (req .ldfeClr) isWait = true ∧ come cKept cReq isHold = true ∧
    decide (IsNext (arrived plain (.mem 0 0 1 (req .reserve))) (packet (.mem 0 0 1 (req .reserve)))) = true ∧
    free (arrived plain (.mem 0 0 1 (req .reserve))) (req .reserve) = true ∧
    (decide (IsNext o ownedPkt) && free o (lineReq .store) && o.ownedBefore 0 0 (lineReq .store) == some 0) = true ∧
    (decide (IsNext recordHeld { packet (.mem 0 0 1 (req .store)) with sentAt := 5 }) && (recordHeld.recordKept (req .store) 5).isNone &&
      free recordHeld (req .store) && recordHeld.ownedBefore 0 0 (req .store) == none) = true ∧
    (decide (IsNext (arrived busy (.mem 0 0 1 (req .ppub))) (packet (.mem 0 0 1 (req .ppub)))) && (busy.ctx 0 0).before 1) = true := by
  decide +kernel

theorem witness_WindowRequests :
    let a := 0xFF00000000000000
    let t : TileTask := { ticket := 1, core := 0, ctx := 0, addr := BitVec.ofNat 64 a, st := .running, rcd := 0 }
    let recs := ({ plain with clusters := [(0, { tasks := [t] })] } : State).taskRecs
    let sync := fun w : Nat => ({ plain with win := Mem.write {} a w 16 } : State)
    2 ^ 52 ≤ a ∧ plain.cHeld a 8 0 0 0 = false ∧ plain.waiters = [] ∧ (req .load).node = 0 ∧ plain.win.firstBad a 8 = none ∧
    spoilt.win.firstBad a 8 = some a ∧ plain.win.full a = true ∧ emptied.win.full a = false ∧ emptied.win.firstBad a 8 = none ∧
    (plain.win.read a 8 = 0 ∧ (0 : Word) ≠ 1) ∧ spoilt.win.firstBad a 16 ≠ none ∧ plain.win.firstBad a 16 = none ∧
    (sync (2 ^ 97)).win.read a 16 / 2 ^ 97 % 2 ^ 31 ≠ 0 ∧ (sync (2 ^ 96)).win.read a 16 / 2 ^ 97 % 2 ^ 31 = 0 ∧
    ((0, 0, a) ∈ recs ∧ 96 ∈ taskHw ∧ 0 ∉ taskHw) := by
  decide +kernel

theorem witness_StoresWriteTheirBytes : Mem.wf {} ∧ (0 : Nat) < 8 ∧ (7 : Nat) < 8 := by decide +kernel

/-- The largest operands of each width; a sync word at its target. -/
theorem witness_AtomicAndSyncWordValues : (7 ∈ [0, 1, 2, 3, 4, 5, 6, 7] ∧ 2 ^ 64 - 1 < 2 ^ tyBits 7 ∧ 2 ^ 63 < 2 ^ tyBits 3) ∧
    (2 ^ 32 - 1 < 2 ^ 32 ∧ 1 < 2 ∧ swAfter 0 (2 ^ 32 - 1) = true ∧ swAfter 0 0 = false) := by decide +kernel

/-- A load of a byte into g4 that is outstanding. -/
def loading (st : OpSt) : DetOp := { id := 1, i := .ldB { f1 with la := 15 }, iw := (Instr.ldB { f1 with la := 15 }).iw {}, pc := 0x100002, issuedAt := 0, dests := [4], st, vals := [(0, 0x80)] }
def outstanding (d : DetOp) : State := { with_ { strand with outst := [d], fe := [(4, false)] } with ev := { op := 1 } }

theorem witness_DetachedOperationsEnd :
    let s := outstanding (loading .done)
    let t := outstanding (loading (.fault cPerm 8 0 0))
    (loading .done).op / 16 = 0x10 ∧ (loading .done).o % 2 = 0 ∧ s.det 0 0 1 = some (loading .done) ∧ ownEnd (loading .done).op = false ∧ (loading .done).due ≤ s.cycles ∧
    (s.ctx 0 0).pos = none ∧ (loading .done).dests = [4] ∧ isFixed 4 = false ∧ isShared 4 = false ∧
    t.det 0 0 1 = some (loading (.fault cPerm 8 0 0)) := by decide +kernel

/-- Waiting for g4 for the whole of its limit; Parked for the whole of it; a fault of a posted operation. -/
def late (st : CtxSt) : State := { with_ { strand with
    st, wlimit := 8, outst := [{ loading .pending with parked := true }], fe := [(4, false)]
    posted := [{ id := 1, i := .nop, pc := 0, st := .fault cPerm 8 0 0 }] } with cycles := 9, ev := { op := 1 } }

theorem witness_ParkedAndWaitingStrands :
    let w : Waiter := { loc := 0xFF00000000000000, kind := .ldfeClr, core := 0, ctx := 0, op := 1, r := req .ldfeClr }
    let s := arrived (outstanding (loading .pending)) (.parkNotice 0 0 1)
    let t := fun (why : Nat) (l : List Waiter) => { arrived (outstanding (loading .pending)) (.withdraw 0 0 1 why) with waiters := l }
    let mine := fun w : Waiter => w.core == 0 && w.ctx == 0 && w.op == 1 && w.kind != .park
    let l := late (.waiting (.reg 4) 0)
    let old : State := { l with cycles := 8 }
    (decide (IsNext s (packet (.parkNotice 0 0 1))) = true ∧ (s.dropPkt s.ev.k).det 0 0 1 = some (loading .pending)) ∧
    decide (IsNext (arrived (outstanding (loading .pending)) (.wake 0 0 1 0 5)) (packet (.wake 0 0 1 0 5))) = true ∧
    (decide (IsNext (t 0 [w]) (packet (.withdraw 0 0 1 0))) = true ∧ ((t 0 [w]).dropPkt 0).waiters.find? mine = some w ∧ (t 0 [w]).ipiDue = false) ∧
    (decide (IsNext (t 2 [w]) (packet (.withdraw 0 0 1 2))) = true ∧ ((t 2 [w]).dropPkt 0).waiters.find? mine = some w) ∧
    (decide (IsNext (t 0 []) (packet (.withdraw 0 0 1 0))) = true ∧ ((t 0 []).dropPkt 0).waiters.find? mine = none) ∧
    ((l.ctx 0 0).wlimit ≠ 0 ∧ 0 + (l.ctx 0 0).wlimit.toNat ≤ old.cycles ∧ (WaitWhy.reg 4).limited = true ∧ old.waitOver 0 0 (.reg 4) = false ∧
      (l.ctx 0 0).faults = [] ∧ (l.ctx 0 0).st = .waiting (.reg 4) 0) ∧ ((late (.parked 1 0)).ctx 0 0).st = .parked 1 0 ∧
    ((late .ready).ctx 0 0).posted.find? (fun d => d.id == 1) = some { id := 1, i := .nop, pc := 0, st := .fault cPerm 8 0 0 } ∧
    (l.ipiStep 0 0 = none ∧ l.overdueStep 0 0 = none ∧ (l.limitEnd 0 0).isSome = true) ∧
    (((late .ready).ctx 0 0).outst.find? (fun d => d.parked && d.st == .pending) = some { loading .pending with parked := true } ∧
      ((late .ready).ctx 0 0).st = .ready) := by
  decide +kernel

/-! Parallel work. -/

/-- g1 at a counter of cluster 0, whose partition holds it; g2 names no live register, g3 seven, g5 one bit above a counter's fields. -/
def forker : Ctx := { strand with g := [(1, 0xFE00000000000000), (2, 0), (3, 0xFE), (5, 0x2000000000000), (6, 0x1000)] }
def space : Part := { spec := { pid := 0, clusterGrain := true, units := [0], asids := [0], hostAsid := 0, ctrl := 0x100000, asdir := 0 } }
def inPart (k : Ctx) : State := { with_ k with parts := [(0, some space)] }

/-- The limit of forks reached; an operation outstanding. -/
def limited : State := { inPart forker with cores := [(0, { ctxs := [(0, forker)], spawnLim := 0 })] }
def unsettled : State := inPart { forker with posted := pend 1, outst := [{ loading .pending with dests := [50] }] }
/-- A `fork` that retires, with room in the deque and without. -/
def push1 : Retiring := { due := 0, ctx := 0, act := .fork 0 { slot := 0 }, info := { code := 0 } }
def retiring (lim : BitVec 9) (p : Retiring := push1) : State := { inPart forker with
  cores := [(0, { ctxs := [(0, forker)], spawnLim := lim, retiring := [p] })] }
/-- `k` with g50 failing its check, and a mask in `r` that names it. -/
def broken (k : Ctx) (r : Nat) : Ctx := { k with bad := [(50, true)], g := mset 0 k.g r 0x4000000000000 }

theorem witness_SpawnForkJoinExit :
    let f := fun i : BitVec 6 => ({ a := 1, b := i } : Fields)
    let good := fun s : State => s.counterFault (s.gr 1) == none
    meets (.spawn { a := 6 }) (inPart forker) (fun s => s.issueFault (s.myWho .strand) (s.gr 6) 64 64 false == none) = true ∧
    [Instr.fork { a := 1, d := 4 }, .fork { d := 4 }].all (meets · (inPart forker) good) = true ∧
    meets (.fork { a := 6 }) (inPart forker) (fun s => (s.counterFault (s.gr 6)).isSome) = true ∧
    ((retiring 1).core 0).retiring = [push1] ∧ push1.due ≤ (retiring 1).cycles ∧ ((retiring 1).core 0).deque.length < ((retiring 1).core 0).spawnLim.toNat ∧
    ((retiring 0).core 0).retiring = [push1] ∧ ((retiring 0).core 0).spawnLim.toNat ≤ ((retiring 0).core 0).deque.length ∧
    meets (.join (f 2)) (inPart forker) (fun s => good s && !overMask (s.gr 2) 6 0 && s.me.settled && s.badCarried (maskRegs (s.gr 2) 0) == none) = true ∧
    meets (.join (f 2)) (inPart (broken forker 2)) (fun s => good s && !overMask (s.gr 2) 6 0 && s.me.settled &&
      s.badCarried (maskRegs (s.gr 2) 0) == some 50) = true ∧
    meets (.join (f 2)) unsettled (fun s => good s && !overMask (s.gr 2) 6 0 && !s.me.settled) = true ∧
    meets (.join (f 3)) (inPart forker) (fun s => overMask (s.gr 3) 6 0) = true ∧
    meets (.jinit (f 2)) (inPart forker) (fun s => good s && decide ((s.gr 2).toNat / 2 ^ 49 % 2 ^ 14 = 0) && s.me.hypCur == 0 &&
      decide (s.me.posted.length < 32)) = true ∧
    meets (.jinit (f 2)) (inPart { forker with hypCur := 1 }) (fun s => good s && decide ((s.gr 2).toNat / 2 ^ 49 % 2 ^ 14 = 0) && s.me.hypCur != 0) = true ∧
    meets .exit (holding (inPart forker) .exit) (fun s => s.me.outst == [] && s.me.posted == []) = true ∧
    meets .exit (holding unsettled .exit) (fun s => s.me.posted != []) = true := by decide +kernel

/-- A full deque; a pre-emption request for context 0; a launch with a save area. -/
def fullCore (k : Ctx) : State := { inPart k with cores := [(0, { ctxs := [(0, k)], spawnLim := 0 })] }
def named (k : Ctx) (area : Nat := 0x400000) : State := { inPart k with
  cores := [(0, { ctxs := [(0, k)], preempt := some 0 })]
  launches := [(0, some { rcd := BitVec.ofNat 1024 (area * 2 ^ 704) })] }

theorem witness_YieldParkSafePoint :
    let room := fun s : State => decide (s.myCore.deque.length < s.myCore.spawnLim.toNat)
    let y := fun s : State => holding s .yield { b := 2 }
    let parks := fun s : State => s.parkFault (s.gr 6) == none && !overMask (s.gr 2) 6 0
    let good := fun s : State => s.badCarried (maskRegs (s.gr 2) 0) == none
    let bad := fun s : State => s.badCarried (maskRegs (s.gr 2) 0) == some 50
    let saves := fun (n : BitVec 40) (s : State) => decide (s.myCore.preempt = some s.cx) && s.me.settled && s.badCarried (sptG n ++ sptRest n) == none
    meets .yield (y (fullCore forker)) (fun s => !room s) = true ∧
    meets .yield (y (inPart forker)) (fun s => room s && !overMask (s.gr 2) 6 0 && s.me.settled && good s) = true ∧
    meets (.park { a := 6, b := 2 }) (inPart forker) (fun s => parks s && s.me.settled && good s) = true ∧
    meets (.park { a := 6, b := 2 }) (inPart (broken forker 2)) (fun s => parks s && s.me.settled && bad s) = true ∧
    meets (.park { a := 6, b := 2 }) unsettled (fun s => parks s && !s.me.settled) = true ∧
    meets (.spt { imm := 0x3 }) (inPart forker) (fun s => decide (s.myCore.preempt ≠ some s.cx)) = true ∧
    meets (.spt { imm := 0x1 }) (named forker) (fun s => saves 1 s && (s.sptSave 1).isSome) = true ∧
    meets (.spt { imm := 0x1000 }) (named (broken forker 2)) (fun s => decide (s.myCore.preempt = some s.cx) && s.me.settled &&
      s.badCarried (sptG 0x1000 ++ sptRest 0x1000) == some 50) = true ∧
    meets (.spt { imm := 0x1 }) (named forker 0) (fun s => saves 1 s && (s.sptSave 1).isNone) = true ∧
    meets (.spt { imm := 0x3 }) (named { forker with posted := pend 1, outst := [{ loading .pending with dests := [50] }] })
      (fun s => decide (s.myCore.preempt = some s.cx) && !s.me.settled) = true := by decide +kernel

/-- g1 at core 1's buffer A, g2 its id, g3 too many live registers, g4 in this core's buffer. -/
def mover : Ctx := { strand with g := [(1, 0xFF00000000140000), (2, 1), (3, 0x3FE), (4, 0xFF00000000000000), (5, 0)] }

theorem witness_Migration :
    let ok := fun s : State => s.accessFault (s.myWho .strand) (s.gr 1) 8 8 false == none
    let sound := fun (m : Word) (d : Nat) (s : State) => s.badCarried (maskRegs m d) == none
    let unsound := fun (m : Word) (s : State) => s.me.settled && s.badCarried (maskRegs m 0) == some 50
    let away := fun (m : BitVec 6) (s : State) => decide ((s.gr 2).toNat % 2 ^ 12 ≠ s.cur) && !s.unavail 1 && s.inPart (s.pidOf s.cur) 1 && !overMask (s.gr m) 8 0
    let movingOn : State := inPart { mover with posted := pend 1, outst := [{ loading .pending with dests := [50] }] }
    meets (.ldM { d := 6, a := 4, o := 3 }) (inPart mover) (fun s => s.issueFault (s.myWho .strand) (s.gr 4) 8 8 false == none &&
      spaceOf (s.gr 4).toNat == .loc 0 0) = true ∧
    meets (.ldM { d := 6, a := 1, o := 3 }) (inPart mover) (fun s => ok s && spaceOf (s.gr 1).toNat == .loc 1 1 && !overMask (s.gr 0) 8 6 &&
      s.me.settled && sound (s.gr 0) 6 s) = true ∧
    meets (.ldM { d := 6, a := 1, b := 7, o := 3 }) (inPart (broken mover 7)) (fun s => ok s && spaceOf (s.gr 1).toNat == .loc 1 1 &&
      !overMask (s.gr 7) 8 6 && s.me.settled && s.badCarried (maskRegs (s.gr 7) 6) == some 50) = true ∧
    meets (.ldM { d := 6, a := 1, o := 3 }) movingOn (fun s => ok s && spaceOf (s.gr 1).toNat == .loc 1 1 && !overMask (s.gr 0) 8 6 &&
      !s.me.settled) = true ∧
    meets (.ldM { d := 6, a := 3, o := 3 }) (inPart mover) (fun s => s.accessFault (s.myWho .strand) (s.gr 3) 8 8 false == some (cAlign, 0x3FE)) = true ∧
    meets (.ldM { d := 6, a := 6, o := 3 }) (inPart { mover with g := [(6, 0x10000000000000)] }) (fun s => spaceOf (s.gr 6).toNat != .loc 0 0 &&
      s.issueFault (s.myWho .strand) (s.gr 6) 8 8 false == some (cWindow, 0x10000000000000)) = true ∧
    meets (.ldM { d := 10, a := 1, b := 3, o := 3 }) (inPart mover) (fun s => ok s && spaceOf (s.gr 1).toNat == .loc 1 1 && overMask (s.gr 3) 8 10) = true ∧
    meets (.mig { a := 5 }) (inPart mover) (fun s => decide ((s.gr 5).toNat % 2 ^ 12 = s.cur)) = true ∧
    meets (.mig { a := 2 }) (inPart mover) (fun s => away 0 s && s.me.settled && sound (s.gr 0) 0 s) = true ∧
    meets (.mig { a := 2, b := 7 }) (inPart (broken mover 7)) (fun s => away 7 s && unsound (s.gr 7) s) = true ∧
    meets (.mig { a := 2 }) movingOn (fun s => away 0 s && !s.me.settled) = true := by decide +kernel

/-- A core with a Free context: an arrival, an entry, a full sorus, spilled arrivals, a neighbour with work. -/
def offer : Offer := { src := 1, sender := some 0, pkt := 0 }
def host (c : Core) : State := { State.reset with cores := [(0, c), (1, { ctxs := [(0, { wlimit := 8 })] })], cycles := 9, parts := [(0, some space)] }

theorem witness_BindingStealingAndArrivals :
    let one : SorEnt := { slot := 0 }
    let e : DqEnt := { slot := 0, mt := { dom := 1 } }
    let high : DqEnt := { slot := 1, mt := { prio := 5 } }
    let rate := fun (c : Core) (p : Nat) => !c.preemptMet || (c.sorus.all (fun d => decide (d.mt.prio ≤ p)) && c.deque.all (fun d => decide (d.mt.prio ≤ p)))
    let met : Core := { sorus := [one], deque := [high, e], preemptMet := true }
    let thief : Core → State := fun v => { host {} with cores := [(0, {}), (1, { v with deque := [e] })] }
    let first := fun s : State => s.refillDue 0 = false ∧ s.sorusBinds 0 = false ∧ nextOffer s.cycles (s.core 0).offers = some offer
    let spills : Core := { offers := [offer], sorusDepth := 0, spillCap := 1 }
    let back : Core := { spilled := [one] }
    ((host { sorus := [one] }).freeContext 0 = some 0 ∧ (host { sorus := [one] }).core 0 = { sorus := [one] } ∧
      [one].filter ((host { sorus := [one] }).sorBindable 0) = [] ++ one :: [] ∧ rate { sorus := [one] } 0) ∧
    ((host { deque := [e] }).freeContext 0 = some 0 ∧ [e].reverse.filter (·.takeable) = [] ++ e :: [] ∧ (host { deque := [e] }).portUsed 0 = false) ∧
    ((host met).freeContext 0 = some 0 ∧ ¬rate met one.mt.prio ∧ met.deque.reverse.filter (·.takeable) = [e] ++ high :: [] ∧ ¬rate met e.mt.prio ∧
      rate met high.mt.prio) ∧
    ((thief {}).freeContext 0 = some 0 ∧ neighbour 0 0 = some 1 ∧ ((thief {}).core 1).deque.head? = some e ∧ ((thief {}).core 1).unavailable = false ∧
      e.takeable = true ∧ (thief {}).stealOk e.mt.dom 0 1 = true ∧ (thief {}).ownerPops 1 = true) ∧
    ((thief { boundIn := 10 }).stealOk e.mt.dom 0 1 = true ∧ (thief { boundIn := 10 }).ownerPops 1 = false ∧
      (thief { boundIn := 10 }).portUsed 1 = false ∧ (thief { portAt := 10 }).portUsed 1 = true) ∧
    (({ e with takeable := false }).after.all (host {}).opOver = true ∧ (host {}).oweOver { e with takeable := false } = true ∧
      (inPart { strand with depth := 1 }).oweOver { e with owe := some (0, 0, 0) } = false) ∧
    (first (host { offers := [offer] }) ∧ ([] : List SorEnt).length < (host { offers := [offer] }).myCore.sorusDepth.toNat) ∧
    (first (host spills) ∧ spills.sorusDepth.toNat ≤ 0 ∧ 0 < spills.spillCap.toNat ∧
      (List.range spills.spillCap.toNat).find? (fun n => ([] : List SorEnt).all (fun d => d.slot != n)) = some 0) ∧
    (first (host { spills with spillCap := 0 }) ∧ ({ spills with spillCap := 0 } : Core).spillCap.toNat ≤ 0) ∧
    (back.refill = none ∧ one.ready ≤ (host back).cycles ∧ back.sorus.length < back.sorusDepth.toNat) ∧ 9 ≤ (host back).cycles ∧
    (((host {}).ctx 1 0).wlimit ≠ 0 ∧ offer.since + ((host {}).ctx 1 0).wlimit.toNat < 9) := by decide +kernel

/-- A counter in cluster memory that holds `w`. -/
def counter (w : Nat) (b : Msg) : State := { arrived (inPart forker) b with win := Mem.write {} 0xFE00000000000000 w 8 }

/-- A counter at 0, 1 and 2, alone and with a record that waits; the record of a `park` at a full, an empty and a failing word. -/
theorem witness_JoinCountersAndParkedRecords :
    let j := Msg.join 0 0 0xFE00000000000000 0 {}
    let d := Msg.decrement 0 0xFE00000000000000 {}
    let k := Msg.parkRec 0 0 (req .ldfeKeep) 0 {}
    let at_ := fun (w : Nat) (b : Msg) => nth (counter w b).net 0 = some (packet b) ∧ (counter w b).counterTurn 0 = true ∧
      (counter w b).win.isBad 0xFE00000000000000 = false ∧ (counter w b).win.read 0xFE00000000000000 8 = w
    at_ 0 j ∧ at_ 1 j ∧ at_ 2 j ∧ at_ 0 d ∧ at_ 1 d ∧ at_ (2 ^ 63 + 1) d ∧ (2 ^ 63 + 1) / 2 ^ 63 % 2 = 1 ∧ at_ 2 d ∧
    (decide (IsNext (arrived plain k) (packet k)) = true ∧ isOk (performFe (arrived plain k) ((req .ldfeKeep).who 0 .strand) (req .ldfeKeep)).2 = true) ∧
    isWait (performFe (arrived emptied k) ((req .ldfeKeep).who 0 .strand) (req .ldfeKeep)).2 = true ∧
    isFlt (performFe (arrived spoilt k) ((req .ldfeKeep).who 0 .strand) (req .ldfeKeep)).2 = true := by decide +kernel

/-- A position packed from three coordinates (R267), and two cells of 1 by 1 by 1 beside each other. -/
def xyz (x y z : Nat) : Word := BitVec.ofNat 64 (x + y * 2 ^ 21 + z * 2 ^ 42)
def cell0 : Cell := { core := 0, lo := xyz 0 0 0, hi := xyz 64 64 64 }
def cell1 : Cell := { core := 1, lo := xyz 64 0 0, hi := xyz 128 64 64 }
def map2 : CellMap := { cells := [cell0, cell1], standby := [2], halo := 32, split := 1 }

/-- g1 in cell 0, g2 at the first position of cell 1, g3 in none; g6 a result area, g7 a radius. -/
def placed (b : Option PosBind) : Ctx := { strand with
  g := [(1, xyz 63 63 63), (2, xyz 64 0 0), (3, xyz 128 0 0), (6, 0x1000), (7, 32), (8, 4), (9, 0x3FC00)], pos := b }
def mapped (k : Ctx) (c : Core := {}) : State := { inPart k with
  cores := [(0, { c with ctxs := [(0, k)] })], parts := [(0, some { space with cells := some map2 })] }
def bound : PosBind := { crd := 1, tag := 7, live := 0 }
/-- Two strands in the upper half of cell 0, one more than its limit. -/
def crowd : List PosEnt := [{ tag := 7, pos := xyz 63 0 0, ctx := 0 }, { tag := 8, pos := xyz 32 0 0, ctx := 1 }]
/-- A search that has one table, or two, still to read. -/
def search (l : List Nat) : DetOp := { loading .pending with
  i := .nbr { d := 4, a := 6, b := 7, c := 8 }, iw := (Instr.nbr { d := 4, a := 6, b := 7, c := 8 }).iw {}, tabs := l }

theorem witness_PositionBoundStrands :
    let s := mapped (placed (some bound))
    let t := mapped (placed (some bound)) { postab := crowd }
    let hosts := fun (a b : BitVec 6) (h : Option Nat) (wide : Bool) (s : State) =>
      s.cellCore (s.pidOf s.cur) (s.gr a) == h && overMask (s.gr b) 7 a.toNat == wide
    let full := fun s : State => s.me.pos == some bound && s.full s.cur s.cx bound.crd && s.badCarried [bound.crd] == none
    let k := placed (some bound)
    let map := fun s : State => (s.part (s.pidOf s.cur)).bind (·.cells) == some map2
    meets (.pbind { a := 1 }) (mapped (placed none)) (hosts 1 0 (some 0) false) = true ∧
    meets (.pbind { a := 1, b := 9 }) (mapped (placed none)) (hosts 1 9 (some 0) true) = true ∧
    meets (.pbind { a := 2 }) (mapped (placed none)) (hosts 2 0 (some 1) false) = true ∧
    meets (.pbind { a := 2, b := 9 }) (mapped (placed none)) (hosts 2 9 (some 1) true) = true ∧
    meets (.pbind { a := 3 }) (mapped (placed none)) (hosts 3 0 none false) = true ∧
    meets .punbind (holding s .punbind) = true ∧
    meets .ppub (holding (mapped { k with posted := pend 31 }) .ppub) (fun s => full s && decide (s.me.posted.length < 32)) = true ∧
    meets .ppub (holding (mapped { k with fe := [(1, false)] }) .ppub) (fun s => s.me.pos == some bound && !s.full s.cur s.cx bound.crd) = true ∧
    meets .ppub (holding (mapped { k with bad := [(1, true)] }) .ppub) (fun s => s.me.pos.map (fun b => s.full s.cur s.cx b.crd) == some true &&
      s.badCarried ((s.me.pos.map (·.crd)).toList) == some 1) = true ∧
    ((req .ppub).kind = .ppub ∧ ({ req .ppub with ea := 0 } : MemReq).ea = 0) ∧
    meets .ppub (holding plain .ppub) (fun s => s.me.pos == none) = true ∧
    meets (.nbr { d := 4, a := 6, b := 7, c := 8 }) s (fun s => full s && map s && (s.gr 6).toNat % 16 == 0) = true ∧
    meets (.nbr { d := 4, a := 8, b := 7, c := 8 }) s (fun s => full s && map s && (s.gr 8).toNat % 16 != 0) = true ∧
    meets (.cellq f1) s = true ∧
    ((outstanding (search [0])).det 0 0 1 = some (search [0]) ∧ (search [0]).op = 0x3CC ∧ (search [0]).st = .pending ∧
      (outstanding (search [0, 1])).det 0 0 1 = some (search [0, 1])) ∧
    (s.part 0 = some { space with cells := some map2 } ∧ map2.cells.find? (fun e => e.core == 0) = some cell0 ∧ standbyFor map2 0 = some 2 ∧
      map2.split < (t.core 0).postab.length ∧ 1 < (cutOf cell0).2.2) ∧
    ((mapped (placed (some { bound with moved := true }))).me.pos = some { bound with moved := true } ∧ (noShape 0).det = false) ∧
    ({ space with splitting := true }).splitting = true ∧
    s.cores.all (fun e => !s.inPart 0 e.1 || e.2.postab.all (fun x => decide (x.ctx < 16))) = true := by decide +kernel

/-- A tile instruction that is outstanding. -/
def tiling : DetOp := { loading .pending with i := .tzero { la := 15 }, iw := (Instr.tzero { la := 15 }).iw {}, dests := [50] }

/-- Assigned and unassigned numbers, at each level; values that pass and values that fail the check of each row of its own. -/
theorem witness_SpecialRegisterAccesses :
    let own := fun (i : Instr) (n : BitVec 40) (a : BitVec 6) (ok : State → Word → Bool) =>
      meets i (holding (inPart { strand with g := [(1, 0x200004), (2, 1), (3, 0x1FFF00000000), (4, 0x10000)] }) i { a, imm := n })
        (fun s => srStops s n.toNat == none && ok s (s.gr a))
    meets (.rdsr { d := 4, imm := 0x003 }) user (fun s => srStops s 0x003 == none) = true ∧
    meets (.rdsr { d := 4, imm := 0x006 }) (outstanding tiling) (fun s => srStops s 0x006 == none && s.me.outst.any (fun d => isTile d.op)) = true ∧
    meets (.rdsr { d := 4, imm := 0x00D }) plain (fun s => srStops s 0x00D == some cIllegal) = true ∧
    meets (.rdsr { d := 4, imm := 0x100 }) user (fun s => srStops s 0x100 == some cPriv) = true ∧
    meets (.wrsr { a := 1, imm := 0x005 }) user (fun s => srStops s 0x005 == none) = true ∧
    meets (.rdsr { d := 4, imm := 0x006 }) (with_ { strand with badTile := 1 }) (fun s => srStops s 0x006 == none &&
      !s.me.outst.any (fun d => isTile d.op) && s.me.badTile.getLsbD 0) = true ∧
    (((Instr.wrsr { a := 1, imm := 0x103 }).shape user.flds).any (fun sh => user.gate sh == .go && legalHere user.cx sh.op) = true ∧
      user.me.st = .ready ∧ user.me.rett = none ∧ srStops user 0x103 = some cPriv) ∧
    own .wrsrKipi 0x104 1 (fun _ _ => true) = true ∧
    own .wrsrKvec 0x101 1 (fun _ v => decide (targetOk v)) = true ∧
    own .wrsrKvec 0x102 2 (fun _ v => decide (¬targetOk v)) = true ∧
    own .wrsrPart 0x110 2 (fun s v => s.allotted (s.pidOf s.cur) (v.toNat / 2 ^ 16 % 2 ^ 10)) = true ∧
    own .wrsrPart 0x110 4 (fun s v => !s.allotted (s.pidOf s.cur) (v.toNat / 2 ^ 16 % 2 ^ 10)) = true ∧
    own .wrsrSpill 0x111 2 (fun s v => decide (v.toNat / 2 ^ 5 % 2 ^ 18 * 32 + 96 * (v.toNat / 2 ^ 32 % 2 ^ 13) ≤ 2 ^ 23) && s.myCore.spilled == []) = true ∧
    own .wrsrHypRst 0x112 0 (fun s v => s.allotted (s.pidOf s.cur) (v.toNat % 2 ^ 10) &&
      ((s.part (s.pidOf s.cur)).map (·.resolves.isEmpty)).getD true) = true ∧
    own .wrsrHypRst 0x112 2 (fun s v => !s.allotted (s.pidOf s.cur) (v.toNat % 2 ^ 10)) = true ∧
    meets .wrsrSpill (holding (inPart { strand with g := [(1, 0x1FFF007FFFE0)] }) .wrsrSpill { a := 1, imm := 0x111 })
      (fun s => srStops s 0x111 == none && decide (2 ^ 23 < (s.gr 1).toNat / 2 ^ 5 % 2 ^ 18 * 32 + 96 * ((s.gr 1).toNat / 2 ^ 32 % 2 ^ 13))) = true := by
  decide +kernel

/-- g1 a channel to context 1, g2 a descriptor with a bit that is reserved; q1 holds an element. -/
def queued : State := with_ { strand with g := [(1, 0x001), (2, 0x1000), (3, 0x42)], q1 := [5] }
/-- A handle in the state that `o` names, another, and one an engine holds. -/
def handled (w : Nat) : State := { with_ { strand with g := [(3, 2)] } with win := Mem.write {} (0xFF000000000C6010) w 8 }

theorem witness_QueuesAndBufferHandles :
    let h := fun s : State => s.hdl s.cur ((s.gr 3).toNat % 2 ^ 6)
    let stored := fun s : State => decide (MayPass s 2 true true)
    let sound := fun s : State => !s.myCore.badHead (s.qKey 1) 1
    let spoilt : State := { queued with cores := [(0, { ctxs := queued.myCore.ctxs, badQ := [(queued.qKey 1, 0)] })] }
    let acts := fun (a : RetAct) (w : Nat) => ({ handled w with cores := [(0, { ctxs := (handled w).myCore.ctxs, retiring := [{ due := 0, ctx := 0, act := a, info := { code := 0 } }] })] } : State)
    let handle := fun (o : Nat) (free : Bool) (w : Nat) => (acts (.handle 2 o free) w).hdl 0 2 = w ∧ ((acts (.handle 2 o free) w).core 0).retiring.length = 1
    meets (.qbind { d := 8, a := 1 }) queued (fun s => decide ((s.gr 1).toNat / 2 ^ 8 = 0 ∧ (s.gr 1).toNat % 16 ≠ 15 ∧ (s.gr 1).toNat % 16 ≠ s.cx)) = true ∧
    meets (.qbind { d := 8, a := 2 }) queued (fun s => decide ((s.gr 2).toNat / 2 ^ 8 ≠ 0)) = true ∧
    meets (.qbind { d := 8 }) queued (fun s => decide ((s.gr 0).toNat % 16 = s.cx)) = true ∧
    meets .qbindOff (holding queued .qbindOff { d := 8, o := 1 }) = true ∧
    meets (.qmov { d := 0, a := 1 }) queued (fun s => s.qRole 0 true && s.qWait 0 (s.gr 1) == none) = true ∧
    meets (.qmov { d := 1, a := 1 }) queued (fun s => !s.qRole 1 true) = true ∧
    meets (.qmov { d := 4, a := 0, o := 1 }) queued (fun s => !s.qRole 0 false) = true ∧
    meets (.qmov { d := 4, a := 3, o := 1 }) queued (fun s => s.qRole 3 false && (s.qPop 3).isNone) = true ∧
    meets (.qmov { d := 4, a := 1, o := 1 }) queued (fun s => s.qRole 1 false && (s.qPop 1).isSome && sound s) = true ∧
    meets (.qmov { d := 0, a := 1, o := 2 }) queued (fun s => s.qRole 1 false && (s.qPop 1).isSome && sound s && s.qRole 0 true && s.qWait 0 5 == none) = true ∧
    meets (.qmov { d := 1, a := 1, o := 2 }) queued (fun s => s.qRole 1 false && (s.qPop 1).isSome && sound s && !s.qRole 1 true) = true ∧
    meets (.qmov { d := 4, a := 1, o := 1 }) spoilt (fun s => s.qRole 1 false && (s.qPop 1).isSome && !sound s) = true ∧
    meets (.hwait { a := 3, o := 1 }) (handled 1) (fun s => h s % 4 == 1) = true ∧
    meets (.hwait { a := 3, o := 2 }) (handled 1) (fun s => h s % 4 != 2) = true ∧
    meets (.hset { a := 3, o := 1 }) (handled 1) (fun s => stored s && h s / 4 % 2 == 0 && h s % 4 == 1) = true ∧
    meets (.hset { a := 3, o := 2 }) (handled 1) (fun s => stored s && h s / 4 % 2 == 0 && (h s % 4 + 1) % 4 == 2) = true ∧
    meets (.hset { a := 3, o := 3 }) (handled 1) (fun s => stored s && h s % 4 == 1 && (h s % 4 + 1) % 4 != 3) = true ∧
    meets (.hset { a := 3, o := 1 }) { handled 1 with cores := [(0, { ctxs := [(0, { strand with g := [(3, 2)], posted := pend 1 })] })] }
      (fun s => !stored s) = true ∧
    meets (.hfree { a := 3 }) (handled 1) (fun s => h s / 4 % 2 == 0) = true ∧
    meets (.hfree { a := 3 }) (handled 5) (fun s => h s / 4 % 2 == 1) = true ∧
    (handle 1 false 1 ∧ handle 2 false 1 ∧ handle 0 true 1 ∧ handle 2 false 5 ∧ handle 3 false 1 ∧ (1 : Nat) / 4 % 2 ≠ 1 ∧ (5 : Nat) / 4 % 2 = 1) ∧
    ((acts (.push 0 7) 0).core 0).retiring = [{ due := 0, ctx := 0, act := .push 0 7, info := { code := 0 } }] ∧
    meets (.hstat { d := 4, a := 3 }) (handled 1) = true := by decide +kernel

/-- Context 15 of core 0, with g3 at a table in buffer W that takes 2 bits; the core's bit reader and writer as given. -/
def xform (c : Core) : State := { with_ {} with
  cx := 15, cores := [(0, { c with ctxs := [(15, { strand with g := [(2, 65), (3, 0xFF00000000000000), (4, 4)] })] })]
  parts := [(0, some space)] }
def tabled (h e : Nat) (c : Core) : State := { xform c with win := (Mem.write {} 0xFF00000000000000 h 8).write 0xFF00000000000008 e 4 }

theorem witness_BitStreams :
    let there := fun (k : Nat) (s : State) => decide (k ≤ s.myCore.bitsIn) && !s.myCore.bitsBad k
    let few := fun (k : Nat) (s : State) => decide (s.myCore.bitsIn < k)
    let worn : Core := { qin := [0], badQ := [(246, 0)], rdCount := 1 }
    let stops := fun (k : Nat) (s : State) => decide (k ≤ s.myCore.bitsIn) && s.myCore.bitsBad k
    let room := fun (k : Nat) (s : State) => decide (s.myCore.wrLen + k < 64) || decide (s.myCore.qout.length < 16)
    let packed : Core := { qout := List.replicate 16 0, wrLen := 63 }
    let one : Core := { qin := [0] }
    let table := fun (h : Nat) (s : State) => s.issueFault (s.myWho .strand) (s.gr 3) 8 8 false == none && spaceOf (s.gr 3).toNat == .loc s.cur 0 &&
      s.pathClear s.cur && (match s.readAt (s.myWho .strand) (s.gr 3).toNat 8 3 with
        | (_, .ok v) => v == h
        | _ => false)
    let entry := fun (h e : Nat) (s : State) => match s.readChecked (s.myWho .strand) (BitVec.ofNat 64 ((s.gr 3).toNat + 8 + 4 * s.myCore.peekBits h)) 4 4 3 with
      | (_, .ok v) => v == e
      | _ => false
    meets (.bsGet { d := 4, o := 1, imm := 64 }) (xform one) (there 64) = true ∧
    meets (.bsGet { d := 4, o := 1, imm := 1 }) (xform {}) (few 1) = true ∧
    [Instr.bsGet { d := 4, o := 1, imm := 64 }, .bsPeek { d := 4, o := 1, imm := 64 }].all (meets · (xform worn) (stops 64)) = true ∧
    meets (.bsDec { d := 5, a := 3 }) (tabled 12 0 worn) (fun s => table 12 s && stops 12 s) = true ∧
    meets (.bsAlign {}) (xform worn) (stops 7) = true ∧
    meets (.bsGet { d := 4, b := 2 }) (xform one) (fun s => decide (64 < (s.gr 2).toNat % 2 ^ 7)) = true ∧
    meets (.bsPeek { d := 4, o := 1, imm := 64 }) (xform one) (there 64) = true ∧
    meets (.bsPut { a := 4, o := 1, imm := 64 }) (xform {}) (room 64) = true ∧
    meets (.bsPut { a := 4, o := 1, imm := 1 }) (xform packed) (fun s => !room 1 s) = true ∧
    meets (.bsDec { d := 5, a := 3 }) (tabled 0 0 one) (table 0) = true ∧ meets (.bsDec { d := 5, a := 3 }) (tabled 13 0 one) (table 13) = true ∧
    meets (.bsDec { d := 5, a := 3 }) (tabled 12 0 {}) (fun s => table 12 s && few 12 s) = true ∧
    meets (.bsDec { d := 5, a := 3 }) (tabled 1 0x10007 one) (fun s => table 1 s && there 1 s && entry 1 0x10007 s) = true ∧
    0x10007 / 2 ^ 16 % 2 ^ 5 = 1 ∧ 0x10007 / 2 ^ 21 % 2 ^ 11 = 0 ∧
    meets (.bsAlign {}) (xform { rdCount := 0 }) (there 0) = true ∧
    meets (.bsAlign { o := 1 }) (xform { wrCount := 1, wrLen := 1 }) (room 7) = true ∧
    meets (.bsAlign { o := 2 }) (xform { wrCount := 1, wrLen := 1 }) (fun s => decide (s.myCore.wrLen ≠ 0) && room 63 s) = true ∧
    meets (.bsAlign { o := 3 }) (xform {}) = true := by decide +kernel

/-- A collective of cluster 0 in the partition: id 1, its round 0 as given. -/
def collOf (rd : List Round) : Coll := { on := true, cfg := 2 ^ 24 + 8 * 2 ^ 7 + 100 * 2 ^ 64, rounds := rd }
def joined (k : Ctx) (rd : List Round := []) : State := { inPart k with
  cycles := 100, ev := { id := 1 }, parts := [(0, some { space with colls := [(1, collOf rd)] })] }
def poster : Ctx := { strand with g := [(1, 1), (6, 0x1000)] }
/-- A post, and a `red.get` that is to take its round, under way. -/
def posting : DetOp := { loading .pending with i := .redPost { d := 4, a := 1, la := 15 }, iw := (Instr.redPost { d := 4, a := 1, la := 15 }).iw {}, caps := { o1 := 1 } }
def getting : DetOp := { loading .pending with i := .redGet { d := 4, a := 1, b := 5 }, iw := (Instr.redGet { d := 4, a := 1, b := 5 }).iw {}, caps := { o1 := 1 } }
def under (d : DetOp) (l : List PostedRound := []) : Ctx := { poster with outst := [{ d with dests := [50] }], rounds := l }

theorem witness_RouterReductions :
    let posts := fun s : State => s.me.hypCur == 0 && s.me.ordered true true && decide (s.me.untaken 1 < 4)
    let mine : PostedRound := { id := 1, num := 0, ep := 0 }
    let free := fun s : State => s.me.hypCur == 0 && findIdx (fun r => r.id == 1 && !r.queue && r.op.isNone) s.me.rounds == none
    let rd : Round := { num := 0, contrib := [(0, some 5)], started := 50 }
    let old : Round := { rd with started := 0 }
    let done : Round := { rd with result := some 5, posters := [{ core := 0, ctx := 0 }] }
    let late := fun (r : Round) (s : State) => decide ((collOf [r]).cfg.toNat / 2 ^ 64 % 2 ^ 32 ≠ 0 ∧ r.started + (collOf [r]).cfg.toNat / 2 ^ 64 % 2 ^ 32 ≤ s.cycles)
    let forms := fun r : Round => match (collOf [r]).routed r 0 with
      | some (some (_, t), _) => decide (t ≤ 100)
      | _ => false
    let ends := fun (d : DetOp) (l : List PostedRound) => ({ joined (under d l) with ev := { op := 1, id := 1 } } : State).det 0 0 1 = some { d with dests := [50] }
    let took := fun r : PostedRound => (under getting [r]).rounds.find? (fun r => r.op == some 1) = some r
    meets (.redCfg { a := 6 }) (joined poster) (fun s => s.issueFault (s.myWho .strand) (s.gr 6) 16 16 false == none) = true ∧
    meets (.redPost { d := 4, a := 1 }) (joined poster) posts = true ∧
    meets (.redPost { d := 4, a := 1 }) (joined { poster with hypCur := 1 }) (fun s => s.me.hypCur != 0) = true ∧
    meets (.redPost { d := 4, a := 1 }) (joined { poster with posted := pend 1 }) (fun s => s.me.hypCur == 0 && !s.me.ordered true true) = true ∧
    meets (.redPost { d := 4, a := 1 }) (joined { poster with rounds := List.replicate 4 mine }) (fun s => s.me.hypCur == 0 && s.me.ordered true true &&
      decide (4 ≤ s.me.untaken 1)) = true ∧
    meets (.redGet { d := 4, a := 1, b := 5 }) (joined { poster with rounds := [mine] }) (fun s => s.me.hypCur == 0 &&
      findIdx (fun r => r.id == 1 && !r.queue && r.op.isNone) s.me.rounds == some 0) = true ∧
    meets (.redGet { d := 4, a := 1, b := 5 }) (joined (under posting)) (fun s => free s && s.me.posting 1 != 0) = true ∧
    meets (.redGet { d := 4, a := 1, b := 5 }) (joined poster) (fun s => free s && s.me.posting 1 == 0) = true ∧
    meets (.redGet { d := 4, a := 1, b := 5 }) (joined { poster with hypCur := 1 }) (fun s => s.me.hypCur != 0) = true ∧
    (ends posting [] ∧ posting.op = 0x3A1 ∧ ((joined poster).coll 0 1).member 0 = true ∧ ((inPart poster).coll 0 1).member 0 = false) ∧
    (getting.op = 0x3A2 ∧ [({ mine with op := some 1, failed := true } : PostedRound), { mine with op := some 1 }, { mine with op := some 1, res := some 5 }].all
      (fun r => decide (ends getting [r] ∧ took r)) = true) ∧
    (nth (collOf [rd]).rounds 0 = some rd ∧ rd.result = none ∧ rd.failed = false ∧ mget none rd.passed 0 = none ∧ (collOf [rd]).rootOf = 0 ∧
      forms rd = true ∧ late rd (joined poster [rd]) = false ∧ forms old = true ∧ late old (joined poster [old]) = true) ∧
    (nth done.posters 0 = some { core := 0, ctx := 0 } ∧ done.result ≠ none ∧ max (done.endAt + ({ collOf [done] with cfg := done.cfg } : Coll).wayDown 0) (0 + 12) ≤ 100) := by decide +kernel

/-- The node table of the partition: 1 Open, 2 Confirmed, 3 Refuted. -/
def tree : TMap Node := [(1, { st := .openNode, link := 0, depth := 1 }), (2, { st := .confirmed }), (3, { st := .refuted })]
def hyp (k : Ctx) (r : List Resolve := []) : State := { inPart { k with g := [(1, 1), (2, 3), (3, 0), (4, 9)] } with
  parts := [(0, some { space with nodes := tree, resolves := r })] }

theorem witness_HypothesisInstructions :
    let t := fun s : State => s.nodesAtCore (s.pidOf s.cur) s.cur
    let ok := fun (g : BitVec 6) (p : Option Nat → Bool) (s : State) => s.hasTable && p (eff (t s) 0 ((s.gr g).toNat % 2 ^ 8)) &&
      (nodeAt (t s) 0 ((s.gr g).toNat % 2 ^ 8)).st != .free
    [Instr.hnew f1, .hnstat f1].all (fun i => meets i (hyp strand) (fun s => s.hasTable)) = true ∧
    [Instr.hnew f1, .hresC f1, .hresR f1].all (fun i => meets i plain (fun s => !s.hasTable)) = true ∧
    meets .hnewRcl (holding (hyp strand) .hnewRcl { f1 with o := 1 }) (fun s => s.hasTable) = true ∧
    meets (.henter { a := 1 }) (hyp strand) (ok 1 Option.isSome) = true ∧
    meets (.henter { a := 4 }) (hyp strand) (fun s => s.hasTable && (nodeAt (t s) 0 9).st == .free) = true ∧
    meets (.henter { a := 2 }) (hyp strand) (ok 2 Option.isNone) = true ∧
    meets .hleave (holding (hyp strand) .hleave) (fun s => s.hasTable && s.me.hypCur == 0) = true ∧
    meets .hleave (holding (hyp { strand with hypCur := 1 }) .hleave) (fun s => s.hasTable && s.me.hypCur != 0) = true ∧
    [Instr.hresC f1, .hresC { f1 with o := 1 }, .hresR f1].all (fun i => meets i (hyp strand) (fun s => s.hasTable && (s.gr 1).toNat % 2 ^ 8 != 0 &&
      s.me.ordered true true) && meets i (hyp { strand with posted := pend 1 }) (fun s => s.hasTable && !s.me.ordered true true)) = true ∧
    meets (.hresC { d := 4, a := 3 }) (hyp strand) (fun s => (s.gr 3).toNat % 2 ^ 8 == 0) = true := by decide +kernel

/-- A change that slice 0 and core 0 have still to apply. -/
def change (kind node : Nat) : Resolve :=
  { asid := 0, node, kind, old := tree, slicesLeft := [0], coresLeft := [0], core := 0, ctx := 0, op := 1 }

theorem witness_NodeTables :
    let goes := fun (k n : Nat) => match changeOf tree (change k n) with
      | .to _ _ => true
      | _ => false
    let gone := hyp strand [{ change 3 1 with asid := 5 }]
    mwf ({} : Node) tree = true ∧ goes 0 0 = true ∧ goes 0 1 = true ∧ goes 4 2 = true ∧ goes 4 3 = true ∧
    (nodeAt tree 0 1).st = .openNode ∧ (nodeAt tree 0 2).st ≠ .openNode ∧
    ((hyp strand [change 3 1]).part 0 = some { space with nodes := tree, resolves := [change 3 1] } ∧ (change 3 1).slicesLeft.contains 1 = false ∧
      0 ∈ (change 3 1).coresLeft ∧ 0 ∈ (change 3 1).slicesLeft ∧ (hyp strand).vers = []) ∧
    (gone.part 0 = some { space with nodes := tree, resolves := [{ change 3 1 with asid := 5 }] } ∧ gone.allotted 0 5 = false) := by decide +kernel

/-- Four `.n64` elements from `base` on, 8 bytes apart (R207); a translation of the first pages of device DRAM, for all. -/
def desc4 (base : Nat) : BitVec 256 := BitVec.ofNat 256 (base + 8 * 2 ^ 64 + 4 * 2 ^ 96 + 2 ^ 160 + 7 * 2 ^ 192)
def wbuf : Nat := 0xFF00000000000000
def kbuf : Nat := 0xFF000000000C0000
def tlb0 (tgt : Nat) : List TlbEnt := [{ die := 0, pid := 0, asid := 0, level := 3, page := 0, leaf := BitVec.ofNat 64 (0x3F + 2 ^ 9 * tgt), pteAddr := 0x8000 }]

/-- Handle s2 of context 0 bound to a stream over that descriptor. -/
def strm (st : StrmSt) (base : Nat := wbuf) : Strm := { ctx := 0, handle := 2, desc := desc4 base, st, att := true }
def streaming (t : Strm) (k : Ctx := { strand with g := [(1, 0xFF00000000001000), (3, 5), (5, 1)] }) : State := { inPart k with
  tlb := tlb0 0, cores := [(0, { ctxs := [(0, k)], streams := [(0, some t)] })] }
/-- No stream context is free. -/
def drained : State := { inPart { strand with g := [(1, 0xFF00000000001000)] } with
  cores := [(0, { ctxs := [(0, { strand with g := [(1, 0xFF00000000001000)] })], streams := (List.range 32).map (fun j => (j, some { strm .home with ctx := 1, handle := j })) })] }

theorem witness_StreamInstructions :
    let safe := fun (n : Nat) (w : Bool) (s : State) => s.issueFault (s.myWho .strand) (s.gr 1) n n w == none
    let bound := fun (t : Strm) (s : State) => decide (Bound s 2 0 t)
    let op := fun (t : Strm) (p : Bool) (s : State) => bound t s && t.isOpen && p
    let noStream := inPart { strand with g := [(1, 0xFF00000000001000)] }
    let held := streaming (strm .home) { strand with g := [(1, 0xFF00000000001000)], outst := [{ loading .pending with
      i := .sres { a := 2, la := 15 }, iw := (Instr.sres { a := 2, la := 15 }).iw {}, dests := [50] }] }
    [(Instr.sdef { d := 2, a := 1 }, 32), (.sload { d := 2, a := 1 }, 64)].all (fun e =>
      meets e.1 (streaming (strm .home)) (fun s => bound (strm .home) s && safe e.2 false s) &&
      meets e.1 noStream (fun s => !s.strmWait 2 && s.myCore.strmOf s.cx 2 == none && s.myCore.freeStrm == some 0 && safe e.2 false s) &&
      meets e.1 drained (fun s => !s.strmWait 2 && s.myCore.strmOf s.cx 2 == none && s.myCore.freeStrm == none && safe e.2 false s) &&
      meets e.1 held (fun s => s.strmWait 2)) = true ∧
    meets (.sopen { d := 2 }) (streaming (strm .defined)) (bound (strm .defined)) = true ∧
    meets (.sopen { d := 2 }) (streaming (strm .home)) (bound (strm .home)) = true ∧
    meets (.sclose { d := 2 }) (streaming (strm .home)) (bound (strm .home)) = true ∧
    meets (.sclose { d := 2 }) noStream (fun s => !s.strmWait 2 && s.myCore.strmOf s.cx 2 == none) = true ∧
    meets (.sattach { d := 2, a := 1, imm := 7 }) (streaming (strm .defined)) (fun s => bound (strm .defined) s && (strm .defined).ty == 7) = true ∧
    meets (.ssave { d := 2, a := 1 }) (streaming (strm .home)) (fun s => bound (strm .home) s && safe 64 true s) = true ∧
    meets (.ssave { d := 2, a := 1 }) (streaming (strm .floating)) (fun s => bound (strm .floating) s && (strm .floating).isOpen && safe 64 true s) = true ∧
    meets (.ssave { d := 2, a := 1 }) noStream (fun s => !s.strmWait 2 && s.myCore.strmOf s.cx 2 == none && safe 64 true s) = true ∧
    meets (.spop { d := 4, a := 2 }) (streaming (strm .home)) (op (strm .home) (clsOk { d := 4, a := 2 } (strm .home) && decide ((strm .home).pIss < (strm .home).total))) = true ∧
    meets (.spop { d := 4, a := 2 }) (streaming { strm .home with pIss := 4 }) (op { strm .home with pIss := 4 } (decide ((strm .home).total ≤ 4))) = true ∧
    meets (.sstep { d := 4, a := 2, b := 3 }) (streaming (strm .home)) (op (strm .home) (min 5 (strm .home).total == 4)) = true ∧
    meets (.sstep { d := 4, a := 2, o := 1 }) (streaming (strm .home)) (op (strm .home) true) = true ∧
    meets (.ssink { d := 4, a := 2 }) (streaming (strm .home)) (op (strm .home) (strm .home).att) = true ∧
    meets (.sfloat { a := 2 }) (streaming (strm .home)) (op (strm .home) true) = true ∧
    meets (.srecall { a := 2 }) (streaming (strm .floating)) (op (strm .floating) true) = true ∧
    meets (.sres { a := 2 }) (streaming (strm .home)) (op (strm .home) (clsOk { a := 2 } (strm .home))) = true ∧
    meets (.sstat { d := 4, a := 2 }) plain = true := by decide +kernel

/-- Sixty-four streams of two other cores at slice `h`. -/
def floated (t : Strm) (h : Nat) : State :=
  let more := (List.range 32).map (fun j => (j, some { strm .floating with handle := j, slice := h }))
  { streaming t with cores := [(0, { ctxs := [(0, strand)], streams := [(0, some t)] }), (1, { streams := more }), (2, { streams := more })] }

theorem witness_StreamsRun :
    let far := { strm .floating 0x1000 with slice := 31 }
    let h := (streaming far).elemHome far far.next
    let refuted : Strm := { strm .home with node := 3 }
    let sh := { streaming refuted with parts := [(0, some { space with nodes := tree })] }
    let held := fun t : Strm => (streaming t).strm 0 0 = some t
    let back := { strm .recalling with closing := true }
    (3 ≤ ({ strm .home with vals := [1, 2, 3] }).vals.length) ∧ ({ strm .home with att := false }).att = false ∧
    (held (strm .home 0x1000) ∧ ((streaming (strm .home 0x1000)).floatTo 0 (strm .home 0x1000)).isSome = true) ∧
    (held { far with due := 5 } ∧ ¬({ far with due := 5 }).due ≤ (streaming far).cycles) ∧
    (held (strm .hopping) ∧ (strm .hopping).due ≤ (streaming far).cycles) ∧
    ({ far with rolled := true }).rolled = true ∧ far.rolled = false ∧
    (h.isSome = true ∧ h ≠ some 31 ∧ far.next < far.total ∧ far.due ≤ (streaming far).cycles ∧ (streaming far).floated (h.getD 0) < 64 ∧
      64 ≤ (floated far (h.getD 0)).floated (h.getD 0)) ∧
    (sh.elemReadable 0 refuted = true ∧ sh.strmRefuted 0 refuted = true) ∧
    (let t := strm .home kbuf; (streaming t).elemReadable 0 t = true ∧ (streaming t).strmRefuted 0 t = false ∧
        ((streaming t).issueFault (t.who 0) (t.addr 0) t.size t.size false).isSome = true) ∧
    (let t := strm .home; (streaming t).elemReadable 0 t = true ∧ (streaming t).strmRefuted 0 t = false ∧ (streaming t).issueFault (t.who 0) (t.addr 0) t.size t.size false = none ∧
        (((streaming t).afterOwned (t.who 0) (t.addr t.next).toNat).load (t.who 0) wbuf t.size t.lease true).2 = .ok 0) ∧
    (held far ∧ far.st = .floating ∧ ((streaming far).ctx 0 0).outst = []) ∧
    (held (strm .recalling) ∧ (strm .recalling).closing = false ∧ (strm .recalling).due ≤ (streaming far).cycles ∧
      ((streaming (strm .recalling)).ctx 0 0).outst = []) ∧
    (held { strm .recalling with due := 5 } ∧ ¬({ strm .recalling with due := 5 }).due ≤ (streaming far).cycles) ∧
    (held back ∧ back.closing = true ∧ back.ctx ≠ 16 ∧ held { back with ctx := 16 }) ∧
    ((strm .floating).asked = none ∧ (strm .hopping).asked = none) := by decide +kernel

/-- Thirty-two posted stores, and addresses for the three forms in v2. -/
def lanes (n : Nat) (a : Word := 0x1000) : State := with_ { strand with g := [(1, a), (2, 8)], v := [(0x62, 0x800000010)], k := [(0x81, 3)], posted := pend n }
def vm (a : BitVec 6) : Fields := { d := 4, a, b := 2, c := 1, imm := 2 ^^^ 8 }

theorem witness_VectorMemoryAccesses :
    let faults := fun (form : Nat) (f : Fields) (w : Bool) (s : State) => ((List.range 32).filter (fun i => (s.kr 1).getLsbD i)).filterMap
      (fun i => s.issueFault (s.myWho .vector) (laneAddress form f s i) 4 4 w)
    let worn : State := { lanes 0 0xFF00000000000000 with win := { bad := [(0x1FE0000000000001, true)] } }
    let only := fun (l : List Flt) => [cAlign, cWindow, cPerm].all (fun c => (l.find? (fun x => x.1 == c)).isNone) &&
      (l.find? (fun x => x.1 == cUncorrectable)).isSome
    [(Instr.vld (vm 1), 0), (.vldS (vm 1), 1), (.vgather (vm 1), 2)].all (fun e =>
      meets e.1 (lanes 0) (fun s => faults e.2 (vm 1) false s == []) && meets e.1 worn (fun s => only (faults e.2 (vm 1) false s)) &&
      meets e.1 (lanes 0 0x1001) (fun s => ((faults e.2 (vm 1) false s).find? (fun x => x.1 == cAlign)).isSome)) = true ∧
    [(Instr.vst (vm 1), 0), (.vstS (vm 1), 1), (.vscatter (vm 1), 2)].all (fun e =>
      meets e.1 (lanes 31) (fun s => faults e.2 (vm 1) true s == [] && decide (s.me.posted.length < 32)) &&
      meets e.1 (lanes 32) (fun s => faults e.2 (vm 1) true s == [] && decide (32 ≤ s.me.posted.length)) &&
      meets e.1 (lanes 0 0x10000000000000) (fun s => (faults e.2 (vm 1) true s).find? (fun x => x.1 == cAlign) == none &&
        ((faults e.2 (vm 1) true s).find? (fun x => x.1 == cWindow)).isSome)) = true := by decide +kernel

/-- Shape words: one element of one product; no rows; a row past the end of the C buffer. g1 and g2, g3 and g4 name operands in
buffer W; g8 is misaligned. -/
def tiler : Ctx := { strand with
  g := [(1, 0xFF00000000000000), (2, 8), (3, 0xFF00000000001000), (4, 8), (5, BitVec.ofNat 64 (1 + 2 ^ 8 + 2 ^ 16 + 2 ^ 49)), (6, 0),
    (7, BitVec.ofNat 64 (1 + 2 ^ 8 + 2 ^ 16 + 0x18000 * 2 ^ 32 + 2 ^ 49)), (8, 0xFF00000000000001), (9, 8),
    (10, 0xFE00000000000000), (11, 8)] }
/-- With `n` tile instructions at the unit. -/
def unit (n : Nat) : State := { inPart tiler with cores := [(0, { ctxs := [(0, tiler)], mtx := List.replicate n (1, 0) })] }

theorem witness_TileInstructions :
    let m := fun d a : BitVec 6 => ({ d, a, b := 3 } : Fields)
    let minors := fun f : Fields => [(Instr.mmaF64F64 f, 0), (.mmaF32F32 f, 1), (.mmaBf16F32 f, 2), (.mmaF16F32 f, 3), (.mmaBf16Bf16 f, 4),
      (.mmaF16F16 f, 5), (.mmaE4m3F32 f, 6), (.mmaE5m2F32 f, 7), (.mmaE4m3Bf16 f, 8), (.mmaE5m2Bf16 f, 9), (.mmaDy8F32 f, 10), (.mmaDy8Bf16 f, 11),
      (.mmaI8I32 f, 12)]
    let spans := fun (a : Nat) (ty : Nat) (w : Bool) (s : State) => s.spanFaults (s.myWho .matrix) (s.gReg a) (s.gReg (a + 1)) (tyBits ty / 8) 0 0 0 0 w
    let ok := fun (k : Nat) (n : Nat) (s : State) => (tileOf (s.gr 5)).fault s.cur (tyBits (mmaTy k).2.2 / 8) == none &&
      spans 1 (mmaTy k).1 false s == [] && spans 3 (mmaTy k).2.1 false s == [] && decide (s.myCore.mtx.length = n)
    (minors (m 5 1)).all (fun e => meets e.1 (unit 15) (ok e.2 15) && meets e.1 (unit 16) (ok e.2 16)) = true ∧
    (minors (m 6 1)).all (fun e => meets e.1 (unit 0) (fun s => ((tileOf (s.gr 6)).fault s.cur (tyBits (mmaTy e.2).2.2 / 8)) == some (cIllegal, 0))) = true ∧
    (minors (m 7 1)).all (fun e => meets e.1 (unit 0) (fun s => ((tileOf (s.gr 7)).fault s.cur (tyBits (mmaTy e.2).2.2 / 8)).any (fun e => e.1 == cWindow))) = true ∧
    meets (.mmaF64F64 (m 5 8)) (unit 0) (fun s => firstKind (spans 8 8 false s) == some (cAlign, 0xFF00000000000001)) = true ∧
    [Instr.tld { d := 5, a := 1, imm := 0x1008 }, .tzero { d := 5, imm := 8 },
      .tout { d := 5, a := 1, b := 3 }].all (fun i => meets i (unit 15) (ok 0 15) && meets i (unit 16) (ok 0 16)) = true ∧
    [15, 16].all (fun n => meets (.tst { d := 5, a := 10, imm := 0x1008 }) (unit n) (fun s => ok 0 n s && spans 10 8 true s == [])) = true ∧
    meets (.tst { d := 5, a := 1, imm := 0x1008 }) (unit 0) (fun s => firstKind (spans 1 8 true s) == some (cPerm, 0xFF00000000000000)) = true ∧
    meets (.tprog { d := 10 }) (unit 0) = true := by decide +kernel

theorem witness_MatrixAccumulation : (∀ x ∈ [255, 128] ++ [1, 127], x < 2 ^ 8) ∧ 11 < 12 ∧ ([1] : List Nat) ≠ [] ∧
    ([FVal.fin true 0 0, .fin false 3 (-1)].all (fun x => match x with
      | .fin _ _ _ => true
      | _ => false)) = true := by decide +kernel

/-- A task of one sub-tile over zeros: `.f64` elements in cluster memory. -/
def task (st : TaskSt) (commit : Nat := 0) : TileTask :=
  { ticket := 1, core := 0, ctx := 0, addr := 0x1000, st, commit
    rcd := BitVec.ofNat 1024 (1 + 2 ^ 16 + 2 ^ 32 + 0xFE00000000000000 * 2 ^ 64 + 8 * 2 ^ 128 + 0xFE00000000001000 * 2 ^ 192 +
      8 * 2 ^ 256 + 0xFE00000000002000 * 2 ^ 320 + 8 * 2 ^ 384) }
def tasked (l : List TileTask) (k : Ctx := { strand with g := [(1, 1), (6, 0x1000)] }) : State := { inPart k with
  clusters := [(0, { tasks := l })] }
/-- The task with a sub-tile on core 0's unit. -/
def onUnit (got row : Nat) : TileTask := { task .running with subs := [{ num := 0, core := 0, sent := got, got, row }], next := 1 }
/-- A tile load of one element that is started, from a word and from a hole. -/
def loadTile (a : Word) : DetOp := { tiling with
  i := .tld { d := 5, a := 1, imm := 0x1008 }, iw := (Instr.tld { d := 5, a := 1, imm := 0x1008 }).iw {}, started := true, left := 1
  caps := { od := BitVec.ofNat 1024 (1 + 2 ^ 8 + 2 ^ 16), o1 := packOp a 8 (BitVec.allOnes 128), o2 := packOp 0 0 (BitVec.allOnes 128) } }

theorem witness_TileTasks :
    let s := outstanding tiling
    let t := { outstanding tiling with cores := [(0, { ctxs := [(0, { strand with outst := [tiling] })], mtx := [(0, 1)] })] }
    let p := { tiling with i := .tprog { d := 10 }, iw := (Instr.tprog { d := 10 }).iw {} }
    let run := tasked [task .running]
    let at_ := fun d : TileTask => (tasked [d]).task 0 0 = some d ∧ d.st = .running ∧ d.fb = []
    let here := fun d : TileTask => d.subs.find? (fun b => b.core == 0)
    let caught := { tasked [onUnit 0 0] with cores := [(0, { ctxs := [(0, strand)], ring := [(1, 0)] })] }
    let stopped := { task .running with fb := [0] }
    meets (.tpost { d := 4, a := 6 }) (tasked []) (fun s => s.taskRoom s.cur) = true ∧
    meets (.tpost { d := 4, a := 6 }) (tasked (List.replicate 16 (task .posted))) (fun s => !s.taskRoom s.cur) = true ∧
    [(Instr.tpostRes, (1 : BitVec 2)), (.tpostCan, 2)].all (fun e =>
      meets e.1 (holding (tasked []) e.1 { d := 4, a := 1, o := e.2 }) (fun s => s.me.ordered true true && s.pausedTask (s.gr 1).toNat == none) &&
      meets e.1 (holding (tasked [{ task .paused with op := some 3 }]) e.1 { d := 4, a := 1, o := e.2 })
        (fun s => s.me.ordered true true && s.pausedTask (s.gr 1).toNat == some 0 && (s.task 0 0).any (·.op.isSome))) = true ∧
    (s.det 0 0 1 = some tiling ∧ isTile tiling.op = true ∧ t.tileReady 0 0 tiling = true) ∧
    ((outstanding p).det 0 0 1 = some p ∧ p.op = 0x2D5 ∧ (outstanding p).tprogReady 0 0 p = true) ∧
    ((loadTile 0xFF00000000000000).started = true ∧ 0 < (loadTile 0xFF00000000000000).left ∧
      ((inPart strand).tileUnit 0 0 (loadTile 0xFF00000000000000)).flt = none ∧
      ((inPart strand).tileUnit 0 0 (loadTile 0x10000000000000)).flt = some (cWindow, 0x10000000000000)) ∧
    (tasked [task .posted]).taskAcceptable 0 0 = true ∧
    ((tasked [task .accepted]).task 0 0 = some (task .accepted) ∧ (tasked [task .accepted]).depsFull (task .accepted) = .ok true) ∧
    (at_ (task .running) ∧ here (task .running) = none ∧ (task .running).next < (task .running).total ∧ run.unitFree 0 0 = true ∧
      (match fetchPanels run (task .running) ((task .running).panels 0) [] with
        | (_, .ok _) => true
        | _ => false) = true) ∧
    (at_ (onUnit 0 0) ∧ (here (onUnit 0 0)).isSome = true ∧ caught.task 0 0 = some (onUnit 0 0) ∧
      (caught.core 0).ring.filter (fun e => e.1 == (onUnit 0 0).ticket) ≠ [] ∧
      ((tasked [onUnit 0 0]).core 0).ring.filter (fun e => e.1 == (onUnit 0 0).ticket) = [] ∧ 0 < (onUnit 0 0).msgs 0) ∧
    (at_ (onUnit 1 0) ∧ (onUnit 1 0).msgs 0 ≤ 1 ∧ 0 < (onUnit 1 0).blocks 0 ∧
      ((tasked [onUnit 1 0]).subBlock (onUnit 1 0) { num := 0, core := 0, sent := 1, got := 1 }).flt = none) ∧
    (at_ (onUnit 1 1) ∧ (onUnit 1 1).blocks 0 ≤ 1 ∧ 0 = (onUnit 1 1).commit ∧
      ((tasked [onUnit 1 1]).subCommit (onUnit 1 1) { num := 0, core := 0, sent := 1, got := 1, row := 1 }).2 = none) ∧
    ((tasked [stopped]).task 0 0 = some stopped ∧ (tasked [stopped]).taskFlt 0 0 0 = some (cOverdue, 0) ∧ stopped.subs = [] ∧ stopped.fb ≠ []) ∧
    (tasked [task .ended]).task 0 0 = some (task .ended) ∧
    ((task .running 1).total ≤ 1 ∧ (task .running 1).addrAt 640 = 0) := by decide +kernel

/-- A `tprog` whose tile state fails its check. -/
def counting : DetOp := { tiling with i := .tprog { d := 10 }, iw := (Instr.tprog { d := 10 }).iw {} }
def tileWorn : State := with_ { strand with outst := [counting], badTile := 3 }

/-- The tile state of `tprog` and of what it counts fails its check. -/
theorem witness_TileTasksOfBadState : tst ((outstanding counting).ctx 0 0).badTile 1 = false ∧ tileWorn.det 0 0 1 = some counting ∧ counting.op = 0x2D5 ∧ tileWorn.tprogReady 0 0 counting = true ∧
    tst (tileWorn.ctx 0 0).badTile 1 = true ∧ tiling.started = false ∧ tst (tileWorn.ctx 0 0).badTile 0 = true := by decide +kernel

/-- g1 at a record in buffer W, g6 at one in a page that `tgt` places. -/
def copier (cmds : List CopyCmd) (tgt : Nat := 0)
    (k : Ctx := { strand with g := [(1, 0xFF00000000000000), (2, 8), (6, 0x1000), (7, 0x10000000000000)] }) : State := { inPart k with
  clusters := [(0, { cmds })], tlb := tlb0 tgt, cycles := 1000 }
def cmd (st : CopySt) : CopyCmd := { core := 0, ctx := 0, op := some 1, minor := 0, addr := 0xFF00000000000000, st }
def begun : CopyCmd := { cmd .arriving with started := true }
/-- A command of one run of 8 bytes from `src`. -/
def eight (src : Nat) : CopyCmd := { cmd .read with rcd := BitVec.ofNat 1024 (src + 8 * 2 ^ 192), recv := [(0xFF00000000001000, 0)] }
/-- A running command with a write to `a` to make. -/
def writing (a : Nat) : CopyCmd := { eight wbuf with st := .running, pend := [{ addr := a, n := 8, v := 1, ok := true, rcv := 0 }] }

theorem witness_CopyEngine :
    let room := fun s : State => s.copyRoom s.cur
    let ok := fun (a : BitVec 6) (s : State) => decide ((s.gr a).toNat % 128 = 0) && (spaceOf (s.gr a).toNat != .none) &&
      !s.hostAt (s.myWho .strand) (s.gr a).toNat
    let a := arrived (copier [cmd .arriving]) (.arrive 0 0 0 0xFF00000000000000 4)
    let runs := fun d : CopyCmd => decide (d.run < d.runs) && (match copyRun (copier [d]) d d.run with
      | (_, .ok _) => true
      | (_, .error _) => false)
    let goes := fun d : CopyCmd => (copier [d]).cmd 0 0 = some d ∧ d.st = .running ∧ d.pend ≠ [] ∧ d.due ≤ 1000
    let sends := fun r : Word × Word => ({ begun with recv := [r] } : CopyCmd)
    [Instr.cpy { d := 4, a := 1 }, .cpyb { d := 4, a := 1 }, .mcast { d := 4, a := 1 }].all (fun i =>
      meets i (copier (List.replicate 7 (cmd .accepted))) (fun s => ok 1 s && room s) &&
      meets i (copier (List.replicate 8 (cmd .accepted))) (fun s => ok 1 s && !room s)) = true ∧
    [Instr.cpy { d := 4, a := 2 }, .cpyb { d := 4, a := 2 }, .mcast { d := 4, a := 2 }].all (meets · (copier [])
      (fun s => decide ((s.gr 2).toNat % 128 ≠ 0))) = true ∧
    [Instr.cpy { d := 4, a := 7 }, .cpyb { d := 4, a := 7 }, .mcast { d := 4, a := 7 }].all (meets · (copier [])
      (fun s => decide ((s.gr 7).toNat % 128 = 0) && (spaceOf (s.gr 7).toNat == .none))) = true ∧
    [Instr.cpy { d := 4, a := 6 }, .cpyb { d := 4, a := 6 }, .mcast { d := 4, a := 6 }].all (fun i =>
      meets i (copier [] 2) (fun s => s.hostAt (s.myWho .strand) (s.gr 6).toNat && (spaceOf (s.gr 6).toNat != .none)) &&
      meets i (copier []) (fun s => ok 6 s && room s)) = true ∧
    ((copier [cmd .accepted]).cmd 0 0 = some (cmd .accepted) ∧ (copier [cmd .accepted]).copyAcceptable 0 0 = true) ∧
    ((copier [cmd .read]).copyStartable 0 0 = true ∧ (cmd .read).hsOf = none ∧ (cmd .read).hdOf = [] ∧ (cmd .read).runs ≤ (cmd .read).run) ∧
    (runs (eight wbuf) = true ∧ (eight 0x10000000000000).run < (eight 0x10000000000000).runs ∧ runs (eight 0x10000000000000) = false) ∧
    (({ writing wbuf with pend := [] } : CopyCmd).st = .running ∧ (copier []).sourceHeld (writing wbuf) 0 = false) ∧
    (goes (writing wbuf) ∧ (copyWrite (writing wbuf) (writing wbuf).pend (copier [writing wbuf])).2 = ([], none) ∧
      goes (writing 0x10000000000000) ∧
      (copyWrite (writing 0x10000000000000) (writing 0x10000000000000).pend (copier [writing 0x10000000000000])).2.2 = some cWindow) ∧
    (begun.st = .arriving ∧ begun.started = true ∧ begun.status = 0 ∧ begun.recv.all (·.2 == 0) = true) ∧
    ((sends (0, 0xFF00000000002000)).recv = [(0, 0xFF00000000002000)] ∧ spaceOf 0xFF00000000002000 ≠ .none ∧
      ((copier [sends (0, 0xFF00000000002000)]).updCmd 0 0 (fun d => { d with st := .done })).engFault
        { (sends (0, 0xFF00000000002000)).who with node := 0 } 0xFF00000000002000 16 true false true = none ∧
      (copier []).maskOk 0 0xFF00000000002000 = true ∧ (16 : Word).toNat < 2 ^ 52) ∧
    (nth a.net 0 = some (packet (.arrive 0 0 0 0xFF00000000000000 4)) ∧ a.performable 0 = true ∧ a.cHeld wbuf 16 0 4096 16 = false ∧
      a.win.firstBad wbuf 16 = none ∧ ((a.dropPkt 0).syncArrive wbuf 4).isSome = true) ∧
    ((copier [cmd .done]).copyComplete 0 0 = true ∧ (cmd .done).gone = false ∧ (cmd .done).op = some 1 ∧
      (copier [{ cmd .done with gone := true }]).copyComplete 0 0 = true ∧ (copier [{ cmd .done with op := none }]).copyComplete 0 0 = true) := by
  decide +kernel

/-- A strand whose fault records lie in a page that is mapped; g registers for the system instructions. -/
def supervisor : Ctx := { strand with
  frec := 0x2000, g := [(1, 0x1000), (2, 0x10000), (3, 0xF000), (4, 1), (5, 0xFFFFFFFF0000), (6, 0x10000000000000), (7, 7), (8, 0x40000), (9, 0x20)] }
def system (k : Ctx := supervisor) : State := { inPart k with tlb := tlb0 0 }
/-- Another strand in context 1 of the same core, so that g1's context hears an interrupt; core 1 is unavailable. -/
def heard : State := { system with cores := [(0, { ctxs := [(0, supervisor), (1, strand)] }), (1, { unavailable := true })] }

theorem witness_TrapsInterruptsTranslations :
    let rel := fun s : State => s.me.ordered true true
    let told : Retiring := { due := 0, ctx := 0, act := .ipi 0 1 2 9, info := { code := 0 } }
    let acts := fun s : State => ((s.updCore 0 (fun k => { k with retiring := [told] })).core 0).retiring
    let unrel := system { supervisor with posted := pend 1 }
    let x := fun (i : Instr) (f : Fields) (s : State) => holding s i f
    let pages := fun (a n : BitVec 6) (s : State) => decide ((s.gr a).toNat % 2 ^ 16 = 0 ∧ (s.gr n).toNat % 2 ^ 16 = 0 ∧
      (s.gr a).toNat + (s.gr n).toNat ≤ 2 ^ 52)
    meets (.trap { imm := 0xFFFF }) user = true ∧
    meets .halt (holding system .halt) (fun s => s.me.outst == [] && s.me.posted == []) = true ∧
    meets .halt (holding unrel .halt) (fun s => s.me.posted != []) = true ∧
    meets (.ipi { d := 9, a := 1, b := 2 }) heard (fun s => rel s && s.me.lvl != 1 && !s.unavail 0) = true ∧
    (acts heard = [told] ∧ (heard.ctx 0 1).st ≠ .free ∧ acts system = [told] ∧ (system.ctx 0 1).st = .free) ∧
    meets (.ipi { d := 9, a := 4, b := 2 }) heard (fun s => rel s && s.unavail 1) = true ∧
    meets (.ipi { d := 8, a := 9, b := 2 }) (system { supervisor with lvl := 1 }) (fun s => rel s && !s.unavail 0x20 && s.me.lvl == 1 &&
      !s.inPart (s.pidOf s.cur) 0x20) = true ∧
    meets (.ipi { d := 9, a := 1, b := 2 }) unrel (fun s => !rel s) = true ∧
    meets (.xinv { a := 1, b := 2 }) system (fun s => rel s && decide (0 < (s.gr 2).toNat ∧ (s.gr 1).toNat + (s.gr 2).toNat ≤ 2 ^ 52)) = true ∧
    meets (.xinv { a := 1 }) system (fun s => rel s && s.gr 0 == 0) = true ∧
    meets (.xinv { a := 6, b := 4 }) system (fun s => rel s && decide (2 ^ 52 < (s.gr 6).toNat + (s.gr 4).toNat)) = true ∧
    meets .xinvAll (x .xinvAll { a := 1, b := 2, o := 1 } system) (fun s => rel s && decide (0 < (s.gr 2).toNat)) = true ∧
    meets (.rmodeCoh { a := 2, b := 8 }) system (fun s => rel s && pages 2 8 s) = true ∧
    meets (.rmodeCoh { a := 1, b := 8 }) system (fun s => rel s && decide ((s.gr 1).toNat % 2 ^ 16 ≠ 0)) = true ∧
    meets .rmodeSw (x .rmodeSw { a := 2, b := 8, o := 1 } system) (fun s => rel s && pages 2 8 s && s.gr 8 != 0) = true ∧
    meets .rmodeSw (x .rmodeSw { a := 2, o := 1 } system) (fun s => rel s && pages 2 0 s && s.gr 0 == 0) = true := by decide +kernel

/-- A map of one cell that core 0 hosts, at 0x1000 of DRAM (R331). -/
def mapBytes : Mem := Mem.write {} 0x1000 (1 + 2 ^ 32 + 2 ^ 128 * 0 + (xyz 0 0 0).toNat * 2 ^ 192 + (xyz 64 64 64).toNat * 2 ^ 256) 48

/-- Whether a read succeeds. -/
def read {α : Type} (r : State × Except Flt α) : Bool :=
  match r.2 with
  | .ok _ => true
  | .error _ => false

theorem witness_MasksMapsTestsAndContexts :
    let rel := fun s : State => s.me.ordered true true
    let whole := fun s : State => !((s.part (s.pidOf s.cur)).map (·.splitting)).getD false
    let mapped := { system with dram := mapBytes }
    let save := system { supervisor with depth := 1 }
    let lines := fun s : State => (List.range 5).map (fun j => s.lineLoc (s.pidOf s.cur) s.me.asid.toNat ((s.gr 1).toNat + 64 * j))
    let unread := { system with cores := [(0, { ctxs := [(0, supervisor)], streams := [(0, some { strm .home 0x1000 with pIss := 2 })] })] }
    meets (.pmask { a := 1 }) system (fun s => rel s && s.inPart (s.pidOf s.cur) 0 && read (s.readChecked (s.myWho .strand) (s.gr 1) 512 64 3)) = true ∧
    meets (.scset { a := 1 }) system (fun s => rel s && s.accessFault (s.myWho .strand) (s.gr 1) 256 256 false == none &&
      decide ((s.gr 1).toNat % 2 ^ 8 = 0) && read (s.scopesAt (s.myWho .strand) (s.gr 1).toNat)) = true ∧
    meets (.cellset { d := 9, a := 1 }) mapped (fun s => rel s && whole s && s.issueFault (s.myWho .strand) (s.gr 1) 64 64 false == none &&
      read (s.readMap (s.myWho .strand) (s.pidOf s.cur) (s.gr 1).toNat)) = true ∧
    meets .cellsetOff (holding system .cellsetOff { d := 9, o := 1 }) (fun s => rel s && whole s && !s.anyBound (s.pidOf s.cur)) = true ∧
    meets (.hwtest { d := 9, a := 0 }) system (fun s => rel s && decide ((s.gr 0).toNat % 2 ^ 8 ≤ 6)) = true ∧
    meets (.hwtest { d := 9, a := 7 }) system (fun s => rel s && decide (6 < (s.gr 7).toNat % 2 ^ 8)) = true ∧
    meets (.ctxsave { a := 1 }) system (fun s => rel s && s.me.pushed == 0 && !tst s.me.badTile 0 &&
      !s.heldBy s.cur s.snapshot (lines s).contains && ((s.aliasRoll (lines s).contains).writeChecked (s.myWho .strand) (s.gr 1) 256 8 s.saveImage 3).2 == none) = true ∧
    meets (.ctxsave { a := 1 }) unread (fun s => rel s && s.me.pushed == 0 && !tst s.me.badTile 0 &&
      s.heldBy s.cur s.snapshot (lines s).contains) = true ∧
    meets (.ctxsave { a := 1 }) (system { supervisor with badTile := 1 }) (fun s => rel s && s.me.pushed == 0 && tst s.me.badTile 0) = true ∧
    meets (.ctxsave {}) save (fun s => s.me.depth == 1) = true ∧
    meets (.ctxsave { a := 1 }) (system { supervisor with pushed := 1 }) (fun s => rel s && s.me.pushed != 0) = true ∧
    meets (.ctxload { a := 1 }) system (fun s => rel s && match s.readChecked (s.myWho .strand) (s.gr 1) 256 8 3 with
      | (t, .ok v) => saveOk t.cx v && read ((t.loadImage v).scopesAt (t.hwWho t.cur t.cx) (t.loadImage v).me.scopeTab.toNat)
      | _ => false) = true := by decide +kernel

/-- The first record and the sixteenth. -/
theorem witness_TrapEntrySavesAndVectors :
    let s := fun d : BitVec 4 => system { supervisor with lvl := 0, depth := d }
    let f : FaultInfo := { code := cAlign, addr := 8 }
    (s 0).me.rett = none ∧ (s 0).me.sat = false ∧ (s 0).me.noFrec = false ∧ (s 15).me.depth.toNat + 1 ≤ 16 ∧ f.code ≠ cUncorrectable ∧
    (writeChain (s 0) 0 false 8 [f]).2 = none ∧ (writeChain (s 15) 15 false 8 [f]).2 = none := by decide +kernel

/-- A record that replays nothing, one marked skip, and one that replays a load. -/
def record (v : Nat) : State := { system { supervisor with depth := 1 } with dram := Mem.write {} 0x2000 v 128 }

theorem witness_ReturnFromTrap :
    let rec1 := fun v : Nat => match (record v).readRecord 0 with
      | (_, .ok r) => some r
      | _ => none
    let load := ((Instr.ldB f1).iw {}).toNat * 2 ^ 128
    meets .rett (holding system .rett) (fun s => s.me.depth == 0 && !s.me.sat) = true ∧
    meets .rett (holding (system { supervisor with depth := 1, posted := pend 1 }) .rett) (fun s => s.me.depth != 0 && s.me.posted != []) = true ∧
    meets .rett (holding (record 0) .rett) (fun s => s.me.depth != 0 && s.me.posted == [] &&
      (s.popRecords 16).2 == none) = true ∧
    (rec1 0).any (fun r => r.f.iw == 0 && !r.chn) = true ∧ (rec1 (load + 2 ^ 15)).any (fun r => r.f.skip && !r.chn) = true ∧
    (rec1 load).any (fun r => !r.f.skip && r.f.iw != 0) = true := by decide +kernel

/-! What holds instructions back, events, the whole machine. -/

/-- Contexts that may not run the major, at levels that may not run the minor. -/
theorem witness_WhatHoldsInstructionsBack :
    let at_ := fun (x : Nat) (l : BitVec 2) => ({ plain with cx := x, cores := [(0, { ctxs := [(x, { strand with lvl := l })] })] } : State)
    let ok := fun (s : State) (i : Instr) => (i.shape s.flds).any (fun sh => s.me.st == .ready && s.gate sh == .go)
    let empty := with_ { strand with fe := [(1, false)] }
    let bare := fun w : IWord => ({ plain with iw := w } : State)
    (ok (at_ 0 0) (.bsGet f1) = true ∧ legalHere 0 0x3B0 = false) ∧ (ok (at_ 15 0) (.ldM f1) = true ∧ legalHere 15 0x3C7 = false) ∧
    (ok (at_ 0 0) (.pmask f1) = true ∧ legalHere 0 0x3E6 = true ∧ 0x3E6 / 16 = 0x3E) ∧
    (ok (at_ 0 1) (.hwtest f1) = true ∧ ok (holding (at_ 0 1) .xinvAll { o := 1 }) .xinvAll = true) ∧
    (∃ body, ∀ u, exec (.add f2) u = issue (.add f2) u body) ∧
    (empty.me.st = .ready ∧ empty.ipiDue = false ∧ empty.overdue = none ∧ empty.me.ending = false ∧ empty.me.faults = [] ∧ empty.me.pos = none ∧ empty.me.rett = none ∧
      empty.myEff.isSome = true ∧ empty.me.outst = [] ∧ empty.full 0 0 1 = false ∧
      ((Instr.add f2).shape {}).any (fun sh => (readsOf sh).contains (1, .plain)) = true) ∧
    (plain.gate (noShape 0xFFF) = .go ∧ legalHere 0 0xFFF = true) ∧ (plain.gate (noShape 0xFFE) = .go ∧ legalHere 0 0xFFE = true ∧ (bare 1).iw ≠ 0 ∧ (bare 0).iw = 0) ∧
    (let s := with_ { strand with pc := 0x10000000000002 };
      (match s.fetch 0 0 with
        | (t, .error _) => t.gate (noShape 0) == .go
        | _ => false) = true ∧ legalHere 0 0 = true) := by
  refine ⟨?_, ?_, ?_, ?_, ⟨_, fun _ => rfl⟩, ?_, ?_, ?_, ?_⟩ <;> decide +kernel

/-- An interrupt that is due for a strand waiting for a register that is empty. -/
def waiting (k : Ctx) : State := { with_ { k with st := .waiting (.reg 4) 0, fe := [(4, false)] } with cycles := 8 }

theorem witness_ContextEvents :
    let w := fun s : State => (s.ctx 0 0).st = .waiting (.reg 4) 0 ∧ s.waitOver 0 0 (.reg 4) = false ∧ (s.ctx 0 0).faults = []
    let ready := with_ { strand with faults := [{ code := cAlign }] }
    let k1 : L1Line := { st := .S, mask := 0, data := 0 }
    let named := fun n : Nat => ({ with_ strand with
      cycles := 8, cores := [(0, { ctxs := [(0, { strand with st := .waiting (.reg 4) n, fe := [(4, false)] })], preempt := some 0, preemptAt := 3 })] } : State)
    let full : State := { system with cycles := 100, cores := [(0, {
      ctxs := (List.range 16).map (fun x => (x, { strand with mt := { prio := 0 } })), deque := [{ slot := 0, mt := { prio := 5 } }] })] }
    (WaitWhy.reg 4).suspends = false ∧
    ((ready.ctx 0 0).st = .ready ∧ (ready.ctx 0 0).busyTill ≤ ready.cycles ∧ (ready.ctx 0 0).ending = false ∧ (ready.ctx 0 0).faults ≠ []) ∧
    (w (waiting { strand with ipend := true, ien := true, lvl := 0 }) ∧ (waiting { strand with ipend := true, ien := true, lvl := 0 }).ipiDue = true) ∧
    (w (named 0) ∧ ((named 0).core 0).preempt = some 0 ∧ 0 ≤ ((named 0).core 0).preemptAt) ∧
    (((named 4).ctx 0 0).st = .waiting (.reg 4) 4 ∧ ((named 4).core 0).preempt = some 0 ∧ ((named 4).core 0).preemptAt < 4) ∧
    ((waiting strand).core 0).preempt ≠ some 0 ∧
    ((full.core 0).preempt = none ∧ full.freeContext 0 = none ∧ (full.victim 0 5).isSome = true) ∧
    (plain.ctx 0 0).st ≠ .free ∧
    leaseOver (BitVec.ofNat 8 1) 0 = true ∧ ({ data := 0 } : SLine).pinned = false ∧ k1.pinned = false := by decide +kernel

/-- A launch record: one strand to start at 0x200002, placed by rotation; on context 15 when `kind1`. -/
def launchRec (kind1 : Bool) : BitVec 1024 := BitVec.ofNat 1024 (1 + (if kind1 then 2 ^ 39 else 0) + 0x200002 * 2 ^ 64 + 2 ^ 128)
def launching (l : Launch) (k : Ctx := {}) : State := { inPart k with ev := { seq := 1 }, launches := [(1, some l)], tlb := tlb0 0 }
/-- A queue of 16 records at 0x110000 whose first is submitted; an event ring of 16 at 0x120000. -/
def queue : State := { inPart {} with
  tlb := tlb0 0, dram := (Mem.write {} 0x100000 (0x110000 + 4 * 2 ^ 64 + 2 ^ 96 + 0x120000 * 2 ^ 192 + 4 * 2 ^ 256) 64).write 0x110080 1 4 }

theorem witness_LaunchesRun :
    let l : Launch := { rcd := launchRec false }
    let told : Part := { space with events := [{ kind := 4 }] }
    let who := system.rhizoid 0 true
    let dead := 0x1000 + 64 * 2 ^ 64
    (queue.part 0 = some space ∧ seqReached (queue.ctrl 0 96 32) ((queue.ctrl 0 128 32 + 1) % 2 ^ 32) = true ∧
      (match queue.readAt (queue.rhizoid 0 false) 0x110080 128 3 with
        | (_, .ok v) => v % 2 ^ 32 == 1
        | _ => false) = true ∧ queue.ctrl 0 0 64 + 128 * (1 % 2 ^ queue.ctrl 0 64 5) = 0x110080) ∧
    ((launching l).launchAt 0 1 = some l ∧ l.pushed < lrCount l.rcd ∧ (launching l).nextCore 0 l = some 0 ∧ lrKind1 l.rcd = false ∧
      ((launching l).core 0).deque.length < 256 ∧ l.rcd.toNat / 2 ^ 576 % 2 ^ 16 = 0 ∧ l.prefetched = false ∧ l.ended = false) ∧
    (lrKind1 (launchRec true) = true ∧ 0 < lrCount (launchRec true) ∧ (launching { l with rcd := launchRec true }).nextCore 0 { l with rcd := launchRec true } = some 0 ∧
      (launching l).ctxFree 0 15 = true) ∧
    (lrCount l.rcd ≤ 1 ∧ (launching { l with pushed := 1 }).strandLeft 0 1 = false ∧ l.rcd.toNat / 2 ^ 592 % 2 ^ 16 = 0) ∧
    (system.redirect who.pid who.asid 0x1000 .read who.user = (system, .ok (0, 0x1000)) ∧ system.lineTgt (lineKey who.pid 0 0x1000) = 0 ∧
      ({ system with tlb := tlb0 2 } : State).lineTgt (lineKey who.pid 0 0x1000) = 2) ∧
    (dead / 2 ^ 64 % 2 ^ 32 ≠ 0 ∧ dead % 2 ^ 6 = 0 ∧ dead / 2 ^ 64 % 2 ^ 6 = 0 ∧ (inPart strand).issueFault who 0x1000 64 64 true = none ∧
      (discLines who (inPart strand) (rangeOf 0x1000 64)).2 = some cXlate) ∧
    (told.events.find? (fun e => !(e.kind == 1 && queue.storesLeft 0 e.lseq)) = some { kind := 4 } ∧
      (queue.ctrl 0 288 32 + 2 ^ 32 - queue.ctrl 0 320 32) % 2 ^ 32 < 2 ^ queue.ctrl 0 256 5) ∧
    (fld (0 : BitVec 1024) 128 32 = 0 ∧ 2 ≤ fld (launchRec false ||| BitVec.ofNat 1024 (2 ^ 38)) 37 2 ∧
      fld (launchRec false ||| BitVec.ofNat 1024 (2 ^ 45)) 45 19 ≠ 0 ∧ ¬targetOk (BitVec.ofNat 64 0x200000) ∧
      (launchRec false ||| BitVec.ofNat 1024 (2 ^ 40)).getLsbD 40 = true ∧ (launchRec false ||| BitVec.ofNat 1024 (2 ^ 40)).getLsbD 44 = false) := by
  decide +kernel

/-- A request for the word at 0x1000 of DRAM, whose line a slice holds as given. -/
def lined (k : ReqKind) (sl : SLine) (t : Nat := 0) : State := { arrived system (.mem 0 0 1 { req k with ea := 0x1000 }) with
  slices := [(lineKey 0 0 0x1000, some sl)], tlb := tlb0 t, ev := { key := lineKey 0 0 0x1000 }, bring := [(1, 7)] }
def clean : SLine := { data := 0 }
def copied (l : L1Line) : State := { system with cores := [(0, { l1 := [(lineKey 0 0 0x1000, some l)] })], ev := { key := lineKey 0 0 0x1000 } }

/-- R384: the worked example, a request of three flits from device 0x12 to device 0x340 with sequence number 7. -/
theorem test_mirrin_header :
    (MirrinHead.pack { cls := 2, len := 2, cmp := false, dst := 0x340, src := 0x12, seq := 7, pid := 0, asid := 0, core := 0, ctx := 0, hck := 0 }).toNat
      = 0x000700012003400A ∧ (mirrinHead 0x24).invalid = true ∧ (mirrinHead 0x20).invalid = false := by decide +kernel

/-- R377: a word of an L1 copy that fails its check faults its reader; a store of the whole word clears it, one of a byte faults. -/
theorem test_bad_copy :
    let s := fun n : Nat => ({ lined .load { clean with dir := .M, sharers := [0], owner := some 0 } with
      cores := [(0, { l1 := [(lineKey 0 0 0x1000, some { st := .M, mask := BitVec.allOnes 64, data := 0, bad := BitVec.ofNat 8 n })] })] } : State)
    isFlt ((s 1).perform 0 0 0 .strand (lineReq .load)).2 = true ∧ isOk ((s 2).perform 0 0 0 .strand (lineReq .load)).2 = true ∧
    isFlt ((s 1).perform 0 0 0 .strand { lineReq .store with n := 1 }).2 = true ∧
    ((((s 1).perform 0 0 0 .strand (lineReq .store)).1.l1 0 (lineKey 0 0 0x1000)).map (·.bad)) = some 0 := by decide +kernel

/-- A modified line and a partition whose host memory reaches past it. -/
def dirtyLine : L1Line := { st := .M, mask := BitVec.allOnes 64, dirty := 1, data := 0 }
def farPart : PartSpec := { space.spec with hdm := 0x10000 }
def hosted (a : AccKind := .read) (image : List Byte := []) : State := { lined .load clean with
  parts := [(0, some { spec := farPart })], ev := { key := lineKey 0 0 0x1000, acc := a, va := 0x1000, image } }

/-- A line that a core holds in a piece of its own, which it extends. -/
def piece : L1Line := { st := .P, mask := 1, data := 0 }
def pieces : SLine := { clean with dir := .P, sharers := [0] }

/-- A directory entry and a table whose first entry maps a page of the largest size; translations held of a synonym and its
primary. -/
def tables : Mem := (Mem.write {} 0 0x1001 8).write 0x1000 0x3F 8
def synonym : List TlbEnt := [
  { die := 0, pid := 0, asid := 0, level := 3, page := 0, leaf := BitVec.ofNat 64 (0x3F + 3 * 2 ^ 9 + 2 ^ 34), pteAddr := 0x8000 },
  { die := 0, pid := 0, asid := 0, level := 3, page := 1, leaf := 0x3F, pteAddr := 0x8008 }]

/-- The host's access reaches its address and finds an undamaged line. -/
def hostReaches (s : State) (a : AccKind) : Bool :=
  match s.reach { pid := 0, asid := farPart.hostAsid, engine := true } 0x1000 a 3 with
  | (t, .ok q) => ((t.recall q.1).slice q.1).any (fun l => l.bad == 0) && !((t.recall q.1).keepRecords q.1 t.cycles).recordHeld q.1 t.cycles
  | (_, .error _) => false

/-- The host's access faults. -/
def hostFaults (s : State) : Bool :=
  match s.reach { pid := 0, asid := farPart.hostAsid, engine := true } 0x1000 .read 3 with
  | (_, .ok _) => false
  | (_, .error _) => true

theorem witness_MemorySystemEvents :
    let far : State := { lined .load clean with slices := [] }
    let bare := { lined .load clean with tlb := [] }
    let held := { system with cores := [(0, { l1 := [(lineKey 0 0 0x1000, some piece)] })] }
    let ok := fun {α : Type} (e : Except Nat α) => match e with
      | .ok _ => true
      | .error _ => false
    /- A store of core 1 to the same line that has arrived in the same ck, before or behind core 0's as the pointer stands. -/
    let rival := fun n : Nat => ({ lined .store clean with
      net := [packet (.mem 0 0 1 (lineReq .store)), { packet (.mem 1 0 1 (lineReq .store)) with src := 8193 }], rot := [(0, n)] } : State)
    let fits := fun sl : SLine => (lined .store sl).cohReq 0 == some (0, lineKey 0 0 0x1000, lineReq .store, .write, sl) && (lined .store sl).ownTurn 0
    let reads := fun sl : SLine => (lined .load sl).cohReq 0 == some (0, lineKey 0 0 0x1000, lineReq .load, .read, sl) && !((lined .load sl).holders (lineKey 0 0 0x1000) sl).contains 0 && leaseSlice 3 != none
    0 < (far.awaits 0 (lineReq .load)) ∧ IsNext far (packet (.mem 0 0 1 (lineReq .load))) ∧ far.heldBy 0 [] (far.watched 0 (lineReq .load)) = false ∧
    ((lined .load clean).netReq 0 = some (0, lineReq .load, .read) ∧ bare.netReq 0 = some (0, lineReq .load, .read) ∧
      ok (walk bare 0 0 0 0x1000) = false ∧ ok (walk { bare with dram := tables } 0 0 0 0x1000) = true ∧
      leaseSlice (lineReq .load).lease ≠ none ∧ leaseSlice 0 = none ∧
      (match (lined .load clean).reach ((lineReq .load).who 0 .strand) 0x1000 .read 3 with
        | (_, .ok _) => true
        | _ => false) = true) ∧
    ((match ({ bare with tlb := synonym } : State).leaf 0 0 0x1000 with
      | (u, .ok lf) => decide (fld lf.e 9 2 = 3) && (match u.primary 0 lf with
        | (_, .ok (_, _, pe)) => leafOk (lf.e &&& (pe ||| ~~~0x3C)) .read true
        | _ => false)
      | _ => false) = true ∧ bare.remap = [] ∧ { bare with tlb := synonym, slices := [] }.heldLine 0 0 0x1000 .read true = none) ∧
    (reads clean = true ∧ reads { clean with dir := .S, sharers := [1] } = true ∧ reads { clean with dir := .O, sharers := [1], owner := some 1 } = true) ∧
    (fits clean = true ∧ clean.hostBit = false ∧ ((lined .store clean).l1Set 0 (lineKey 0 0 0x1000)).length < 16 ∧
      fits { clean with hostBit := true } = true ∧ fits { clean with dir := .S, sharers := [1] } = true ∧
      fits { clean with dir := .E, sharers := [1], owner := some 1 } = true ∧
      (rival 1).cohReq 0 = some (0, lineKey 0 0 0x1000, lineReq .store, .write, clean) ∧ (rival 1).ownTurn 0 = false ∧ (rival 0).ownTurn 0 = true) ∧
    ((lined .load pieces).cohReq 0 = some (0, lineKey 0 0 0x1000, lineReq .load, .read, pieces) ∧ held.l1 0 (lineKey 0 0 0x1000) = some piece ∧
      piece.mask &&& byteMask 0 8 ≠ byteMask 0 8 ∧ held.otherMasks 0 (lineKey 0 0 0x1000) pieces &&& byteMask 0 8 = 0) ∧
    ((copied dirtyLine).l1 0 (lineKey 0 0 0x1000) = some dirtyLine ∧ dirtyLine.pinned = false ∧ dirtyLine.dirty ≠ 0) ∧
    ((lined .load clean).slice (lineKey 0 0 0x1000) = some clean ∧ clean.pinned = false ∧ ({ clean with pinned := true } : SLine).pinned = true) ∧
    ({ clean with snooping := some 0 } : SLine).snooping.isSome = true ∧
    (hosted.part 0 = some { spec := farPart } ∧ hosted.hostUp = true ∧ 0x1000 < farPart.hdm ∧ hosted.ev.acc = .read ∧
      hostReaches hosted .read = true ∧ hostFaults { hosted with tlb := [] } = true) ∧
    ((hosted .write (List.replicate 64 1)).ev.image.length = 64 ∧ hostReaches (hosted .write (List.replicate 64 1)) .write = true) ∧
    (lined .load clean 2).lineTgt (lineKey 0 0 0x1000) = 2 ∧ (lined .load clean 1).lineTgt (lineKey 0 0 0x1000) = 1 ∧
    (lined .load { clean with hostBit := true } 1).slice (lineKey 0 0 0x1000) = some { clean with hostBit := true } := by
  refine ⟨?_, ?_, ?_, ⟨?_, ?_, ?_, ?_, ?_, ?_, ?_⟩, ⟨?_, ?_, ?_⟩, ⟨?_, ?_, ?_⟩, ⟨?_, ?_, ?_, ?_, ?_, ?_, ?_, ?_, ?_⟩, ?_, ?_, ?_, ?_, ?_, ?_, ?_, ?_⟩ <;>
    decide +kernel

theorem witness_FabricEvents :
    let p : Pkt := packet (.mem 0 0 1 (req .load))
    let q : Pkt := { p with received := false }
    let full : State := { plain with parts := [(0, some { space with events := [{ kind := 2 }] })] }
    let up : State := { State.reset with bring := (List.range 16).map (fun d => (d, 7)) }
    ((6 : Word).toNat % 2 ^ 8 ≤ 6 ∧ (6 : Word).toNat < 2 ^ 32 ∧ (6 : Word) ∈ ({ plain with tests := [6] } : State).tests) ∧
    (plain.unavail 0 = false ∧ ({ spareUsed := true } : Cluster).spareUsed = true ∧ (plain.cluster 0).spareUsed = false) ∧
    8 < (36 : Word).toNat / 4 % 16 ∧
    (p.received = true ∧ ({ plain with net := [p] } : State).missing 0 = none ∧ ({ plain with net := [q, p] } : State).missing 1 = some 0 ∧
      nth ({ plain with net := [q, p] } : State).net 1 = some p) ∧
    plain.ev.slot = 0 ∧ (q.received = false ∧ max q.sentAt ({ q with resends := 7, again := 5 } : Pkt).again + 2048 ≤ 2053 ∧ ({ q with resends := 7 } : Pkt).resends < 8 ∧
      ({ q with resends := 8 } : Pkt).resends = 8 ∧ q.body = .mem 0 0 1 (req .load)) ∧
    (1 ≤ fld (linkReg 16 2 0 0) 5 2 ∧ fld (linkReg 16 2 0 0) 7 2 < 2) ∧
    agentKind 17 = some 2 ∧ plain.fwPending = [] ∧ plain.accepting 17 = false ∧ (agentKind 0).isSome = true ∧ full.accepting 0 = true ∧
    16 ≤ mget 0 ({ plain with bring := [(1, 17)] } : State).bring 1 ∧ mget 0 plain.bring 15 = 0 ∧ 5 ∉ plain.holds ∧
    up.specOk { pid := 1, clusterGrain := false, units := [3], asids := [1], hostAsid := 1, ctrl := 0x1000, asdir := 0x2000 } = true ∧
    (0 + 1500 ≤ 1500 ∧ 5500000 * [5500001, 5500000].length < [5500001, 5500000].foldl (· + ·) 0 ∧ [5199999].foldl (· + ·) 0 < 5200000 * [5199999].length) := by
  decide +kernel

theorem witness_MemoryStaysCanonical : plain.MemOk ∧ (match step (plain.withFetchWord 32 0x08044003) with
    | .next _ => true
    | _ => false) = true := by decide +kernel

/-- A step of an issue that the schedule names, one with an event, one with no choices left, and one in which no context may issue. -/
theorem witness_StepRunsTheInstruction :
    let s := plain.withFetchWord 32 0x08044003
    let t := { s with schedule := [] }
    let fetches := fun s : State => match s.fetch 0 0 with
      | (_, .ok l) => l == lineWith 0 0x4003 0x0804
      | _ => false
    (s.schedule = [.issue 0] ∧ s.wheelPick 0 = some 0 ∧ s.replay = none ∧ fetches s = true) ∧
    (t.due t.candidates = none ∧ t.issuer = some (0, 0) ∧ fetches t = true) ∧ isEvent .leaseExpiryCheck = true ∧
    (t.mustIssue = some (0, 0) ∧ State.reset.mustIssue = none) ∧
    (State.reset.due State.reset.candidates = none ∧ State.reset.issuer = none) := by decide +kernel

theorem witness_EncodedInstructionsDecode : (Instr.add f2).wf {} = true ∧ encode {} (.add f2) = some (0x4004, 0x0804) := by decide +kernel

/-- The last register of each class. -/
theorem witness_RegisterWrites : (31 : BitVec 6).toNat < 32 ∧ (7 : BitVec 6).toNat < 8 ∧ (0 ≠ plain.cur ∨ 1 ≠ plain.cx) := by decide +kernel

theorem witness_RegisterInstructionsKeepTheRest : meets (.add f2) plain = true ∧ meets (.faddF64 f2) plain (fun s => enabled s == 0) = true := by
  decide +kernel

theorem witness_AccessesKeepMemoryAtIssue :
    meets (.ldD f2) plain (fun s => s.issueFault (s.myWho .strand) (memAddress f2 true s) 8 8 false == none) = true ∧
    meets (.stD f2) plain (fun s => s.issueFault (s.myWho .strand) (memAddress f2 true s) 8 8 true == none) = true ∧
    meets (.amoAdd { f2 with imm := 7 }) plain (fun s => s.issueFault (s.myWho .strand) (s.gr 1) 8 8 true == none &&
      s.rmwFault (s.gr 1) 8 == none) = true ∧ plain.rmwFault (plain.gr 1) 8 = none := by decide +kernel

end Sys2Proof.Tests
end

section
/-!
SUPPORT. The words that a range of bytes touches, and the full/empty bits after a store (R141).
-/
namespace Sys2Proof.Machine

theorem mem_wordsOf {a n w : Nat} : w ∈ wordsOf a n ↔ 0 < n ∧ a / 8 ≤ w ∧ w ≤ (a + n - 1) / 8 := by
  unfold wordsOf
  by_cases hn : n = 0
  · simp [hn]
  · rw [if_neg hn, List.mem_map]
    constructor
    · rintro ⟨k, hk, rfl⟩
      rw [List.mem_range] at hk
      omega
    · rintro ⟨-, h1, h2⟩
      exact ⟨w - a / 8, List.mem_range.2 (by omega), by omega⟩

@[simp] theorem Mem.full_put (m : Mem) (a b : Nat) (v : Byte) : (m.put a v).full b = m.full b := rfl

@[simp] theorem Mem.full_setBad (m : Mem) (a b : Nat) (f : Bool) : (m.setBad a f).full b = m.full b := rfl

@[simp] theorem Mem.full_write (m : Mem) (a v n b : Nat) : (m.write a v n).full b = m.full b := by
  induction n generalizing m a v with
  | zero => rfl
  | succ n ih => rw [Mem.write, ih, Mem.full_put]

theorem Mem.full_foldl_of_keeps (l : List Nat) (g : Mem → Nat → Mem) (h : ∀ m k b, (g m k).full b = m.full b) (m : Mem) (b : Nat) :
    (l.foldl g m).full b = m.full b := by
  induction l generalizing m with
  | nil => rfl
  | cons x l ih => rw [List.foldl_cons, ih, h]

theorem Mem.full_foldl_setFull (l : List Nat) (m : Mem) (b : Nat) :
    (l.foldl (fun m w => m.setFull (8 * w) true) m).full b = if b / 8 ∈ l then true else m.full b := by
  induction l generalizing m with
  | nil => rfl
  | cons w l ih =>
    rw [List.foldl_cons, ih, Mem.full_setFull, Nat.mul_div_cancel_left w (by decide)]
    by_cases hl : b / 8 ∈ l
    · simp [hl]
    · simp [hl, List.mem_cons]

/-- A store makes the words that it touches full and leaves the bits of the others (R141). -/
theorem Mem.full_store (m : Mem) (a v n b : Nat) :
    (m.store a v n).full b = if b / 8 ∈ wordsOf a n then true else m.full b := by
  unfold Mem.store
  rw [Mem.full_foldl_of_keeps _ _ (fun m k b => by split <;> simp)]
  unfold Mem.fillWords
  rw [Mem.full_foldl_setFull, Mem.full_write]

/-- Settles O18, from what a byte, a full/empty bit and a range hold after a store. -/
theorem storesWriteTheirBytes : Obligations.StoresWriteTheirBytes := by
  intro m a v n hm
  have powers (j : Nat) : 2 ^ (8 * j) = 256 ^ j := Nat.pow_mul 2 8 j
  refine ⟨Mem.wf_store hm a v n, fun j hj => ?byte, fun b hb => ?otherByte, fun j hj => ?full, fun b hb => ?otherFull, ?range⟩
  case byte =>
    rw [Mem.byte_store, if_pos (by omega), Nat.add_sub_cancel_left, powers]
  case otherByte =>
    rw [Mem.byte_store, if_neg (by omega)]
  case full =>
    rw [Mem.full_store, if_pos (mem_wordsOf.2 (by omega))]
  case otherFull =>
    rw [Mem.full_store, if_neg (fun h => by have := mem_wordsOf.1 h; omega)]
  case range =>
    rw [Mem.read_store, powers]

end Sys2Proof.Machine
end

section
/-!
SUPPORT. Window memory: the bytes that a write leaves to the scheduler of a task record (R7, R201), the operations at a window's
home, and that nothing passes where nothing waits (R148).
-/
namespace Sys2Proof.Machine

/-! The bytes of task records. -/

theorem bits_joinLanes (w : Nat) {l : List Nat} {j : Nat} (h : j < l.length) : bits (joinLanes w l) (w * j) w = l[j] % 2 ^ w := by
  unfold bits
  induction l generalizing j with
  | nil => exact absurd h (Nat.not_lt_zero j)
  | cons x l ih =>
    cases j with
    | zero => simp [joinLanes]
    | succ j =>
      have tail : joinLanes w (x :: l) / 2 ^ w = joinLanes w l := by
        rw [joinLanes, Nat.add_mul_div_left _ _ (Nat.two_pow_pos w), Nat.div_eq_of_lt (Nat.mod_lt x (Nat.two_pow_pos w)), Nat.zero_add]
      rw [Nat.mul_succ, Nat.add_comm, Nat.pow_add, ← Nat.div_div_eq_div_mul, tail, List.getElem_cons_succ]
      exact ih (Nat.lt_of_succ_lt_succ h)

/-- The addresses in window memory that `State.winKeep` leaves as they are: the scheduler's bytes of the task records there (R201). -/
def State.windowHw (s : State) : List Nat := s.taskRecs.flatMap (fun t => if t.2.2 < 2 ^ 52 then [] else taskHw.map (t.2.2 + ·))

theorem State.mem_windowHw {s : State} {b : Nat} :
    b ∈ s.windowHw ↔ ∃ t ∈ s.taskRecs, 2 ^ 52 ≤ t.2.2 ∧ ∃ j ∈ taskHw, b = t.2.2 + j := by
  unfold State.windowHw
  rw [List.mem_flatMap]
  refine exists_congr (fun t => and_congr_right (fun _ => ?_))
  by_cases ht : t.2.2 < 2 ^ 52
  · simp only [if_pos ht, List.not_mem_nil, false_iff, not_and]
    intro h
    omega
  · simp only [if_neg ht, List.mem_map, Nat.not_lt.1 ht, true_and, eq_comm]

/-- Byte `j` of what a write leaves in window memory: the one there where hardware alone writes it, else that of the value. -/
theorem State.bits_winKeep (s : State) (a v : Nat) {n j : Nat} (hj : j < n) :
    bits (s.winKeep a v n) (8 * j) 8 = if a + j ∈ s.windowHw then (s.win.byte (a + j)).toNat else bits v (8 * j) 8 := by
  have inRange (h : a + j ∈ s.windowHw) : s.windowHw.any (fun b => decide (a ≤ b) && decide (b < a + n)) = true :=
    List.any_eq_true.2 ⟨a + j, h, by simp [hj]⟩
  have split : s.winKeep a v n = if s.windowHw.any (fun b => decide (a ≤ b) && decide (b < a + n)) then
      joinLanes 8 ((List.range n).map (fun j => if s.windowHw.contains (a + j) then (s.win.byte (a + j)).toNat else bits v (8 * j) 8))
      else v := rfl
  rw [split]
  by_cases h : s.windowHw.any (fun b => decide (a ≤ b) && decide (b < a + n)) = true
  · rw [if_pos h, bits_joinLanes 8 (by simpa using hj), List.getElem_map, List.getElem_range]
    simp only [List.contains_iff_mem]
    split
    · exact Nat.mod_eq_of_lt (s.win.byte (a + j)).isLt
    · exact Nat.mod_mod _ _
  · rw [if_neg h, if_neg (fun hk => h (inRange hk))]

/-! Passes where nothing waits. -/

theorem State.pass_of_no_waiters {s : State} (h : s.waiters = []) (l : HLoc) (loc : Nat) : s.pass l loc = s := by
  simp [State.pass, h]

theorem State.passStore_of_no_waiters {s : State} (h : s.waiters = []) (w : Who) (a n : Nat) : s.passStore w a n = s := by
  simp [State.passStore, h]

theorem State.swPass_of_no_waiters {s : State} (h : s.waiters = []) (a gen : Nat) : s.swPass a gen = s := by
  obtain ⟨⟩ := s
  cases h
  rfl

/-! The operations at a window's home. -/

theorem State.atHome_window {a : Nat} (h : 2 ^ 52 ≤ a) (s : State) (w : Who) (acc : AccKind) (lease : Nat) :
    s.atHome w a acc lease = (s, .ok (.win a)) := by
  rw [State.atHome, if_pos h]

@[simp] theorem State.isHost_win (s : State) (a : Nat) : s.isHost (.win a) = false := rfl
@[simp] theorem State.askHost_win (s : State) (a c : Nat) : s.askHost (.win a) c = none := rfl
@[simp] theorem State.hRead_win (s : State) (a n : Nat) : s.hRead (.win a) n = s.win.read a n := rfl
@[simp] theorem State.hFull_win (s : State) (a : Nat) : s.hFull (.win a) = s.win.full a := rfl
@[simp] theorem State.hBad_win (s : State) (a n : Nat) : s.hBad (.win a) n = (s.win.firstBad a n).isSome := rfl
@[simp] theorem HLoc.loc_win (a : Nat) : (HLoc.win a).loc = a / 8 * 8 := rfl
@[simp] theorem State.hSees_win (s : State) (w : Who) (t : TMap Node) (a e n : Nat) :
    s.hSees w t (.win a) e n = if (s.win.firstBad a n).isSome then none else some (s.win.read a n) := rfl

end Sys2Proof.Machine
end

section
/-!
SUPPORT. What each request to window memory comes to at its home, where its words' wait lists are empty and its node is 0 (R145,
R147, R150, R156, R157).
-/
namespace Sys2Proof.Machine

/-- `t` is `s` with window memory `m`: no other memory, cached line, version or core differs. -/
def State.OnlyWindow (s t : State) (m : Mem) : Prop :=
  t.win = m ∧ t.dram = s.dram ∧ t.far = s.far ∧ t.host = s.host ∧ t.slices = s.slices ∧ t.vers = s.vers ∧ t.cores = s.cores

theorem State.OnlyWindow.refl (s : State) : s.OnlyWindow s s.win := ⟨rfl, rfl, rfl, rfl, rfl, rfl, rfl⟩

theorem State.onlyWindow_winStore (s : State) (a v n : Nat) : s.OnlyWindow (s.winStore a v n) (s.win.store a (s.winKeep a v n) n) :=
  ⟨rfl, rfl, rfl, rfl, rfl, rfl, rfl⟩

theorem State.onlyWindow_hWrite (s : State) (a v n : Nat) :
    s.OnlyWindow (s.hWrite (.win a) v n) (s.win.write a (s.winKeep a v n) n) := ⟨rfl, rfl, rfl, rfl, rfl, rfl, rfl⟩

theorem State.onlyWindow_hSetFull (s : State) (a : Nat) (b : Bool) : s.OnlyWindow (s.hSetFull (.win a) b) (s.win.setFull a b) :=
  ⟨rfl, rfl, rfl, rfl, rfl, rfl, rfl⟩

/-- A full/empty store at a window's home: the bytes, a word that passes its check, the word full (R147, R377). -/
def State.fillWin (s : State) (a v : Nat) : State := ((s.hWrite (.win a) v 8).hGood (.win a)).hSetFull (.win a) true

theorem State.onlyWindow_fillWin (s : State) (a v : Nat) :
    s.OnlyWindow (s.fillWin a v) (((s.win.write a (s.winKeep a v 8) 8).setBad a false).setFull a true) := ⟨rfl, rfl, rfl, rfl, rfl, rfl, rfl⟩

theorem State.pass_hSetFull_window {s : State} (hw : s.waiters = []) (a : Nat) (b : Bool) (l : HLoc) (loc : Nat) :
    (s.hSetFull (.win a) b).pass l loc = s.hSetFull (.win a) b :=
  State.pass_of_no_waiters (s := s.hSetFull (.win a) b) hw l loc

theorem State.pass_fillWin {s : State} (hw : s.waiters = []) (a v : Nat) (l : HLoc) (loc : Nat) :
    (((s.hWrite (.win a) v 8).hGood (.win a)).hSetFull (.win a) true).pass l loc = s.fillWin a v :=
  State.pass_of_no_waiters (s := s.fillWin a v) hw l loc

/-! Loads and stores. -/

section
variable {s : State} {w : Who} {a : Nat}

theorem State.load_window (ha : 2 ^ 52 ≤ a) {n : Nat} (h : s.win.firstBad a n = none) (lease : Nat) (alloc : Bool) :
    s.load w a n lease alloc = (s, .ok (s.win.read a n)) := by
  rw [State.load, if_pos ha, h]

theorem State.load_window_bad (ha : 2 ^ 52 ≤ a) {n b : Nat} (h : s.win.firstBad a n = some b) (lease : Nat) (alloc : Bool) :
    s.load w a n lease alloc = (s, .flt cUncorrectable (BitVec.ofNat 64 b)) := by
  rw [State.load, if_pos ha, h]

theorem State.store_window (ha : 2 ^ 52 ≤ a) {n : Nat} (h : 8 ≤ n ∨ s.win.firstBad a n = none) (v lease : Nat) (alloc : Bool) :
    s.store w a n v lease alloc = (s.winStore a v n, .ok 0) := by
  have sound : (if n < 8 then s.win.firstBad a n else none) = none := by
    rcases h with h | h
    · exact if_neg (Nat.not_lt.2 h)
    · rw [h, ite_self]
  rw [State.store, if_pos ha, sound]

end

/-! Full/empty operations. -/

section
variable {s : State} {w : Who} {r : MemReq} (ha : 2 ^ 52 ≤ r.ea.toNat) (hw : s.waiters = []) (hn : r.node = 0)
include ha hn

theorem performFe_ldfeKeep (hk : r.kind = .ldfeKeep) :
    performFe s w r = if s.win.full r.ea.toNat = true then
      if (s.win.firstBad r.ea.toNat 8).isSome = true then (s, .flt cUncorrectable (wordAddr r.ea.toNat))
      else (s, .ok (s.win.read r.ea.toNat 8) 0)
    else (s, .wait (r.ea.toNat / 8 * 8)) := by
  cases hf : s.win.full r.ea.toNat
  · simp [performFe, State.atHome_window ha, hk, hn, hf]
  · cases hb : s.win.firstBad r.ea.toNat 8 <;> simp [performFe, State.atHome_window ha, hk, hn, hf, hb]

include hw

theorem performFe_ldfeClr (hk : r.kind = .ldfeClr) :
    performFe s w r = if s.win.full r.ea.toNat = true then
      if (s.win.firstBad r.ea.toNat 8).isSome = true then (s, .flt cUncorrectable (wordAddr r.ea.toNat))
      else (s.hSetFull (.win r.ea.toNat) false, .ok (s.win.read r.ea.toNat 8) 0)
    else (s, .wait (r.ea.toNat / 8 * 8)) := by
  cases hf : s.win.full r.ea.toNat
  · simp [performFe, State.atHome_window ha, hk, hn, hf]
  · cases hb : s.win.firstBad r.ea.toNat 8 <;>
      simp [performFe, State.atHome_window ha, hk, hn, hf, hb, State.pass_hSetFull_window hw]

theorem performFe_stfeWait (hk : r.kind = .stfeWait) :
    performFe s w r = if s.win.full r.ea.toNat = true then (s, .wait (r.ea.toNat / 8 * 8))
    else (s.fillWin r.ea.toNat r.data.toNat, .ok 0 0) := by
  cases hf : s.win.full r.ea.toNat
  · simp [performFe, State.atHome_window ha, hk, hn, hf, State.pass_fillWin hw]
  · simp [performFe, State.atHome_window ha, hk, hn, hf]

theorem performFe_stfeFail (hk : r.kind = .stfeFail) :
    performFe s w r = if s.win.full r.ea.toNat = true then (s, .ok 0 0)
    else (s.fillWin r.ea.toNat r.data.toNat, .ok 1 0) := by
  cases hf : s.win.full r.ea.toNat
  · simp [performFe, State.atHome_window ha, hk, hn, hf, State.pass_fillWin hw]
  · simp [performFe, State.atHome_window ha, hk, hn, hf]

theorem performFe_setfe (hk : r.kind = .setfe) : performFe s w r = (s.hSetFull (.win r.ea.toNat) true, .ok 0 0) := by
  simp [performFe, State.atHome_window ha, hk, hn, State.pass_hSetFull_window hw]

theorem performFe_clrfe (hk : r.kind = .clrfe) : performFe s w r = (s.hSetFull (.win r.ea.toNat) false, .ok 0 0) := by
  simp [performFe, State.atHome_window ha, hk, hn, State.pass_hSetFull_window hw]

end

/-! Atomics. -/

/-- An atomic at a window's home whose words pass their checks: the old value, and the new one there, which a failed `cas` keeps from
being written (R150). -/
theorem performAmo_window {s : State} {w : Who} {r : MemReq} (ha : 2 ^ 52 ≤ r.ea.toNat) (hn : r.node = 0)
    (hb : s.win.firstBad r.ea.toNat r.n = none) (op ty mode : Nat) :
    let old := s.win.read r.ea.toNat r.n
    let new := amoNew op ty mode old r.data.toNat r.cmp.toNat
    performAmo s w r op ty mode =
      (if op = 7 ∧ old ≠ r.cmp.toNat % 2 ^ (8 * r.n) then s else s.hWrite (.win r.ea.toNat) new.1 r.n, .ok old new.2) := by
  simp only [performAmo, State.atHome_window ha, if_pos ha]
  by_cases same : op = 7 ∧ s.win.read r.ea.toNat r.n ≠ r.cmp.toNat % 2 ^ (8 * r.n)
  · simp [hn, hb, same]
  · simp [hn, hb, same]

/-! Sync words. -/

/-- An arrival at a sync word that nothing waits for and whose reserved field is zero (R156). -/
theorem State.syncArrive_window {s : State} (hw : s.waiters = []) {a : Nat} (h : bits (s.win.read a 16) 97 31 = 0) (n : Nat) :
    s.syncArrive a n = some ({ s with win := s.win.write a (swArrive (s.win.read a 16) n).1 16 }, (swArrive (s.win.read a 16) n).2) := by
  have quiet : ({ s with win := s.win.write a (swArrive (s.win.read a 16) n).1 16 } : State).waiters = [] := hw
  simp [State.syncArrive, h, State.swPass_of_no_waiters quiet]

theorem State.syncArrive_reserved {s : State} {a : Nat} (h : bits (s.win.read a 16) 97 31 ≠ 0) (n : Nat) : s.syncArrive a n = none := by
  simp [State.syncArrive, h]

/-! `State.perform`. -/

section
variable {s : State} {c x sent : Nat} {u : Unit4} {r : MemReq} (hc : s.cHeld r.ea.toNat r.n sent c x = false)

/-- For whom a context's request is performed. -/
def State.requester (s : State) (c x : Nat) (u : Unit4) (r : MemReq) : Who := { r.who c u with seq := (s.ctx c x).mt.seq }

include hc

theorem State.perform_fe (hk : r.kind ∈ [.ldfeClr, .ldfeKeep, .stfeWait, .stfeFail, .setfe, .clrfe]) :
    s.perform c x sent u r = performFe s (s.requester c x u r) r := by
  simp only [List.mem_cons, List.not_mem_nil, or_false] at hk
  rcases hk with hk | hk | hk | hk | hk | hk <;> simp [State.perform, hc, hk, State.requester]

theorem State.perform_amo {op ty m : Nat} (hk : r.kind = .amo op ty m) :
    s.perform c x sent u r = performAmo s (s.requester c x u r) r op ty m := by
  simp [State.perform, hc, hk, State.requester]

theorem State.perform_load_window (ha : 2 ^ 52 ≤ r.ea.toNat) (hk : r.kind = .load) (h : s.win.firstBad r.ea.toNat r.n = none) :
    s.perform c x sent u r = (s, .ok (s.win.read r.ea.toNat r.n) 0) := by
  simp [State.perform, hc, hk, State.load_window ha h]

theorem State.perform_load_window_bad (ha : 2 ^ 52 ≤ r.ea.toNat) (hk : r.kind = .load) {b : Nat}
    (h : s.win.firstBad r.ea.toNat r.n = some b) : s.perform c x sent u r = (s, .flt cUncorrectable (BitVec.ofNat 64 b)) := by
  simp [State.perform, hc, hk, State.load_window_bad ha h]

theorem State.perform_store_window (ha : 2 ^ 52 ≤ r.ea.toNat) (hw : s.waiters = []) (hk : r.kind = .store)
    (h : 8 ≤ r.n ∨ s.win.firstBad r.ea.toNat r.n = none) :
    s.perform c x sent u r = (s.winStore r.ea.toNat r.data.toNat r.n, .ok 0 0) := by
  have quiet : (s.winStore r.ea.toNat r.data.toNat r.n).waiters = [] := hw
  simp [State.perform, hc, hk, State.store_window ha h, State.passStore_of_no_waiters quiet]

theorem State.perform_sync_bad (hk : r.kind = .swarrive ∨ r.kind = .swwait) (hb : s.win.firstBad r.ea.toNat 16 ≠ none) :
    s.perform c x sent u r = (s, .flt cUncorrectable r.ea) := by
  have bad : (s.win.firstBad r.ea.toNat 16).isSome = true := Option.isSome_iff_ne_none.2 hb
  rcases hk with hk | hk <;> simp [State.perform, hc, hk, bad]

theorem State.perform_sync_reserved (hk : r.kind = .swarrive ∨ r.kind = .swwait) (hb : s.win.firstBad r.ea.toNat 16 = none)
    (hr : bits (s.win.read r.ea.toNat 16) 97 31 ≠ 0) : s.perform c x sent u r = (s, .flt cIllegal r.ea) := by
  rcases hk with hk | hk
  · simp [State.perform, hc, hk, hb, State.syncArrive_reserved hr]
  · simp [State.perform, hc, hk, hb, hr]

theorem State.perform_swarrive (hw : s.waiters = []) (hk : r.kind = .swarrive) (hb : s.win.firstBad r.ea.toNat 16 = none)
    (hr : bits (s.win.read r.ea.toNat 16) 97 31 = 0) :
    s.perform c x sent u r = ({ s with win := s.win.write r.ea.toNat (swArrive (s.win.read r.ea.toNat 16) r.data.toNat).1 16 },
      .ok (swArrive (s.win.read r.ea.toNat 16) r.data.toNat).2 0) := by
  simp [State.perform, hc, hk, hb, State.syncArrive_window hw hr]

theorem State.perform_swwait (hk : r.kind = .swwait) (hb : s.win.firstBad r.ea.toNat 16 = none)
    (hr : bits (s.win.read r.ea.toNat 16) 97 31 = 0) :
    s.perform c x sent u r = (s, if swAfter (bits (s.win.read r.ea.toNat 16) 64 32) r.data.toNat = true then
      .ok (bits (s.win.read r.ea.toNat 16) 64 32) 0 else .wait r.ea.toNat) := by
  cases hg : swAfter (bits (s.win.read r.ea.toNat 16) 64 32) r.data.toNat <;> simp [State.perform, hc, hk, hb, hr, hg]

end

/-- Settles O17, kind by kind, from what `State.perform` comes to for each. -/
theorem windowRequests : Obligations.WindowRequests := by
  intro s c x sent r a goes kept ha hc hw hn
  refine ⟨fun v n j hj => ?bytes, State.perform_load_window hc ha, fun hk _ => State.perform_load_window_bad hc ha hk,
    fun hk h => ?store, fun op ty m hk hb => ?amo, fun hk hf hb => ?ldfeClr, fun hk hf hb => ?ldfeKeep, fun hk hf => ?stfeWait,
    fun hk hf => ?stfeFail, fun hk hf => ?stfeFailFull, fun hk => ?setfe, fun hk => ?clrfe, fun hk hf => ?ldfeEmpty,
    fun hk hf => ?stfeWaitFull, State.perform_sync_bad hc, State.perform_sync_reserved hc, fun hk hb hr => ?swarrive,
    State.perform_swwait hc⟩
  case bytes =>
    rw [State.bits_winKeep s a v hj]
    exact ⟨fun hk => if_pos (State.mem_windowHw.2 hk), fun hk => if_neg (fun h => hk (State.mem_windowHw.1 h))⟩
  case store => exact ⟨_, State.perform_store_window hc ha hw hk h, s.onlyWindow_winStore a _ _⟩
  case amo =>
    refine ⟨_, (State.perform_amo hc hk).trans (performAmo_window ha hn hb op ty m), ?_⟩
    split
    · exact State.OnlyWindow.refl s
    · exact s.onlyWindow_hWrite a _ _
  case ldfeClr =>
    refine ⟨_, ?_, s.onlyWindow_hSetFull a false⟩
    rw [State.perform_fe hc (by simp [hk]), performFe_ldfeClr ha hw hn hk, if_pos hf, hb]
    rfl
  case ldfeKeep =>
    refine ⟨_, ?_, State.OnlyWindow.refl s⟩
    rw [State.perform_fe hc (by simp [hk]), performFe_ldfeKeep ha hn hk, if_pos hf, hb]
    rfl
  case stfeWait =>
    refine ⟨_, ?_, s.onlyWindow_fillWin a _⟩
    rw [State.perform_fe hc (by simp [hk]), performFe_stfeWait ha hw hn hk, if_neg (Bool.eq_false_iff.1 hf)]
  case stfeFail =>
    refine ⟨_, ?_, s.onlyWindow_fillWin a _⟩
    rw [State.perform_fe hc (by simp [hk]), performFe_stfeFail ha hw hn hk, if_neg (Bool.eq_false_iff.1 hf)]
  case stfeFailFull =>
    refine ⟨_, ?_, State.OnlyWindow.refl s⟩
    rw [State.perform_fe hc (by simp [hk]), performFe_stfeFail ha hw hn hk, if_pos hf]
  case setfe =>
    refine ⟨_, ?_, s.onlyWindow_hSetFull a true⟩
    rw [State.perform_fe hc (by simp [hk]), performFe_setfe ha hw hn hk]
  case clrfe =>
    refine ⟨_, ?_, s.onlyWindow_hSetFull a false⟩
    rw [State.perform_fe hc (by simp [hk]), performFe_clrfe ha hw hn hk]
  case ldfeEmpty =>
    rcases hk with hk | hk
    · rw [State.perform_fe hc (by simp [hk]), performFe_ldfeClr ha hw hn hk, if_neg (Bool.eq_false_iff.1 hf)]
    · rw [State.perform_fe hc (by simp [hk]), performFe_ldfeKeep ha hn hk, if_neg (Bool.eq_false_iff.1 hf)]
  case stfeWaitFull =>
    rw [State.perform_fe hc (by simp [hk]), performFe_stfeWait ha hw hn hk, if_pos hf]
  case swarrive => exact ⟨_, State.perform_swarrive hc hw hk hb hr, rfl, rfl, rfl, rfl, rfl, rfl, rfl⟩

end Sys2Proof.Machine
end

section
/-!
SUPPORT. What the write of a retiring instruction leaves in its register and in every other (R37, R40, R46, R47).
-/
namespace Sys2Proof.Machine

/-- What decides a full/empty bit: the core's map of the shared registers and the context's own map. -/
theorem State.full_congr {s t : State} {c x r : Nat} (hs : mget true (t.core c).shfe r = mget true (s.core c).shfe r)
    (hx : mget true (t.ctx c x).fe r = mget true (s.ctx c x).fe r) : t.full c x r = s.full c x r := by
  simp only [State.full, hs, hx]

/-- A change of a core that keeps its contexts and what its shared registers say of `r` keeps the full/empty bit of `r`. -/
theorem State.full_updCore_of (s : State) (c d y : Nat) (g : Core → Core) (r : Nat) (hc : (g (s.core c)).ctxs = (s.core c).ctxs)
    (hs : mget true (g (s.core c)).shfe r = mget true (s.core c).shfe r) : (s.updCore c g).full d y r = s.full d y r := by
  refine State.full_congr ?_ (by rw [s.ctx_updCore c d y g hc])
  rw [State.core_updCore]
  split
  · rename_i h
    rw [h, hs]
  · rfl

/-- So does a change of a context that keeps what it says of `r`. -/
theorem State.full_updCtx_of (s : State) (c x d y : Nat) (g : Ctx → Ctx) (r : Nat)
    (hg : mget true (g (s.ctx c x)).fe r = mget true (s.ctx c x).fe r) : (s.updCtx c x g).full d y r = s.full d y r := by
  refine State.full_congr (by rw [State.updCtx_core_shfe]) ?_
  rw [State.ctx_updCtx]
  split
  · rename_i h
    rw [h.1, h.2, hg]
  · rfl

/-- A full/empty bit that is set leaves those of the other registers. -/
theorem State.full_setFull_ne (s : State) (c x code : Nat) (b : Bool) {r : Nat} (h : r ≠ code) (d y : Nat) :
    (s.setFull c x code b).full d y r = s.full d y r := by
  unfold State.setFull
  split
  · rfl
  · split
    · exact s.full_updCore_of c d y _ r rfl (mget_mset_ne _ _ _ h)
    · exact s.full_updCtx_of c x d y _ r (mget_mset_ne _ _ _ h)

/-- A write that is not due changes no full/empty bit yet (R40). -/
@[simp] theorem State.full_later (s : State) (c : Nat) (l : Late) (d y r : Nat) : (s.later c l).full d y r = s.full d y r :=
  s.full_updCore_of c d y _ r rfl rfl

/-- Clears of marks that are not due change no value and no full/empty bit yet (R37, R41); nor does their going. -/
@[simp] theorem State.reg_dropClears (s : State) (c x : Nat) (p : Late → Bool) (d y r : Nat) :
    (s.updCore c (fun k => k.dropClears x p)).reg d y r = s.reg d y r := s.reg_updCore_of c d y _ rfl rfl r
@[simp] theorem State.full_dropClears (s : State) (c x : Nat) (p : Late → Bool) (d y r : Nat) :
    (s.updCore c (fun k => k.dropClears x p)).full d y r = s.full d y r := s.full_updCore_of c d y _ r rfl rfl

/-! `State.fill` and `State.retireReg`. -/

theorem State.fill_own (s : State) (c x code : Nat) (v : Vec) (h : isShared code = false) :
    s.fill c x code v = (s.putReg c x code v).setFull c x code true := by
  rw [State.fill, h, if_neg Bool.false_ne_true]

/-- A completion's write to a context's own register leaves the other registers and the other contexts (R33). -/
theorem State.reg_fill_ne (s : State) (c x code : Nat) (v : Vec) {d y r : Nat} (h : isShared code = false)
    (hne : r ≠ code ∨ ¬(d = c ∧ y = x)) : (s.fill c x code v).reg d y r = s.reg d y r := by
  rw [s.fill_own _ _ _ _ h, State.reg_setFull, s.reg_putReg_ne c x code v (hne.imp_right (fun k => .inr ⟨h, k⟩))]

theorem State.full_fill_ne (s : State) (c x code : Nat) (v : Vec) {r : Nat} (h : isShared code = false) (hne : r ≠ code) (d y : Nat) :
    (s.fill c x code v).full d y r = s.full d y r := by
  rw [s.fill_own _ _ _ _ h, State.full_setFull_ne _ _ _ _ _ hne, State.full_putReg]

theorem State.retireReg_shared (s : State) (c x code : Nat) (v : Vec) (h : isShared code = true) :
    s.retireReg c x code v = s.later c { due := s.cycles + 8, ctx := x, code, val := some (v.setWidth 64) } := if_pos h

theorem State.retireReg_own (s : State) (c x code : Nat) (v : Vec) (h : isShared code = false) :
    s.retireReg c x code v = (s.fill c x code v).updCore c (fun k => k.dropClears x (fun l => l.code == code)) := by
  rw [State.retireReg, h, if_neg Bool.false_ne_true]

/-- A retiring write is seen at once in its own register alone, and there by its own context (R40). -/
theorem State.reg_retireReg_ne (s : State) (c x code : Nat) (v : Vec) {d y r : Nat}
    (h : isShared code = true ∨ r ≠ code ∨ ¬(d = c ∧ y = x)) : (s.retireReg c x code v).reg d y r = s.reg d y r := by
  cases hs : isShared code with
  | true => rw [s.retireReg_shared _ _ _ _ hs, State.reg_later]
  | false =>
    rw [s.retireReg_own _ _ _ _ hs, State.reg_dropClears, s.reg_fill_ne _ _ _ _ hs (h.resolve_left (by rw [hs]; exact Bool.false_ne_true))]

/-- It changes the full/empty bit of no other register. -/
theorem State.full_retireReg_ne (s : State) (c x code : Nat) (v : Vec) {r : Nat} (h : r ≠ code) (d y : Nat) :
    (s.retireReg c x code v).full d y r = s.full d y r := by
  cases hs : isShared code with
  | true => rw [s.retireReg_shared _ _ _ _ hs, State.full_later]
  | false => rw [s.retireReg_own _ _ _ _ hs, State.full_dropClears, s.full_fill_ne _ _ _ _ hs h]

/-- g0 and k0 discard a retiring write and stay full (R47). -/
theorem State.retireReg_fixed (s : State) (c x code : Nat) (v : Vec) (h : isFixed code = true) :
    s.retireReg c x code v = s.updCore c (fun k => k.dropClears x (fun l => l.code == code)) := by
  rw [s.retireReg_own _ _ _ _ (isShared_of_fixed h), s.fill_fixed _ _ _ _ h]

/-- A context's own register shows a retiring write at once, and is full (R37, R40). -/
theorem State.retireReg_self (s : State) (c x code : Nat) (v : Vec) (hf : isFixed code = false) (hs : isShared code = false) :
    (s.retireReg c x code v).reg c x code = regVal code v ∧ (s.retireReg c x code v).full c x code = true := by
  rw [s.retireReg_own _ _ _ _ hs, State.reg_dropClears, State.full_dropClears]
  exact s.fill_self c x code v hf hs

/-- What a retiring write leaves, in each kind of register (R37, R40, R47). -/
theorem wrote_retireReg (s : State) (code : Nat) (v : Vec) : Wrote s (s.retireReg s.cur s.cx code v) code v := by
  unfold Wrote
  by_cases hf : isFixed code = true
  · rw [if_pos hf]
    rw [s.retireReg_fixed _ _ _ _ hf, State.reg_dropClears]
  · rw [if_neg hf]
    by_cases hs : isShared code = true
    · rw [if_pos hs, s.retireReg_shared _ _ _ _ hs]
      simp [State.myCore, State.later]
    · rw [if_neg hs]
      exact s.retireReg_self _ _ _ _ (Bool.eq_false_iff.2 hf) (Bool.eq_false_iff.2 hs)

/-- Settles O58: every class of register is written by `State.retireReg`, whose laws stand above. -/
theorem registerWrites : Obligations.RegisterWrites := by
  intro s d
  have others (code : Nat) (v : Vec) (r : Nat) (h : r ≠ code) :
      (s.retireReg s.cur s.cx code v).reg s.cur s.cx r = s.reg s.cur s.cx r ∧
      (s.retireReg s.cur s.cx code v).full s.cur s.cx r = s.full s.cur s.cx r :=
    ⟨s.reg_retireReg_ne _ _ _ _ (.inr (.inl h)), s.full_retireReg_ne _ _ _ _ h _ _⟩
  refine ⟨fun v => wrote_retireReg s _ _, fun _ v => wrote_retireReg s _ _, fun _ v => wrote_retireReg s _ _,
    fun _ v => wrote_retireReg s _ _, fun v => others _ _, fun _ v => others _ _, fun _ v => others _ _, fun _ v => others _ _,
    fun v w c x code hne => ?elsewhere⟩
  case elsewhere =>
    have away : ¬(c = s.cur ∧ x = s.cx) := fun h => hne.elim (absurd h.1) (absurd h.2)
    have kept (code' : Nat) (v' : Vec) : (s.retireReg s.cur s.cx code' v').reg c x code = s.reg c x code :=
      s.reg_retireReg_ne _ _ _ _ (.inr (.inr away))
    exact ⟨kept _ _, kept _ _, kept _ _, fun m => kept _ _⟩

end Sys2Proof.Machine
end

section
/-!
SUPPORT. What an instruction that only reads and writes registers leaves as it is: other cores, other contexts, and of its own
context the registers that it does not write (R30, R37, R98).
-/
namespace Sys2Proof.Machine

/-! Everything but the context that acts. -/

/-- The same context acts; the other cores, and the other contexts of its core, are the same. -/
structure SameElsewhere (s t : State) : Prop where
  cur : t.cur = s.cur
  cx : t.cx = s.cx
  cores : ∀ c, c ≠ s.cur → t.core c = s.core c
  ctxs : ∀ x, x ≠ s.cx → t.ctx s.cur x = s.ctx s.cur x

theorem SameElsewhere.refl (s : State) : SameElsewhere s s := ⟨rfl, rfl, fun _ _ => rfl, fun _ _ => rfl⟩

theorem SameElsewhere.trans {s t u : State} (h : SameElsewhere s t) (k : SameElsewhere t u) : SameElsewhere s u where
  cur := k.cur.trans h.cur
  cx := k.cx.trans h.cx
  cores := fun c hc => (k.cores c (by rwa [h.cur])).trans (h.cores c hc)
  ctxs := fun x hx => by
    have later := k.ctxs x (by rwa [h.cx])
    rw [h.cur] at later
    exact later.trans (h.ctxs x hx)

theorem sameElsewhere_updCore {s : State} {c : Nat} (g : Core → Core) (hc : c = s.cur) (hg : (g (s.core c)).ctxs = (s.core c).ctxs) :
    SameElsewhere s (s.updCore c g) where
  cur := rfl
  cx := rfl
  cores := fun d hd => by rw [State.core_updCore, if_neg (by rwa [hc])]
  ctxs := fun x _ => s.ctx_updCore c _ x g hg

theorem sameElsewhere_updCtx {s : State} {c x : Nat} (g : Ctx → Ctx) (hc : c = s.cur) (hx : x = s.cx) : SameElsewhere s (s.updCtx c x g) where
  cur := rfl
  cx := rfl
  cores := fun d hd => by rw [State.updCtx, State.core_setCtx, if_neg (by rwa [hc])]
  ctxs := fun y hy => by rw [State.ctx_updCtx, if_neg (fun h => hy (h.2.trans hx))]

section
variable {s : State} {c x : Nat} (hc : c = s.cur) (hx : x = s.cx)
include hc

theorem sameElsewhere_later (l : Late) : SameElsewhere s (s.later c l) := sameElsewhere_updCore _ hc rfl

theorem sameElsewhere_retireClear (code : Nat) (claim : Bool) : SameElsewhere s (s.retireClear c x code claim) := by
  unfold State.retireClear
  split
  · exact SameElsewhere.refl s
  · exact sameElsewhere_later hc _

include hx

theorem sameElsewhere_putReg (code : Nat) (v : Vec) : SameElsewhere s (s.putReg c x code v) := by
  unfold State.putReg
  split
  · exact SameElsewhere.refl s
  · split
    · exact sameElsewhere_updCore _ hc rfl
    · exact sameElsewhere_updCtx _ hc hx

theorem sameElsewhere_setFull (code : Nat) (b : Bool) : SameElsewhere s (s.setFull c x code b) := by
  unfold State.setFull
  split
  · exact SameElsewhere.refl s
  · split
    · exact sameElsewhere_updCore _ hc rfl
    · exact sameElsewhere_updCtx _ hc hx

theorem sameElsewhere_retireReg (code : Nat) (v : Vec) : SameElsewhere s (s.retireReg c x code v) := by
  cases hs : isShared code with
  | true =>
    rw [s.retireReg_shared _ _ _ _ hs]
    exact sameElsewhere_later hc _
  | false =>
    rw [s.retireReg_own _ _ _ _ hs, s.fill_own _ _ _ _ hs]
    have put := sameElsewhere_putReg hc hx code v
    have full := sameElsewhere_setFull (hc.trans put.cur.symm) (hx.trans put.cx.symm) code true
    exact (put.trans full).trans (sameElsewhere_updCore _ (hc.trans (put.trans full).cur.symm) rfl)

theorem sameElsewhere_addFlags (fl : Flags) : SameElsewhere s (s.addFlags c x fl) := sameElsewhere_updCtx _ hc hx

end

theorem sameElsewhere_clearMarks (s : State) (sh : Shape) : SameElsewhere s (s.clearMarks sh) := by
  unfold State.clearMarks
  induction readsOf sh generalizing s with
  | nil => exact SameElsewhere.refl s
  | cons e l ih =>
    refine SameElsewhere.trans ?_ (ih (s.clearMark e))
    unfold State.clearMark
    split
    · exact SameElsewhere.refl s
    · exact sameElsewhere_retireClear rfl _ _

theorem sameElsewhere_begun (s : State) (sh : Shape) : SameElsewhere s (s.begun sh) :=
  have issued : SameElsewhere s (s.withIw sh) := ⟨rfl, rfl, fun _ _ => rfl, fun _ _ => rfl⟩
  have counted (u : State) (b : Bool) : SameElsewhere u (u.countIssue b) := by
    rw [countIssue_eq]
    exact sameElsewhere_updCtx _ rfl rfl
  issued.trans ((sameElsewhere_clearMarks (s.withIw sh) sh).trans (counted _ _))

theorem sameElsewhere_goesTo (t : State) (pc : Word) : SameElsewhere t (t.goesTo pc) :=
  have updMe (u : State) (g : Ctx → Ctx) : SameElsewhere u (u.updMe g) := sameElsewhere_updCtx g rfl rfl
  have slot : SameElsewhere t t.mySlot := by
    unfold State.mySlot State.coreSlot
    exact sameElsewhere_updCore _ rfl rfl
  have used : SameElsewhere t t.useSlot := slot.trans (updMe t.mySlot _)
  used.trans (updMe t.useSlot _)

/-- Only registers and the counts of the issue stage differ, and only those of the context that acts. -/
theorem registerOnly_of {s t : State} (h : OnlyRegs s t) (k : SameElsewhere s t) : RegisterOnly s t where
  rest := h.rest
  cores := k.cores
  core := by
    unfold State.myCore
    rw [k.cur]
    exact h.core _
  ctxs := k.ctxs
  own := h.me

/-! Full/empty bits and sticky flags. -/

theorem full_clearMarks (s : State) (sh : Shape) (c x r : Nat) : (s.clearMarks sh).full c x r = s.full c x r := by
  unfold State.clearMarks
  induction readsOf sh generalizing s with
  | nil => rfl
  | cons e l ih =>
    rw [List.foldl_cons, ih]
    unfold State.clearMark State.retireClear
    split
    · rfl
    · split
      · rfl
      · rw [State.full_later]

/-- As an instruction issues, every full/empty bit is as it was: marked sources are cleared 8 ck later (R37). -/
@[simp] theorem begun_full (s : State) (sh : Shape) (c x r : Nat) : (s.begun sh).full c x r = s.full c x r := by
  rw [State.begun, countIssue_eq, State.full_updCtx_of _ _ _ _ _ (fun k => k.counted _) _ rfl]
  exact full_clearMarks _ sh c x r

@[simp] theorem goesTo_full (t : State) (pc : Word) (c x r : Nat) : (t.goesTo pc).full c x r = t.full c x r := by
  unfold State.goesTo State.useSlot State.updMe State.mySlot State.coreSlot
  rw [State.full_updCtx_of _ _ _ _ _ (fun k => { k with pc := pc }) _ rfl,
    State.full_updCtx_of _ _ _ _ _ (fun k => { k with busyTill := t.cycles + 8, st := .ready }) _ rfl]
  exact State.full_updCore_of _ _ _ _ _ _ rfl rfl

/-- The context `k` with the registers of `j`, their full/empty bits and their marks of failed checks. -/
def Ctx.withRegs (k j : Ctx) : Ctx := { k with g := j.g, f := j.f, v := j.v, k := j.k, fe := j.fe, bad := j.bad }

/-- Of every context only registers differ. -/
def SameButRegs (s t : State) : Prop := ∀ c x, t.ctx c x = (s.ctx c x).withRegs (t.ctx c x)

theorem SameButRegs.refl (s : State) : SameButRegs s s := fun _ _ => rfl

theorem SameButRegs.trans {s t u : State} (h : SameButRegs s t) (k : SameButRegs t u) : SameButRegs s u := fun c x => by
  have step (a b d : Ctx) (hb : b = a.withRegs b) (hd : d = b.withRegs d) : d = a.withRegs d := by
    rw [hd, hb]
    rfl
  exact step _ _ _ (h c x) (k c x)

theorem SameButRegs.fpflags {s t : State} (h : SameButRegs s t) (c x : Nat) : (t.ctx c x).fpflags = (s.ctx c x).fpflags :=
  (congrArg Ctx.fpflags (h c x)).trans rfl

theorem SameButRegs.outst {s t : State} (h : SameButRegs s t) (c x : Nat) : (t.ctx c x).outst = (s.ctx c x).outst :=
  (congrArg Ctx.outst (h c x)).trans rfl

theorem sameButRegs_updCore (s : State) (c : Nat) (g : Core → Core) (hg : (g (s.core c)).ctxs = (s.core c).ctxs) :
    SameButRegs s (s.updCore c g) := fun d y => by
  rw [State.ctx_updCore _ _ _ _ _ hg]
  rfl

theorem sameButRegs_updCtx (s : State) (c x : Nat) (g : Ctx → Ctx) (hg : g (s.ctx c x) = (s.ctx c x).withRegs (g (s.ctx c x))) :
    SameButRegs s (s.updCtx c x g) := fun d y => by
  rw [State.ctx_updCtx]
  split
  · rename_i h
    rw [h.1, h.2]
    exact hg
  · rfl

theorem sameButRegs_setFull (s : State) (c x code : Nat) (b : Bool) : SameButRegs s (s.setFull c x code b) := by
  unfold State.setFull
  split
  · exact SameButRegs.refl s
  · split
    · exact sameButRegs_updCore s c _ rfl
    · exact sameButRegs_updCtx s c x _ rfl

theorem sameButRegs_putReg (s : State) (c x code : Nat) (v : Vec) : SameButRegs s (s.putReg c x code v) := by
  unfold State.putReg
  split
  · exact SameButRegs.refl s
  · split
    · exact sameButRegs_updCore s c _ rfl
    · refine sameButRegs_updCtx s c x _ ?_
      split
      · rfl
      · split
        · rfl
        · split <;> rfl

theorem sameButRegs_fill (s : State) (c x code : Nat) (v : Vec) : SameButRegs s (s.fill c x code v) := by
  unfold State.fill
  split
  · exact sameButRegs_updCore s c _ rfl
  · exact (sameButRegs_putReg s c x code v).trans (sameButRegs_setFull _ c x code true)

/-- A retiring write touches no context but in its registers. -/
theorem sameButRegs_retireReg (s : State) (c x code : Nat) (v : Vec) : SameButRegs s (s.retireReg c x code v) := by
  unfold State.retireReg
  split
  · exact sameButRegs_updCore s c _ rfl
  · exact (sameButRegs_fill s c x code v).trans (sameButRegs_updCore _ c _ rfl)

/-! What the effect of a register instruction keeps. -/

/-- From `s` to `t` only what an instruction of shape `sh` may write has changed: its destination, the counts of the issue stage,
and sticky flags that it sets. -/
structure Keeps (sh : Shape) (s t : State) : Prop where
  only : OnlyRegs s t
  elsewhere : SameElsewhere s t
  reg : ∀ code, code ∉ writesOf sh ∨ isShared code = true → t.reg s.cur s.cx code = s.reg s.cur s.cx code
  full : ∀ code, code ∉ writesOf sh → t.full s.cur s.cx code = s.full s.cur s.cx code
  flags : t.me.fpflags &&& s.me.fpflags = s.me.fpflags

theorem Keeps.trans {sh : Shape} {s t u : State} (h : Keeps sh s t) (k : Keeps sh t u) : Keeps sh s u where
  only := h.only.trans k.only
  elsewhere := h.elsewhere.trans k.elsewhere
  reg := fun code hc => by
    have later := k.reg code hc
    rw [h.elsewhere.cur, h.elsewhere.cx] at later
    rw [later, h.reg code hc]
  full := fun code hc => by
    have later := k.full code hc
    rw [h.elsewhere.cur, h.elsewhere.cx] at later
    rw [later, h.full code hc]
  flags := by rw [← h.flags, ← BitVec.and_assoc, k.flags]

theorem keeps_begun (s : State) (sh : Shape) : Keeps sh s (s.begun sh) where
  only :=
    have issued : OnlyRegs s (s.withIw sh) := ⟨rfl, fun _ => rfl, fun _ _ => rfl⟩
    issued.trans (onlyRegs_begun s sh)
  elsewhere := sameElsewhere_begun s sh
  reg := fun _ _ => begun_reg _ _ _ _ _
  full := fun _ _ => begun_full _ _ _ _ _
  flags := by rw [begun_me_fpflags, BitVec.and_self]

theorem goesTo_fpflags (t : State) (pc : Word) : (t.goesTo pc).me.fpflags = t.me.fpflags := by rw [goesTo_me]

theorem keeps_goesTo (sh : Shape) (t : State) (pc : Word) : Keeps sh t (t.goesTo pc) where
  only := onlyRegs_goesTo t pc
  elsewhere := sameElsewhere_goesTo t pc
  reg := fun _ _ => goesTo_reg _ _ _ _ _
  full := fun _ _ => goesTo_full _ _ _ _ _
  flags := by rw [goesTo_fpflags, BitVec.and_self]

theorem Keeps.refl (sh : Shape) (s : State) : Keeps sh s s :=
  ⟨OnlyRegs.refl s, SameElsewhere.refl s, fun _ _ => rfl, fun _ _ => rfl, BitVec.and_self⟩

/-- The register that a shape's d field writes is one of its destinations, unless it discards writes (R47). -/
theorem mem_writesOf_d {sh : Shape} (h : sh.d.wr = true) :
    sh.d.cls.code sh.f.d.toNat ∈ writesOf sh ∨ isFixed (sh.d.cls.code sh.f.d.toNat) = true := by
  cases hf : isFixed (sh.d.cls.code sh.f.d.toNat) with
  | true => exact .inr rfl
  | false => exact .inl (by simp [writesOf, h, hf])

/-- A retiring write to the destination, as every class of register has it. -/
def State.wrD (s : State) (sh : Shape) (v : Vec) : State := s.retireReg s.cur s.cx (sh.d.cls.code sh.f.d.toNat) v

theorem wrD_fpflags (s : State) (sh : Shape) (v : Vec) : (s.wrD sh v).me.fpflags = s.me.fpflags := by
  have same := sameElsewhere_retireReg (s := s) rfl rfl (sh.d.cls.code sh.f.d.toNat) v
  unfold State.wrD State.me
  rw [same.cur, same.cx, (sameButRegs_retireReg s _ _ _ _).fpflags]

theorem keeps_wrD (s : State) {sh : Shape} (h : sh.d.wr = true) (v : Vec) : Keeps sh s (s.wrD sh v) where
  only := onlyRegs_retireReg s _ _ _ v
  elsewhere := sameElsewhere_retireReg rfl rfl _ v
  reg := fun code hc => by
    unfold State.wrD
    rcases mem_writesOf_d h with hd | hd
    · rcases hc with hc | hc
      · exact s.reg_retireReg_ne _ _ _ _ (.inr (.inl (fun e => hc (by rwa [e]))))
      · by_cases e : code = sh.d.cls.code sh.f.d.toNat
        · exact s.reg_retireReg_ne _ _ _ _ (.inl (by rwa [← e]))
        · exact s.reg_retireReg_ne _ _ _ _ (.inr (.inl e))
    · rw [s.retireReg_fixed _ _ _ _ hd, State.reg_dropClears]
  full := fun code hc => by
    unfold State.wrD
    rcases mem_writesOf_d h with hd | hd
    · exact s.full_retireReg_ne _ _ _ _ (fun e => hc (by rwa [e])) _ _
    · rw [s.retireReg_fixed _ _ _ _ hd, State.full_dropClears]
  flags := by rw [wrD_fpflags, BitVec.and_self]

theorem keeps_addFlags (sh : Shape) {s : State} {c x : Nat} (hc : c = s.cur) (hx : x = s.cx) (fl : Flags) :
    Keeps sh s (s.addFlags c x fl) where
  only := onlyRegs_addFlags s c x fl
  elsewhere := sameElsewhere_addFlags hc hx fl
  reg := fun _ _ => s.reg_updCtx_of _ _ _ _ _ rfl rfl rfl rfl _
  full := fun _ _ => s.full_updCtx_of _ _ _ _ _ _ rfl
  flags := by
    subst hc hx
    unfold State.addFlags
    rw [State.me, State.updCtx_cur, State.updCtx_cx, State.ctx_updCtx_self]
    ext j
    simpa using .inl

end Sys2Proof.Machine
end

section
/-!
SUPPORT. The instructions that read and write registers and can raise no exception: each retires with a write of its destination,
or none, and with rounding the flags that the write's value sets (R98, R118 to R133, R170 to R173, R180, R182).
-/
namespace Sys2Proof.Machine

/-- An effect that retires with `t`, at the successor or elsewhere. -/
def Eff.Retires (e : Eff) (t : State) : Prop := e = .done t ∨ ∃ pc, e = .jump t pc

/-- An instruction that retires from every state with its destination written or nothing, and leaves the sticky flags. -/
def WritesPlain (i : Instr) : Prop :=
  ∃ body, (∀ s, exec i s = issue i s body) ∧ ∀ g sh, i.shape g = some sh → ∀ s, ∃ t, (body s sh).Retires t ∧
    (t = s ∨ sh.d.wr = true ∧ ∃ v, t = s.wrD sh v)

/-- An instruction that retires, while no exception is enabled, with its destination written and flags gathered. -/
def WritesFlagged (i : Instr) : Prop :=
  ∃ body, (∀ s, exec i s = issue i s body) ∧ ∀ g sh, i.shape g = some sh → sh.d.wr = true ∧ ∀ s : State,
    s.me.fpmode.extractLsb' 2 5 = 0 → ∃ v fl, body s sh = .done ((s.wrD sh v).addFlags s.cur s.cx fl)

/-- With no exception enabled none is raised (R99). -/
theorem fpx_of_disabled {k : Ctx} (h : k.fpmode.extractLsb' 2 5 = 0) (fl : Flags) : fpx k fl = false := by
  simp [fpx, enabled, h]

/-! The instructions that can raise no exception. -/

theorem writesPlain_of_write {i : Instr} {body : State → Shape → Eff} (hx : ∀ s, exec i s = issue i s body)
    (hb : ∀ g sh, i.shape g = some sh → sh.d.wr = true ∧ ∀ s, ∃ v, body s sh = .done (s.wrD sh v)) : WritesPlain i := by
  refine ⟨body, hx, fun g sh h s => ?_⟩
  obtain ⟨hd, hw⟩ := hb g sh h
  obtain ⟨v, e⟩ := hw s
  exact ⟨_, .inl e, .inr ⟨hd, v, rfl⟩⟩

theorem writesPlain_of_branch {i : Instr} {f : Fields} {c : State → Bool} (hx : ∀ s, exec i s = issue i s (branch f c)) : WritesPlain i := by
  refine ⟨_, hx, fun g sh _ s => ⟨s, ?_, .inl rfl⟩⟩
  unfold branch
  cases c s
  · exact .inl rfl
  · exact .inr ⟨_, rfl⟩

/-- `fmv`, whose o bit 0 names the class of its destination. -/
theorem writesPlain_fmv (f : Fields) : WritesPlain (.fmv f) := by
  refine writesPlain_of_write (fun _ => rfl) ?_
  rintro _ _ ⟨⟩
  have toG (h : f.o.getLsbD 0 = true) : (if Enc.oBit 0 f then Enc.gW else Enc.fW) = Enc.gW := if_pos h
  have toF (h : ¬f.o.getLsbD 0 = true) : (if Enc.oBit 0 f then Enc.gW else Enc.fW) = Enc.fW := if_neg h
  by_cases h : f.o.getLsbD 0 = true
  · rw [toG h]
    exact ⟨rfl, fun _ => ⟨_, congrArg Eff.done (if_pos h)⟩⟩
  · rw [toF h]
    exact ⟨rfl, fun _ => ⟨_, congrArg Eff.done (if_neg h)⟩⟩

theorem writesPlain_loop (f : Fields) : WritesPlain (.loop f) := by
  refine ⟨_, fun _ => rfl, ?_⟩
  rintro _ _ ⟨⟩ s
  by_cases h : s.gReg f.d.toNat - 1 = 0
  · exact ⟨_, .inl (if_pos h), .inr ⟨rfl, _, rfl⟩⟩
  · exact ⟨_, .inr ⟨_, if_neg h⟩, .inr ⟨rfl, _, rfl⟩⟩

theorem writesPlain_call (f : Fields) : WritesPlain (.call f) :=
  ⟨_, fun _ => rfl, by rintro _ _ ⟨⟩ s; exact ⟨_, .inr ⟨_, rfl⟩, .inr ⟨rfl, _, rfl⟩⟩⟩

theorem writesPlain_nop : WritesPlain .nop := ⟨_, fun _ => rfl, fun _ _ _ s => ⟨s, .inl rfl, .inl rfl⟩⟩

theorem writesPlain_integer (f : Fields) : ∀ i ∈ [
    Instr.add f, .sub f, .and f, .or f, .xor f, .andn f, .shl f, .shr f, .sar f, .rotl f, .mul f, .minI64 f, .maxI64 f, .minN64 f,
    .maxN64 f, .clz f, .ctz f, .popc f, .sextI8 f, .sextI16 f, .sextI32 f, .zextN8 f, .zextN16 f, .zextN32 f, .cmpEq f, .cmpNe f,
    .cmpLt f, .cmpGe f, .cmpLo f, .cmpHs f, .mulhI64 f, .mulhN64 f, .sel f, .bfx f, .bfi f, .addi f, .li f, .lea f], WritesPlain i := by
  rw [← List.forall_iff_forall_mem]
  and_intros
  all_goals exact writesPlain_of_write (fun _ => rfl) (by rintro _ _ ⟨⟩; exact ⟨rfl, fun _ => ⟨_, rfl⟩⟩)

theorem writesPlain_control (f : Fields) : ∀ i ∈ [
    Instr.nop, .br f, .call f, .bz f, .bnz f, .loop f, .bcEq f, .bcNe f, .bcLt f, .bcGe f, .bcLo f, .bcHs f], WritesPlain i := by
  have branches {i : Instr} {c : State → Bool} (h : ∀ s, exec i s = issue i s (branch f c)) : WritesPlain i := writesPlain_of_branch h
  rw [← List.forall_iff_forall_mem]
  exact ⟨writesPlain_nop, branches (fun _ => rfl), writesPlain_call f, branches (fun _ => rfl), branches (fun _ => rfl),
    writesPlain_loop f, branches (fun _ => rfl), branches (fun _ => rfl), branches (fun _ => rfl), branches (fun _ => rfl),
    branches (fun _ => rfl), branches (fun _ => rfl)⟩

theorem writesPlain_vector (f : Fields) : ∀ i ∈ [
    Instr.fmv f, .fclassF64 f, .fclassF32 f, .vbcast f, .vperm f, .vslideUp f, .vslideDn f, .vmov f, .vsel f, .kand f, .kor f, .kxor f,
    .knot f, .kset f, .kpop f], WritesPlain i := by
  rw [← List.forall_iff_forall_mem]
  refine ⟨writesPlain_fmv f, ?_⟩
  and_intros
  all_goals exact writesPlain_of_write (fun _ => rfl) (by rintro _ _ ⟨⟩; exact ⟨rfl, fun _ => ⟨_, rfl⟩⟩)

/-! Those that round. -/

theorem fRes_of_disabled {s : State} (h : s.me.fpmode.extractLsb' 2 5 = 0) (ty : Nat) (d : BitVec 6) (r : Nat × Flags) :
    fRes s ty d r = .done ((s.wrF d (box ty r.1)).addFlags s.cur s.cx r.2) := by
  rw [fRes, fpx_of_disabled h, if_neg Bool.false_ne_true]

theorem gRes_of_disabled {s : State} (h : s.me.fpmode.extractLsb' 2 5 = 0) (d : BitVec 6) (v : Word) (fl : Flags) :
    gRes s d v fl = .done ((s.wrG d v).addFlags s.cur s.cx fl) := by
  rw [gRes, fpx_of_disabled h, if_neg Bool.false_ne_true]

theorem vRes_of_disabled {s : State} (h : s.me.fpmode.extractLsb' 2 5 = 0) (f : Fields) (r : Vec × Flags) :
    vRes s f r = .done ((s.wrV f.d r.1).addFlags s.cur s.cx r.2) := by
  rw [vRes, fpx_of_disabled h, if_neg Bool.false_ne_true]

theorem writesFlagged_float (f : Fields) : ∀ i ∈ [
    Instr.faddF64 f, .fsubF64 f, .fmulF64 f, .fminF64 f, .fmaxF64 f, .fsgnF64 f, .faddF32 f, .fsubF32 f, .fmulF32 f, .fminF32 f,
    .fmaxF32 f, .fsgnF32 f, .fmaF64 f, .fmsF64 f, .fnmaF64 f, .fmaF32 f, .fmsF32 f, .fnmaF32 f], WritesFlagged i := by
  rw [← List.forall_iff_forall_mem]
  and_intros
  all_goals exact ⟨_, fun _ => rfl, by rintro _ _ ⟨⟩; exact ⟨rfl, fun _ h => ⟨_, _, fRes_of_disabled h _ _ _⟩⟩⟩

theorem writesFlagged_compare (f : Fields) : ∀ i ∈ [
    Instr.fcmpEqF64 f, .fcmpLtF64 f, .fcmpLeF64 f, .fcmpUnF64 f, .fcmpEqF32 f, .fcmpLtF32 f, .fcmpLeF32 f, .fcmpUnF32 f], WritesFlagged i := by
  rw [← List.forall_iff_forall_mem]
  and_intros
  all_goals exact ⟨_, fun _ => rfl, by rintro _ _ ⟨⟩; exact ⟨rfl, fun _ h => ⟨_, _, gRes_of_disabled h _ _ _⟩⟩⟩

theorem writesFlagged_vector (f : Fields) : ∀ i ∈ [Instr.vadd f, .vsub f, .vmul f, .vfma f], WritesFlagged i := by
  rw [← List.forall_iff_forall_mem]
  and_intros
  all_goals exact ⟨_, fun _ => rfl, by rintro _ _ ⟨⟩; exact ⟨rfl, fun _ h => ⟨_, _, vRes_of_disabled h _ _⟩⟩⟩

/-! What they keep. -/

/-- An effect that retires and writes what it may is what the step comes to. -/
theorem keeps_of_retires {i : Instr} {sh : Shape} {s t : State} {body : State → Shape → Eff} (h : Issues i sh s)
    (hx : ∀ u, exec i u = issue i u body) (hr : (body (s.begun sh) sh).Retires t) (hk : Keeps sh (s.begun sh) t) :
    ∃ pc, exec i s = .next (t.goesTo pc) ∧ Keeps sh s (t.goesTo pc) := by
  have keeps (pc : Word) : Keeps sh s (t.goesTo pc) := ((keeps_begun s sh).trans hk).trans (keeps_goesTo sh t pc)
  have stay : t.me.pos.all (stays sh) = true := by rw [hk.only.pos, begun_me_pos]; exact h.free
  have fresh : t.me.rett = none := by rw [hk.only.rett, begun_me_rett]; exact h.fresh
  rcases hr with hr | ⟨pc, hr⟩
  · exact ⟨_, by rw [hx, issue_done h hr stay fresh], keeps _⟩
  · exact ⟨_, by rw [hx, issue_jump h hr stay fresh], keeps _⟩

theorem WritesPlain.keeps {i : Instr} {sh : Shape} {s : State} (hi : WritesPlain i) (h : Issues i sh s) :
    ∃ t, exec i s = .next t ∧ Keeps sh s t ∧ t.me.fpflags = s.me.fpflags := by
  obtain ⟨body, hx, hb⟩ := hi
  obtain ⟨t, hr, ht⟩ := hb _ sh h.shape (s.begun sh)
  have written : Keeps sh (s.begun sh) t ∧ t.me.fpflags = s.me.fpflags := by
    rcases ht with rfl | ⟨hd, v, rfl⟩
    · exact ⟨Keeps.refl sh _, begun_me_fpflags s sh⟩
    · exact ⟨keeps_wrD _ hd v, (wrD_fpflags _ sh v).trans (begun_me_fpflags s sh)⟩
  obtain ⟨pc, e, hk⟩ := keeps_of_retires h hx hr written.1
  exact ⟨_, e, hk, (goesTo_fpflags t pc).trans written.2⟩

theorem WritesFlagged.keeps {i : Instr} {sh : Shape} {s : State} (hi : WritesFlagged i) (h : Issues i sh s)
    (off : s.me.fpmode.extractLsb' 2 5 = 0) : ∃ t, exec i s = .next t ∧ Keeps sh s t := by
  obtain ⟨body, hx, hb⟩ := hi
  obtain ⟨hd, hw⟩ := hb _ sh h.shape
  obtain ⟨v, fl, e⟩ := hw (s.begun sh) (by rwa [begun_me_fpmode])
  have put := keeps_wrD (s.begun sh) hd v
  obtain ⟨pc, e', hk⟩ := keeps_of_retires h hx (.inl e) (put.trans (keeps_addFlags sh put.elsewhere.cur.symm put.elsewhere.cx.symm fl))
  exact ⟨_, e', hk⟩

/-- Settles O59: of both lists every instruction retires with its destination written, and what such a step keeps is `Keeps`. -/
theorem registerInstructionsKeepTheRest : Obligations.RegisterInstructionsKeepTheRest := by
  intro f i sh s plain flagged hi h
  have allPlain := List.forall_mem_append.2 ⟨writesPlain_integer f, List.forall_mem_append.2 ⟨writesPlain_control f, writesPlain_vector f⟩⟩
  have allFlagged := List.forall_mem_append.2
    ⟨writesFlagged_float f, List.forall_mem_append.2 ⟨writesFlagged_compare f, writesFlagged_vector f⟩⟩
  have retires : ∃ t, exec i s = .next t ∧ Keeps sh s t ∧ (i ∈ plain → t.me.fpflags = s.me.fpflags) := by
    by_cases hp : i ∈ plain
    · obtain ⟨t, e, hk, hfl⟩ := (allPlain i hp).keeps h
      exact ⟨t, e, hk, fun _ => hfl⟩
    · rcases hi with hi | ⟨hi, off⟩
      · exact absurd hi hp
      · obtain ⟨t, e, hk⟩ := (allFlagged i hi).keeps h off
        exact ⟨t, e, hk, fun k => absurd k hp⟩
  obtain ⟨t, e, hk, hfl⟩ := retires
  exact ⟨t, e, registerOnly_of hk.only hk.elsewhere, hk.only.sameMemory, hk.reg, fun code hc _ => hk.full code hc, hk.flags, hfl⟩

end Sys2Proof.Machine
end

section
/-!
SUPPORT. How a detached operation that has no rule of its own ends (R33, R36), and what a load's value is (R48, R145).
-/
namespace Sys2Proof.Machine

/-- The end of an operation without a rule of its own, once it is due: done and retired, or its fault reported (R33, R36). -/
theorem detEnd_plain {s : State} {c x : Nat} {d : DetOp} (ho : ownEnd d.op = false) (hd : d.due ≤ s.cycles) :
    (d.st = .done → s.detEnd c x d = some (s.endPos c x d (s.detVals c x d) d.flags)) ∧
    (∀ code a aux fx, d.st = .fault code a aux fx →
      s.detEnd c x d = some ((s.failOp c x d code a aux fx).updCtx c x (fun k => k.unpark d.id s.cycles))) := by
  simp only [ownEnd, Bool.or_eq_false_iff, List.contains_cons, List.contains_nil, Bool.or_false, beq_eq_false_iff_ne] at ho
  obtain ⟨tile, hprog, h330, h331, h320, h321, h322, h323, h325, h332, h334, h335, hcfg, hspawn, hnbr⟩ := ho
  have due : ¬s.cycles < d.due := by omega
  unfold State.detEnd
  simp only [tile, hprog, h330, h331, h320, h321, h322, h323, h325, h332, h334, h335, hcfg, hspawn, hnbr, due, decide_false,
    Bool.false_and, Bool.or_false, if_false, Bool.false_eq_true]
  exact ⟨fun h => by rw [h], fun code a aux fx h => by rw [h]⟩

/-- Of an unbound strand an operation that is done simply retires (R33, R270). -/
theorem endPos_unbound {s : State} {c x : Nat} (h : (s.ctx c x).pos = none) (d : DetOp) (vals : List (Nat × Vec)) (fl : Flags) :
    s.endPos c x d vals fl = s.endDet c x d vals fl := by
  unfold State.endPos
  rw [h]

theorem execDetachedCompletion_of {s t : State} {d : DetOp} (hd : s.det s.ev.core s.ev.ctx s.ev.op = some d)
    (he : s.detEnd s.ev.core s.ev.ctx d = some t) : exec .detachedCompletion s = .next t := by
  change execDetachedCompletion s = _
  rw [execDetachedCompletion, State.complete, hd]
  simp only [he, Option.getD_some]

/-- The operation that an id names has that id. -/
theorem State.det_id {s : State} {c x id : Nat} {d : DetOp} (h : s.det c x id = some d) : d.id = id := by
  simpa using List.find?_some h

theorem State.det_eq_none {s : State} {c x id : Nat} : s.det c x id = none ↔ ∀ d ∈ (s.ctx c x).outst, d.id ≠ id := by
  simp [State.det]

/-! An operation that retires. -/

theorem sameButRegs_fills (s : State) (c x : Nat) (vals : List (Nat × Vec)) :
    SameButRegs s (vals.foldl (fun s v => s.fill c x v.1 v.2) s) := by
  induction vals generalizing s with
  | nil => exact SameButRegs.refl s
  | cons v vals ih => exact (sameButRegs_fill s c x v.1 v.2).trans (ih _)

theorem outst_addFlags (s : State) (c x : Nat) (fl : Flags) (d y : Nat) : ((s.addFlags c x fl).ctx d y).outst = (s.ctx d y).outst := by
  rw [State.addFlags, State.ctx_updCtx]
  split
  · rename_i h
    rw [h.1, h.2]
  · rfl

/-- An operation that is done has left the list of its strand (R33). -/
theorem det_endDet (s : State) (c x : Nat) (d : DetOp) (vals : List (Nat × Vec)) (fl : Flags) : (s.endDet c x d vals fl).det c x d.id = none := by
  rw [State.det_eq_none, State.endDet, outst_addFlags, (sameButRegs_fills _ c x vals).outst, State.ctx_updCtx_self]
  intro e he
  obtain ⟨e', he', rfl⟩ := List.mem_map.1 he
  have other : e'.id ≠ d.id := by simpa using (List.mem_filter.1 he').2
  split <;> exact other

/-- What an operation that is done leaves in its one destination, a register of its own context (R33). -/
theorem endDet_single (s : State) (c x : Nat) (d : DetOp) {r : Nat} (v : Vec) (fl : Flags) (hf : isFixed r = false) (hs : isShared r = false) :
    (s.endDet c x d [(r, v)] fl).full c x r = true ∧ (s.endDet c x d [(r, v)] fl).reg c x r = regVal r v := by
  unfold State.endDet State.addFlags
  rw [State.full_updCtx_of _ _ _ _ _ _ _ rfl, State.reg_updCtx_of _ _ _ _ _ _ rfl rfl rfl rfl]
  exact (State.fill_self _ c x r v hf hs).symm

/-- A load writes its value to each of its destinations (R145). -/
theorem detVals_load {d : DetOp} (h : d.op / 16 = 0x10) (s : State) (c x : Nat) :
    s.detVals c x d = d.dests.map (fun k => (k, s.memValue c x d)) := by
  unfold State.detVals
  exact if_pos (.inl h)

/-! An operation that faults. -/

theorem mem_insFault_self (f : FaultInfo) (l : List FaultInfo) : f ∈ insFault f l := by
  induction l with
  | nil => exact List.mem_singleton_self f
  | cons g l ih =>
    unfold insFault
    split
    · exact List.mem_cons_self
    · exact List.mem_cons_of_mem g ih

/-- A fault that is reported stands in its strand's list, with the ck of the report (R36, R144). -/
theorem faults_report (s : State) (c x : Nat) (f : FaultInfo) : { f with cyc := s.cycles } ∈ ((s.report c x f).ctx c x).faults := by
  rw [State.report, State.ctx_updCtx_self]
  exact mem_insFault_self _ _

theorem outst_report (s : State) (c x : Nat) (f : FaultInfo) : ((s.report c x f).ctx c x).outst = (s.ctx c x).outst := by
  rw [State.report, State.ctx_updCtx_self]

/-- Waking a strand from an operation changes its state, and that none waits for the operation: nothing else (R38). -/
theorem unpark_eq (k : Ctx) (op now : Nat) : ∃ st till, k.unpark op now =
    { k with st := st, busyTill := till, outst := updIf (fun d => d.id == op) (fun d => { d with parked := false }) k.outst } := by
  unfold Ctx.unpark
  dsimp only
  split
  · split <;> exact ⟨_, _, rfl⟩
  · exact ⟨_, _, rfl⟩

/-- A change of operations that keeps their ids names no new one. -/
theorem id_ne_of_mem_updIf {p : DetOp → Bool} {f : DetOp → DetOp} {l : List DetOp} {id : Nat} (hf : ∀ d, (f d).id = d.id)
    (h : ∀ d ∈ l, d.id ≠ id) : ∀ d ∈ updIf p f l, d.id ≠ id := by
  intro d hd
  obtain ⟨e, he, rfl⟩ := List.mem_map.1 hd
  split
  · rw [hf]
    exact h e he
  · exact h e he

/-- The state after an operation's fault is reported and its strand woken: the operation is gone, the fault listed, and no register
full that was empty (R36). -/
theorem failed_op (s : State) (c x : Nat) (d : DetOp) (code : Nat) (a aux : Word) (fx : Flags) (now : Nat) :
    let t := (s.failOp c x d code a aux fx).updCtx c x (fun k => k.unpark d.id now)
    t.det c x d.id = none ∧ (∀ r, t.full c x r = s.full c x r) ∧
      ∃ e ∈ (t.ctx c x).faults, e.code = code ∧ e.addr = a ∧ e.pc = d.pc ∧ e.iw = d.iw := by
  intro t
  obtain ⟨st, till, woken⟩ := unpark_eq ((s.failOp c x d code a aux fx).ctx c x) d.id now
  refine ⟨?gone, fun r => ?full, ?listed⟩
  case gone =>
    rw [State.det_eq_none, State.ctx_updCtx_self, woken]
    refine id_ne_of_mem_updIf (fun _ => rfl) ?_
    rw [State.failOp, outst_report, State.ctx_updCore _ _ _ _ _ rfl, State.ctx_updCtx_self]
    exact fun e he => by simpa using (List.mem_filter.1 he).2
  case full =>
    rw [State.full_updCtx_of _ _ _ _ _ _ _ (by rw [woken]), State.failOp, State.report,
      State.full_updCtx_of _ _ _ _ _ _ _ rfl, State.full_dropClears, State.full_updCtx_of _ _ _ _ _ _ _ rfl]
  case listed =>
    rw [State.ctx_updCtx_self, woken]
    exact ⟨_, faults_report _ c x _, rfl, rfl, rfl, rfl⟩

/-! The value of a load. -/

theorem word_lt_vec : (2 : Nat) ^ 64 < 2 ^ 1024 := Nat.pow_lt_pow_right (by decide) (by decide)

theorem toNat_ofNat_1024 {n : Nat} (h : n < 2 ^ 64) : (BitVec.ofNat 1024 n).toNat = n := by
  rw [BitVec.toNat_ofNat, Nat.mod_eq_of_lt (h.trans word_lt_vec)]

/-- A number of `w` bits, `w` at most 32, sign-extended to 64 bits (R48). -/
theorem ofInt_signed {n w : Nat} (h0 : 0 < w) (hw : w ≤ 32) (hn : n < 2 ^ w) :
    (BitVec.ofInt 64 (signed n w)).setWidth 1024 = BitVec.ofNat 1024 (if 2 ^ (w - 1) ≤ n then 2 ^ 64 - 2 ^ w + n else n) := by
  have small : 2 ^ w ≤ 2 ^ 32 := Nat.pow_le_pow_right (by decide) hw
  have wide := word_lt_vec
  apply BitVec.eq_of_toNat_eq
  rw [BitVec.toNat_setWidth, BitVec.toNat_ofInt, BitVec.toNat_ofNat, signed, if_neg (by omega), Nat.mod_eq_of_lt hn]
  congr 1
  generalize 2 ^ (w - 1) = m
  generalize 2 ^ w = p at *
  by_cases h : n < m
  · rw [if_pos h, if_neg (by omega)]
    omega
  · rw [if_neg h, if_pos (by omega)]
    omega

/-- A byte, half or word that a load read, extended as its o bit 0 says (R48, R145). -/
theorem memValue_extended {s : State} {c x : Nat} {d : DetOp} {n k : Nat} (hv : d.vals = [(0, BitVec.ofNat 1024 n)])
    (ho : d.op = 0x100 + k) (hk : k < 3) (hn : n < 2 ^ (8 * 2 ^ k)) :
    s.memValue c x d = BitVec.ofNat 1024 (if d.o % 2 = 1 ∧ 2 ^ (8 * 2 ^ k - 1) ≤ n then 2 ^ 64 - 2 ^ (8 * 2 ^ k) + n else n) := by
  have width : 8 * 2 ^ k ≤ 32 := Nat.mul_le_mul_left 8 (Nat.pow_le_pow_right (by decide) (show k ≤ 2 by omega))
  have small : n < 2 ^ 64 := hn.trans_le (Nat.pow_le_pow_right (by decide) (width.trans (by decide)))
  have read : (BitVec.ofNat 1024 n).toNat = n := toNat_ofNat_1024 small
  have positive : 0 < 8 * 2 ^ k := Nat.mul_pos (by decide) (Nat.two_pow_pos k)
  unfold State.memValue
  simp only [hv, read, ho]
  rw [if_neg (by omega), if_pos (by omega), Nat.add_sub_cancel_left]
  by_cases o : d.o % 2 = 1
  · simp only [o, beq_self_eq_true, if_true, true_and]
    exact ofInt_signed positive width hn
  · simp only [o, beq_eq_false_iff_ne.2 o, false_and, if_false, Bool.false_eq_true]

/-- A doubleword that a load read (R145). -/
theorem memValue_double {s : State} {c x : Nat} {d : DetOp} {n : Nat} (hv : d.vals = [(0, BitVec.ofNat 1024 n)]) (ho : d.op = 0x103) :
    s.memValue c x d = BitVec.ofNat 1024 n := by
  unfold State.memValue
  simp only [hv, ho, Nat.reduceDiv, Nat.reduceLT, Nat.reduceEqDiff, if_false, BitVec.ofNat_toNat, BitVec.setWidth_eq]

/-- What a load of an f register read: a single is boxed (R48, R145). -/
theorem memValue_float {s : State} {c x : Nat} {d : DetOp} {n : Nat} (hv : d.vals = [(0, BitVec.ofNat 1024 n)]) (ho : d.op = 0x104) :
    (n < 2 ^ 32 → d.o % 2 = 1 → s.memValue c x d = BitVec.ofNat 1024 (2 ^ 64 - 2 ^ 32 + n)) ∧
    (d.o % 2 = 0 → s.memValue c x d = BitVec.ofNat 1024 n) := by
  unfold State.memValue
  simp only [hv, ho]
  refine ⟨fun hn o => ?_, fun o => ?_⟩
  · have read : (BitVec.ofNat 1024 n).toNat = n := toNat_ofNat_1024 (hn.trans (by decide))
    have single : n % 4294967296 = n := Nat.mod_eq_of_lt hn
    simp [o, read, single]
  · simp only [o, Nat.reduceDiv, Nat.reduceLT, Nat.reduceEqDiff, if_false, if_true, Nat.reduceBEq, Bool.false_eq_true, BitVec.ofNat_toNat,
      BitVec.setWidth_eq]

/-- Settles O20: an operation without a rule of its own ends by `detEnd_plain`; then it has retired, or its fault stands reported. -/
theorem detachedOperationsEnd : Obligations.DetachedOperationsEnd := by
  refine ⟨fun s d => ?ends, fun s c x d n hv => ?values⟩
  case ends =>
    intro c x hd ho due free
    have same := State.det_id hd
    obtain ⟨done, fault⟩ := detEnd_plain (c := c) (x := x) ho due
    have retires (h : d.st = .done) : exec .detachedCompletion s = .next (s.endDet c x d (s.detVals c x d) d.flags) := by
      rw [execDetachedCompletion_of hd (done h), endPos_unbound free]
    have fails (code : Nat) (a aux : Word) (fx : Flags) (h : d.st = .fault code a aux fx) :=
      execDetachedCompletion_of hd (fault code a aux fx h)
    refine ⟨retires, fails, fun h r hr hf hs load => ?_, fun code a aux fx h => ?_⟩
    · have vals : s.detVals c x d = [(r, s.memValue c x d)] := by rw [detVals_load load, hr]; rfl
      obtain ⟨full, value⟩ := endDet_single s c x d (s.memValue c x d) d.flags hf hs
      refine ⟨_, retires h, ?_⟩
      rw [vals, ← same]
      exact ⟨full, det_endDet s c x d _ d.flags, value⟩
    · rw [← same]
      exact ⟨_, fails code a aux fx h, failed_op s c x d code a aux fx s.cycles⟩
  case values =>
    have extended (k : Nat) (hk : k < 3) (ho : d.op = 0x100 + k) (hn : n < 2 ^ (8 * 2 ^ k)) :=
      memValue_extended (s := s) (c := c) (x := x) hv ho hk hn
    exact ⟨extended 0 (by decide), extended 1 (by decide), extended 2 (by decide), memValue_double hv,
      fun ho => (memValue_float hv ho).1, fun ho => (memValue_float hv ho).2⟩

end Sys2Proof.Machine
end

section
/-!
SUPPORT. Notices, wake-ups and withdrawals as they arrive (R38, R39, R147), limits that run out (R39), posted faults (R144), and what
the end of a ck does to a wait (R29).
-/
namespace Sys2Proof.Machine

/-! Packets that arrive. -/

/-- The waiter of a strand's operation. -/
def Waiter.isOf (c x op : Nat) (w : Waiter) : Bool := w.core == c && w.ctx == x && w.op == op && w.kind != .park

/-- A withdrawn operation takes its fault once the reply is back (R39). -/
def State.failsBack (s : State) (c x op : Nat) (w : Waiter) (code : Nat) (a : Word) : State :=
  s.updDet c x op (fun d => ({ d with left := 0, st := .fault code a 0 0 } : DetOp).backBy (s.replyAt c w.r))

/-- The waiter of a strand's operation goes, and the strand's context acts (R39). -/
def State.unlisted (s : State) (c x op : Nat) : State :=
  { s with waiters := s.waiters.filter (fun w => !Waiter.isOf c x op w), cur := c, cx := x }

section
variable {s : State} {p : Pkt} {c x op : Nat} (h : IsNext s p)
include h

/-- A notice that is next of its pair: the operation is parked on if it is pending (R147). -/
theorem noticeStep_of (hb : p.body = .parkNotice c x op) : s.noticeStep s.ev.k =
    some ((s.dropPkt s.ev.k).updDet c x op (fun d => if d.st = .pending then { d with parked := true } else d)) := by
  obtain ⟨hn, hp⟩ := h
  cases p
  subst hb
  simp only [State.noticeStep, hn, hp, Bool.not_true, Bool.false_eq_true, if_false]

/-- A value that is next: its operation has a reply, and its strand no longer waits for it (R38). -/
theorem wakeStep_of {lane : Nat} {v : Word} (hb : p.body = .wake c x op lane v) : s.wakeStep s.ev.k =
    some (((s.dropPkt s.ev.k).updDet c x op (fun d => d.reply lane (v.setWidth 1024) 0)).updCtx c x (fun k => k.unpark op s.cycles)) := by
  obtain ⟨hn, hp⟩ := h
  cases p
  subst hb
  simp only [State.wakeStep, hn, hp, Bool.not_true, Bool.false_eq_true, if_false]

/-- A withdrawal whose waiter has gone changes nothing (R39). -/
theorem withdrawStep_gone {why : Nat} (hb : p.body = .withdraw c x op why)
    (hw : (s.dropPkt s.ev.k).waiters.find? (Waiter.isOf c x op) = none) : s.withdrawStep s.ev.k = some (s.dropPkt s.ev.k) := by
  obtain ⟨hn, hp⟩ := h
  cases p
  subst hb
  unfold Waiter.isOf at hw
  simp only [State.withdrawStep, hn, hp, hw, Bool.not_true, Bool.false_eq_true, if_false]

/-- One whose waiter is listed, and that does not come from the fallback: the waiter goes, and its operation takes WAITLIMIT, or IPI
where an interrupt released it (R39, R328). -/
theorem withdrawStep_listed {why : Nat} {w : Waiter} (hb : p.body = .withdraw c x op why)
    (hw : (s.dropPkt s.ev.k).waiters.find? (Waiter.isOf c x op) = some w) (h1 : why ≠ 1) :
    let u := (s.dropPkt s.ev.k).unlisted c x op
    (why = 2 ∨ u.ipiDue = true → s.withdrawStep s.ev.k = some ((u.updMe (fun k => { k with ipend := false })).failsBack c x op w cIpi 0)) ∧
    (¬(why = 2 ∨ u.ipiDue = true) → s.withdrawStep s.ev.k = some (u.failsBack c x op w cWaitLimit w.r.ea)) := by
  obtain ⟨hn, hp⟩ := h
  cases p
  subst hb
  unfold Waiter.isOf at hw
  have cause (u : State) : (decide (why = 2) || u.ipiDue) = true ↔ why = 2 ∨ u.ipiDue = true := by
    rw [Bool.or_eq_true, decide_eq_true_eq]
  simp only [State.withdrawStep, hn, hp, hw, h1, Bool.not_true, Bool.false_eq_true, if_false]
  exact ⟨fun k => if_pos ((cause _).2 k), fun k => if_neg (k ∘ (cause _).1)⟩

end

/-- A strand parks on an operation that is still pending (R147). -/
def DetOp.park (d : DetOp) : DetOp := if d.st = .pending then { d with parked := true } else d

theorem DetOp.parked_park {d : DetOp} (h : d.park.st = .pending) : d.park.parked = true := by
  unfold DetOp.park at h ⊢
  split at h
  · rename_i pending
    rw [if_pos pending]
  · rename_i other
    exact absurd h other

/-- The operation that a notice names is parked on, if it is pending. -/
theorem parked_of_mem_updIf {l : List DetOp} {id : Nat} {e : DetOp} (h : e ∈ updIf (fun d => d.id == id) DetOp.park l) (hid : e.id = id)
    (hst : e.st = .pending) : e.parked = true := by
  obtain ⟨d, -, rfl⟩ := List.mem_map.1 h
  by_cases same : (d.id == id) = true
  · rw [if_pos same] at hst ⊢
    exact DetOp.parked_park hst
  · rw [if_neg same] at hid
    exact absurd (beq_iff_eq.2 hid) same

/-! Limits. -/

/-- The limit of a wait that runs out at the end of a ck (R39). -/
theorem limitEnd_waiting {s : State} {c x since : Nat} {why : WaitWhy} (hst : (s.ctx c x).st = .waiting why since)
    (hlim : (s.ctx c x).wlimit ≠ 0) (hlate : since + (s.ctx c x).wlimit.toNat ≤ s.cycles) (hwhy : why.limited = true)
    (hover : s.waitOver c x why = false) (hf : (s.ctx c x).faults = []) : s.limitEnd c x = some (s.waitTrap c x why) := by
  have set : (s.ctx c x).wlimit.toNat ≠ 0 := fun k => hlim (BitVec.eq_of_toNat_eq (by simpa using k))
  unfold State.limitEnd
  simp only [hst, hwhy, hover, hf, set, Nat.not_lt.2 hlate, Bool.not_true, Bool.false_eq_true, List.isEmpty_nil, or_self, if_false]

/-- The limit of a parked strand, which asks for a withdrawal (R39). -/
theorem limitEnd_parked {s : State} {c x op since : Nat} (hst : (s.ctx c x).st = .parked op since)
    (hlim : (s.ctx c x).wlimit ≠ 0) (hlate : since + (s.ctx c x).wlimit.toNat ≤ s.cycles) : s.limitEnd c x = some (s.askBack c x op 0) := by
  have set : (s.ctx c x).wlimit.toNat ≠ 0 := fun k => hlim (BitVec.eq_of_toNat_eq (by simpa using k))
  unfold State.limitEnd
  simp only [hst, set, Nat.not_lt.2 hlate, or_self, if_false]

theorem execWaitLimitExpiry_of {s t : State} (h : ({ s with cycles := s.cycles - 1 } : State).limitEnd s.ev.core s.ev.ctx = some t) :
    exec .waitLimitExpiry s = .next { t with cycles := s.cycles } := by
  change execWaitLimitExpiry s = _
  rw [execWaitLimitExpiry, State.lastCk, h]
  rfl

/-- Where no interrupt and no fallback ends a wait with the ck, its limit does (R39, R328, R346). -/
theorem waitsEnd_of_limit {s t : State} {c x : Nat} (hi : s.ipiStep c x = none) (ho : s.overdueStep c x = none)
    (hl : s.limitEnd c x = some t) : ({ s with cycles := s.cycles + 1 } : State).waitsEnd c x = { t with cycles := s.cycles + 1 } := by
  have before : ({ s with cycles := s.cycles + 1 - 1 } : State) = s := rfl
  simp only [State.waitsEnd, State.lastCk, before, hi, ho, hl, Option.orElse_none, Option.map_some, Option.getD_some]

/-- A strand that runs or waits, with an operation parked on, is Parked from the end of the ck on (R29, R38). -/
theorem ctxEnd_parks {s : State} {c x : Nat} {k : Ctx} {d : DetOp} (hd : k.outst.find? (fun d => d.parked && d.st == .pending) = some d)
    (hst : k.st = .ready ∨ ∃ w n, k.st = .waiting w n) : s.ctxEnd c x k = { k with st := .parked d.id (s.cycles - 1) } := by
  unfold State.ctxEnd
  rcases hst with h | ⟨w, n, h⟩ <;> rw [hd, h]

/-! Posted operations. -/

/-- A posted operation's fault is reported with what the operation captured, and the operation is gone (R144). -/
theorem postedFault_of {s : State} {c x id code : Nat} {a aux : Word} {fx : Flags} {d : PostOp}
    (hd : (s.ctx c x).posted.find? (fun d => d.id == id) = some d) (hst : d.st = .fault code a aux fx) :
    ∃ t, s.postedFault c x id = some t ∧ (∀ e ∈ (t.ctx c x).posted, e.id ≠ id) ∧
      ∃ e ∈ (t.ctx c x).faults, e.code = code ∧ e.addr = a ∧ e.pc = d.pc ∧ e.iw = d.iw ∧ e.post = true ∧ e.yret = d.yret := by
  unfold State.postedFault
  rw [hd]
  simp only [hst]
  refine ⟨_, rfl, fun e he => ?gone, _, faults_report _ c x _, rfl, rfl, rfl, rfl, rfl, rfl⟩
  case gone =>
    rw [State.report, State.ctx_updCtx_self, State.ctx_updCtx_self] at he
    simpa using (List.mem_filter.1 he).2

/-- Settles O21: a packet that is next does what its step says; limits and faults likewise. -/
theorem parkedAndWaitingStrands : Obligations.ParkedAndWaitingStrands := by
  refine ⟨fun s p c x op h => ?arrivals, fun s => ?limits, fun s t c x k d => ⟨waitsEnd_of_limit, ctxEnd_parks⟩⟩
  case arrivals =>
    intro t mine
    have arrives {f : State → Option State} {u : State} (e : f s = some u) :
        (.next ((f s).getD s) : Host.Outcome State Fault Refusal) = .next u := by rw [e, Option.getD_some]
    refine ⟨fun hb => ?_, fun lane v hb => arrives (f := fun s => s.wakeStep s.ev.k) (wakeStep_of h hb),
      fun why hb hw => arrives (f := fun s => s.withdrawStep s.ev.k) (withdrawStep_gone h hb hw), fun why w hb hw h1 => ?_⟩
    · refine ⟨_, arrives (f := fun s => s.noticeStep s.ev.k) (noticeStep_of h hb), ?_, ?_⟩
      · rw [State.updDet, State.ctx_updCtx_self]
        rfl
      · rw [State.updDet, State.ctx_updCtx_self]
        exact fun e he => parked_of_mem_updIf he
    · obtain ⟨interrupted, limited⟩ := withdrawStep_listed h hb hw h1
      intro u v fails
      refine ⟨fun h2 hi => arrives (f := fun s => s.withdrawStep s.ev.k) (limited ?_),
        fun k => arrives (f := fun s => s.withdrawStep s.ev.k) (interrupted k)⟩
      exact not_or.2 ⟨h2, Bool.eq_false_iff.1 hi⟩
  case limits =>
    intro c x k old late
    refine ⟨fun why since hst ⟨hlim, hlate⟩ hwhy hover hf => execWaitLimitExpiry_of (limitEnd_waiting hst hlim hlate hwhy hover hf),
      fun op since hst ⟨hlim, hlate⟩ => execWaitLimitExpiry_of (limitEnd_parked hst hlim hlate), fun d code a aux fx hd hst => ?_⟩
    obtain ⟨t, e, rest⟩ := postedFault_of hd hst
    refine ⟨t, ?_, rest⟩
    change execPostedFaultReport s = _
    rw [execPostedFaultReport, e, Option.getD_some]

end Sys2Proof.Machine
end

section
/-!
SUPPORT. A fetch of a code line (R67, R80) changes memory, caches and directories, and no context.
-/
namespace Sys2Proof.Machine

theorem SameCtxs.me {s t : State} (h : SameCtxs s t) : t.me = s.me := by
  obtain ⟨hcur, hcx, -, hctx⟩ := h
  unfold State.me
  rw [hcur, hcx, hctx]

/-- What a step that also answers does to its state, once its result is known. -/
theorem SameCtxs.of_fst {α : Type} {s t : State} {r : State × α} {a : α} (h : SameCtxs s r.1) (e : r = (t, a)) : SameCtxs s t := by
  rw [e] at h
  exact h

theorem sameCtxs_foldl {α : Type} {f : State → α → State} (h : ∀ s a, SameCtxs s (f s a)) (l : List α) (s : State) :
    SameCtxs s (l.foldl f s) := by
  induction l generalizing s with
  | nil => exact SameCtxs.refl s
  | cons a l ih => exact (h s a).trans (ih _)

theorem sameCtxs_updCore (s : State) (c : Nat) (g : Core → Core) (hg : (g (s.core c)).ctxs = (s.core c).ctxs) : SameCtxs s (s.updCore c g) :=
  ⟨rfl, rfl, rfl, fun d y => s.ctx_updCore c d y g hg⟩

/-! Translation. -/

theorem sameCtxs_setPhys (s : State) (tgt : Nat) (m : Mem) : SameCtxs s (s.setPhys tgt m) := by
  unfold State.setPhys
  split
  · exact ⟨rfl, rfl, rfl, fun _ _ => rfl⟩
  · split <;> exact ⟨rfl, rfl, rfl, fun _ _ => rfl⟩

theorem sameCtxs_newPage (s : State) (pid asid va : Nat) (lf : Leaf) : SameCtxs s (s.newPage pid asid va lf) := by
  unfold State.newPage
  dsimp only
  split
  · exact SameCtxs.refl s
  · have mapped (m : TMap (Option Nat)) : SameCtxs s { s with pages := m } := ⟨rfl, rfl, rfl, fun _ _ => rfl⟩
    split
    · exact mapped _
    · exact (mapped _).trans (sameCtxs_setPhys _ _ _)

theorem sameCtxs_leaf (s : State) (pid asid va : Nat) : SameCtxs s (s.leaf pid asid va).1 := by
  unfold State.leaf
  dsimp only
  split
  · exact SameCtxs.refl s
  · split
    · split
      · exact ⟨rfl, rfl, rfl, fun _ _ => rfl⟩
      · exact SameCtxs.refl s
    · have held (t : State) (l : List TlbEnt) (w : List WalkEnt) : SameCtxs t { t with tlb := l, wcache := w } := ⟨rfl, rfl, rfl, fun _ _ => rfl⟩
      exact (sameCtxs_newPage s pid asid va _).trans (held _ _ _)

theorem sameCtxs_setAD (s : State) (pte : Nat) (d : Bool) : SameCtxs s (s.setAD pte d) := by
  unfold State.setAD
  generalize (if d then 0x180 else 0x80 : Word) = m
  dsimp only
  split <;> exact ⟨rfl, rfl, rfl, fun _ _ => rfl⟩

theorem sameCtxs_translate (s : State) (pid asid va : Nat) (acc : AccKind) (user : Bool) :
    SameCtxs s (s.translate pid asid va acc user).1 := by
  have walked := sameCtxs_leaf s pid asid va
  unfold State.translate
  split
  · rename_i h
    exact walked.of_fst h
  · rename_i h
    dsimp only
    split
    · exact walked.of_fst h
    · split
      · exact walked.of_fst h
      · split
        · exact walked.of_fst h
        · exact (walked.of_fst h).trans (sameCtxs_setAD _ _ _)

theorem sameCtxs_primary (s : State) (pid : Nat) (lf : Leaf) : SameCtxs s (s.primary pid lf).1 := by
  have walked := sameCtxs_leaf s pid (fld lf.e 52 10) (fld lf.e 16 36 * 2 ^ 16)
  unfold State.primary
  dsimp only
  split
  · rename_i h
    exact walked.of_fst h
  · rename_i h
    split <;> exact walked.of_fst h

/-- An entry of the remap filter refuses an access, or leads it on and is marked (R353, R357). -/
theorem sameCtxs_led (s : State) (refused kept : Bool) (pte : Nat) (d : Bool) (m : List RemapEnt) (p : Nat × Nat) :
    SameCtxs s (if refused then (s, (.error cPerm : Except Nat (Nat × Nat)))
      else (if kept then s else { s.setAD pte d with remap := m }, .ok p)).1 := by
  cases refused
  · cases kept
    · exact (sameCtxs_setAD s pte d).trans ⟨rfl, rfl, rfl, fun _ _ => rfl⟩
    · exact SameCtxs.refl s
  · exact SameCtxs.refl s

theorem sameCtxs_redirect (s : State) (pid asid va : Nat) (acc : AccKind) (user : Bool) : SameCtxs s (s.redirect pid asid va acc user).1 := by
  have walked := sameCtxs_leaf s pid asid va
  unfold State.redirect
  dsimp only
  split
  · exact SameCtxs.refl s
  · exact sameCtxs_led s _ _ _ _ _ _
  · split
    · rename_i h
      exact walked.of_fst h
    · rename_i t lf h
      refine (walked.of_fst h).trans ?_
      split
      · exact SameCtxs.refl t
      · have named := sameCtxs_primary t pid lf
        split
        · rename_i h'
          exact named.of_fst h'
        · rename_i u pasid pva pe h'
          have entered (m : List RemapEnt) : SameCtxs u { u with remap := m } := ⟨rfl, rfl, rfl, fun _ _ => rfl⟩
          exact ((named.of_fst h').trans (entered _)).trans (sameCtxs_led _ _ _ _ _ _ _)

/-! Slices and directories. -/

theorem sameCtxs_post (s : State) (pid : Nat) (e : HostEvt) : SameCtxs s (s.post pid e) := ⟨rfl, rfl, rfl, fun _ _ => rfl⟩

theorem sameCtxs_putL1 (s : State) (c key : Nat) (l : Option L1Line) : SameCtxs s (s.putL1 c key l) := sameCtxs_updCore s c _ rfl

theorem sameCtxs_putSlice (s : State) (key : Nat) (l : Option SLine) : SameCtxs s (s.putSlice key l) := ⟨rfl, rfl, rfl, fun _ _ => rfl⟩

theorem sameCtxs_shed (s : State) (key c : Nat) : SameCtxs s (s.shed key c) := by
  unfold State.shed
  split
  · split
    · exact (sameCtxs_putL1 s c key _).trans (sameCtxs_post _ _ _)
    · exact SameCtxs.refl s
  · exact SameCtxs.refl s

theorem sameCtxs_shedOthers (s : State) (key c : Nat) : SameCtxs s (s.shedOthers key c) := by
  refine sameCtxs_foldl (fun s k => ?_) _ s
  split
  · exact SameCtxs.refl s
  · exact sameCtxs_shed s key k

theorem sameCtxs_recall (s : State) (key : Nat) : SameCtxs s (s.recall key) := by
  have shed := sameCtxs_shedOthers s key Config.nCores
  unfold State.recall
  dsimp only
  split
  · exact shed
  · exact (shed.trans (sameCtxs_foldl (fun s c => sameCtxs_putL1 s c key none) _ _)).trans (sameCtxs_putSlice _ _ _)

theorem sameCtxs_toMemory (s : State) (key : Nat) (sl : SLine) : SameCtxs s (s.toMemory key sl) := by
  have walked := sameCtxs_translate s (keyPid key) (keyAsid key) (keyVa key) .writeBack false
  unfold State.toMemory
  split
  · exact SameCtxs.refl s
  · split
    · exact sameCtxs_post s _ _
    · split
      · rename_i h
        exact (walked.of_fst h).trans (sameCtxs_post _ _ _)
      · rename_i h
        exact (walked.of_fst h).trans (sameCtxs_setPhys _ _ _)

theorem sameCtxs_evict (s : State) (key : Nat) : SameCtxs s (s.evict key) := by
  have recalled := sameCtxs_recall s key
  unfold State.evict
  dsimp only
  split
  · exact recalled
  · exact (recalled.trans (sameCtxs_toMemory _ key _)).trans (sameCtxs_putSlice _ _ _)

theorem sameCtxs_sliceRoom (s : State) (key : Nat) : SameCtxs s (s.sliceRoom key) := by
  unfold State.sliceRoom
  dsimp only
  split
  · exact SameCtxs.refl s
  · split
    · exact sameCtxs_evict s _
    · exact SameCtxs.refl s

theorem sameCtxs_settleLine (s : State) (key lease : Nat) : SameCtxs s (s.settleLine key lease) := by
  unfold State.settleLine
  split
  · exact sameCtxs_sliceRoom s key
  · exact SameCtxs.refl s

theorem sameCtxs_bringLine (s : State) (pid asid va : Nat) (acc : AccKind) (user : Bool) (lease : Nat) :
    SameCtxs s (s.bringLine pid asid va acc user lease).1 := by
  unfold State.bringLine
  dsimp only
  split
  · exact (sameCtxs_settleLine s _ lease).trans (sameCtxs_putSlice _ _ _)
  · have walked := sameCtxs_translate s pid asid va (if acc = .write ∧ (s.slice (lineKey pid asid va)).isNone then .atomic else acc) user
    split
    · rename_i h
      exact walked.of_fst h
    · rename_i h
      split
      · exact ((walked.of_fst h).trans (sameCtxs_settleLine _ _ lease)).trans (sameCtxs_putSlice _ _ _)
      · refine (walked.of_fst h).trans ?_
        split
        · exact sameCtxs_putSlice _ _ _
        · exact (sameCtxs_sliceRoom _ _).trans (sameCtxs_putSlice _ _ _)

theorem sameCtxs_reach (s : State) (w : Who) (va : Nat) (acc : AccKind) (lease : Nat) : SameCtxs s (s.reach w va acc lease).1 := by
  have led := sameCtxs_redirect s w.pid w.asid va acc w.user
  unfold State.reach
  split
  · rename_i h
    exact led.of_fst h
  · rename_i t asid va' h
    have brought := sameCtxs_bringLine t w.pid asid va' acc w.user lease
    split
    · rename_i h'
      exact (led.of_fst h).trans (brought.of_fst h')
    · rename_i h'
      exact (led.of_fst h).trans (brought.of_fst h')

/-- A fetch fills the instruction cache and touches no context (R67, R80). -/
theorem sameCtxs_fetch (s : State) (c x : Nat) : SameCtxs s (s.fetch c x).1 := by
  have reached := sameCtxs_reach s (s.whoOf c x .strand) (s.ctx c x).pc.toNat .fetch 3
  unfold State.fetch
  dsimp only
  split
  · exact SameCtxs.refl s
  · split
    · exact SameCtxs.refl s
    · split
      · exact SameCtxs.refl s
      · split
        · rename_i h
          exact reached.of_fst h
        · rename_i h
          split
          · exact reached.of_fst h
          · exact reached.of_fst h
          · split
            · exact reached.of_fst h
            · exact (reached.of_fst h).trans (sameCtxs_updCore _ c _ rfl)

end Sys2Proof.Machine
end

section
/-!
SUPPORT. What a step runs (R31, R63 to R67): the context that it issues from is Ready, and what that context presents goes on.
-/
namespace Sys2Proof.Machine

/-! What each row comes to. -/

/-- An instruction of a context that holds a strand goes on. -/
theorem issue_goesOn {s : State} (h : s.me.st ≠ .free) {i : Instr} {body : State → Shape → Eff}
    (e : exec i s = issue i s body) : GoesOn (exec i s) := by
  rw [e]
  unfold issue
  split
  · exact ⟨_, rfl⟩
  · split
    · rename_i free
      exact absurd free h
    · exact ⟨_, rfl⟩
    · exact ⟨_, rfl⟩

/-- So does a word that is no instruction, or of a malformed line (R65, R67). -/
theorem noInstruction_goesOn {s : State} (h : s.me.st ≠ .free) :
    GoesOn (exec .issueIllegalOpcode s) ∧ GoesOn (exec .issueMalformedLine s) := by
  change GoesOn (execIssueIllegalOpcode s) ∧ GoesOn (execIssueMalformedLine s)
  unfold execIssueIllegalOpcode execIssueMalformedLine
  cases hst : s.me.st with
  | free => exact absurd hst h
  | parked _ _ => exact ⟨⟨_, rfl⟩, ⟨_, rfl⟩⟩
  | ready => exact ⟨⟨_, rfl⟩, ⟨_, rfl⟩⟩
  | waiting _ _ => exact ⟨⟨_, rfl⟩, ⟨_, rfl⟩⟩

/-- And a fetch that faults (R67). -/
theorem fetchFault_goesOn {s : State} (h : s.me.st ≠ .free) : GoesOn (exec .fetchFault s) := by
  change GoesOn (execFetchFault s)
  unfold execFetchFault
  split
  · rename_i free
    exact absurd free h
  · exact ⟨_, rfl⟩
  · split <;> exact ⟨_, rfl⟩

theorem leaseExpiryCheck_goesOn (s : State) : GoesOn (exec .leaseExpiryCheck s) := by
  change GoesOn (execLeaseExpiryCheck s)
  unfold execLeaseExpiryCheck
  dsimp only
  split <;> split <;> exact ⟨_, rfl⟩

theorem softErrorDetected_goesOn (s : State) : GoesOn (exec .softErrorDetected s) := by
  change GoesOn (execSoftErrorDetected s)
  unfold execSoftErrorDetected
  split
  · exact ⟨_, rfl⟩
  · split
    · exact ⟨_, rfl⟩
    · split <;> exact ⟨_, rfl⟩

theorem coldReset_goesOn (s : State) : GoesOn (exec .coldReset s) := by
  change GoesOn (execColdReset s)
  unfold execColdReset
  split <;> exact ⟨_, rfl⟩

theorem hostPartitionCreate_goesOn (s : State) : GoesOn (exec .hostPartitionCreate s) := by
  change GoesOn (execHostPartitionCreate s)
  unfold execHostPartitionCreate
  split <;> exact ⟨_, rfl⟩

/-- Every event goes on; every other row does for a context that holds a strand. -/
theorem exec_goesOn (i : Instr) : (∀ s, GoesOn (exec i s)) ∨ (isEvent i = false ∧ ∀ s : State, s.me.st ≠ .free → GoesOn (exec i s)) := by
  cases i
  case issueIllegalOpcode => exact .inr ⟨by simp [isEvent], fun _ h => (noInstruction_goesOn h).1⟩
  case issueMalformedLine => exact .inr ⟨by simp [isEvent], fun _ h => (noInstruction_goesOn h).2⟩
  case fetchFault => exact .inr ⟨by simp [isEvent], fun _ h => fetchFault_goesOn h⟩
  case leaseExpiryCheck => exact .inl leaseExpiryCheck_goesOn
  case softErrorDetected => exact .inl softErrorDetected_goesOn
  case coldReset => exact .inl coldReset_goesOn
  case hostPartitionCreate => exact .inl hostPartitionCreate_goesOn
  case contextBind | detachedCompletion | memoryRequestAtHome | parkNotice | wakeupArrival | waitLimitExpiry | withdrawalAtHome |
      postedFaultReport | trapEntry | safepointOverdue | preemptionRequest | dequeEntryTakeable | stealProbe | sorusArrival |
      sorusRefill | sorusOfferExpiry | joinAtCounter | joinDecrement | parkRecordAtHome | cellSplit | syncWordArrival |
      streamFloat | streamHop | streamElementRead | consumeMessage | streamRecallArrival | tileTaskAccept |
      tileTaskDependenceReady | subtileComplete | tileTaskPause | tileTaskComplete | copyCommandAccept | copyRunStart |
      copyArrivalSend | copyCompletion | reductionContribution | reductionResultArrival | reductionTimeout | resolveAtSlice |
      resolveAtCore | ipiDelivery | launchAccept | launchSlotPoll | launchEntryPush | launchPrefetch | launchEnd | eventPost |
      pageWalk | remapFilterMiss | directoryReadMiss | ownershipRequest | l1WriteBack | sliceEviction | extensionRequest |
      hostM2sRequest | h2dSnoop | expanderBisnp | coreRetirement | transportPacketReceive | transportResendTimeout | laneFailure |
      firmwareSwitch | powerSample | throttleStep | rhizoidForcedFallback | recalibration | asidAllotmentEnd | hostBisnpReply |
      lineFetchArrival =>
    exact .inl (fun s => ⟨_, rfl⟩)
  all_goals exact .inr ⟨rfl, fun s h => issue_goesOn h rfl⟩

/-! What a context presents. -/

/-- The context that the wheel picks is Ready (R29, R31). -/
theorem ready_of_wheelPick {s : State} {c x : Nat} (h : s.wheelPick c = some x) : (s.ctx c x).st = .ready := by
  have ready : s.ready c x = true := by
    unfold State.wheelPick at h
    dsimp only at h
    split at h
    · exact absurd h (by simp)
    · split at h
      · rename_i y hy
        obtain rfl := Option.some.inj h
        have picked := List.find?_some hy
        exact (Bool.and_eq_true_iff.1 picked).2
      · have picked := List.find?_some h
        simp only [Bool.and_eq_true] at picked
        exact picked.1.2
  unfold State.ready at ready
  simpa using (Bool.and_eq_true_iff.1 ready).1

/-- The issue wheel of some core has picked what a step issues from, by choice or because the ck may not end before it. -/
theorem wheelPick_of_issuer {s : State} {c x : Nat} (h : s.issuer = some (c, x)) : s.wheelPick c = some x := by
  obtain ⟨e, -, he⟩ := List.exists_of_findSome?_eq_some h
  obtain ⟨y, hy, hp⟩ := Option.map_eq_some_iff.1 he
  obtain ⟨rfl, rfl⟩ := Prod.mk.inj hp
  exact hy

theorem wheelPick_of_mustIssue {s : State} {c x : Nat} (h : s.mustIssue = some (c, x)) : s.wheelPick c = some x := by
  obtain ⟨e, -, he⟩ := List.exists_of_findSome?_eq_some h
  obtain ⟨y, hy, hp⟩ := Option.bind_eq_some_iff.1 he
  split at hp
  · exact absurd hp (by simp)
  · obtain ⟨rfl, rfl⟩ := Prod.mk.inj (Option.some.inj hp)
    exact hy

/-- What a context presents it runs as itself: finding it has changed no context. -/
theorem present_me (s : State) (c x : Nat) : (s.present c x).1.me = s.ctx c x := by
  have fetched := sameCtxs_fetch { s with cur := c, cx := x } c x
  unfold State.present
  dsimp only
  split
  · rfl
  · split
    · rename_i h
      exact (fetched.of_fst h).me
    · rename_i h
      exact (fetched.of_fst h).me

/-- A context that replays nothing presents the head at its PC of the line that it fetches (R63 to R67). -/
theorem present_of_fetch {s t : State} {c x : Nat} {l : Line} (hr : ({ s with cur := c, cx := x } : State).replay = none)
    (hf : ({ s with cur := c, cx := x } : State).fetch c x = (t, .ok l)) :
    s.present c x = ({ t with iw := iwAt l (fld (s.ctx c x).pc 1 5 - 1), iwH := lineH l }, decodeAt l (fld (s.ctx c x).pc 1 5 - 1)) := by
  obtain ⟨-, -, -, same⟩ := (sameCtxs_fetch { s with cur := c, cx := x } c x).of_fst hf
  have pc : (t.ctx c x).pc = (s.ctx c x).pc := congrArg Ctx.pc (same c x)
  unfold State.present
  dsimp only
  rw [hr]
  dsimp only
  rw [hf]
  dsimp only
  rw [pc]

theorem issueFrom_goesOn {s : State} {c x : Nat} (h : s.wheelPick c = some x) : GoesOn (issueFrom s c x) := by
  have holds : (s.present c x).1.me.st ≠ .free := by
    rw [present_me, ready_of_wheelPick h]
    exact CtxSt.noConfusion
  rcases exec_goesOn (s.present c x).2 with goes | ⟨-, goes⟩
  · exact goes _
  · exact goes _ holds

theorem issueFrom_of_fetch {s t : State} {c x : Nat} {l : Line} (hr : ({ s with cur := c, cx := x } : State).replay = none)
    (hf : ({ s with cur := c, cx := x } : State).fetch c x = (t, .ok l)) :
    issueFrom s c x = exec (decodeAt l (fld (s.ctx c x).pc 1 5 - 1)) { t with iw := iwAt l (fld (s.ctx c x).pc 1 5 - 1), iwH := lineH l } := by
  unfold issueFrom
  rw [present_of_fetch hr hf]

/-! The step. -/

theorem stepOf_goesOn (c : Sched) (s : State) : GoesOn (stepOf c s) := by
  cases c with
  | event i e =>
    unfold stepOf
    dsimp only
    split
    · rename_i event
      rcases exec_goesOn i with goes | ⟨none, -⟩
      · exact goes _
      · exact absurd (none.symm.trans event) Bool.false_ne_true
    · exact ⟨_, rfl⟩
  | issue core =>
    unfold stepOf
    dsimp only
    split
    · rename_i h
      exact issueFrom_goesOn h
    · exact ⟨_, rfl⟩
  | tick =>
    unfold stepOf
    dsimp only
    split
    · rename_i c x h
      have picked : ({ s with schedule := .tick :: s.schedule } : State).wheelPick c = some x := wheelPick_of_mustIssue (s := s) h
      exact issueFrom_goesOn picked
    · exact ⟨_, rfl⟩

/-- Settles O54: an event always goes on, and an issue does since its context is Ready, so that it holds a strand. -/
theorem everyStepGoesOn : Obligations.EveryStepGoesOn := by
  intro s
  unfold step
  split
  · exact stepOf_goesOn _ _
  · split
    · exact ⟨_, rfl⟩
    · split
      · rename_i h
        exact issueFrom_goesOn (wheelPick_of_issuer h)
      · exact ⟨_, rfl⟩

/-- A step with choices left takes the first. -/
theorem step_of_schedule {s : State} {c : Sched} {rest : List Sched} (h : s.schedule = c :: rest) :
    step s = stepOf c { s with schedule := rest } := by
  unfold step
  rw [h]

/-- Without choices left and with no event due, a step issues where it can, and ends the ck where it cannot (R31). -/
theorem step_of_nothing_due {s : State} (h : s.schedule = []) (hd : s.due s.candidates = none) :
    (∀ c x, s.issuer = some (c, x) → step s = issueFrom s c x) ∧ (s.issuer = none → step s = .next (endCk s)) := by
  unfold step
  rw [h]
  dsimp only
  rw [hd]
  exact ⟨fun c x pick => by rw [pick], fun pick => by rw [pick]⟩

/-- Settles O55: each choice of `step` is unfolded, and what is issued is what the context presents. -/
theorem stepRunsTheInstruction : Obligations.StepRunsTheInstruction := by
  intro s t c x l
  refine ⟨fun rest h pick hr hf => ?issue, fun h hd pick hr hf => ?free, fun rest i e h event => ?event, fun rest h must hr hf => ?must,
    fun rest h must => ?tick, fun h hd pick => ?ends⟩
  case issue =>
    rw [step_of_schedule h, ← issueFrom_of_fetch hr hf]
    have picked : ({ s with schedule := rest } : State).wheelPick c = some x := pick
    unfold stepOf
    dsimp only
    rw [picked]
  case free => rw [(step_of_nothing_due h hd).1 c x pick, ← issueFrom_of_fetch hr hf]
  case event =>
    rw [step_of_schedule h]
    exact if_pos event
  case must =>
    have whole : ({ s with schedule := .tick :: rest } : State) = s := by rw [← h]
    rw [step_of_schedule h, ← issueFrom_of_fetch hr hf]
    unfold stepOf
    dsimp only
    rw [must]
    dsimp only
    rw [whole]
  case tick =>
    rw [step_of_schedule h]
    unfold stepOf
    dsimp only
    rw [must]
  case ends => exact (step_of_nothing_due h hd).2 pick

end Sys2Proof.Machine
end

section
/-!
SUPPORT. What keeps an instruction from its own effect: what its context and level forbid (R245, R324), a register that it waits for
(R37, R39, R41), and a word that is no instruction or was not fetched (R65, R67, R368, R370).
-/
namespace Sys2Proof.Machine

/-- The context that issues holds a strand and is not Parked (R29). -/
abbrev State.Here (s : State) : Prop := s.me.st = .ready ∨ ∃ w n, s.me.st = .waiting w n

/-- An instruction row of such a context takes its issue opportunity. -/
theorem issue_here {i : Instr} {s : State} {sh : Shape} (hsh : i.shape s.flds = some sh) (h : s.Here) (body : State → Shape → Eff) :
    issue i s body = .next ((s.withIw sh).issueStep sh body) := by
  unfold issue
  rw [hsh]
  rcases h with hst | ⟨w, n, hst⟩ <;> rw [hst]

/-- With nothing due before it, what it comes to is settled. -/
theorem issueStep_go {s : State} {sh : Shape} (h : s.gate sh = .go) (body : State → Shape → Eff) :
    s.issueStep sh body = s.settle sh (s.effOf sh body) := by
  unfold State.issueStep
  rw [h]

/-! Majors and minors that the context or the level forbids. -/

theorem early_of_illegal {s : State} {sh : Shape} (h : legalHere s.cx sh.op = false) : s.early sh = some cIllegal := by
  unfold State.early
  rw [h]
  rfl

theorem early_of_level {s : State} {sh : Shape} (h : legalHere s.cx sh.op = true) (hl : s.me.level.toNat < needLevel sh) :
    s.early sh = some cPriv := by
  unfold State.early
  rw [h, if_neg (by decide), if_pos hl]

/-- A fault that the operands do not decide is taken, whatever the instruction (R36, R375). -/
theorem issueStep_early {s : State} {sh : Shape} {c : Nat} (hg : s.gate sh = .go) (h : s.early sh = some c) (body : State → Shape → Eff) :
    s.issueStep sh body = (s.emptyDests sh).issueTrap (some sh) c 0 0 0 := by
  rw [issueStep_go hg, State.effOf, h]
  rfl

/-- Every minor of major 0x3E but 0x3E0 needs a level above user level (R324). -/
theorem needLevel_privileged {sh : Shape} (h : sh.op / 16 = 0x3E) (h0 : sh.op ≠ 0x3E0) : 0 < needLevel sh := by
  unfold needLevel
  rw [if_pos h, if_neg h0]
  split <;> decide

/-- Some of them need the device level (R324, R326). -/
theorem needLevel_device {sh : Shape} (h : sh.op = 0x3E9 ∨ (sh.op = 0x3E4 ∧ sh.f.o = 1)) : needLevel sh = 2 := by
  have major : sh.op / 16 = 0x3E ∧ sh.op ≠ 0x3E0 := by
    rcases h with h | ⟨h, -⟩ <;> rw [h] <;> decide
  unfold needLevel
  rw [if_pos major.1, if_neg major.2, if_pos h]

/-! Empty registers. -/

/-- A source that is read and empty is one that the instruction waits for. -/
theorem mem_emptyRegs {s : State} {sh : Shape} {c : Nat} {m : Mark} (hr : s.me.rett = none) (hc : (c, m) ∈ readsOf sh) (hm : m ≠ .last)
    (he : s.full s.cur s.cx c = false) : c ∈ s.emptyRegs sh := by
  refine List.mem_map.2 ⟨(c, m), List.mem_filter.2 ⟨hc, ?_⟩, rfl⟩
  simp [hm, he, State.replay, hr]

/-- What an instruction waits for is a register that it reads, and that is empty or claimed (R37, R41). -/
theorem of_mem_emptyRegs {s : State} {sh : Shape} {r : Nat} (h : r ∈ s.emptyRegs sh) :
    (s.full s.cur s.cx r = false ∨ s.claimed s.cur s.cx r = true) ∧ ∃ m, (r, m) ∈ readsOf sh := by
  obtain ⟨⟨r', m⟩, he, rfl⟩ := List.mem_map.1 h
  obtain ⟨hr, held⟩ := List.mem_filter.1 he
  refine ⟨?_, m, hr⟩
  simp only [Bool.and_eq_true, Bool.not_eq_true', Bool.and_eq_false_iff, Bool.not_eq_false'] at held
  obtain ⟨⟨-, empty | ⟨-, claimed⟩⟩, -⟩ := held
  · exact .inl empty
  · exact .inr claimed

/-- With nothing outstanding, only an empty register keeps an instruction back (R34, R37). -/
theorem blocked_of_idle {s : State} {sh : Shape} (h : s.me.outst = []) : s.blocked sh = (s.emptyRegs sh).head?.map .reg := by
  have none_written : (writesOf sh).find? (fun _ => false) = none := by simp
  unfold State.blocked
  simp [h, none_written]

/-- A strand that has nothing to take and is no orphan issues unless something blocks the instruction (R270, R286, R375). -/
theorem gate_of_blocked {s : State} {sh : Shape} {w : WaitWhy} (he : s.me.ending = false) (hf : s.me.faults = []) (hp : s.me.pos = none)
    (ho : s.myEff.isSome = true) (hb : s.blocked sh = some w) : s.gate sh = .wait w := by
  obtain ⟨n, hn⟩ := Option.isSome_iff_exists.1 ho
  have stays : s.me.leaving = false := by rw [Ctx.leaving, hp]; rfl
  unfold State.gate
  simp [he, hf, stays, hn, hb]

/-- A wait that no interrupt and no fallback comes before is entered (R375). -/
theorem waitOr_calm {s : State} {w : WaitWhy} (ho : s.overdue = none) (hi : s.ipiDue = false) : s.waitOr w = s.enterWait w := by
  unfold State.waitOr
  rw [ho, hi, ite_self]
  rfl

/-! Words that are no instruction. -/

theorem legalHere_noInstruction (x : Nat) : legalHere x 0xFFE = true ∧ legalHere x 0xFFF = true ∧ legalHere x 0 = true := by
  unfold legalHere
  by_cases h : x = 15 <;> simp [h]

/-- An issue opportunity for a word that is no instruction, in a context that may take its fault: nothing is read or cleared. -/
theorem effOf_noShape {s : State} {op : Nat} (hr : readsOf (noShape op) = []) (hl : legalHere s.cx op = true) (hn : needLevel (noShape op) = 0)
    (ho : op ≠ 0x056) (body : State → Shape → Eff) : s.effOf (noShape op) body = body (s.countIssue true) (noShape op) := by
  have early : s.early (noShape op) = none := by
    have op_ne : (noShape op).op ≠ 0x056 := ho
    unfold State.early
    rw [hn, if_neg (by simp [noShape, hl]), if_neg (Nat.not_lt_zero _), if_neg op_ne]
  have sound : s.badReg (noShape op) = none := by
    rw [State.badReg, State.badRegs, hr]
    rfl
  have unmarked : s.clearMarks (noShape op) = s := by
    rw [State.clearMarks, hr]
    rfl
  unfold State.effOf
  rw [early, sound, unmarked]
  rfl

/-- Counting an issue leaves the PC. -/
theorem countIssue_pc (s : State) (b : Bool) : (s.countIssue b).me.pc = s.me.pc ∧ (s.countIssue b).pcNow = s.pcNow := by
  have counted : (s.countIssue b).me = s.me.counted b.toNat := s.me_updMe _
  refine ⟨by rw [counted]; rfl, ?_⟩
  unfold State.pcNow State.replay
  rw [counted]
  rfl

/-- A word that is no instruction takes ILLEGAL at its PC where nothing else is due (R65, R375). -/
theorem issueIllegalOpcode_traps {s : State} (here : s.Here) (due : s.gate (noShape 0xFFF) = .go) (legal : legalHere s.cx 0xFFF = true) :
    exec .issueIllegalOpcode s = .next (s.issueTrap (some (noShape 0xFFF)) cIllegal s.pcNow 0 0) := by
  change execIssueIllegalOpcode s = _
  unfold execIssueIllegalOpcode
  have step : s.issueStep (noShape 0xFFF) (fun s _ => .flt cIllegal s.pcNow) = s.issueTrap (some (noShape 0xFFF)) cIllegal s.pcNow 0 0 := by
    rw [issueStep_go due, effOf_noShape rfl legal rfl (by decide), (countIssue_pc s true).2]
    rfl
  rcases here with h | ⟨w, n, h⟩ <;> rw [h] <;> exact congrArg Host.Outcome.next step

/-- A head of a malformed line, or one beyond its line, takes LINE: the first as an instruction, the other as what a fetch came to
(R65, R67). -/
theorem issueMalformedLine_traps {s : State} (here : s.Here) (due : s.gate (noShape 0xFFE) = .go) (legal : legalHere s.cx 0xFFE = true) :
    (s.iw ≠ 0 → exec .issueMalformedLine s = .next (s.issueTrap (some (noShape 0xFFE)) cLine s.pcNow 0 0)) ∧
    (s.iw = 0 → exec .issueMalformedLine s = .next (s.fetchTrap cLine s.me.pc)) := by
  change (_ → execIssueMalformedLine s = _) ∧ (_ → execIssueMalformedLine s = _)
  unfold execIssueMalformedLine
  have runs : s.issueStep (noShape 0xFFE) (fun s _ => if s.iw = 0 then .noFetch cLine s.me.pc else .flt cLine s.pcNow) =
      s.settle (noShape 0xFFE) (if s.iw = 0 then .noFetch cLine s.me.pc else .flt cLine s.pcNow) := by
    have word : (s.countIssue true).iw = s.iw := rfl
    rw [issueStep_go due, effOf_noShape rfl legal rfl (by decide), word, (countIssue_pc s true).1, (countIssue_pc s true).2]
  refine ⟨fun h => ?_, fun h => ?_⟩
  · have step := runs.trans (congrArg (s.settle (noShape 0xFFE)) (if_neg h))
    rcases here with hst | ⟨w, n, hst⟩ <;> rw [hst] <;> exact congrArg Host.Outcome.next step
  · have step := runs.trans (congrArg (s.settle (noShape 0xFFE)) (if_pos h))
    rcases here with hst | ⟨w, n, hst⟩ <;> rw [hst] <;> exact congrArg Host.Outcome.next step

/-- A fetch that faults traps without an instruction (R67). -/
theorem fetchFault_traps {s t : State} {c : Nat} {a : Word} (hf : s.fetch s.cur s.cx = (t, .error (c, a))) (here : s.Here)
    (due : t.gate (noShape 0) = .go) : exec .fetchFault s = .next (t.fetchTrap c a) := by
  have step : t.issueStep (noShape 0) (fun _ _ => .noFetch c a) = t.fetchTrap c a := by
    rw [issueStep_go due, effOf_noShape rfl (legalHere_noInstruction t.cx).2.2 rfl (by decide)]
    rfl
  change execFetchFault s = _
  unfold execFetchFault
  rcases here with h | ⟨w, n, h⟩ <;> rw [h] <;> dsimp only <;> rw [hf] <;> exact congrArg Host.Outcome.next step

/-- Settles O46: the gate and the faults that come before the operands decide each case. -/
theorem whatHoldsInstructionsBack : Obligations.WhatHoldsInstructionsBack := by
  refine ⟨fun i s sh hsh ⟨body, hx⟩ here due => ?forbidden,
    fun i s sh hsh ⟨body, hx⟩ here quiet calm going clean unbound fresh known idle => ?empty, fun s => ?noInstruction⟩
  case forbidden =>
    have traps {c : Nat} (h : s.early sh = some c) :
        exec i s = .next (((s.withIw sh).emptyDests sh).issueTrap (some sh) c 0 0 0) := by
      rw [hx, issue_here hsh here, issueStep_early (s := s.withIw sh) due h]
    refine ⟨fun h => traps (early_of_illegal h), fun h major minor user => traps (early_of_level h ?_),
      fun h minor kernel => traps (early_of_level h ?_)⟩
    · rw [user]
      exact needLevel_privileged major minor
    · rw [kernel, needLevel_device minor]
      decide
  case empty =>
    intro c m hc hm he
    obtain ⟨r, l, hl⟩ := List.exists_cons_of_ne_nil (List.ne_nil_of_mem (mem_emptyRegs (s := s) fresh hc hm he))
    have awaited : r ∈ s.emptyRegs sh := by rw [hl]; exact List.mem_cons_self
    obtain ⟨why, read⟩ := of_mem_emptyRegs awaited
    have blocked : s.blocked sh = some (.reg r) := by rw [blocked_of_idle idle, hl]; rfl
    have waits : (s.withIw sh).gate sh = .wait (.reg r) := gate_of_blocked (s := s) going clean unbound known blocked
    refine ⟨r, why, read, ?_⟩
    rw [hx, issue_here hsh here, State.issueStep, waits]
    exact congrArg Host.Outcome.next (waitOr_calm (s := s.withIw sh) calm quiet)
  case noInstruction =>
    intro goes
    obtain ⟨malformed, illegal, -⟩ := legalHere_noInstruction s.cx
    exact ⟨fun ⟨here, due, legal⟩ => issueIllegalOpcode_traps here due legal,
      fun ⟨here, due, legal⟩ => (issueMalformedLine_traps here due legal).1,
      fun ⟨here, due, legal⟩ => (issueMalformedLine_traps here due legal).2, malformed, illegal, fun t c a => fetchFault_traps⟩

end Sys2Proof.Machine
end

section
/-!
SUPPORT. What the machine holds right after cold reset (R54, R56, R141, R318, R321, R322).
-/
namespace Sys2Proof.Machine

/-! Nothing is listed at reset: every core, context and memory word is the default one. -/

theorem reset_core (c : Nat) : State.reset.core c = {} := rfl
theorem reset_ctx (c x : Nat) : State.reset.ctx c x = {} := rfl

theorem reset_memOk : State.reset.MemOk := ⟨Mem.wf_empty, Mem.wf_empty, Mem.wf_empty, Mem.wf_empty⟩

/-- Every word of a memory in which nothing is listed is full (R141). -/
theorem Mem.full_empty (a : Nat) : ({} : Mem).full a = true := rfl

/-- Every register is full: the fixed ones always, the others by default (R47, R54). -/
theorem reset_full (c x code : Nat) : State.reset.full c x code = true := by
  unfold State.full
  rw [reset_core, reset_ctx]
  split
  · rfl
  · split <;> rfl

/-- `hdm.n` reads a half of the word that its pair of numbers shares (R321). -/
theorem State.sr_hdm (s : State) (c x : Nat) {n : Nat} (h : 0x1B0 ≤ n) (h' : n < 0x1C0) :
    s.sr c x n = (mget 0 s.hdm ((n - 0x1B0) / 2)).extractLsb' (64 * (n % 2)) 64 := by
  unfold State.sr
  repeat rw [if_neg (by omega)]
  rw [if_pos ⟨h, h'⟩]

/-- Settles O51: the default of each field is the value that its map gives. -/
theorem resetState : Obligations.ResetState := by
  refine ⟨⟨reset_memOk, fun a => ⟨Mem.full_empty a, Mem.full_empty a, Mem.full_empty a, Mem.full_empty a⟩⟩, fun c x => ?_⟩
  refine ⟨rfl, rfl, reset_full c x, rfl, rfl, rfl, rfl, rfl, rfl, rfl, rfl, rfl, rfl, rfl, rfl, fun n h h' => ?hdm, fun p a n => rfl⟩
  case hdm =>
    rw [State.reset.sr_hdm c x h h']
    exact BitVec.extractLsb'_zero

end Sys2Proof.Machine
end

section
/-!
SUPPORT. What a special register reads, and what a write leaves in it (R54, R56, R320, R321).
-/
namespace Sys2Proof.Machine

/-! Fields of a word as numbers. -/

theorem fld_eq {w : Nat} (x : BitVec w) (lo len : Nat) : fld x lo len = x.toNat / 2 ^ lo % 2 ^ len := by
  rw [fld, BitVec.extractLsb'_toNat, Nat.shiftRight_eq_div_pow]

theorem fld_zero {w : Nat} (x : BitVec w) (len : Nat) : fld x 0 len = x.toNat % 2 ^ len := by
  rw [fld_eq, Nat.pow_zero, Nat.div_one]

/-- What is kept of a written value in place: the bits above the field cut off, then those below it. -/
theorem keep_eq (v : Word) (lo len : Nat) : keep v lo len = BitVec.ofNat 64 (v.toNat % 2 ^ (lo + len) / 2 ^ lo * 2 ^ lo) := by
  rw [keep, fld_eq, Nat.pow_add, Nat.mod_mul_right_div_self]

/-- A register of `k` bits, read as a word. -/
theorem setWidth_setWidth_word (v : Word) (k : Nat) : (v.setWidth k).setWidth 64 = BitVec.ofNat 64 (v.toNat % 2 ^ k) := by
  apply BitVec.eq_of_toNat_eq
  rw [BitVec.toNat_setWidth, BitVec.toNat_setWidth, BitVec.toNat_ofNat]

/-! Writes. -/

/-- The late write that a `wrsr` makes. -/
def srLate (s : State) (x n : Nat) (v : Word) : Late := { due := s.cycles + 8, ctx := x, code := 0x1000 + n, val := some v }

/-- A register of the core, and one written beside its context's instructions, shows a write 8 ck after issue (R56). -/
theorem State.srWrite_late (s : State) (c x : Nat) {n : Nat} (v : Word) (h : (srCore n || srBeside n) = true) :
    s.srWrite c x n v = s.later c (srLate s x n v) := if_pos h

/-- Any other shows it at once. -/
theorem State.srWrite_own (s : State) (c x : Nat) {n : Nat} (v : Word) (h : (srCore n || srBeside n) = false) :
    s.srWrite c x n v = s.updCtx c x (fun k => k.srSet n v) := if_neg (Bool.eq_false_iff.1 h)

/-- A write that is not due changes no special register yet. -/
theorem State.sr_later (s : State) (c : Nat) (l : Late) (d y n : Nat) : (s.later c l).sr d y n = s.sr d y n := by
  have same_ctx : (s.later c l).ctx d y = s.ctx d y := s.ctx_updCore c d y _ rfl
  have same_core (e : Nat) : ∃ ls, (s.later c l).core e = { s.core e with late := ls } := by
    rw [State.later, State.core_updCore]
    split
    · rename_i h
      exact ⟨_, by rw [h]⟩
    · exact ⟨_, rfl⟩
  have same_avail (m : Nat) : (s.later c l).avail m = s.avail m := by
    have unavail (e : Nat) : (s.later c l).unavail e = s.unavail e := by
      obtain ⟨ls, h⟩ := same_core e
      rw [State.unavail, h, State.unavail]
    simp only [State.avail, unavail]
  obtain ⟨ls, h⟩ := same_core d
  simp only [State.sr, same_ctx, h, same_avail]
  rfl

/-- A late write of a register that is written beside its context's instructions goes to the context. -/
theorem Core.applyLate_beside (k : Core) {l : Late} {v : Word} (hv : l.val = some v) (h : srBeside (l.code - 0x1000) = true) :
    k.applyLate l = { k with ctxs := mset {} k.ctxs l.ctx ((mget ({} : Ctx) k.ctxs l.ctx).srSet (l.code - 0x1000) v) } := by
  have number : ¬l.code < 0x1000 ∧ l.code ≠ uflowCode := by
    simp only [srBeside, Bool.or_eq_true, beq_iff_eq] at h
    rw [uflowCode]
    omega
  unfold Core.applyLate
  rw [hv]
  dsimp only
  rw [if_neg number.1, if_neg number.2, if_pos h]

/-- Once due, it stands in its context. -/
theorem State.ctx_applyLate_beside (s : State) (c x : Nat) {n : Nat} (v : Word) (h : srBeside n = true) :
    (s.updCore c (fun k => k.applyLate (srLate s x n v))).ctx c x = (s.ctx c x).srSet n v := by
  have number : (srLate s x n v).code - 0x1000 = n := Nat.add_sub_cancel_left _ _
  have shown := Core.applyLate_beside (s.core c) (l := srLate s x n v) rfl (number.symm ▸ h)
  rw [State.ctx, State.core_updCore_self, shown, number]
  exact mget_mset_self _ _ _ _

/-! What the registers of a context read. -/

section
variable (s : State) (c x : Nat)

theorem State.sr_wlimit : s.sr c x 0x003 = (s.ctx c x).wlimit.setWidth 64 := rfl
theorem State.sr_fpmode : s.sr c x 0x004 = (s.ctx c x).fpmode.setWidth 64 := rfl
theorem State.sr_fpflags : s.sr c x 0x005 = (s.ctx c x).fpflags.setWidth 64 := rfl
theorem State.sr_tprog : s.sr c x 0x006 = (s.ctx c x).tprog.setWidth 64 := rfl
theorem State.sr_outl : s.sr c x 0x007 = (s.ctx c x).outl := rfl
theorem State.sr_frec : s.sr c x 0x103 = (s.ctx c x).frec := rfl
theorem State.sr_kipi : s.sr c x 0x104 = (s.ctx c x).kipi := rfl
theorem State.sr_kscr : s.sr c x 0x105 = (s.ctx c x).kscr := rfl

end

/-- Settles O29: a write reaches its context at once, or as a late write of the core. -/
theorem specialRegisterValues : Obligations.SpecialRegisterValues := by
  intro s c x v after low write shown
  have own (n : Nat) (h : (srCore n || srBeside n) = false) : (s.srWrite c x n v).ctx c x = (s.ctx c x).srSet n v := by
    rw [s.srWrite_own c x v h, State.ctx_updCtx_self]
  have beside (n : Nat) (h : srBeside n = true) : (s.updCore c (fun k => k.applyLate (write n))).ctx c x = (s.ctx c x).srSet n v :=
    s.ctx_applyLate_beside c x v h
  refine ⟨?wlimit, ?fpmode, ?fpflags, ?tprog, ?outl, ?frec, ?kipi, ?kscr, ?asid, rfl, rfl, rfl, fun n hn => ?late⟩
  case wlimit => exact (State.sr_wlimit _ c x).trans (by rw [own 0x003 rfl]; exact setWidth_setWidth_word v 32)
  case fpmode => exact (State.sr_fpmode _ c x).trans (by rw [own 0x004 rfl]; exact setWidth_setWidth_word v 7)
  case fpflags => exact (State.sr_fpflags _ c x).trans (by rw [beside 0x005 rfl]; exact setWidth_setWidth_word v 5)
  case tprog => exact (State.sr_tprog _ c x).trans (by rw [beside 0x006 rfl]; exact setWidth_setWidth_word v 17)
  case outl => exact (State.sr_outl _ c x).trans (by rw [own 0x007 rfl]; exact keep_eq v 4 48)
  case frec => exact (State.sr_frec _ c x).trans (by rw [own 0x103 rfl]; exact keep_eq v 11 41)
  case kipi => exact (State.sr_kipi _ c x).trans (by rw [beside 0x104 rfl]; rfl)
  case kscr => exact (State.sr_kscr _ c x).trans (by rw [own 0x105 rfl]; rfl)
  case asid =>
    have set : ((s.ctx c x).srSet 0x110 v).asid = BitVec.ofNat 10 (fld v 16 10) := rfl
    rw [own 0x110 rfl, set, fld_eq, BitVec.toNat_ofNat, Nat.mod_mod]
  case late =>
    have listed : (srCore n || srBeside n) = true := by
      revert n
      decide
    rw [s.srWrite_late c x v listed]
    exact ⟨s.sr_later _ _ _ _ _, s.core_updCore_self c _⟩

end Sys2Proof.Machine
end

section
/-!
SUPPORT. Where each space of the address map lies, and which byte of a range is the first that no mapping holds (R59 to R62, R143).
-/
namespace Sys2Proof.Machine

/-! The spaces (R59, R60). -/

theorem bufSize_bounds (b : Nat) : 0 < bufSize b ∧ bufSize b < 0x40000 := by
  unfold bufSize
  split
  · decide
  · split <;> decide

theorem spaceOf_virt {a : Nat} : spaceOf a = .virt ↔ a < 2 ^ 52 := by
  unfold spaceOf
  dsimp only
  split_ifs <;> simp only [false_iff, true_iff] <;> omega

theorem spaceOf_clus {a n : Nat} : spaceOf a = .clus n ↔ n < 256 ∧ clusBase + n * 2 ^ 23 ≤ a ∧ a < clusBase + (n + 1) * 2 ^ 23 := by
  unfold spaceOf clusBase locBase
  dsimp only
  split_ifs <;> simp only [Space.clus.injEq, false_iff] <;> omega

theorem spaceOf_loc {a c b : Nat} :
    spaceOf a = .loc c b ↔ c < 2 ^ 12 ∧ b < 4 ∧ bufAddr c b ≤ a ∧ a < bufAddr c b + bufSize b := by
  have size := bufSize_bounds b
  unfold bufAddr
  constructor
  · intro h
    unfold spaceOf at h
    dsimp only at h
    split_ifs at h with virt clus loc inside
    obtain ⟨rfl, rfl⟩ := Space.loc.inj h
    simp only [locBase] at loc inside ⊢
    omega
  · simp only [locBase]
    rintro ⟨hc, hb, low, high⟩
    have core : (a - locBase) / 2 ^ 20 = c := by simp only [locBase]; omega
    have buf : (a - locBase) % 2 ^ 20 / 0x40000 = b := by simp only [locBase]; omega
    unfold spaceOf
    rw [if_neg (by omega), if_neg (by simp only [clusBase]; omega), if_pos (by simp only [locBase]; omega)]
    dsimp only
    rw [core, buf, if_pos (by simp only [locBase]; omega)]

theorem spaceOf_clus_base {n : Nat} (h : n < 256) : spaceOf (clusBase + n * 2 ^ 23) = .clus n := by
  rw [spaceOf_clus]
  omega

/-- From an address to the end of its space, every address is of that space. -/
theorem spaceOf_below_end {a x : Nat} (low : a ≤ x) (high : x < spaceEnd a) : spaceOf x = spaceOf a := by
  unfold spaceEnd at high
  cases h : spaceOf a with
  | virt =>
    rw [h] at high
    exact spaceOf_virt.2 high
  | clus n =>
    rw [h] at high
    obtain ⟨hn, start, -⟩ := spaceOf_clus.1 h
    exact spaceOf_clus.2 ⟨hn, start.trans low, high⟩
  | loc c b =>
    rw [h] at high
    obtain ⟨hc, hb, start, -⟩ := spaceOf_loc.1 h
    exact spaceOf_loc.2 ⟨hc, hb, start.trans low, high⟩
  | none =>
    rw [h] at high
    exact absurd high (by dsimp only; omega)

/-- An address that lies in no space. -/
theorem spaceOf_none {a : Nat} (virt : ¬a < 2 ^ 52) (clus : a < clusBase ∨ clusBase + 256 * 2 ^ 23 ≤ a)
    (loc : ∀ c b, c < 2 ^ 12 → b < 4 → bufAddr c b ≤ a → bufAddr c b + bufSize b ≤ a) : spaceOf a = .none := by
  cases h : spaceOf a with
  | virt => exact absurd (spaceOf_virt.1 h) virt
  | clus n =>
    have bounds := spaceOf_clus.1 h
    omega
  | loc c b =>
    obtain ⟨hc, hb, low, high⟩ := spaceOf_loc.1 h
    exact absurd high (Nat.not_lt.2 (loc c b hc hb low))
  | none => rfl

theorem spaceOf_virt_end : spaceOf (2 ^ 52) = .none := by
  decide

theorem spaceOf_clus_end : spaceOf (clusBase + 256 * 2 ^ 23) = .none := by
  decide

/-- The typed buffers of a core leave a gap after each of them (R60). -/
theorem spaceOf_loc_end {c b : Nat} (hc : c < 2 ^ 12) (hb : b < 4) : spaceOf (bufAddr c b + bufSize b) = .none := by
  have size := bufSize_bounds b
  refine spaceOf_none ?_ ?_ fun c' b' hc' hb' low => ?_
  · simp only [bufAddr, locBase]
    omega
  · simp only [bufAddr, locBase, clusBase]
    omega
  · have size' := bufSize_bounds b'
    by_cases same : b' = b
    · subst same
      simp only [bufAddr] at low ⊢
      omega
    · simp only [bufAddr] at low ⊢
      omega

/-! What is mapped (R61). -/

theorem State.mapped_congr (s : State) {a b : Nat} (h : spaceOf a = spaceOf b) : s.mapped a = s.mapped b := by
  unfold State.mapped
  rw [h]

theorem State.mapped_none (s : State) {a : Nat} (h : spaceOf a = .none) : s.mapped a = false := by
  unfold State.mapped
  rw [h]

/-- What a check of the map comes to for `n` bytes from `a` on: no byte without a mapping, or the first of them. -/
def State.FirstUnmapped (s : State) (a n : Nat) : Option Word → Prop
  | none => ∀ j, j < n → s.mapped (a + j) = true
  | some b => ∃ j, j < n ∧ b = BitVec.ofNat 64 (a + j) ∧ s.mapped (a + j) = false ∧ ∀ k, k < j → s.mapped (a + k) = true

/-- The byte at `b` is the first, where those from `a` up to it are mapped. -/
theorem State.firstUnmapped_at {s : State} {a n b : Nat} (low : a ≤ b) (high : b < a + n) (hb : s.mapped b = false)
    (before : ∀ x, a ≤ x → x < b → s.mapped x = true) : s.FirstUnmapped a n (some (BitVec.ofNat 64 b)) := by
  have place : a + (b - a) = b := by omega
  exact ⟨b - a, by omega, by rw [place], by rw [place]; exact hb, fun k hk => before _ (by omega) (by omega)⟩

section
variable {s : State} {a n m : Nat} {g : Nat → Nat} (mono : StrictMono g) (own : ∀ x, a ≤ x → x < g 0 → s.mapped x = true)
  (piece : ∀ j x, j < m → g j ≤ x → x < g (j + 1) → s.mapped x = s.mapped (g j))
include own piece

/-- In a row of pieces, each of which is mapped or unmapped as a whole, what stands before the `k`th is mapped if every piece that
begins no later is. -/
theorem State.mapped_pieces {k x : Nat} (hk : k ≤ m) (bases : ∀ j, j < k → g j ≤ x → s.mapped (g j) = true) (low : a ≤ x) (high : x < g k) :
    s.mapped x = true := by
  induction k with
  | zero => exact own x low high
  | succ k ih =>
    by_cases earlier : x < g k
    · exact ih (by omega) (fun j hj => bases j (by omega)) earlier
    · rw [piece k x hk (by omega) high]
      exact bases k (by omega) (by omega)

include mono

/-- Then the first unmapped byte is where the first unmapped piece begins. -/
theorem State.firstUnmapped_pieces (ha : a ≤ g 0) (last : s.mapped (g m) = false) :
    s.FirstUnmapped a n ((((List.range (m + 1)).map g).find? (fun b => decide (b < a + n) && !s.mapped b)).map (BitVec.ofNat 64 ·)) := by
  rw [List.find?_map]
  cases found : (List.range (m + 1)).find? ((fun b => decide (b < a + n) && !s.mapped b) ∘ g) with
  | none =>
    have clear (j : Nat) (hj : j ≤ m) : g j < a + n → s.mapped (g j) = true := by
      have none_here := List.find?_eq_none.1 found j (List.mem_range.2 (by omega))
      simpa using none_here
    have beyond : a + n ≤ g m := Nat.le_of_not_lt fun inside => Bool.noConfusion (last.symm.trans (clear m le_rfl inside))
    intro j hj
    have inside : a + j < a + n := Nat.add_lt_add_left hj a
    exact s.mapped_pieces own piece le_rfl (fun i hi from_ => clear i hi.le (from_.trans_lt inside)) (Nat.le_add_right a j)
      (inside.trans_le beyond)
  | some k =>
    obtain ⟨here, hk, earlier⟩ := List.find?_range_eq_some.1 found
    obtain ⟨inside, unmapped⟩ : g k < a + n ∧ s.mapped (g k) = false := by simpa using here
    have skipped (j : Nat) (hj : j < k) : a + n ≤ g j ∨ s.mapped (g j) = true := by simpa using earlier j hj
    have in_row : k ≤ m := Nat.lt_succ_iff.1 (List.mem_range.1 hk)
    refine State.firstUnmapped_at (ha.trans (mono.monotone (Nat.zero_le k))) inside unmapped fun x low high => ?_
    refine s.mapped_pieces own piece in_row (fun j hj _ => (skipped j hj).resolve_left ?_) low high
    exact Nat.not_le.2 ((mono hj).trans inside)

end

/-- A range that begins in a cluster's memory and runs beyond it (R62): the clusters after it are the pieces. -/
theorem State.firstUnmapped_clusters {s : State} {a c : Nat} (n : Nat) (mapped : s.mapped a = true) (h : spaceOf a = .clus c) :
    s.FirstUnmapped a n ((((List.range (256 - c)).map (fun j => clusBase + (c + 1 + j) * 2 ^ 23)).find?
      (fun b => decide (b < a + n) && !s.mapped b)).map (BitVec.ofNat 64 ·)) := by
  obtain ⟨hc, start, stop⟩ := spaceOf_clus.1 h
  have row : 256 - c = 255 - c + 1 := by omega
  rw [row]
  refine State.firstUnmapped_pieces (fun i j hij => ?mono) (fun x low high => ?own) (fun j x hj low high => ?piece) ?ha ?last
  case mono => omega
  case own =>
    have own : spaceOf x = .clus c := spaceOf_clus.2 ⟨hc, start.trans low, high⟩
    rw [s.mapped_congr (own.trans h.symm), mapped]
  case piece =>
    have of_piece : spaceOf x = .clus (c + 1 + j) := spaceOf_clus.2 ⟨by omega, low, high⟩
    exact s.mapped_congr (of_piece.trans (spaceOf_clus_base (by omega)).symm)
  case ha => exact stop.le
  case last =>
    have stops : c + 1 + (255 - c) = 256 := by omega
    rw [stops]
    exact s.mapped_none spaceOf_clus_end

/-- The check of the map finds the first byte that no mapping holds (R61). -/
theorem State.firstUnmapped_windowFault (s : State) (a : Nat) {n : Nat} (hn : 0 < n) : s.FirstUnmapped a n (s.windowFault a n) := by
  unfold State.windowFault
  cases mapped : s.mapped a with
  | false => exact State.firstUnmapped_at le_rfl (by omega) mapped (fun x low high => absurd high (by omega))
  | true =>
    have inside (x : Nat) (low : a ≤ x) (high : x < spaceEnd a) : s.mapped x = true := by
      rw [s.mapped_congr (spaceOf_below_end low high), mapped]
    simp only [Bool.not_true, Bool.false_eq_true, if_false]
    rw [if_neg hn.ne']
    split
    · rename_i whole
      exact fun j hj => inside _ (by omega) (by omega)
    · rename_i beyond
      have ends (low : a ≤ spaceEnd a) (space : spaceOf (spaceEnd a) = .none) :
          s.FirstUnmapped a n (some (BitVec.ofNat 64 (spaceEnd a))) :=
        State.firstUnmapped_at low (Nat.lt_of_not_le beyond) (s.mapped_none space) inside
      cases h : spaceOf a with
      | virt =>
        have stop : spaceEnd a = 2 ^ 52 := by rw [spaceEnd, h]
        exact ends (by rw [stop]; exact (spaceOf_virt.1 h).le) (by rw [stop]; exact spaceOf_virt_end)
      | clus c => exact State.firstUnmapped_clusters n mapped h
      | loc c b =>
        obtain ⟨hc, hb, -, high⟩ := spaceOf_loc.1 h
        have stop : spaceEnd a = bufAddr c b + bufSize b := by rw [spaceEnd, h]
        exact ends (by rw [stop]; exact high.le) (by rw [stop]; exact spaceOf_loc_end hc hb)
      | none =>
        rw [s.mapped_none h] at mapped
        cases mapped

/-! The order of the checks (R143). -/

section
variable {s : State} {w : Who} {a : Word} {n align : Nat} {write : Bool}

theorem State.issueFault_align (h : a.toNat % align ≠ 0) : s.issueFault w a n align write = some (cAlign, a) := by
  simp [State.issueFault, State.accessFault, h]

theorem State.issueFault_window (h : a.toNat % align = 0) {b : Word} (hb : s.windowFault a.toNat n = some b) :
    s.issueFault w a n align write = some (cWindow, b) := by
  simp [State.issueFault, State.accessFault, h, hb]

theorem State.issueFault_perm (h : a.toNat % align = 0) (hw : s.windowFault a.toNat n = none)
    (hp : s.windowPerm w a.toNat n write = false) : s.issueFault w a n align write = some (cPerm, a) := by
  simp [State.issueFault, State.accessFault, h, hw, hp]

/-- An access that is aligned, mapped and permitted has only the check bits of window memory left to fail. -/
theorem State.issueFault_allowed (h : a.toNat % align = 0) (hw : s.windowFault a.toNat n = none)
    (hp : s.windowPerm w a.toNat n write = true) (hn : write = false ∨ w.node = 0 ∨ a.toNat < 2 ^ 52) :
    s.issueFault w a n align write = (s.windowBad a.toNat n write).map (fun b => (cUncorrectable, b)) := by
  have known : (write && w.node != 0 && decide (2 ^ 52 ≤ a.toNat)) = false := by
    rcases hn with hn | hn | hn
    · simp [hn]
    · simp [hn]
    · rw [decide_eq_false (Nat.not_le.2 hn), Bool.and_false]
  have passes : s.accessFault w a n align write = none := by
    unfold State.accessFault
    dsimp only
    rw [hw, known]
    simp [h, hp]
  rw [State.issueFault, passes]

/-- Virtual memory, and a word written whole, are not checked here (R143, R377). -/
theorem State.windowBad_none {a : Nat} (h : a < 2 ^ 52 ∨ (write = true ∧ 8 ≤ n) ∨ s.win.firstBad a n = none) :
    s.windowBad a n write = none := by
  unfold State.windowBad
  rcases h with h | ⟨hw, hn⟩ | h
  · rw [decide_eq_false (Nat.not_le.2 h), Bool.false_and, if_neg Bool.false_ne_true]
  · simp [hw, Nat.not_lt.2 hn]
  · simp [h]

theorem State.windowBad_some {a b : Nat} (h : 2 ^ 52 ≤ a) (hr : write = false ∨ n < 8) (hb : s.win.firstBad a n = some b) :
    s.windowBad a n write = some (BitVec.ofNat 64 b) := by
  have read : (decide (2 ^ 52 ≤ a) && (!write || decide (n < 8))) = true := by
    rw [decide_eq_true h]
    rcases hr with hr | hr <;> simp [hr]
  rw [State.windowBad, if_pos read, hb]
  rfl

end

/-- Settles O12: the first unmapped byte by the pieces of the address map, the order of the checks by the definition of each. -/
theorem accessChecks : Obligations.AccessChecks := by
  intro s w a n align write hn
  have first := s.firstUnmapped_windowFault a.toNat hn
  refine ⟨⟨fun h => ?mapped, fun h => ?clear⟩, fun b hb => ?unmapped, State.issueFault_align, fun h b => State.issueFault_window h,
    State.issueFault_perm, fun h hw hp hk => ⟨fun ok => ?passes, fun high part b hb => ?bad⟩⟩
  case mapped =>
    rw [h] at first
    exact first
  case clear =>
    cases found : s.windowFault a.toNat n with
    | none => rfl
    | some b =>
      rw [found] at first
      obtain ⟨j, hj, -, unmapped, -⟩ := first
      exact Bool.noConfusion (unmapped.symm.trans (h j hj))
  case unmapped =>
    rw [hb] at first
    exact first
  case passes => rw [State.issueFault_allowed h hw hp hk, State.windowBad_none ok, Option.map_none]
  case bad => rw [State.issueFault_allowed h hw hp hk, State.windowBad_some high part hb, Option.map_some]

end Sys2Proof.Machine
end

section
/-!
SUPPORT. Instructions whose effect leaves its strand's position binding and replay alone, and so retire (R30, R270, R373).
-/
namespace Sys2Proof.Machine

/-- The position binding and the replay of a context are as they were. -/
def Ctx.SameStrand (j k : Ctx) : Prop := k.pos = j.pos ∧ k.rett = j.rett

theorem Ctx.SameStrand.ite {p : Prop} [Decidable p] {j k l : Ctx} (hk : j.SameStrand k) (hl : j.SameStrand l) :
    j.SameStrand (if p then k else l) := by
  split
  · exact hk
  · exact hl

/-- What decides how an effect retires is as it was. -/
def KeepsStrand (s t : State) : Prop := s.me.SameStrand t.me

theorem KeepsStrand.refl (s : State) : KeepsStrand s s := ⟨rfl, rfl⟩
theorem KeepsStrand.trans {s t u : State} (h : KeepsStrand s t) (k : KeepsStrand t u) : KeepsStrand s u :=
  ⟨k.1.trans h.1, k.2.trans h.2⟩

theorem OnlyRegs.keepsStrand {s t : State} (h : OnlyRegs s t) : KeepsStrand s t := ⟨h.pos, h.rett⟩

theorem keepsStrand_of_me {s t : State} (h : t.me = s.me) : KeepsStrand s t := ⟨by rw [h], by rw [h]⟩

theorem keepsStrand_updMe {s : State} {g : Ctx → Ctx} (h : s.me.SameStrand (g s.me)) : KeepsStrand s (s.updMe g) := by
  rw [KeepsStrand, State.me_updMe]
  exact h

theorem keepsStrand_updCore (s : State) (c : Nat) (g : Core → Core) (h : (g (s.core c)).ctxs = (s.core c).ctxs) :
    KeepsStrand s (s.updCore c g) := keepsStrand_of_me (s.ctx_updCore c _ _ g h)

section
variable {i : Instr} {sh : Shape} {s t : State} {body : State → Shape → Eff} (hx : ∀ s, exec i s = issue i s body) (h : Issues i sh s)
include hx h

/-- Such an effect retires. -/
theorem exec_done (hb : body (s.begun sh) sh = .done t) (hk : KeepsStrand (s.begun sh) t) : exec i s = .next (t.goesTo s.succ) := by
  rw [hx, issue_done h hb]
  · rw [hk.1, begun_me_pos]
    exact h.free
  · rw [hk.2, begun_me_rett]
    exact h.fresh

/-- A fault found at issue is taken there. -/
theorem exec_trap {c : Nat} {a aux : Word} {fx : Flags} (hb : body (s.begun sh) sh = .trap c a aux fx) :
    exec i s = .next (((s.withIw sh).emptyDests sh).issueTrap (some sh) c a aux fx) := by rw [hx, issue_trap h hb]

end

/-- `Does`, for an effect that keeps its strand. -/
theorem does_kept {i : Instr} {body : State → Shape → Eff} {ok : State → Prop} {e : State → Shape → State} (hx : ∀ s, exec i s = issue i s body)
    (hb : ∀ sh s, Issues i sh s → ok (s.begun sh) → body (s.begun sh) sh = .done (e (s.begun sh) sh))
    (hk : ∀ sh s, KeepsStrand s (e s sh)) : Does i ok e := fun sh s h ho => exec_done hx h (hb sh s h ho) (hk sh _)

end Sys2Proof.Machine
end

section
/-!
SUPPORT. `rdsr` and `wrsr` (R54, R56, R127, R320 to R323).
-/
namespace Sys2Proof.Machine

/-- Outside a replay the level is that of the context, and the accesses that stop are those of the statement (R127, R321). -/
theorem srFault_of_fresh {s : State} (h : s.me.rett = none) (n : Nat) : s.srFault n = srStops s n := by
  have level : s.me.level = s.me.lvl := by rw [Ctx.level, h]; rfl
  unfold State.srFault srStops
  rw [level]
  simp [srDevice, BitVec.toNat_eq]

theorem srStops_begun (s : State) (sh : Shape) (n : Nat) : srStops (s.begun sh) n = srStops s n := by
  unfold srStops
  rw [begun_me_lvl]

theorem Issues.srFault {i : Instr} {sh : Shape} {s : State} (h : Issues i sh s) (n : Nat) :
    (s.begun sh).srFault n = srStops (s.begun sh) n := srFault_of_fresh ((begun_me_rett s sh).trans h.fresh) n

/-- As an instruction issues, its g registers hold what they held. -/
@[simp] theorem begun_gr (s : State) (sh : Shape) (x : BitVec 6) : (s.begun sh).gr x = s.gr x := by
  simp only [State.gr, begun_reg, begun_cur, begun_cx]

/-- The check of R69. -/
theorem pcOk_iff (v : Word) : pcOk v = true ↔ targetOk v := by
  unfold pcOk targetOk
  rw [fld_eq]
  simp [tst, BitVec.getLsbD, Nat.testBit_zero]

/-! Writes. -/

/-- No special register holds the position binding or the replay. -/
theorem Ctx.sameStrand_srSet (k : Ctx) (n : Nat) (v : Word) : k.SameStrand (k.srSet n v) := by
  unfold Ctx.srSet
  repeat refine Ctx.SameStrand.ite ⟨rfl, rfl⟩ ?_
  exact ⟨rfl, rfl⟩

theorem keepsStrand_srWrite (s : State) (n : Nat) (v : Word) : KeepsStrand s (s.srWrite s.cur s.cx n v) := by
  cases kind : srCore n || srBeside n with
  | true =>
    rw [s.srWrite_late _ _ v kind]
    exact (onlyRegs_later s _ _).keepsStrand
  | false =>
    rw [s.srWrite_own _ _ v kind]
    exact keepsStrand_updMe (s.me.sameStrand_srSet n v)

/-- The node table of an ASID is no part of a context. -/
theorem keepsStrand_dropHyp (s : State) (pid asid : Nat) : KeepsStrand s (s.dropHyp pid asid) := ⟨rfl, rfl⟩

section
variable {i : Instr} {sh : Shape} {s : State} (h : Issues i sh s) {f : Fields} {check : State → Word → Option Flt}
  {act : State → Word → Eff} (free : srStops s (srNum f) = none)
include h free

/-- A write that may be made, and whose value passes, comes to its own effect. -/
theorem wrsrOf_passes (hc : check (s.begun sh) (s.gr f.a) = none) :
    wrsrOf f check act (s.begun sh) sh = act (s.begun sh) (s.gr f.a) := by
  unfold wrsrOf
  dsimp only
  rw [h.srFault, srStops_begun, free, begun_gOp s sh h.fresh, hc]

/-- One whose value fails faults. -/
theorem wrsrOf_fails {c : Nat} {b : Word} (hc : check (s.begun sh) (s.gr f.a) = some (c, b)) :
    wrsrOf f check act (s.begun sh) sh = .trap c b 0 0 := by
  unfold wrsrOf
  dsimp only
  rw [h.srFault, srStops_begun, free, begun_gOp s sh h.fresh, hc]
  rfl

end

/-- A register that may not be written is found before the operands, at the gate (R127, R375). -/
theorem early_of_srStops {s : State} {sh : Shape} {c : Nat} (ho : sh.op = 0x056) (legal : legalHere s.cx sh.op = true)
    (fresh : s.me.rett = none) (h : srStops s (srNum sh.f) = some c) : s.early sh = some c := by
  have anyLevel : needLevel sh = 0 := by
    unfold needLevel
    rw [ho]
    rfl
  unfold State.early
  rw [legal, anyLevel, if_neg (by decide), if_neg (Nat.not_lt_zero _), if_pos ho, srFault_of_fresh fresh, h]

/-! Reads. -/

/-- Counting an issue leaves what outstanding operations are. -/
theorem begun_outst_any (s : State) (sh : Shape) (p : Nat → Bool) :
    (s.begun sh).me.outst.any (fun d => p d.op) = s.me.outst.any (fun d => p d.op) := by
  rw [begun_me, Ctx.counted, List.any_map]
  rfl

theorem begun_me_badTile (s : State) (sh : Shape) : (s.begun sh).me.badTile = s.me.badTile := by
  rw [begun_me]
  rfl

/-- Settles O28: `rdsr` by its cases, and each row of `wrsr` by the check that its values pass or fail. -/
theorem specialRegisterAccesses : Obligations.SpecialRegisterAccesses := by
  intro f n a busy unsound form stops write asid spill idle
  have at_and {p : Prop} [Decidable p] {b : Bool} : (decide p && b) = true ↔ p ∧ b = true := by simp
  have busy_begun (sh : Shape) (s : State) : busy (s.begun sh) = busy s := by
    simp only [busy, begun_outst_any s sh isTile]
  have unsound_begun (sh : Shape) (s : State) : unsound (s.begun sh) = unsound s := by
    simp only [unsound, begun_me_badTile]
  refine ⟨?read, ?readBad, ?readWaits, ?readFaults, ?writes, ?writeFaults, ?kipi, ?kvec, ?kvecFails, ?part, ?partFails, ?spilled, ?spillFails,
    ?hypRst, ?hypRstFails⟩
  case read =>
    refine does_kept (fun _ => rfl) (fun sh s h ho => ?_) (fun sh s => (onlyRegs_wrG s f.d _).keepsStrand)
    obtain ⟨free, ready, sound⟩ := ho
    dsimp only
    rw [h.srFault, show srStops (s.begun sh) (srNum f) = none from free]
    exact (if_neg (at_and.not.2 ready)).trans (if_neg (at_and.not.2 sound))
  case readBad =>
    intro sh s h free ready bad
    refine exec_trap (fun _ => rfl) h ?_
    have ready' : ¬busy (s.begun sh) := by rwa [busy_begun]
    have bad' : unsound (s.begun sh) := by rwa [unsound_begun]
    dsimp only
    rw [h.srFault, srStops_begun, show srStops s (srNum f) = none from free]
    refine (if_neg (at_and.not.2 ready')).trans ((if_pos (at_and.2 bad')).trans ?_)
    rw [State.bankSel, begun_cur, begun_cx, State.bankSel]
  case readWaits =>
    refine awaits_of (fun _ => rfl) fun sh s h ho => ?_
    obtain ⟨free, waits⟩ := ho
    dsimp only
    rw [h.srFault, show srStops (s.begun sh) (srNum f) = none from free]
    exact if_pos (at_and.2 waits)
  case readFaults =>
    refine fun c => faults_of (fun _ => rfl) fun sh s h stop => ?_
    dsimp only
    rw [h.srFault, show srStops (s.begun sh) (srNum f) = some c from stop]
    rfl
  case writes =>
    intro sh s h free
    rw [srStops_begun] at free
    refine exec_done (fun _ => rfl) h ((wrsrOf_passes h free rfl).trans ?_) (keepsStrand_srWrite _ n _)
    rw [wrsrPlain, ← begun_gr s sh f.a]
    rfl
  case writeFaults =>
    intro s sh c hsh here due legal fresh stop
    have fields : sh.op = 0x056 ∧ sh.f = f := by
      obtain rfl := Option.some.inj hsh
      exact ⟨rfl, rfl⟩
    have early : (s.withIw sh).early sh = some c := early_of_srStops fields.1 legal fresh (by rw [fields.2]; exact stop)
    exact (issue_here hsh here _).trans (congrArg Host.Outcome.next (issueStep_early (s := s.withIw sh) due early _))
  case kipi =>
    exact fun sh s h free _ => exec_done (fun _ => rfl) h (wrsrOf_passes h free rfl) (keepsStrand_srWrite _ _ _)
  case kvec =>
    exact fun sh s h free ok => exec_done (fun _ => rfl) h (wrsrOf_passes h free (if_pos ((pcOk_iff _).2 ok))) (keepsStrand_srWrite _ _ _)
  case kvecFails =>
    intro sh s h free bad
    refine exec_trap (fun _ => rfl) h ?_
    exact wrsrOf_fails h free (if_neg (bad ∘ (pcOk_iff _).1))
  case part =>
    refine fun sh s h free ok => exec_done (fun _ => rfl) h (wrsrOf_passes h free (if_pos ?_)) (keepsStrand_srWrite _ _ _)
    rw [fld_eq]
    exact ok
  case partFails =>
    intro sh s h free bad
    refine exec_trap (fun _ => rfl) h ?_
    refine wrsrOf_fails h free ?_
    rw [fld_eq]
    exact if_neg (Bool.eq_false_iff.1 bad)
  case spilled =>
    rintro sh s h free ⟨fits, none_spilled⟩
    refine exec_done (fun _ => rfl) h ((wrsrOf_passes h free (if_pos ?_)).trans (if_pos ?_)) (keepsStrand_srWrite _ _ _)
    · rw [fld_eq, fld_eq]
      exact fits
    · rw [none_spilled]
      rfl
  case spillFails =>
    intro sh s h free exceeds
    refine exec_trap (fun _ => rfl) h ?_
    refine wrsrOf_fails h free (if_neg ?_)
    rw [fld_eq, fld_eq]
    exact Nat.not_le.2 exceeds
  case hypRst =>
    rintro sh s h free ⟨allotted, quiet⟩
    refine exec_done (fun _ => rfl) h ((wrsrOf_passes h free (if_pos ?_)).trans ?_) (keepsStrand_dropHyp _ _ _)
    · rw [fld_eq]
      exact allotted
    · rw [fld_zero]
      exact if_pos quiet
  case hypRstFails =>
    intro sh s h free bad
    refine exec_trap (fun _ => rfl) h ?_
    refine wrsrOf_fails h free ?_
    refine (if_neg ?_).trans ?_
    · rw [fld_eq]
      exact Bool.eq_false_iff.1 bad
    · rw [fld_zero]

end Sys2Proof.Machine
end

section
/-!
SUPPORT. What a fence or a release at a scope waits for (R153, R154, R296, R297).
-/
namespace Sys2Proof.Machine

/-- A strand with nothing left to perform has nothing left to perform within the device. -/
theorem orderedNear_of_ordered {s : State} {loads stores : Bool} (h : s.me.ordered loads stores = true) :
    s.orderedNear s.cur s.cx loads stores = true := by
  have performed : s.ctx s.cur s.cx = s.me := rfl
  unfold State.orderedNear
  unfold Ctx.ordered at h
  rw [performed]
  cases stores with
  | false => simpa using h
  | true =>
    simp only [Bool.true_and, Bool.and_eq_true, Bool.not_eq_true', Bool.or_eq_false_iff, Bool.not_eq_false', List.isEmpty_iff] at h
    obtain ⟨noLoads, noPosted, noStores⟩ := h
    simp [noLoads, noPosted, noStores]

/-- Where a release may pass, it waits for nothing. -/
theorem orderWait_of_mayPass {s : State} {id : Nat} {loads stores : Bool} (h : MayPass s id loads stores) :
    s.orderWait id loads stores = none := by
  unfold State.orderWait
  by_cases free : id = 0
  · rw [if_pos free]
  · rw [if_neg free]
    by_cases device : id = 6
    · rw [if_pos device, if_pos ((h.resolve_left free).resolve_right fun near => near.1 device)]
    · rw [if_neg device, if_pos ((h.resolve_left free).elim orderedNear_of_ordered And.right)]

/-- Elsewhere it waits as its scope says. -/
theorem orderWait_of_not_mayPass {s : State} {id : Nat} {loads stores : Bool} (h : ¬MayPass s id loads stores) :
    s.orderWait id loads stores = some (passWait id loads stores) := by
  simp only [MayPass, not_or, not_and] at h
  obtain ⟨scope, unordered, near⟩ := h
  unfold State.orderWait passWait
  rw [if_neg scope]
  by_cases device : id = 6
  · rw [if_pos device, if_pos device, if_neg unordered]
  · rw [if_neg device, if_neg device, if_neg (near device)]

/-- To have passed a release changes no context. -/
theorem me_seenBy (s : State) (id : Nat) : (s.seenBy id).me = s.me := by
  unfold State.seenBy
  split
  · rfl
  · split <;> rfl

end Sys2Proof.Machine
end

section
/-!
SUPPORT. Queue registers: `qbind`, `qmov` (R52, R158 to R160, R378).
-/
namespace Sys2Proof.Machine

/-- What the instruction captured is what its register holds. -/
theorem Issues.gOp {i : Instr} {sh : Shape} {s : State} (h : Issues i sh s) (role : Nat) (x : BitVec 6) :
    (s.begun sh).gOp role x = (s.begun sh).gr x := by rw [begun_gOp s sh h.fresh, begun_gr]

theorem Issues.replay {i : Instr} {sh : Shape} {s : State} (h : Issues i sh s) : (s.begun sh).replay = none := by
  unfold State.replay
  rw [begun_me_rett, h.fresh]

/-- A fault after a pop is taken with the element and the state after the pop (R36, R160). -/
theorem exec_popTrap {i : Instr} {sh : Shape} {s t : State} {body : State → Shape → Eff} {v : Word} {c : Nat} {a : Word}
    (hx : ∀ s, exec i s = issue i s body) (h : Issues i sh s) (hb : body (s.begun sh) sh = .popTrap v c a t) :
    exec i s = .next ((s.withIw sh).popFault t sh v c a) := by
  rw [hx, issue_go h, hb]
  rfl

theorem keepsStrand_atRetire (s : State) (sh : Shape) (act : RetAct) : KeepsStrand s (s.atRetire sh act) :=
  keepsStrand_updCore s _ _ rfl

/-- Unbinding a queue register changes its context's bindings (R158). -/
theorem Core.unbind_ctx (k : Core) (x q : Nat) :
    mget {} (k.unbind x q).ctxs x = { mget ({} : Ctx) k.ctxs x with chans := mset none (mget ({} : Ctx) k.ctxs x).chans q none } := by
  unfold Core.unbind
  dsimp only
  rw [mget_mset_self]
  split <;> rfl

theorem keepsStrand_unbind (s : State) (q : Nat) : KeepsStrand s (s.updMyCore (fun k => k.unbind s.cx q)) := by
  have mine : (s.updMyCore (fun k => k.unbind s.cx q)).me = { s.me with chans := mset none s.me.chans q none } := by
    rw [State.updMyCore, State.me, State.ctx, State.updCore_cur, State.updCore_cx, State.core_updCore_self, Core.unbind_ctx]
    rfl
  rw [KeepsStrand, mine]
  exact ⟨rfl, rfl⟩

/-- The descriptors that `qbind` refuses (R158): RSV bits, or an end that is context 15 or the own one. -/
theorem qbind_bars_iff (d : Word) (x : Nat) : (fld d 8 56 != 0 || fld d 0 4 == 15 || fld d 0 4 == x) = true ↔
    ¬(d.toNat / 2 ^ 8 = 0 ∧ d.toNat % 16 ≠ 15 ∧ d.toNat % 16 ≠ x) := by
  have whole : d.toNat / 2 ^ 8 % 2 ^ 56 = d.toNat / 2 ^ 8 := Nat.mod_eq_of_lt (by have := d.isLt; omega)
  rw [fld_zero, fld_eq, whole]
  simp only [Bool.or_eq_true, bne_iff_ne, beq_iff_eq, not_and_or, not_not, or_assoc, ne_eq, Nat.reducePow]

/-- A pop takes its element from a queue of the context, or of its core. -/
theorem keepsStrand_qPop {s t : State} {q : Nat} {v : Word} (h : s.qPop q = some (v, t)) : KeepsStrand s t := by
  unfold State.qPop at h
  split at h
  · split at h <;> cases h
    exact keepsStrand_updMe ⟨rfl, rfl⟩
  · split at h <;> cases h
    exact keepsStrand_updMe ⟨rfl, rfl⟩
  · split at h <;> cases h
    exact keepsStrand_updMe ⟨rfl, rfl⟩
  · split at h <;> cases h
    exact keepsStrand_updCore s _ _ rfl
  · split at h <;> cases h
    exact keepsStrand_updCore s _ _ rfl

/-- The state after a pop: what is known of the check bits of the other elements moves on with them (R378). -/
abbrev State.past (s t : State) (q : Nat) : State := t.updMyCore (fun k => k.badPast (s.qKey q) 1)

theorem keepsStrand_past {s t : State} {q : Nat} {v : Word} (h : s.qPop q = some (v, t)) : KeepsStrand s (s.past t q) :=
  (keepsStrand_qPop h).trans (keepsStrand_updCore t _ _ rfl)

/-- As an instruction issues, queue registers are bound as they were. -/
theorem begun_qRole (s : State) (sh : Shape) (q : Nat) (push : Bool) : (s.begun sh).qRole q push = s.qRole q push := by
  unfold State.qRole
  rw [begun_me_chans]

/-! The source of `qmov`. -/

section
variable {s t : State} {q : Nat} {v : Word} (hr : s.replay = none)
include hr

theorem State.qSource_noPop (h : s.qRole q false = false) : s.qSource q = .error (.flt cIllegal 0) := by
  simp [State.qSource, State.popped, hr, h]

theorem State.qSource_empty (h : s.qRole q false = true) (hp : s.qPop q = none) : s.qSource q = .error (.wait (.queue q)) := by
  simp [State.qSource, State.popped, hr, h, hp]

theorem State.qSource_pops (h : s.qRole q false = true) (hp : s.qPop q = some (v, t)) (hb : s.myCore.badHead (s.qKey q) 1 = false) :
    s.qSource q = .ok (v, s.past t q) := by
  simp [State.qSource, State.popped, hr, h, hp, hb, State.past]

/-- An element that fails its check is popped and not delivered (R378). -/
theorem State.qSource_bad (h : s.qRole q false = true) (hp : s.qPop q = some (v, t)) (hb : s.myCore.badHead (s.qKey q) 1 = true) :
    s.qSource q = .error (.popTrap (Config.freeWord s.fresh) cUncorrectable (BitVec.ofNat 64 (0xA0 + q)) { s.past t q with fresh := s.fresh + 1 }) := by
  simp [State.qSource, State.popped, hr, h, hp, hb, State.past]

end

/-! The three forms of `qmov`. -/

theorem exec_qmov (f : Fields) (s : State) : exec (.qmov f) s = issue (.qmov f) s (qmovOf f) := rfl

section
variable {f : Fields} {s t : State} {sh : Shape} {v : Word}

theorem qmovOf_noPush (h : f.o = 0) (hd : s.qRole f.d.toNat true = false) : qmovOf f s sh = .flt cIllegal 0 := by
  simp [qmovOf, h, hd]

theorem qmovOf_push (h : f.o = 0) (hd : s.qRole f.d.toNat true = true) (hw : s.qWait f.d.toNat (s.gOp 1 f.a) = none) :
    qmovOf f s sh = .done (s.atRetire sh (.push f.d.toNat (s.gOp 1 f.a))) := by
  simp [qmovOf, h, hd, hw]

theorem qmovOf_waits (h : f.o = 0) (hd : s.qRole f.d.toNat true = true) {w : WaitWhy} (hw : s.qWait f.d.toNat (s.gOp 1 f.a) = some w) :
    qmovOf f s sh = .wait w := by
  simp [qmovOf, h, hd, hw]

theorem qmovOf_error (h : f.o ≠ 0) {e : Eff} (hs : s.qSource f.a.toNat = .error e) : qmovOf f s sh = e := by
  unfold qmovOf
  dsimp only
  rw [if_neg h, hs]

theorem qmovOf_toReg (h : f.o = 1) (hs : s.qSource f.a.toNat = .ok (v, t)) : qmovOf f s sh = .done (t.wrG f.d v) := by
  simp [qmovOf, h, hs]

theorem qmovOf_between (h : f.o ≠ 0) (h1 : f.o ≠ 1) (hs : s.qSource f.a.toNat = .ok (v, t)) (hd : s.qRole f.d.toNat true = true)
    (hw : s.qWait f.d.toNat v = none) : qmovOf f s sh = .done (t.atRetire sh (.push f.d.toNat v)) := by
  unfold qmovOf
  dsimp only
  rw [if_neg h, hs]
  dsimp only
  rw [if_neg h1, hd, hw]
  rfl

theorem qmovOf_between_noPush (h : f.o ≠ 0) (h1 : f.o ≠ 1) (hs : s.qSource f.a.toNat = .ok (v, t)) (hd : s.qRole f.d.toNat true = false) :
    qmovOf f s sh = .popTrap v cIllegal 0 t := by
  unfold qmovOf
  dsimp only
  rw [if_neg h, hs]
  dsimp only
  rw [if_neg h1, hd]
  rfl

end

end Sys2Proof.Machine
end

section
/-!
SUPPORT. Buffer handles as software moves them (R238, R239), and what takes effect as an instruction retires (R9, R160, R238).
-/
namespace Sys2Proof.Machine

/-! Status words. -/

theorem hdlState_eq (v : Nat) : hdlState v = v % 4 := by
  simp [hdlState, bits]

theorem hdlEng_iff (v : Nat) : hdlEng v = true ↔ v / 4 % 2 = 1 := by
  simp [hdlEng, bits]

/-- What bars a change (R238): an engine owns the buffer, or `hset` names neither its state nor the next. -/
theorem hdlBars_iff (v nw : Nat) (free : Bool) :
    hdlBars v nw free = true ↔ v / 4 % 2 = 1 ∨ (free = false ∧ v % 4 ≠ nw ∧ (v % 4 + 1) % 4 ≠ nw) := by
  simp [hdlBars, hdlEng_iff, hdlState_eq, and_assoc]

/-- A status word that no engine owns (R239). -/
theorem mkHdl_free (nw n : Nat) : mkHdl nw false n = nw + n % 2 ^ 32 * 2 ^ 8 := by
  simp [mkHdl]

theorem hdlNext_same {v nw : Nat} (h : v % 4 = nw) : hdlNext v nw false = v := by
  simp [hdlNext, hdlState_eq, h]

/-- A change of state by `hset` keeps the count, but for a buffer that is to be filled. -/
theorem hdlNext_step {v nw : Nat} (h : v % 4 ≠ nw) :
    hdlNext v nw false = nw + (if nw = 1 then 0 else v / 2 ^ 8 % 2 ^ 32) * 2 ^ 8 := by
  have changes : (!false && hdlState v == nw) = false := by simp [hdlState_eq, h]
  unfold hdlNext
  rw [changes, if_neg Bool.false_ne_true, mkHdl_free]
  split <;> simp_all [hdlBytes, bits]

theorem hdlNext_free (v nw : Nat) : hdlNext v nw true = nw + v / 2 ^ 8 % 2 ^ 32 * 2 ^ 8 := by
  simp [hdlNext, mkHdl_free, hdlBytes, bits]

/-! Instructions on handles. -/

/-- The handle that an instruction names: bits 5:0 of ga (R238). -/
theorem Issues.hNum {i : Instr} {sh : Shape} {s : State} (h : Issues i sh s) (f : Fields) :
    (s.begun sh).hNum f = ((s.begun sh).gr f.a).toNat % 2 ^ 6 := by
  rw [State.hNum, h.gOp, fld_zero]

/-! What takes effect at retirement. -/

/-- Where one instruction of a core has left stage 8, it takes effect (R9). -/
theorem State.actsNow_single {s : State} {c : Nat} {p : Retiring} (h : (s.core c).retiring = [p]) (due : p.due ≤ s.cycles) :
    s.actsNow c = (s.updCore c (fun k => { k with retiring := [] })).actNow c p := by
  simp [State.actsNow, h, due]

/-- What has not retired is in no younger count, and its marks do not take effect (R37, R372). -/
def State.uncounted (s : State) (c : Nat) (p : Retiring) : State :=
  (s.updCtx c p.ctx (fun k => { k with
    outst := updIf (fun d => decide (d.id < p.info.id)) (fun d => { d with yret := d.yret - 1 }) k.outst
    posted := updIf (fun d => decide (d.id < p.info.id)) (fun d => { d with yret := d.yret - 1 }) k.posted
    faults := updIf (fun f => decide (f.id < p.info.id)) (fun f => { f with yret := f.yret - 1 }) k.faults })).updCore c
      (fun k => k.dropClears p.ctx (fun l => decide (l.due ≤ s.cycles)))

theorem State.notRetired_eq (s : State) (c : Nat) (p : Retiring) (code : Nat) (a : Word) :
    s.notRetired c p code a =
      { { s.uncounted c p with cycles := s.cycles - 1 : State }.report c p.ctx { p.info with code, addr := a } with cycles := s.cycles } := rfl

theorem State.win_notRetired (s : State) (c : Nat) (p : Retiring) (code : Nat) (a : Word) : (s.notRetired c p code a).win = s.win := by
  have at_any_ck (u : State) (n : Nat) : ({ u with cycles := n } : State).win = u.win := rfl
  rw [State.notRetired_eq, at_any_ck, State.report, State.updCtx_win, at_any_ck, State.uncounted, State.updCore_win, State.updCtx_win]

/-- Where an instruction turns out to fault as it would retire, the fault is reported. -/
theorem State.fault_notRetired (s : State) (c : Nat) (p : Retiring) (code : Nat) (a : Word) :
    ∃ e ∈ ((s.notRetired c p code a).ctx c p.ctx).faults, e.code = code ∧ e.addr = a := by
  have at_any_ck (u : State) (n : Nat) : ({ u with cycles := n } : State).ctx c p.ctx = u.ctx c p.ctx := rfl
  rw [State.notRetired_eq, at_any_ck]
  exact ⟨_, faults_report _ c p.ctx _, rfl, rfl⟩

theorem State.actNow_push {s : State} {c : Nat} {p : Retiring} {q : Nat} {v : Word} (ha : p.act = .push q v) :
    s.actNow c p = { ({ s with cur := c, cx := p.ctx } : State).qPush q v with cur := s.cur, cx := s.cx } := by
  unfold State.actNow
  rw [ha]

section
variable {s : State} {c : Nat} {p : Retiring} {h st : Nat} {free : Bool} (ha : p.act = .handle h st free)
include ha

theorem State.actNow_handle (hb : hdlBars (s.hdl c h) st free = false) :
    s.actNow c p = s.putHdl c h (hdlNext (s.hdl c h) st free) := by
  simp [State.actNow, ha, hb]

theorem State.actNow_barred (hb : hdlBars (s.hdl c h) st free = true) :
    s.actNow c p = s.notRetired c p cHandle (BitVec.ofNat 64 h) := by
  simp [State.actNow, ha, hb]

end

/-- Settles O30: `qmov` by what its source and its destination allow, handles by what bars a change. -/
theorem queuesAndBufferHandles : Obligations.QueuesAndBufferHandles := by
  refine ⟨fun f => ?queues, fun f => ?handles, fun s c p single due => ?retirement⟩
  case queues =>
    intro d a desc good holds bad pops past
    refine ⟨?bind, ?bindFaults, ?unbind, ?push, ?sourceFails, ?toReg, ?between, ?betweenFaults, ?spoilt⟩
    case bind =>
      refine does_kept (fun _ => rfl) (fun sh s h fine => ?_)
        (fun sh s => (keepsStrand_unbind s _).trans (keepsStrand_updMe ⟨rfl, rfl⟩))
      dsimp only
      rw [h.gOp]
      exact if_neg fun bars => (qbind_bars_iff _ _).1 bars fine
    case bindFaults =>
      refine faults_of (fun _ => rfl) fun sh s h unfit => ?_
      dsimp only
      rw [h.gOp]
      exact if_pos ((qbind_bars_iff _ _).2 unfit)
    case unbind =>
      intro sh s h
      have kept := keepsStrand_unbind (s.begun sh) sh.f.d.toNat
      rw [begun_cx] at kept
      refine exec_done (fun _ => rfl) h ?_ kept
      rw [begun_cx]
    case push =>
      intro form
      refine ⟨does_kept (exec_qmov f) (fun sh s h ho => ?_) (fun sh s => keepsStrand_atRetire s sh _),
        fun w => awaits_of (exec_qmov f) fun sh s h ho => ?_, faults_of (exec_qmov f) fun sh s h role => qmovOf_noPush form role⟩
      · obtain ⟨role, room⟩ := ho
        rw [← h.gOp 1 f.a] at room ⊢
        exact qmovOf_push form role room
      · obtain ⟨role, full⟩ := ho
        rw [← h.gOp 1 f.a] at full
        exact qmovOf_waits form role full
    case sourceFails =>
      intro form
      refine ⟨faults_of (exec_qmov f) fun sh s h role => qmovOf_error form (State.qSource_noPop h.replay role),
        awaits_of (exec_qmov f) fun sh s h ho => qmovOf_error form (State.qSource_empty h.replay ho.1 ho.2)⟩
    case toReg =>
      intro form sh s v t h hp
      obtain ⟨⟨role, pop⟩, sound⟩ := hp
      exact exec_done (exec_qmov f) h (qmovOf_toReg form (State.qSource_pops h.replay role pop sound))
        ((keepsStrand_past pop).trans (onlyRegs_wrG _ _ _).keepsStrand)
    case between =>
      intro form form' sh s v t h hp push room
      obtain ⟨⟨role, pop⟩, sound⟩ := hp
      rw [← begun_qRole s sh] at push
      exact exec_done (exec_qmov f) h (qmovOf_between form form' (State.qSource_pops h.replay role pop sound) push room)
        ((keepsStrand_past pop).trans (keepsStrand_atRetire _ _ _))
    case betweenFaults =>
      intro form form' sh s v t h hp push
      obtain ⟨⟨role, pop⟩, sound⟩ := hp
      rw [← begun_qRole s sh] at push
      exact exec_popTrap (exec_qmov f) h (qmovOf_between_noPush form form' (State.qSource_pops h.replay role pop sound) push)
    case spoilt =>
      intro form sh s v t h hp spoilt
      obtain ⟨role, pop⟩ := hp
      rw [← begun_fresh s sh]
      exact exec_popTrap (exec_qmov f) h (qmovOf_error form (State.qSource_bad h.replay role pop spoilt))
  case handles =>
    intro num word st engine o next stored
    have bars_set (s : State) : hdlBars (word s) o false = true ↔ engine s ∨ (st s ≠ o ∧ ¬next s) := by
      simp only [hdlBars_iff, true_and]
      rfl
    have bars_free (s : State) : hdlBars (word s) 0 true = true ↔ engine s := by
      simp only [hdlBars_iff, Bool.true_eq_false, false_and, or_false]
      rfl
    refine ⟨?wait, ?waits, ?set, ?setFaults, ?setWaits, ?release, ?releaseFaults, ?stat⟩
    case wait =>
      refine does_kept (fun _ => rfl) (fun sh s h there => ?_) (fun sh s => KeepsStrand.refl s)
      dsimp only
      rw [h.hNum, hdlState_eq]
      exact if_pos there
    case waits =>
      refine awaits_of (fun _ => rfl) fun sh s h other => ?_
      dsimp only
      rw [h.hNum, hdlState_eq]
      exact if_neg other
    case set =>
      refine does_kept (fun _ => rfl) (fun sh s h ho => ?_)
        (fun sh s => (keepsStrand_of_me (me_seenBy s 2)).trans (keepsStrand_atRetire _ sh _))
      obtain ⟨passes, owned, legal⟩ := ho
      dsimp only
      rw [orderWait_of_mayPass passes, h.hNum]
      exact if_neg fun bars => ((bars_set _).1 bars).elim owned fun barred => legal.elim barred.1 barred.2
    case setFaults =>
      refine faults_of (fun _ => rfl) fun sh s h ho => ?_
      obtain ⟨passes, barred⟩ := ho
      dsimp only
      rw [orderWait_of_mayPass passes, h.hNum]
      exact if_pos ((bars_set _).2 barred)
    case setWaits =>
      refine awaits_of (fun _ => rfl) fun sh s h behind => ?_
      dsimp only
      rw [orderWait_of_not_mayPass behind]
    case release =>
      refine does_kept (fun _ => rfl) (fun sh s h owned => ?_) (fun sh s => keepsStrand_atRetire s sh _)
      dsimp only
      rw [h.hNum]
      exact if_neg (owned ∘ (bars_free _).1)
    case releaseFaults =>
      refine faults_of (fun _ => rfl) fun sh s h owned => ?_
      dsimp only
      rw [h.hNum]
      exact if_pos ((bars_free _).2 owned)
    case stat =>
      refine does_kept (fun _ => rfl) (fun sh s h _ => ?_) (fun sh s => (onlyRegs_wrG s f.d _).keepsStrand)
      rw [h.hNum]
  case retirement =>
    intro t
    have acts : s.actsNow c = t.actNow c p := State.actsNow_single single due
    refine ⟨fun q v act => acts.trans (State.actNow_push act), fun h o free act => ?changes⟩
    case changes =>
      intro word st engine count
      have bars : hdlBars word o free = true ↔ engine ∨ (free = false ∧ st ≠ o ∧ (st + 1) % 4 ≠ o) := hdlBars_iff word o free
      have moves (ok : ¬hdlBars word o free = true) : s.actsNow c = t.putHdl c h (hdlNext word o free) :=
        acts.trans (State.actNow_handle act (Bool.eq_false_iff.2 ok))
      refine ⟨fun owned set same => ?same, fun owned set other next => ?step, fun owned release => ?free, fun barred => ?barred⟩
      case same =>
        rw [moves fun b => (bars.1 b).elim owned fun barred => barred.2.1 same, set, hdlNext_same same]
      case step =>
        rw [moves fun b => (bars.1 b).elim owned fun barred => barred.2.2 next, set, hdlNext_step other]
      case free =>
        rw [moves fun b => (bars.1 b).elim owned fun barred => by simp [release] at barred, release, hdlNext_free]
      case barred =>
        rw [acts, State.actNow_barred (s := t) act (bars.2 barred)]
        refine ⟨?_, t.fault_notRetired c p cHandle (BitVec.ofNat 64 h)⟩
        rw [State.hdl, State.win_notRetired]
        rfl

end Sys2Proof.Machine
end

section
/-!
SUPPORT. Heads and tails: what the word of an instruction gives back of the fields that it was made of (R64, R70 to R72).
-/
namespace Sys2Proof

/-! The tail that is present. -/

theorem getLsbD_tailMask (tl : Nat) (t : BitVec 48) (j : Nat) :
    (tailMask tl t).getLsbD j = (decide (j < 16 * tl) && t.getLsbD j) := by
  by_cases hj : j < 48
  · rw [tailMask, BitVec.getLsbD_and, BitVec.getLsbD_ofNat, Nat.testBit_two_pow_sub_one, decide_eq_true hj, Bool.true_and, Bool.and_comm]
  · simp [BitVec.getLsbD_of_ge _ _ (Nat.le_of_not_lt hj)]

theorem tailMask_eq_self {tl : Nat} {t : BitVec 48} (h : t.toNat < 2 ^ (16 * tl)) : tailMask tl t = t := by
  apply BitVec.eq_of_getLsbD_eq
  intro j _
  rw [getLsbD_tailMask]
  by_cases hj : j < 16 * tl
  · rw [decide_eq_true hj, Bool.true_and]
  · have absent : t.getLsbD j = false :=
      Nat.testBit_lt_two_pow (Nat.lt_of_lt_of_le h (Nat.pow_le_pow_right (by decide) (Nat.le_of_not_lt hj)))
    rw [absent, Bool.and_false]

/-- Every bit within the tail that is present is what it was. -/
theorem extractLsb'_tailMask {tl lo len : Nat} (h : lo + len ≤ 16 * tl) (t : BitVec 48) :
    (tailMask tl t).extractLsb' lo len = t.extractLsb' lo len := by
  apply BitVec.eq_of_getLsbD_eq
  intro j hj
  have present : lo + j < 16 * tl := by omega
  rw [BitVec.getLsbD_extractLsb', BitVec.getLsbD_extractLsb', getLsbD_tailMask, decide_eq_true present, Bool.true_and]

theorem tailMask_tailMask (tl : Nat) (t : BitVec 48) : tailMask tl (tailMask tl t) = tailMask tl t := by
  rw [tailMask, tailMask, BitVec.and_assoc, BitVec.and_self]

/-! Immediates. -/

/-- An immediate extended to 40 bits from the highest bit present (R71, R76). -/
def extended (sgn : Bool) {n : Nat} (im : BitVec n) : BitVec 40 := if sgn then im.signExtend 40 else im.setWidth 40

theorem immI_eq (sgn : Bool) (tl : Nat) (t : BitVec 48) :
    immI sgn tl t = if tl = 3 then extended sgn (t.extractLsb' 16 32) else extended sgn (t.extractLsb' 16 16) := rfl

theorem extended_setWidth_of_lt {n : Nat} {im : BitVec 40} (h : im.toNat < 2 ^ n) : extended false (im.setWidth n) = im := by
  apply BitVec.eq_of_toNat_eq
  change ((im.setWidth n).setWidth 40).toNat = im.toNat
  rw [BitVec.toNat_setWidth, BitVec.toNat_setWidth, Nat.mod_eq_of_lt h, Nat.mod_eq_of_lt im.isLt]

theorem extended_zero (sgn : Bool) (n : Nat) : extended sgn ((0 : BitVec 40).setWidth n) = 0 := by
  cases sgn
  · exact extended_setWidth_of_lt (Nat.two_pow_pos n)
  · change ((0 : BitVec 40).setWidth n).signExtend 40 = 0
    simp [BitVec.signExtend]

/-- An immediate that `n` bits hold is extended from them. -/
theorem extended_of_fits {sgn : Bool} {n : Nat} {im : BitVec 40}
    (h : (if sgn then (im.setWidth n).signExtend 40 == im else decide (im.toNat < 2 ^ n)) = true) : extended sgn (im.setWidth n) = im := by
  cases sgn with
  | true => exact eq_of_beq h
  | false => exact extended_setWidth_of_lt (of_decide_eq_true h)

/-- An immediate that its layout holds is extended from the bits that the longest format gives it (R71, R76). -/
theorem extended_of_immFits {s : Shape} (h : s.immFits = true) :
    extended s.sgn (s.f.imm.setWidth (if s.iLay then 32 else 16)) = s.f.imm := extended_of_fits h

/-! Marks and register fields. -/

theorem markOf_code (m : Mark) : markOf m.code = some m := by cases m <;> rfl

theorem append_halves (x : BitVec 6) : (x.extractLsb' 4 2 ++ x.extractLsb' 0 4 : BitVec 6) = x := BitVec.extractLsb'_append_extractLsb'

/-! Tails. -/

/-- A tail of the R layout gives back the fields that it holds (R70, R71). -/
theorem fieldsR_tailOf {s : Shape} {h : BitVec 16} (hl : s.iLay = false) (hf : s.immFits = true)
    (hd : h.extractLsb' 0 4 = s.f.d.extractLsb' 0 4) : fieldsR s.sgn h (tailOf s) = some s.f := by
  have imm : extended s.sgn (s.f.imm.setWidth 16) = s.f.imm := by
    have e := extended_of_immFits hf
    rwa [hl] at e
  unfold fieldsR tailOf
  rw [hl, if_neg Bool.false_ne_true]
  simp (disch := decide) only [BitVec.extractLsb'_append_eq_of_le, BitVec.extractLsb'_append_eq_of_add_le, BitVec.extractLsb'_eq_self,
    Nat.reduceSub, markOf_code, hd, append_halves]
  exact congrArg (fun im => some { s.f with imm := im }) imm

/-- A tail of the I layout holds the immediate above the other fields. -/
theorem extractLsb'_tailOf_imm {s : Shape} (hl : s.iLay = true) : (tailOf s).extractLsb' 16 32 = s.f.imm.setWidth 32 := by
  unfold tailOf
  rw [hl, if_pos rfl]
  simp (disch := decide) only [BitVec.extractLsb'_append_eq_of_le, BitVec.extractLsb'_eq_self, Nat.reduceSub]

/-- In HW, its low 16 bits (R71). -/
theorem extractLsb'_tailOf_imm16 {s : Shape} (hl : s.iLay = true) : (tailOf s).extractLsb' 16 16 = s.f.imm.setWidth 16 := by
  unfold tailOf
  rw [hl, if_pos rfl]
  simp (disch := decide) only [BitVec.extractLsb'_append_eq_of_le, Nat.reduceSub, BitVec.setWidth_eq_extractLsb',
    BitVec.extractLsb'_extractLsb'_of_le]

/-- In the I layout the fields are those that it has (R70). -/
theorem fields_of_layoutOk {s : Shape} (hl : s.iLay = true) (ho : s.layoutOk = true) :
    s.f = { d := s.f.d, a := s.f.a, ma := s.f.ma, o := s.f.o, la := s.f.la, imm := s.f.imm } := by
  unfold Shape.layoutOk at ho
  simp only [hl, Bool.not_true, Bool.false_or, Bool.and_eq_true, beq_iff_eq] at ho
  obtain ⟨⟨⟨hb, hc⟩, hmb⟩, hmc⟩ := ho
  change Fields.mk s.f.d s.f.a s.f.b s.f.c s.f.ma s.f.mb s.f.mc s.f.o s.f.la s.f.imm = _
  rw [hb, hc, hmb, hmc]

/-- A tail of the I layout, once its immediate is read, gives back the fields that it holds (R70, R71). -/
theorem fieldsI_of_low {s : Shape} {h : BitVec 16} {t : BitVec 48} (hl : s.iLay = true) (ho : s.layoutOk = true)
    (hd : h.extractLsb' 0 4 = s.f.d.extractLsb' 0 4) (ht : t.extractLsb' 0 16 = (tailOf s).extractLsb' 0 16)
    (hi : immI s.sgn (headTL h) t = s.f.imm) : fieldsI s.sgn h t = some s.f := by
  have low (lo len : Nat) (e : lo + len ≤ 16) : t.extractLsb' lo len = (tailOf s).extractLsb' lo len := by
    rw [← BitVec.extractLsb'_extractLsb'_of_le e, ht, BitVec.extractLsb'_extractLsb'_of_le e]
  unfold fieldsI
  rw [low 8 2 (by decide), low 0 2 (by decide), low 2 6 (by decide), low 14 2 (by decide), low 10 4 (by decide), hi]
  unfold tailOf
  rw [hl, if_pos rfl]
  simp (disch := decide) only [BitVec.extractLsb'_append_eq_of_le, BitVec.extractLsb'_append_eq_of_add_le, BitVec.extractLsb'_eq_self,
    Nat.reduceSub, markOf_code, hd, append_halves]
  exact congrArg some (fields_of_layoutOk hl ho).symm

/-! The shortest format. -/

/-- Whether 16 bits hold the immediate (R72). -/
def Shape.short (s : Shape) : Bool :=
  if s.sgn then (s.f.imm.setWidth 16).signExtend 40 == s.f.imm else decide (s.f.imm.toNat < 2 ^ 16)

theorem shortest_eq (s : Shape) : shortest s =
    if tailOf s = 0 then 0
    else if (tailOf s).toNat < 2 ^ 16 then 1
    else if s.iLay && s.f.imm != 0 then (if s.short then 2 else 3)
    else if (tailOf s).toNat < 2 ^ 32 then 2 else 3 := rfl

theorem extended_of_short {s : Shape} (h : s.short = true) : extended s.sgn (s.f.imm.setWidth 16) = s.f.imm := extended_of_fits h

theorem shortest_le (s : Shape) : shortest s ≤ 3 := by
  rw [shortest_eq]
  split_ifs <;> decide

/-- A tail of at most 16 bits takes none or one parcel. -/
theorem shortest_of_lt {s : Shape} (h : (tailOf s).toNat < 2 ^ 16) : shortest s ≤ 1 ∧ (tailOf s).toNat < 2 ^ (16 * shortest s) := by
  rw [shortest_eq, if_pos h]
  split
  · rename_i empty
    rw [empty]
    decide
  · exact ⟨by decide, h⟩

/-- In the R layout the shortest format holds the whole tail (R72). -/
theorem tailOf_lt_of_R {s : Shape} (hl : s.iLay = false) : (tailOf s).toNat < 2 ^ (16 * shortest s) := by
  by_cases small : (tailOf s).toNat < 2 ^ 16
  · exact (shortest_of_lt small).2
  · have present : tailOf s ≠ 0 := fun empty => small (by rw [empty]; decide)
    rw [shortest_eq, if_neg present, if_neg small, hl, Bool.false_and, if_neg Bool.false_ne_true]
    split
    · assumption
    · exact (tailOf s).isLt

/-- In the I layout a tail of at most 16 bits is one without an immediate. -/
theorem tailOf_lt_iff {s : Shape} (hl : s.iLay = true) : (tailOf s).toNat < 2 ^ 16 ↔ s.f.imm.setWidth 32 = 0 := by
  have high : (s.f.imm.setWidth 32).toNat = (tailOf s).toNat / 2 ^ 16 := by
    rw [← extractLsb'_tailOf_imm hl, BitVec.extractLsb'_toNat, Nat.shiftRight_eq_div_pow]
    have := (tailOf s).isLt
    omega
  rw [← BitVec.toNat_inj, high]
  change _ ↔ (tailOf s).toNat / 2 ^ 16 = 0
  omega

/-- In the I layout a longer tail takes HW where 16 bits hold the immediate, and HL where they do not (R72). -/
theorem shortest_of_ge {s : Shape} (hl : s.iLay = true) (h : ¬(tailOf s).toNat < 2 ^ 16) : shortest s = if s.short then 2 else 3 := by
  have present : tailOf s ≠ 0 := fun empty => h (by rw [empty]; decide)
  have imm : s.f.imm ≠ 0 := fun zero => h ((tailOf_lt_iff hl).2 (by rw [zero]; rfl))
  rw [shortest_eq, if_neg present, if_neg h, if_pos]
  rw [hl, Bool.true_and, bne_iff_ne]
  exact imm

/-! Heads. -/

/-- The head of an instruction in its shortest format (R64). -/
def Shape.head (s : Shape) : BitVec 16 := BitVec.ofNat 2 (shortest s) ++ BitVec.ofNat 10 s.op ++ (s.f.d.extractLsb' 0 4 : BitVec 4)

/-- Its tail. -/
def Shape.tail (s : Shape) : BitVec 48 := tailMask (shortest s) (tailOf s)

/-- The word of an instruction is its head and its tail (R72). -/
theorem encode_eq {g : Fields} {i : Instr} {s : Shape} (h : i.shape g = some s) : encode g i = some (s.head, s.tail) := by
  unfold encode
  rw [h]
  rfl

theorem headTL_head (s : Shape) : headTL s.head = shortest s := by
  unfold headTL Shape.head
  simp (disch := decide) only [BitVec.extractLsb'_append_eq_of_le, BitVec.extractLsb'_eq_self, Nat.reduceSub]
  exact Nat.mod_eq_of_lt (Nat.lt_of_le_of_lt (shortest_le s) (by decide))

theorem headOp_head {s : Shape} (h : s.op < 1024) : headOp s.head = s.op := by
  unfold headOp Shape.head
  simp (disch := decide) only [BitVec.extractLsb'_append_eq_of_le, BitVec.extractLsb'_append_eq_of_add_le,
    BitVec.extractLsb'_eq_self, Nat.reduceSub]
  exact Nat.mod_eq_of_lt h

theorem head_d (s : Shape) : s.head.extractLsb' 0 4 = s.f.d.extractLsb' 0 4 := BitVec.extractLsb'_append_eq_right

/-! Fields of words. -/

theorem fieldsR_word {s : Shape} (hl : s.iLay = false) (hf : s.immFits = true) : fieldsR s.sgn s.head s.tail = some s.f := by
  rw [Shape.tail, tailMask_eq_self (tailOf_lt_of_R hl)]
  exact fieldsR_tailOf hl hf (head_d s)

theorem fieldsI_word {s : Shape} (hl : s.iLay = true) (hf : s.immFits = true) (ho : s.layoutOk = true) :
    fieldsI s.sgn s.head s.tail = some s.f := by
  have fitting : extended s.sgn (s.f.imm.setWidth 32) = s.f.imm := by
    have e := extended_of_immFits hf
    rwa [hl] at e
  unfold Shape.tail
  by_cases small : (tailOf s).toNat < 2 ^ 16
  · obtain ⟨one, fits⟩ := shortest_of_lt small
    have zero : s.f.imm = 0 := by rw [← fitting, (tailOf_lt_iff hl).1 small]; exact extended_zero s.sgn 32
    rw [tailMask_eq_self fits]
    refine fieldsI_of_low hl ho (head_d s) rfl ?_
    rw [headTL_head, immI_eq, if_neg (by omega), extractLsb'_tailOf_imm16 hl, zero]
    exact extended_zero s.sgn 16
  · have format := shortest_of_ge hl small
    cases short : s.short with
    | true =>
      rw [short, if_pos rfl] at format
      refine fieldsI_of_low hl ho (head_d s) (extractLsb'_tailMask (by omega) _) ?_
      rw [headTL_head, immI_eq, if_neg (by omega), extractLsb'_tailMask (by omega), extractLsb'_tailOf_imm16 hl]
      exact extended_of_short short
    | false =>
      rw [short, if_neg Bool.false_ne_true] at format
      rw [tailMask_eq_self (by rw [format]; exact (tailOf s).isLt)]
      refine fieldsI_of_low hl ho (head_d s) rfl ?_
      rw [headTL_head, immI_eq, if_pos format, extractLsb'_tailOf_imm hl]
      exact fitting

end Sys2Proof
end

section
/-!
SUPPORT. Internal words: what they give back of the fields that they were made of (R73, R74), and what a word expands to (R78).
-/
namespace Sys2Proof

/-- An internal code gives back the member of the class that it names (R74). -/
theorem uncode_code {c : Cls} {x : BitVec 6} (h : x.toNat < c.size) : uncode (BitVec.ofNat 8 (c.code x.toNat)) = x := by
  cases c <;> revert x <;> decide

theorem mkIw_op (op : BitVec 12) (d a b c mods : BitVec 8) (la : BitVec 4) (imm : BitVec 40) :
    (mkIw op d a b c mods la imm).extractLsb' 84 12 = op := by
  unfold mkIw
  simp (disch := decide) only [BitVec.extractLsb'_append_eq_of_le, BitVec.extractLsb'_eq_self, Nat.reduceSub]

/-- An internal word gives back the fields that it was made of, registers by the members that their codes name (R73, R74). -/
theorem iwFields_mkIw (op : BitVec 12) (d a b c : BitVec 8) {mods : BitVec 8} {ma mb mc : Mark} (la : BitVec 4) (imm : BitVec 40)
    (ha : mods.extractLsb' 0 2 = ma.code) (hb : mods.extractLsb' 2 2 = mb.code) (hc : mods.extractLsb' 4 2 = mc.code) :
    iwFields (mkIw op d a b c mods la imm) =
      some { d := uncode d, a := uncode a, b := uncode b, c := uncode c, ma, mb, mc, o := mods.extractLsb' 6 2, la, imm } := by
  unfold iwFields mkIw
  simp (disch := decide) only [BitVec.extractLsb'_append_eq_of_le, BitVec.extractLsb'_append_eq_of_add_le, BitVec.extractLsb'_eq_self,
    Nat.reduceSub, ha, hb, hc, markOf_code]
  rfl

/-- The modifiers of an internal word hold the option bits and the marks (R73). -/
theorem modifiers (o x y z : BitVec 2) : (o ++ x ++ y ++ z).extractLsb' 0 2 = z ∧ (o ++ x ++ y ++ z).extractLsb' 2 2 = y ∧
    (o ++ x ++ y ++ z).extractLsb' 4 2 = x ∧ (o ++ x ++ y ++ z).extractLsb' 6 2 = o := by
  and_intros <;>
    simp (disch := decide) only [BitVec.extractLsb'_append_eq_of_le, BitVec.extractLsb'_append_eq_of_add_le,
    BitVec.extractLsb'_eq_self, Nat.reduceSub]

/-- What a valid shape says of its fields (R74, R78). -/
theorem Shape.valid_parts {s : Shape} (h : s.valid = true) :
    (s.f.d.toNat < s.d.cls.size ∧ s.f.a.toNat < s.a.cls.size ∧ s.f.b.toNat < s.b.cls.size ∧ s.f.c.toNat < s.c.cls.size) ∧
      s.immFits = true ∧ s.layoutOk = true := by
  simp only [Shape.valid, Bool.and_eq_true, Fd.valOk, decide_eq_true_eq] at h
  obtain ⟨⟨⟨⟨⟨⟨⟨⟨⟨⟨⟨hd, ha⟩, hb⟩, hc⟩, -⟩, -⟩, -⟩, -⟩, fits⟩, layout⟩, -⟩, -⟩ := h
  exact ⟨⟨hd, ha, hb, hc⟩, fits, layout⟩

theorem iw_op {s : Shape} (ho : s.op < 1024) : (s.iw.extractLsb' 84 12).toNat = s.op := by
  unfold Shape.iw
  rw [mkIw_op]
  exact Nat.mod_eq_of_lt (by omega)

/-- An instruction's internal word carries its fields; `ret`, whose source is implicit, has no field a (R73, R74). -/
theorem fieldsOf_iw {s : Shape} (hv : s.valid = true) (ho : s.op < 1024) (hr : s.op = 0x051 → s.a.cls = .none) : fieldsOf s.iw = s.f := by
  obtain ⟨⟨hd, ha, hb, hc⟩, -, -⟩ := Shape.valid_parts hv
  have isRet : s.iw.extractLsb' 84 12 = 0x051 ↔ s.op = 0x051 := by
    rw [← BitVec.toNat_inj, iw_op ho]
    rfl
  unfold fieldsOf
  simp only [isRet]
  unfold Shape.iw
  obtain ⟨ma, mb, mc, o⟩ := modifiers s.f.o s.f.mc.code s.f.mb.code s.f.ma.code
  rw [iwFields_mkIw _ _ _ _ _ _ _ ma mb mc, o, uncode_code hd, uncode_code hb, uncode_code hc]
  by_cases ret : s.op = 0x051
  · have zero : s.f.a = 0 := by
      rw [hr ret] at ha
      exact BitVec.eq_of_toNat_eq (Nat.lt_one_iff.1 ha)
    rw [if_pos ret, ← zero]
    rfl
  · rw [if_neg ret, if_neg ret, uncode_code ha]
    rfl

/-! Expansion and decoding. -/

/-- What an instruction's internal word issues is what the opcode map makes of its fields (R73, R78). -/
theorem ofIw_iw {s : Shape} {c : Fields → Instr} (hv : s.valid = true) (ho : s.op < 1024) (hr : s.op = 0x051 → s.a.cls = .none)
    (hl : lookupOp opTable s.op = some c) (hc : (c s.f).shape s.f = some s) : ofIw s.iw = c s.f := by
  have line : ¬s.iw.extractLsb' 84 12 = 0xFFE := fun e => by
    have := iw_op ho
    rw [e] at this
    change 0xFFE = s.op at this
    omega
  unfold ofIw
  rw [if_neg line, iw_op ho, hl]
  simp only [fieldsOf_iw hv ho hr, hc, hv, beq_self_eq_true, Bool.and_self, if_true]

/-- The word of an instruction expands to its internal word (R64, R70 to R73). -/
theorem expand_word {s s0 : Shape} {c : Fields → Instr} (hv : s.valid = true) (ho : s.op < 1024)
    (hl : lookupOp opTable s.op = some c) (hc : (c s.f).shape s.f = some s) (h0 : (c {}).shape {} = some s0)
    (layout : s0.iLay = s.iLay) (sign : s0.sgn = s.sgn) : expand s.head s.tail = s.iw := by
  obtain ⟨-, fits, holds⟩ := Shape.valid_parts hv
  have fields : (if s.iLay then fieldsI s.sgn s.head s.tail else fieldsR s.sgn s.head s.tail) = some s.f := by
    cases hi : s.iLay with
    | true => exact fieldsI_word hi fits holds
    | false => exact fieldsR_word hi fits
  have present : tailMask (headTL s.head) s.tail = s.tail := by
    rw [headTL_head]
    exact tailMask_tailMask _ _
  unfold expand
  dsimp only
  rw [present, headOp_head ho, hl]
  dsimp only
  rw [h0]
  dsimp only
  rw [layout, sign, fields]
  dsimp only
  rw [hc]
  exact if_pos hv

end Sys2Proof
end

section
/-!
SUPPORT. What every row of the opcode map has in common (R70, R81), and that the word of an instruction decodes to it.
-/
namespace Sys2Proof.Laws.Enc
open Sys2Proof Sys2Proof.Enc

/-! Rows of the opcode map. -/

/-- Everything that a row of the map makes has one layout, and extends its immediate in one way (R70, R71, R81). -/
def HasLayout (lay sgn : Bool) (c : Fields → Instr) : Prop := ∀ f, ∃ s, (c f).shape f = some s ∧ s.iLay = lay ∧ s.sgn = sgn

/-- So does a row that its fields decide. -/
theorem HasLayout.ite {lay sgn : Bool} {p : Fields → Prop} [DecidablePred p] {c d : Fields → Instr} (hc : HasLayout lay sgn c)
    (hd : HasLayout lay sgn d) : HasLayout lay sgn (fun f => if p f then c f else d f) := fun f => by
  dsimp only
  split
  · exact hc f
  · exact hd f

/-- A row whose instructions have some layout in common. -/
def OneLayout (r : Nat × (Fields → Instr)) : Prop := ∃ lay sgn, HasLayout lay sgn r.2

theorem HasLayout.oneLayout {op : Nat} {lay sgn : Bool} {c : Fields → Instr} (h : HasLayout lay sgn c) : OneLayout (op, c) :=
  ⟨lay, sgn, h⟩

theorem oneLayout_majors : ∀ t ∈ majors, ∀ r ∈ t.2, OneLayout r := by
  rw [← List.forall_iff_forall_mem]
  and_intros
  all_goals
    change ∀ r ∈ _, OneLayout r
    rw [← List.forall_iff_forall_mem]
    and_intros
  all_goals
    apply HasLayout.oneLayout
    repeat' apply HasLayout.ite
  all_goals exact fun _ => ⟨_, rfl, rfl, rfl⟩

theorem mem_of_lookupOp {l : List (Nat × (Fields → Instr))} {op : Nat} {c : Fields → Instr} (h : lookupOp l op = some c) :
    (op, c) ∈ l := by
  induction l with
  | nil => exact absurd h nofun
  | cons r l ih =>
    rw [lookupOp] at h
    split at h
    · rename_i e
      rw [← e, ← Option.some.inj h]
      exact List.mem_cons_self
    · exact List.mem_cons_of_mem r (ih h)

theorem oneLayout_of_lookupOp {op : Nat} {c : Fields → Instr} (h : lookupOp opTable op = some c) : OneLayout (op, c) := by
  have named := mem_of_lookupOp h
  rw [majors_all, List.mem_flatMap] at named
  obtain ⟨t, ht, hr⟩ := named
  exact oneLayout_majors t ht _ hr

/-- Opcodes have ten bits (R64). -/
theorem op_lt_of_lookupOp {op : Nat} {c : Fields → Instr} (h : lookupOp opTable op = some c) : op < 1024 := by
  have all : opTable.all (fun r => decide (r.1 < 1024)) = true := by decide +kernel
  exact of_decide_eq_true (List.all_eq_true.1 all _ (mem_of_lookupOp h))

/-! Instructions. -/

/-- The opcode map names every instruction row. -/
theorem named_by_opTable : ∀ i : Instr, Statement i
  | .add f => add f | .sub f => sub f | .and f => and f | .or f => or f | .xor f => xor f | .andn f => andn f | .shl f => shl f
  | .shr f => shr f | .sar f => sar f | .rotl f => rotl f | .mul f => mul f | .minI64 f => minI64 f | .maxI64 f => maxI64 f
  | .minN64 f => minN64 f | .maxN64 f => maxN64 f | .clz f => clz f | .ctz f => ctz f | .popc f => popc f | .sextI8 f => sextI8 f
  | .sextI16 f => sextI16 f | .sextI32 f => sextI32 f | .zextN8 f => zextN8 f | .zextN16 f => zextN16 f | .zextN32 f => zextN32 f
  | .cmpEq f => cmpEq f | .cmpNe f => cmpNe f | .cmpLt f => cmpLt f | .cmpGe f => cmpGe f | .cmpLo f => cmpLo f | .cmpHs f => cmpHs f
  | .mulhI64 f => mulhI64 f | .mulhN64 f => mulhN64 f | .divI64 f => divI64 f | .divN64 f => divN64 f | .remI64 f => remI64 f
  | .remN64 f => remN64 f | .sel f => sel f | .bfx f => bfx f | .bfi f => bfi f | .addi f => addi f | .li f => li f | .lea f => lea f
  | .br f => br f | .call f => call f | .bz f => bz f | .bnz f => bnz f | .loop f => loop f | .bcEq f => bcEq f | .bcNe f => bcNe f
  | .bcLt f => bcLt f | .bcGe f => bcGe f | .bcLo f => bcLo f | .bcHs f => bcHs f | .jr f => jr f | .jt f => jt f | .spt f => spt f
  | .rdsr f => rdsr f | .wrsr f => wrsr f | .ldB f => ldB f | .ldH f => ldH f | .ldW f => ldW f | .ldD f => ldD f | .ldF f => ldF f
  | .stB f => stB f | .stH f => stH f | .stW f => stW f | .stD f => stD f | .stF f => stF f | .pf f => pf f | .amoAdd f => amoAdd f
  | .amoAnd f => amoAnd f | .amoOr f => amoOr f | .amoXor f => amoXor f | .amoMin f => amoMin f | .amoMax f => amoMax f
  | .amoSwap f => amoSwap f | .amoCas f => amoCas f | .amoAddF32 f => amoAddF32 f | .amoAddF64 f => amoAddF64 f | .fence f => fence f
  | .wb f => wb f | .inv f => inv f | .disc f => disc f | .ldfeClr f => ldfeClr f | .ldfeKeep f => ldfeKeep f
  | .stfeWait f => stfeWait f | .stfeFail f => stfeFail f | .setfe f => setfe f | .clrfe f => clrfe f | .swarrive f => swarrive f
  | .swwait f => swwait f | .qbind f => qbind f | .qmov f => qmov f | .faddF64 f => faddF64 f | .fsubF64 f => fsubF64 f
  | .fmulF64 f => fmulF64 f | .fminF64 f => fminF64 f | .fmaxF64 f => fmaxF64 f | .faddF32 f => faddF32 f | .fsubF32 f => fsubF32 f
  | .fmulF32 f => fmulF32 f | .fminF32 f => fminF32 f | .fmaxF32 f => fmaxF32 f | .fsgnF64 f => fsgnF64 f | .fsgnF32 f => fsgnF32 f
  | .fmv f => fmv f | .fmaF64 f => fmaF64 f | .fmsF64 f => fmsF64 f | .fnmaF64 f => fnmaF64 f | .fmaF32 f => fmaF32 f
  | .fmsF32 f => fmsF32 f | .fnmaF32 f => fnmaF32 f | .fdivF64 f => fdivF64 f | .fsqrtF64 f => fsqrtF64 f | .fdivF32 f => fdivF32 f
  | .fsqrtF32 f => fsqrtF32 f | .fcmpEqF64 f => fcmpEqF64 f | .fcmpLtF64 f => fcmpLtF64 f | .fcmpLeF64 f => fcmpLeF64 f
  | .fcmpUnF64 f => fcmpUnF64 f | .fcmpEqF32 f => fcmpEqF32 f | .fcmpLtF32 f => fcmpLtF32 f | .fcmpLeF32 f => fcmpLeF32 f
  | .fcmpUnF32 f => fcmpUnF32 f | .fclassF64 f => fclassF64 f | .fclassF32 f => fclassF32 f | .fcvt f => fcvt f | .vld f => vld f
  | .vst f => vst f | .vldS f => vldS f | .vstS f => vstS f | .vgather f => vgather f | .vscatter f => vscatter f | .vadd f => vadd f
  | .vsub f => vsub f | .vmul f => vmul f | .vmin f => vmin f | .vmax f => vmax f | .vabs f => vabs f | .vneg f => vneg f
  | .vfma f => vfma f | .vfms f => vfms f | .vdiv f => vdiv f | .vsqrt f => vsqrt f | .vand f => vand f | .vor f => vor f
  | .vxor f => vxor f | .vshl f => vshl f | .vshr f => vshr f | .vsar f => vsar f | .vcmpEq f => vcmpEq f | .vcmpNe f => vcmpNe f
  | .vcmpLt f => vcmpLt f | .vcmpLe f => vcmpLe f | .vcmpUn f => vcmpUn f | .vsel f => vsel f | .vcvt f => vcvt f
  | .vbcast f => vbcast f | .vperm f => vperm f | .vslideUp f => vslideUp f | .vslideDn f => vslideDn f | .vmov f => vmov f
  | .vredAdd f => vredAdd f | .vredMin f => vredMin f | .vredMax f => vredMax f | .vscan f => vscan f | .kand f => kand f
  | .kor f => kor f | .kxor f => kxor f | .knot f => knot f | .kset f => kset f | .kpop f => kpop f | .mmaF64F64 f => mmaF64F64 f
  | .mmaF32F32 f => mmaF32F32 f | .mmaBf16F32 f => mmaBf16F32 f | .mmaF16F32 f => mmaF16F32 f | .mmaBf16Bf16 f => mmaBf16Bf16 f
  | .mmaF16F16 f => mmaF16F16 f | .mmaE4m3F32 f => mmaE4m3F32 f | .mmaE5m2F32 f => mmaE5m2F32 f | .mmaE4m3Bf16 f => mmaE4m3Bf16 f
  | .mmaE5m2Bf16 f => mmaE5m2Bf16 f | .mmaDy8F32 f => mmaDy8F32 f | .mmaDy8Bf16 f => mmaDy8Bf16 f | .mmaI8I32 f => mmaI8I32 f
  | .tld f => tld f | .tst f => tst f | .tzero f => tzero f | .tout f => tout f | .tpost f => tpost f | .tprog f => tprog f
  | .sdef f => sdef f | .sopen f => sopen f | .sclose f => sclose f | .sattach f => sattach f | .ssave f => ssave f
  | .sload f => sload f | .spop f => spop f | .sstep f => sstep f | .ssink f => ssink f | .sfloat f => sfloat f
  | .srecall f => srecall f | .sres f => sres f | .sstat f => sstat f | .cpy f => cpy f | .cpyb f => cpyb f | .mcast f => mcast f
  | .hwait f => hwait f | .hset f => hset f | .hfree f => hfree f | .hstat f => hstat f | .redCfg f => redCfg f
  | .redPost f => redPost f | .redGet f => redGet f | .bsGet f => bsGet f | .bsPut f => bsPut f | .bsPeek f => bsPeek f
  | .bsDec f => bsDec f | .bsAlign f => bsAlign f | .spawn f => spawn f | .fork f => fork f | .join f => join f | .jinit f => jinit f
  | .park f => park f | .ldM f => ldM f | .mig f => mig f | .pbind f => pbind f | .nbr f => nbr f | .cellq f => cellq f
  | .hnew f => hnew f | .henter f => henter f | .hresC f => hresC f | .hresR f => hresR f | .hnstat f => hnstat f | .trap f => trap f
  | .ipi f => ipi f | .xinv f => xinv f | .rmodeCoh f => rmodeCoh f | .pmask f => pmask f | .scset f => scset f
  | .cellset f => cellset f | .hwtest f => hwtest f | .ctxsave f => ctxsave f | .ctxload f => ctxload f | .nop => nop | .ret => ret
  | .wrsrHypRst => wrsrHypRst | .wrsrSpill => wrsrSpill | .wrsrKipi => wrsrKipi | .wrsrPart => wrsrPart | .wrsrKvec => wrsrKvec
  | .qbindOff => qbindOff | .tpostRes => tpostRes | .tpostCan => tpostCan | .yield => yield | .exit => exit | .punbind => punbind
  | .ppub => ppub | .hnewRcl => hnewRcl | .hleave => hleave | .rett => rett | .halt => halt | .xinvAll => xinvAll | .rmodeSw => rmodeSw
  | .cellsetOff => cellsetOff | .issueIllegalOpcode => issueIllegalOpcode | .issueMalformedLine => issueMalformedLine
  | .fetchFault => fetchFault | .contextBind => contextBind | .detachedCompletion => detachedCompletion
  | .memoryRequestAtHome => memoryRequestAtHome | .parkNotice => parkNotice | .wakeupArrival => wakeupArrival
  | .waitLimitExpiry => waitLimitExpiry | .withdrawalAtHome => withdrawalAtHome | .postedFaultReport => postedFaultReport
  | .trapEntry => trapEntry | .safepointOverdue => safepointOverdue | .preemptionRequest => preemptionRequest
  | .leaseExpiryCheck => leaseExpiryCheck | .dequeEntryTakeable => dequeEntryTakeable | .stealProbe => stealProbe
  | .sorusArrival => sorusArrival | .sorusRefill => sorusRefill | .sorusOfferExpiry => sorusOfferExpiry
  | .joinAtCounter => joinAtCounter | .joinDecrement => joinDecrement | .parkRecordAtHome => parkRecordAtHome | .cellSplit => cellSplit
  | .syncWordArrival => syncWordArrival | .streamFloat => streamFloat | .streamHop => streamHop
  | .streamElementRead => streamElementRead | .consumeMessage => consumeMessage | .streamRecallArrival => streamRecallArrival
  | .tileTaskAccept => tileTaskAccept | .tileTaskDependenceReady => tileTaskDependenceReady | .subtileComplete => subtileComplete
  | .tileTaskPause => tileTaskPause | .tileTaskComplete => tileTaskComplete | .copyCommandAccept => copyCommandAccept
  | .copyRunStart => copyRunStart | .copyArrivalSend => copyArrivalSend | .copyCompletion => copyCompletion
  | .reductionContribution => reductionContribution | .reductionResultArrival => reductionResultArrival
  | .reductionTimeout => reductionTimeout | .resolveAtSlice => resolveAtSlice | .resolveAtCore => resolveAtCore
  | .ipiDelivery => ipiDelivery | .launchAccept => launchAccept | .launchSlotPoll => launchSlotPoll
  | .launchEntryPush => launchEntryPush | .launchPrefetch => launchPrefetch | .launchEnd => launchEnd | .eventPost => eventPost
  | .pageWalk => pageWalk | .remapFilterMiss => remapFilterMiss | .directoryReadMiss => directoryReadMiss
  | .ownershipRequest => ownershipRequest | .l1WriteBack => l1WriteBack | .sliceEviction => sliceEviction
  | .extensionRequest => extensionRequest | .hostM2sRequest => hostM2sRequest | .h2dSnoop => h2dSnoop | .expanderBisnp => expanderBisnp
  | .softErrorDetected => softErrorDetected | .coreRetirement => coreRetirement | .transportPacketReceive => transportPacketReceive
  | .transportResendTimeout => transportResendTimeout | .laneFailure => laneFailure | .coldReset => coldReset
  | .hostPartitionCreate => hostPartitionCreate | .firmwareSwitch => firmwareSwitch | .powerSample => powerSample
  | .throttleStep => throttleStep | .rhizoidForcedFallback => rhizoidForcedFallback | .recalibration => recalibration
  | .asidAllotmentEnd => asidAllotmentEnd | .hostBisnpReply => hostBisnpReply | .lineFetchArrival => lineFetchArrival

/-- The shape of a row is that of the fields that it holds. -/
theorem shape_of_own_fields {i : Instr} {g : Fields} {s : Shape} (h : i.shape g = some s) : i.shape s.f = some s := by
  cases i <;> cases h <;> rfl

/-- The source of `ret` is implicit (R74). -/
theorem a_of_ret {i : Instr} {g : Fields} {s : Shape} (hw : i.wf g = true) (h : i.shape g = some s) (ho : s.op = 0x051) :
    s.a.cls = .none := by
  obtain ⟨c, hl, hc⟩ := named_by_opTable i g s hw h
  have ret : lookupOp opTable 0x051 = some fun _ => .ret := lookup_major rfl
  rw [ho, ret] at hl
  obtain rfl := Option.some.inj hl
  obtain rfl : Instr.ret = i := hc
  obtain rfl := Option.some.inj h
  rfl

/-- Settles O57: the head and the tail give back the opcode and the fields, so the word expands to the internal word, which gives
them back too; and the opcode map makes the instruction of them. -/
theorem encodedInstructionsDecode : Obligations.EncodedInstructionsDecode := by
  intro g i h t hw he
  cases hs : i.shape g with
  | none =>
    rw [encode, hs] at he
    exact absurd he nofun
  | some s =>
    obtain ⟨rfl, rfl⟩ : s.head = h ∧ s.tail = t := by
      rw [encode_eq hs] at he
      exact Prod.mk.inj (Option.some.inj he)
    have hv : s.valid = true := by rwa [Instr.wf, hs] at hw
    obtain ⟨c, hl, hc⟩ := named_by_opTable i g s hw hs
    have ho := op_lt_of_lookupOp hl
    have hr := a_of_ret hw hs
    have own : (c s.f).shape s.f = some s := by
      rw [hc]
      exact shape_of_own_fields hs
    have expanded : expand s.head s.tail = s.iw := by
      obtain ⟨lay, sgn, row⟩ := oneLayout_of_lookupOp hl
      obtain ⟨s0, h0, lay0, sgn0⟩ := row {}
      obtain ⟨s1, h1, lay1, sgn1⟩ := row s.f
      obtain rfl := Option.some.inj (own.symm.trans h1)
      exact expand_word hv ho hl own h0 (lay0.trans lay1.symm) (sgn0.trans sgn1.symm)
    refine ⟨?decodes, fun sh hsh => ?carries⟩
    case decodes =>
      rw [decode, expanded, ofIw_iw hv ho hr hl own]
      exact hc
    case carries =>
      obtain rfl := Option.some.inj hsh
      exact ⟨by rw [expanded, fieldsOf_iw hv ho hr], expanded⟩

/-- Settles O56: each word is its instruction's in the shortest format, so it decodes to it by O57. -/
theorem decodedWords : Obligations.DecodedWords := by
  have word {i : Instr} {h : BitVec 16} {t : BitVec 48} (hw : i.wf {} = true) (he : encode {} i = some (h, t)) : decode h t = i :=
    (encodedInstructionsDecode {} i h t hw he).1
  unfold Obligations.DecodedWords
  and_intros
  all_goals exact word rfl rfl

end Sys2Proof.Laws.Enc
end

section
/-!
SUPPORT. What a row comes to in a context that holds no strand (R29), beside what it comes to in one that does.
-/
namespace Sys2Proof.Machine

/-- A row with a shape is the issue of its instruction. -/
theorem exec_eq_issue {i : Instr} (h : (i.shape {}).isSome = true) : ∃ body, ∀ s, exec i s = issue i s body := by
  cases i <;> cases h
  all_goals exact ⟨_, fun _ => rfl⟩

theorem row_of_not_event {i : Instr} (h : isEvent i = false) :
    (i.shape {}).isSome = true ∨ i = .issueIllegalOpcode ∨ i = .issueMalformedLine ∨ i = .fetchFault := by
  cases hs : i.shape {} with
  | some sh => exact .inl rfl
  | none =>
    simp only [isEvent, hs, Option.isNone_none, Bool.true_and, Bool.and_eq_false_iff, bne_eq_false_iff_eq] at h
    rcases h with (h | h) | h <;> simp [h]

/-- Without a strand the issue of an instruction stops (R29); what has no shape is none, and changes nothing. -/
theorem issue_free {i : Instr} {s : State} (h : s.me.st = .free) (body : State → Shape → Eff) :
    GoesOn (issue i s body) ∨ issue i s body = .fault .noStrand := by
  unfold issue
  split
  · exact .inl ⟨_, rfl⟩
  · rw [h]
    exact .inr rfl

theorem exec_free {i : Instr} {s : State} (row : isEvent i = false) (h : s.me.st = .free) :
    GoesOn (exec i s) ∨ exec i s = .fault .noStrand := by
  rcases row_of_not_event row with shape | rfl | rfl | rfl
  · obtain ⟨body, e⟩ := exec_eq_issue shape
    rw [e]
    exact issue_free h body
  · change _ ∨ execIssueIllegalOpcode s = _
    unfold execIssueIllegalOpcode
    rw [h]
    exact .inr rfl
  · change _ ∨ execIssueMalformedLine s = _
    unfold execIssueMalformedLine
    rw [h]
    exact .inr rfl
  · change _ ∨ execFetchFault s = _
    unfold execFetchFault
    rw [h]
    exact .inr rfl

/-- Settles O53: events go on, and so does every other row in a context that holds a strand; without one it is an issue that stops. -/
theorem executionGoesOn : Obligations.ExecutionGoesOn := by
  intro i s
  rcases exec_goesOn i with goes | ⟨row, goes⟩
  · exact .inl (goes s)
  · by_cases free : s.me.st = .free
    · exact (exec_free row free).imp_right fun stops => ⟨free, stops⟩
    · exact .inl (goes s free)

end Sys2Proof.Machine
end

section
/-!
SUPPORT. Where control goes (R66, R68, R69, R123 to R125): the targets and successors of branches and jumps as numbers, and the
answers of the instructions that transfer control.
-/
namespace Sys2Proof.Machine

/-! Targets and successors. -/

/-- The start of the line of a PC (R63). -/
theorem lineStart_toNat (pc : Word) : (pc &&& ~~~63).toNat = 64 * (pc.toNat / 64) := by
  have low : (pc &&& 63).toNat = pc.toNat % 64 := by
    rw [BitVec.toNat_and]
    exact Nat.and_two_pow_sub_one_eq_mod pc.toNat 6
  have disjoint : (pc &&& ~~~63) &&& (pc &&& 63) = 0 := by
    rw [BitVec.and_assoc, BitVec.and_comm (~~~63), BitVec.and_assoc, BitVec.and_not_self]
    simp
  have whole : (pc &&& ~~~63) + (pc &&& 63) = pc := by
    rw [BitVec.add_eq_or_of_and_eq_zero _ _ disjoint, ← BitVec.and_or_distrib_left, BitVec.not_or_self, BitVec.and_allOnes]
  bv_omega

theorem relTarget_eq (f : Fields) {s : State} (h : s.me.rett = none) : relTarget s.pcNow f.imm = branchTarget f s := by
  have here : s.pcNow = s.me.pc := by rw [State.pcNow, State.replay, h]
  have lines : (f.imm.sshiftRight 5).toInt = f.imm.toInt / 32 := by
    rw [BitVec.toInt_sshiftRight, Int.shiftRight_eq_div_pow]
    rfl
  unfold relTarget wadd branchTarget
  rw [here, lineStart_toNat, lines, fld_zero]
  congr 1
  push_cast
  ring

theorem succ_eq_nextHead {s : State} (h : s.me.rett = none) : s.succ = nextHead s := by
  have line : (s.me.pc &&& ~~~63) + 66 = BitVec.ofNat 64 (64 * (s.me.pc.toNat / 64) + 66) := by
    rw [BitVec.ofNat_add, ← lineStart_toNat, BitVec.ofNat_toNat, BitVec.setWidth_eq]
    rfl
  rw [State.succ, h]
  change nextPc s.me.pc s.iwH = _
  rw [nextPc, fld_eq, line]
  rfl

/-- An offset of whole lines changes nothing that the check of a target reads (R69). -/
theorem targetOk_add_lines (t : Word) (n : Nat) : targetOk (BitVec.ofNat 64 (t.toNat + 64 * n)) ↔ targetOk t := by
  unfold targetOk
  rw [BitVec.toNat_ofNat]
  omega

theorem wadd_natCast (t : Word) (n : Nat) : wadd t n = BitVec.ofNat 64 (t.toNat + n) := by
  unfold wadd
  rw [← Nat.cast_add, BitVec.ofInt_natCast]

/-- An instruction that only writes registers, and transfers no control, goes on at the next head. -/
theorem jumps_next {i : Instr} {body : State → Shape → Eff} {ok : State → Prop} {e : State → Shape → State} (hx : ∀ s, exec i s = issue i s body)
    (hb : ∀ sh s, Issues i sh s → ok s → body (s.begun sh) sh = .done (e s sh)) (hr : ∀ sh s, OnlyRegs (s.begun sh) (e s sh)) :
    Jumps i ok e nextHead := jumps_succ (completes_regs hx hb hr) fun _ _ h => succ_eq_nextHead h.fresh

/-! Branches. -/

/-- A branch is taken where its condition holds, and goes on at the successor where it does not. -/
theorem branchesOn {i : Instr} {f : Fields} {c : State → Bool} {p : State → Prop} (hx : ∀ s, exec i s = issue i s (branch f c))
    (hc : ∀ sh s, Issues i sh s → (c (s.begun sh) = true ↔ p s)) : BranchesOn i f p := by
  refine ⟨jumps_regs hx (fun sh s h taken => ?taken) (fun sh s => OnlyRegs.refl _),
    jumps_next hx (fun sh s h untaken => ?untaken) (fun sh s => OnlyRegs.refl _)⟩
  case taken =>
    unfold branch
    rw [if_pos ((hc sh s h).2 taken), begun_pcNow, relTarget_eq f h.fresh]
  case untaken =>
    unfold branch
    rw [if_neg (untaken ∘ (hc sh s h).1)]

/-- A branch that compares two g registers. -/
theorem branchesOn_compare {i : Instr} {f : Fields} {c : Word → Word → Bool} (p : Word → Word → Prop)
    (hx : ∀ s, exec i s = issue i s (bcc f c)) (hc : ∀ a d, c a d = true ↔ p a d) : BranchesOn i f (fun s => p (s.gr f.a) (s.gr f.d)) :=
  branchesOn hx fun sh s h => by rw [begun_gOp s sh h.fresh, begun_gOp s sh h.fresh, hc]

/-- `call`, which writes its link. -/
theorem jumps_call (f : Fields) : Jumps (.call f) (fun _ => True) (fun s sh => (s.begun sh).wrG f.d (nextHead s)) (branchTarget f) := by
  refine jumps_regs (fun _ => rfl) (fun sh s h _ => ?_) (fun sh s => onlyRegs_wrG _ _ _)
  rw [begun_succ, succ_eq_nextHead h.fresh, begun_pcNow, relTarget_eq f h.fresh]

/-- `loop`, which writes its counter, and branches while it is not zero. -/
theorem jumps_loop (f : Fields) :
    Jumps (.loop f) (fun s => s.gr f.d - 1 ≠ 0) (fun s sh => (s.begun sh).wrG f.d (s.gr f.d - 1)) (branchTarget f) ∧
    Jumps (.loop f) (fun s => s.gr f.d - 1 = 0) (fun s sh => (s.begun sh).wrG f.d (s.gr f.d - 1)) nextHead := by
  have counter (s : State) (sh : Shape) : (s.begun sh).gReg f.d.toNat = s.gr f.d := by
    unfold State.gReg State.gr
    rw [begun_reg, begun_cur, begun_cx]
  refine ⟨jumps_regs (fun _ => rfl) (fun sh s h more => ?more) (fun sh s => onlyRegs_wrG _ _ _),
    jumps_next (fun _ => rfl) (fun sh s h last => ?last) (fun sh s => onlyRegs_wrG _ _ _)⟩
  case more =>
    dsimp only
    rw [counter, if_neg more, begun_pcNow, relTarget_eq f h.fresh]
  case last =>
    dsimp only
    rw [counter, if_pos last]

/-! Jumps to a register. -/

/-- A jump to a register target passes the check of R69, or faults with ALIGN at the target. -/
theorem jumps_or_traps {i : Instr} {body : State → Shape → Eff} {e : State → Shape → State} {pc : State → Word} {ok : State → Prop}
    (hx : ∀ s, exec i s = issue i s body) (hb : ∀ sh s, Issues i sh s → body (s.begun sh) sh = jumpTo (pc s) (e s sh))
    (hr : ∀ sh s, OnlyRegs (s.begun sh) (e s sh)) (ho : ∀ s, targetOk (pc s) ↔ ok s) :
    Jumps i ok e pc ∧ Traps i (fun s => ¬ok s) cAlign pc := by
  refine ⟨jumps_regs hx (fun sh s h good => ?good) hr, traps_of hx (fun sh s h bad => ?bad)⟩
  case good =>
    rw [hb sh s h, jumpTo, if_pos ((pcOk_iff _).2 ((ho s).2 good))]
  case bad =>
    rw [hb sh s h, jumpTo, if_neg (bad ∘ (ho s).1 ∘ (pcOk_iff _).1)]
    rfl

theorem jumps_ret : Jumps .ret (fun s => targetOk (s.gr 1)) (fun s sh => s.begun sh) (fun s => s.gr 1) ∧
    Traps .ret (fun s => ¬targetOk (s.gr 1)) cAlign (fun s => s.gr 1) :=
  jumps_or_traps (fun _ => rfl) (fun sh s h => by rw [begun_gOp s sh h.fresh]) (fun _ _ => OnlyRegs.refl _) (fun _ => Iff.rfl)

theorem jumps_jr (f : Fields) :
    Jumps (.jr f) (fun s => targetOk (s.gr f.a)) (fun s sh => (s.begun sh).wrG f.d (nextHead s)) (fun s => s.gr f.a) ∧
    Traps (.jr f) (fun s => ¬targetOk (s.gr f.a)) cAlign (fun s => s.gr f.a) :=
  jumps_or_traps (fun _ => rfl) (fun sh s h => by rw [begun_gOp s sh h.fresh, begun_succ, succ_eq_nextHead h.fresh])
    (fun _ _ => onlyRegs_wrG _ _ _) (fun _ => Iff.rfl)

/-- The entry of a jump table (R125). -/
def tableTarget (f : Fields) (s : State) : Word := BitVec.ofNat 64 ((s.gr f.b).toNat + 64 * min (s.gr f.a).toNat (s.gr f.c).toNat)

theorem jumps_jt (f : Fields) : Jumps (.jt f) (fun s => targetOk (s.gr f.b)) (fun s sh => s.begun sh) (tableTarget f) ∧
    Traps (.jt f) (fun s => ¬targetOk (s.gr f.b)) cAlign (tableTarget f) := by
  refine jumps_or_traps (fun _ => rfl) (fun sh s h => ?_) (fun _ _ => OnlyRegs.refl _) (fun s => targetOk_add_lines _ _)
  dsimp only
  rw [begun_gOp s sh h.fresh, begun_gOp s sh h.fresh, begun_gOp s sh h.fresh, tableTarget, ← wadd_natCast, Nat.cast_mul]
  rfl

/-- Settles O3: branches by their conditions, the others by what they write and where they go. -/
theorem controlTransferResults : Obligations.ControlTransferResults := by
  refine ⟨fun f => ?branches, fun f => ?jumps⟩
  case branches =>
    refine ⟨branchesOn (fun _ => rfl) ?br, jumps_call f, branchesOn (fun _ => rfl) ?bz, branchesOn (fun _ => rfl) ?bnz,
      (jumps_loop f).1, (jumps_loop f).2,
      branchesOn_compare (· = ·) (fun _ => rfl) ?eq, branchesOn_compare (· ≠ ·) (fun _ => rfl) ?ne,
      branchesOn_compare (·.toInt < ·.toInt) (fun _ => rfl) ?lt, branchesOn_compare (fun a d => d.toInt ≤ a.toInt) (fun _ => rfl) ?ge,
      branchesOn_compare (·.toNat < ·.toNat) (fun _ => rfl) ?lo, branchesOn_compare (fun a d => d.toNat ≤ a.toNat) (fun _ => rfl) ?hs⟩
    case br => exact fun _ _ _ => iff_of_true rfl trivial
    case bz => exact fun sh s h => by rw [begun_gOp s sh h.fresh, beq_iff_eq]
    case bnz => exact fun sh s h => by rw [begun_gOp s sh h.fresh, bne_iff_ne]
    case eq => exact fun _ _ => beq_iff_eq
    case ne => exact fun _ _ => bne_iff_ne
    case lt => exact fun _ _ => BitVec.slt_iff_toInt_lt
    case ge => exact fun a d => by simp [BitVec.slt]
    case lo => exact fun _ _ => BitVec.ult_iff_lt
    case hs => exact fun a d => by simp [BitVec.ult]
  case jumps =>
    have nop : Jumps .nop (fun _ => True) (fun s sh => s.begun sh) nextHead :=
      jumps_next (fun _ => rfl) (fun _ _ _ _ => rfl) (fun _ _ => OnlyRegs.refl _)
    exact ⟨nop, jumps_ret.1, jumps_ret.2, (jumps_jr f).1, (jumps_jr f).2, (jumps_jt f).1, (jumps_jt f).2⟩

end Sys2Proof.Machine
end

section
/-!
SUPPORT. Codes of a floating format against their values (R85, R86, R91): the fields of a code make it up, and a significand at the
exponent of its format is rounded to its own code.
-/
namespace Sys2Proof.Machine

theorem bits_lt (x lo len : Nat) : bits x lo len < 2 ^ len := Nat.mod_lt _ (by positivity)

/-- The sign of a code (R85). -/
def Fmt.sign (F : Fmt) (x : Nat) : Bool := decide (bits x (F.eb + F.fb) 1 = 1)

/-- The code without its sign (R85). -/
def Fmt.magCode (F : Fmt) (x : Nat) : Nat := bits x F.fb F.eb * 2 ^ F.fb + bits x 0 F.fb

/-- The exponent of a subnormal's last place (R86). -/
def Fmt.lowExp (F : Fmt) : Int := 1 - F.bias - F.fb

theorem withSign_sign_magCode {F : Fmt} {x : Nat} (hx : x < 2 ^ F.w) : withSign F (F.sign x) (F.magCode x) = x := by
  have fraction : x / 2 ^ F.fb * 2 ^ F.fb + x % 2 ^ F.fb = x := Nat.div_add_mod' x _
  have exponent : x / 2 ^ F.fb / 2 ^ F.eb * 2 ^ F.eb + x / 2 ^ F.fb % 2 ^ F.eb = x / 2 ^ F.fb := Nat.div_add_mod' _ _
  have split : x / 2 ^ (F.eb + F.fb) * 2 ^ (F.eb + F.fb) + F.magCode x = x := by
    rw [Nat.div_div_eq_div_mul, ← pow_add, Nat.add_comm F.fb] at exponent
    rw [Fmt.magCode, bits, bits, pow_zero, Nat.div_one, ← Nat.add_assoc, pow_add 2 F.eb, ← Nat.mul_assoc, ← Nat.add_mul, ← pow_add,
      exponent, fraction]
  have top : x / 2 ^ (F.eb + F.fb) < 2 := by
    rw [Nat.div_lt_iff_lt_mul (by positivity), ← pow_succ']
    exact lt_of_lt_of_eq hx (congrArg _ (by unfold Fmt.w; omega))
  rw [withSign, Fmt.sign, bits, pow_one, Nat.mod_eq_of_lt top]
  rcases Nat.lt_succ_iff_lt_or_eq.1 top with h | h
  · simpa [Nat.lt_one_iff.1 h] using split
  · simpa [h] using split

/-- Of a format with infinities the codes above the largest finite one begin the last binade (R85). -/
def Fmt.InfAfterMax (F : Fmt) : Prop := F.inf = true → F.maxCode + 1 = (2 ^ F.eb - 1) * 2 ^ F.fb

theorem infAfterMax_of_mem {F : Fmt} (h : F ∈ [fp64, fp32, fp16, bf16, e5m2, e4m3]) : F.InfAfterMax := by
  revert F
  unfold Fmt.InfAfterMax
  decide

/-- A code that is neither above the finite ones nor in the last binade of a format with infinities is finite. -/
theorem magCode_le_maxCode {F : Fmt} (hF : F.InfAfterMax) {x : Nat} (hTop : ¬(F.inf = true ∧ bits x F.fb F.eb = 2 ^ F.eb - 1))
    (hMax : ¬(¬F.inf = true ∧ F.magCode x > F.maxCode)) : F.magCode x ≤ F.maxCode := by
  by_cases hInf : F.inf = true
  · have below : bits x F.fb F.eb + 1 ≤ 2 ^ F.eb - 1 := by
      have lt : bits x F.fb F.eb < 2 ^ F.eb := bits_lt x F.fb F.eb
      have ne : bits x F.fb F.eb ≠ 2 ^ F.eb - 1 := fun h => hTop ⟨hInf, h⟩
      omega
    refine Nat.le_of_lt_succ ?_
    calc F.magCode x
      _ < bits x F.fb F.eb * 2 ^ F.fb + 2 ^ F.fb := Nat.add_lt_add_left (bits_lt x 0 F.fb) _
      _ = (bits x F.fb F.eb + 1) * 2 ^ F.fb := (Nat.add_one_mul _ _).symm
      _ ≤ (2 ^ F.eb - 1) * 2 ^ F.fb := Nat.mul_le_mul_right _ below
      _ = F.maxCode + 1 := (hF hInf).symm
  · exact Nat.le_of_not_lt fun h => hMax ⟨hInf, h⟩

/-- What a code denotes that is no NaN: the infinity after the largest finite code, or a finite value, subnormal or normal (R86). -/
theorem unpack_cases {F : Fmt} (hF : F.InfAfterMax) {x : Nat} (hx : (unpack F x).isNan = false) :
    (F.magCode x = F.maxCode + 1 ∧ unpack F x = .inf (F.sign x)) ∨
    F.magCode x ≤ F.maxCode ∧ ((bits x F.fb F.eb = 0 ∧ unpack F x = .fin (F.sign x) (bits x 0 F.fb) F.lowExp) ∨
      (bits x F.fb F.eb ≠ 0 ∧
        unpack F x = .fin (F.sign x) (2 ^ F.fb + bits x 0 F.fb) (F.lowExp + (bits x F.fb F.eb - 1)))) := by
  revert hx
  unfold unpack
  dsimp only
  split_ifs with hTop hf hMax hE
  · intro _
    refine .inl ⟨?_, rfl⟩
    rw [Fmt.magCode, hf, hTop.2, hF hTop.1, Nat.add_zero]
  · exact fun h => nomatch h
  · exact fun h => nomatch h
  · exact fun _ => .inr ⟨magCode_le_maxCode hF hTop hMax, .inl ⟨hE, rfl⟩⟩
  · refine fun _ => .inr ⟨magCode_le_maxCode hF hTop hMax, .inr ⟨hE, ?_⟩⟩
    congr 1
    unfold Fmt.lowExp
    ring

/-- A significand whose exponent is the one that its format gives it is its own rounding (R91). -/
theorem roundMag_of_exponent (F : Fmt) (mode : Mode) (neg : Bool) {m : Nat} {e : Int} (hm : m ≠ 0)
    (he : max (expOf m e - F.fb) F.lowExp = e) :
    ∃ tiny, roundMag F mode neg m e = ((e - F.lowExp).toNat * 2 ^ F.fb + m, false, tiny) := by
  unfold Fmt.lowExp at he
  unfold roundMag
  dsimp only
  rw [if_neg hm, he]
  have kept : roundAt mode neg m e e = (m, false) := by
    rw [roundAt, if_pos le_rfl, sub_self, Int.toNat_zero, pow_zero, Nat.mul_one]
  rw [kept]
  exact ⟨_, rfl⟩

theorem roundMag_subnormal (F : Fmt) (mode : Mode) (neg : Bool) {m : Nat} (hm : m < 2 ^ F.fb) :
    ∃ tiny, roundMag F mode neg m F.lowExp = (m, false, tiny) := by
  rcases eq_or_ne m 0 with rfl | h0
  · exact ⟨false, rfl⟩
  · have low : Nat.log2 m < F.fb := (Nat.log2_lt h0).2 hm
    obtain ⟨tiny, h⟩ := roundMag_of_exponent F mode neg h0 (e := F.lowExp) (by unfold expOf; omega)
    exact ⟨tiny, by simpa using h⟩

theorem roundMag_normal (F : Fmt) (mode : Mode) (neg : Bool) {E f : Nat} (hE : E ≠ 0) (hf : f < 2 ^ F.fb) :
    ∃ tiny, roundMag F mode neg (2 ^ F.fb + f) (F.lowExp + (E - 1)) = (E * 2 ^ F.fb + f, false, tiny) := by
  have log : Nat.log2 (2 ^ F.fb + f) = F.fb := (Nat.log2_eq_iff (by positivity)).2 ⟨by omega, by rw [pow_succ]; omega⟩
  obtain ⟨tiny, h⟩ := roundMag_of_exponent F mode neg (m := 2 ^ F.fb + f) (e := F.lowExp + (E - 1)) (by positivity)
    (by unfold expOf; omega)
  obtain ⟨k, rfl⟩ := Nat.exists_eq_succ_of_ne_zero hE
  have binade : (F.lowExp + ((k.succ : Nat) - 1 : Int) - F.lowExp).toNat = k := by omega
  rw [binade, ← Nat.add_assoc, ← Nat.succ_mul] at h
  exact ⟨tiny, h⟩

/-- An exact magnitude code that is finite is the rounding, with no flag. -/
theorem round_fin_of_exact {F : Fmt} {mode : Mode} {neg : Bool} {m c : Nat} {e : Int}
    (h : ∃ tiny, roundMag F mode neg m e = (c, false, tiny)) (hc : c ≤ F.maxCode) :
    round F mode (.fin neg m e) = (withSign F neg c, 0) := by
  obtain ⟨tiny, h⟩ := h
  unfold round
  dsimp only
  rw [h]
  exact (if_neg (Nat.not_lt.2 hc)).trans (by simp [flagIf])

theorem round_unpack {F : Fmt} (hF : F.InfAfterMax) (mode : Mode) {x : Nat} (hx : x < 2 ^ F.w) (hn : (unpack F x).isNan = false) :
    round F mode (unpack F x) = (x, 0) := by
  have code : withSign F (F.sign x) (F.magCode x) = x := withSign_sign_magCode hx
  have frac : bits x 0 F.fb < 2 ^ F.fb := bits_lt x 0 F.fb
  rcases unpack_cases hF hn with ⟨hc, hv⟩ | ⟨hc, ⟨hE, hv⟩ | ⟨hE, hv⟩⟩
  · rw [hv, round, ← hc, code]
  · have same : F.magCode x = bits x 0 F.fb := by rw [Fmt.magCode, hE, Nat.zero_mul, Nat.zero_add]
    rw [hv, round_fin_of_exact (roundMag_subnormal F mode _ frac) (same ▸ hc), ← same, code]
  · rw [hv, round_fin_of_exact (roundMag_normal F mode _ hE frac) hc]
    exact congrArg (·, 0) code

end Sys2Proof.Machine
end

section
/-!
SUPPORT. The values of DY8 (R87) and their smallest codes (R89): a code with its terms exchanged denotes the same value, so a value
has a code whose first term has its sign; the conversion of a value of the format finds the smallest such code.
-/
namespace Sys2Proof.Machine

theorem firstFrom_eq_some {p : Nat → Bool} {k n c : Nat} (h : firstFrom p k n = some c) :
    p c = true ∧ k ≤ c ∧ c < k + n ∧ ∀ j, k ≤ j → p j = true → c ≤ j := by
  induction n generalizing k with
  | zero => exact nomatch h
  | succ n ih =>
    rw [firstFrom] at h
    split_ifs at h with hk
    · obtain rfl := Option.some.inj h
      exact ⟨hk, le_rfl, by omega, fun j hj _ => hj⟩
    · obtain ⟨hc, hle, hlt, hmin⟩ := ih h
      refine ⟨hc, by omega, by omega, fun j hj hp => hmin j ?_ hp⟩
      rcases Nat.lt_or_eq_of_le hj with hj | rfl
      · exact hj
      · exact absurd hp hk

theorem firstFrom_isSome {p : Nat → Bool} {k n j : Nat} (hk : k ≤ j) (hn : j < k + n) (hj : p j = true) :
    ∃ c, firstFrom p k n = some c := by
  induction n generalizing k with
  | zero => omega
  | succ n ih =>
    rw [firstFrom]
    split_ifs with hp
    · exact ⟨k, rfl⟩
    · refine ih ?_ (by omega)
      rcases Nat.lt_or_eq_of_le hk with hk | rfl
      · exact hk
      · exact absurd hj hp

/-- 128 times the term that four bits of a DY8 code denote: a sign and a negated exponent (R87). -/
def dy8Term (n : Nat) : Int := if n / 8 % 2 = 1 then -((2 ^ (7 - n % 8) : Nat) : Int) else (2 ^ (7 - n % 8) : Nat)

theorem dy8I_eq_terms (c : Nat) : dy8I c = dy8Term (c / 16) + dy8Term (c % 16) := by
  have firstSign : bits c 7 1 = c / 16 / 8 % 2 := by unfold bits; omega
  have firstExp : bits c 4 3 = c / 16 % 8 := rfl
  have lastSign : bits c 3 1 = c % 16 / 8 % 2 := by unfold bits; omega
  have lastExp : bits c 0 3 = c % 16 % 8 := by unfold bits; omega
  rw [dy8I, firstSign, firstExp, lastSign, lastExp]
  rfl

/-- A term is plus or minus a power of two of at most 128, by its sign bit. -/
theorem dy8Term_cases (n : Nat) : ∃ p : Nat, (∃ i < 8, p = 2 ^ i) ∧ 0 < p ∧
    (n / 8 % 2 = 1 ∧ dy8Term n = -(p : Int) ∨ n / 8 % 2 = 0 ∧ dy8Term n = p) := by
  refine ⟨2 ^ (7 - n % 8), ⟨7 - n % 8, by omega, rfl⟩, by positivity, ?_⟩
  unfold dy8Term
  split_ifs with h
  · exact .inl ⟨h, rfl⟩
  · exact .inr ⟨by omega, rfl⟩

/-- A value has a code whose sign bit is the value's: one of its terms has the value's sign, and that one may stand first. -/
theorem exists_code_of_sign {x : Nat} (hx : x < 2 ^ 8) : ∃ c < 2 ^ 8, dy8I c = dy8I x ∧ (c / 2 ^ 7 = 1 ↔ dy8I x < 0) := by
  have sign : ∀ c, c / 2 ^ 7 = c / 16 / 8 := fun c => (Nat.div_div_eq_div_mul c 16 8).symm
  obtain ⟨p, -, hp, first⟩ := dy8Term_cases (x / 16)
  obtain ⟨q, -, hq, last⟩ := dy8Term_cases (x % 16)
  rw [dy8I_eq_terms x]
  by_cases own : x / 2 ^ 7 = 1 ↔ dy8Term (x / 16) + dy8Term (x % 16) < 0
  · exact ⟨x, hx, dy8I_eq_terms x, own⟩
  · have first_of_swap : (x % 16 * 16 + x / 16) / 16 = x % 16 := by omega
    have last_of_swap : (x % 16 * 16 + x / 16) % 16 = x / 16 := by omega
    rw [sign] at own
    refine ⟨x % 16 * 16 + x / 16, by omega, ?_, ?_⟩
    · rw [dy8I_eq_terms, first_of_swap, last_of_swap, add_comm]
    · rw [sign, first_of_swap]
      omega

theorem dy8Mag_of_powers {n p q : Nat} (hp : ∃ i < 8, p = 2 ^ i) (hq : ∃ j < 8, q = 2 ^ j) (h : n = p + q ∨ n + q = p) :
    dy8Mag n = true := by
  obtain ⟨i, hi, rfl⟩ := hp
  obtain ⟨j, hj, rfl⟩ := hq
  unfold dy8Mag
  rw [Bool.or_eq_true, List.any_eq_true]
  refine .inr ⟨i, List.mem_range.2 hi, List.any_eq_true.2 ⟨j, List.mem_range.2 hj, ?_⟩⟩
  simpa using h

/-- The magnitude of a value is the sum or the difference of its terms' powers. -/
theorem dy8Mag_natAbs_dy8I (x : Nat) : dy8Mag (dy8I x).natAbs = true := by
  obtain ⟨p, powP, -, first⟩ := dy8Term_cases (x / 16)
  obtain ⟨q, powQ, -, last⟩ := dy8Term_cases (x % 16)
  rw [dy8I_eq_terms]
  have shapes : ∀ n : Nat, n = (dy8Term (x / 16) + dy8Term (x % 16)).natAbs → (n = p + q ∨ n + q = p) ∨ n + p = q := by omega
  rcases shapes _ rfl with h | h
  · exact dy8Mag_of_powers powP powQ h
  · exact dy8Mag_of_powers powQ powP (.inr h)

theorem natAbs_dy8I_le (x : Nat) : (dy8I x).natAbs ≤ 256 := by
  have le : ∀ p : Nat, (∃ i < 8, p = 2 ^ i) → p ≤ 128 := by
    rintro _ ⟨i, hi, rfl⟩
    exact Nat.pow_le_pow_right two_pos (Nat.le_of_lt_succ hi)
  obtain ⟨p, powP, -, first⟩ := dy8Term_cases (x / 16)
  obtain ⟨q, powQ, -, last⟩ := dy8Term_cases (x % 16)
  have := le p powP
  have := le q powQ
  rw [dy8I_eq_terms]
  omega

theorem dy8Down_of_dy8Mag {n : Nat} (h : dy8Mag n = true) : dy8Down n = n := by
  cases n with
  | zero => rfl
  | succ n => rw [dy8Down, if_pos h]

/-- A magnitude of the format is exact in units of 1/128, so it is no outlier and is not moved. -/
theorem roundDy8_of_dy8Mag (mode : Mode) (neg : Bool) {n : Nat} (h : dy8Mag n = true) (hn : n ≤ 256) :
    roundDy8 mode neg n (-7) = some (dy8Code (if neg then -(n : Int) else n), 0) := by
  unfold roundDy8
  have inside : n ≤ 257 ∧ n ≠ 257 := by omega
  simp [dy8Down_of_dy8Mag h, inside, Nat.mod_one]

/-- The first code of a sign (R87). -/
def dy8Base (neg : Prop) [Decidable neg] : Nat := if neg then 128 else 0

theorem sign_iff_base {z : Nat} (neg : Prop) [Decidable neg] (hz : z < 2 ^ 8) :
    (z / 2 ^ 7 = 1 ↔ neg) ↔ dy8Base neg ≤ z ∧ z < dy8Base neg + 128 := by
  unfold dy8Base
  split_ifs with h
  · rw [iff_true_right h]
    omega
  · rw [iff_false_right h]
    omega

/-- The code found for a value is the smallest of those with its sign (R89). -/
theorem dy8Code_spec {x : Nat} (hx : x < 2 ^ 8) : ∃ y, dy8Code (dy8I x) = y ∧ y < 2 ^ 8 ∧ dy8I y = dy8I x ∧
    (y / 2 ^ 7 = 1 ↔ dy8I x < 0) ∧ ∀ z < 2 ^ 8, dy8I z = dy8I x → z / 2 ^ 7 = y / 2 ^ 7 → y ≤ z := by
  obtain ⟨c, hc, hcx, sign⟩ := exists_code_of_sign hx
  obtain ⟨low, high⟩ := (sign_iff_base _ hc).1 sign
  obtain ⟨y, hy⟩ := firstFrom_isSome (p := fun c => decide (dy8I c = dy8I x)) low high (decide_eq_true hcx)
  obtain ⟨hyx, hlow, hhigh, hmin⟩ := firstFrom_eq_some hy
  have lt : y < 2 ^ 8 := lt_of_lt_of_le hhigh (by unfold dy8Base; split_ifs <;> omega)
  have signY : y / 2 ^ 7 = 1 ↔ dy8I x < 0 := (sign_iff_base _ lt).2 ⟨hlow, hhigh⟩
  refine ⟨y, congrArg (·.getD 8) hy, lt, of_decide_eq_true hyx, signY, fun z hz hzx hzy => ?_⟩
  exact hmin z ((sign_iff_base _ hz).1 (hzy ▸ signY)).1 (decide_eq_true hzx)

theorem narrow_unpackDy8 (mode : Mode) (x : Nat) : narrow .dy8 mode (unpackDy8 x) = some (dy8Code (dy8I x), 0) := by
  have value : (if decide (dy8I x < 0) = true then -((dy8I x).natAbs : Int) else (dy8I x).natAbs) = dy8I x := by
    split_ifs with h <;> simp at h <;> omega
  have h := roundDy8_of_dy8Mag mode (decide (dy8I x < 0)) (dy8Mag_natAbs_dy8I x) (natAbs_dy8I_le x)
  rw [value] at h
  exact h

/-- The value with its signs as factors (R87). -/
theorem dy8I_eq_signs (c : Nat) : dy8I c =
    (if c / 2 ^ (4 + 3) % 2 = 1 then -1 else 1 : Int) * (2 ^ (7 - c / 2 ^ 4 % 2 ^ 3) : Nat) +
    (if c / 2 ^ (0 + 3) % 2 = 1 then -1 else 1 : Int) * (2 ^ (7 - c / 2 ^ 0 % 2 ^ 3) : Nat) := by
  rw [ite_mul, ite_mul, neg_one_mul, neg_one_mul, one_mul, one_mul]
  rfl

/-- Settles O7: a represented value rounds by `round_unpack`, and the code of a DY8 value is the smallest by `dy8Code_spec`. -/
theorem roundingKeepsRepresentedValues : Obligations.RoundingKeepsRepresentedValues := by
  refine ⟨fun F m x hF hx hn => round_unpack (infAfterMax_of_mem hF) m hx hn, fun m x hx => ?_⟩
  intro value
  have value_eq : ∀ c, value c = dy8I c := fun c => (dy8I_eq_signs c).symm
  obtain ⟨y, code, spec⟩ := dy8Code_spec hx
  refine ⟨y, by rw [narrow_unpackDy8, code], ?_⟩
  obtain ⟨lt, same, sign, least⟩ := spec
  simp only [value_eq]
  exact ⟨lt, same, same ▸ sign, least⟩

end Sys2Proof.Machine
end

section
/-!
SUPPORT. Sums of exact values (R95, R109): a value as a rational number, what a sum comes to, and when it is a negative zero.
-/
namespace Sys2Proof.Machine

theorem FVal.exact_fin (n : Bool) (m : Nat) (e : Int) : (FVal.fin n m e).exact = (if n then -1 else 1) * m * 2 ^ e := rfl

/-- The value is minus zero. -/
def FVal.NegZero (x : FVal) : Prop := ∃ e, x = .fin true 0 e

/-- The value is a number, with some sign, significand and exponent. -/
def FVal.Finite (x : FVal) : Prop := ∃ n m e, x = .fin n m e

theorem negZero_fin {n : Bool} {m : Nat} {e : Int} : (FVal.fin n m e).NegZero ↔ m = 0 ∧ n = true := by
  simp [FVal.NegZero, and_comm]

@[simp] theorem scaleI_zero (n : Bool) (e e0 : Int) : scaleI n 0 e e0 = 0 := by
  simp [scaleI]

/-- A scaled significand times the power it is scaled by is the value. -/
theorem scaleI_mul_zpow (n : Bool) (m : Nat) {e e0 : Int} (h : e0 ≤ e) :
    (scaleI n m e e0 : Rat) * 2 ^ e0 = (FVal.fin n m e).exact := by
  have power : (2 : Rat) ^ (e - e0).toNat * 2 ^ e0 = 2 ^ e := by
    rw [← zpow_natCast, ← zpow_add₀ two_ne_zero, Int.toNat_of_nonneg (by omega), sub_add_cancel]
  rw [FVal.exact_fin, ← power]
  cases n <;> simp [scaleI, mul_assoc]

theorem exact_fin_natAbs (z e : Int) : (FVal.fin (decide (z < 0)) z.natAbs e).exact = z * 2 ^ e := by
  have value : (if decide (z < 0) = true then -1 else 1) * (z.natAbs : Rat) = z := by
    rw [Nat.cast_natAbs]
    rcases lt_or_ge z 0 with h | h
    · simp [h, abs_of_neg h]
    · simp [h.not_gt, abs_of_nonneg h]
  rw [FVal.exact_fin, value]

/-- The sum of two numbers, as its significand at the smaller exponent says (R95). -/
theorem addX_fin (mode : Mode) (n k : Bool) (m m' : Nat) (e e' : Int) :
    let z := scaleI n m e (min e e') + scaleI k m' e' (min e e')
    (addX mode (.fin n m e) (.fin k m' e')).1 =
      if z = 0 then .fin (if m = 0 ∧ m' = 0 ∧ n = k then n else mode == 2) 0 0 else .fin (decide (z < 0)) z.natAbs (min e e') := by
  intro z
  rw [addX]
  exact apply_ite Prod.fst _ _ _

theorem exact_addX (mode : Mode) {x y : FVal} (hx : x.Finite) (hy : y.Finite) :
    (addX mode x y).1.exact = x.exact + y.exact := by
  obtain ⟨n, m, e, rfl⟩ := hx
  obtain ⟨k, m', e', rfl⟩ := hy
  rw [← scaleI_mul_zpow n m (min_le_left e e'), ← scaleI_mul_zpow k m' (min_le_right e e'), ← add_mul, ← Int.cast_add, addX_fin]
  split_ifs with h
  · simp [h, FVal.exact_fin]
  · simp [h, FVal.exact_fin]
  · exact exact_fin_natAbs _ _

theorem finite_addX (mode : Mode) {x y : FVal} (hx : x.Finite) (hy : y.Finite) : (addX mode x y).1.Finite := by
  obtain ⟨n, m, e, rfl⟩ := hx
  obtain ⟨k, m', e', rfl⟩ := hy
  rw [addX_fin]
  generalize scaleI n m e (min e e') + scaleI k m' e' (min e e') = z
  by_cases hz : z = 0
  · exact ⟨_, _, _, if_pos hz⟩
  · exact ⟨_, _, _, if_neg hz⟩

/-- To nearest, a sum is minus zero where both terms are (R95). -/
theorem negZero_addX {x y : FVal} (hx : x.Finite) (hy : y.Finite) : (addX 0 x y).1.NegZero ↔ x.NegZero ∧ y.NegZero := by
  obtain ⟨n, m, e, rfl⟩ := hx
  obtain ⟨k, m', e', rfl⟩ := hy
  rw [addX_fin, negZero_fin, negZero_fin]
  split_ifs with hz h
  · rw [negZero_fin]
    obtain ⟨rfl, rfl, rfl⟩ := h
    simp
  · rw [negZero_fin]
    refine iff_of_false (by simp) ?_
    rintro ⟨⟨hm, hn⟩, hm', hk⟩
    exact h ⟨hm, hm', hn.trans hk.symm⟩
  · rw [negZero_fin]
    refine iff_of_false (fun h => hz (Int.natAbs_eq_zero.1 h.1)) ?_
    rintro ⟨⟨hm, -⟩, hm', -⟩
    exact hz (by simp [hm, hm'])

/-- What holds of a sum of a group: it is a number, its value is the terms' sum, and it is minus zero where all of them are. -/
theorem foldl_addX {l : List FVal} (hl : ∀ x ∈ l, x.Finite) {a : FVal} (ha : a.Finite) :
    let S := l.foldl (fun a b => (addX 0 a b).1) a
    S.Finite ∧ S.exact = a.exact + (l.map FVal.exact).sum ∧ (S.NegZero ↔ a.NegZero ∧ ∀ x ∈ l, x.NegZero) := by
  induction l generalizing a with
  | nil => simp [ha]
  | cons x l ih =>
    have hx : x.Finite := hl x List.mem_cons_self
    obtain ⟨fin, value, zero⟩ := ih (fun y hy => hl y (List.mem_cons_of_mem _ hy)) (finite_addX 0 ha hx)
    refine ⟨fin, ?_, ?_⟩
    · rw [List.foldl_cons, value, exact_addX 0 ha hx, List.map_cons, List.sum_cons, add_assoc]
    · rw [List.foldl_cons, zero, negZero_addX ha hx, List.forall_mem_cons, and_assoc]

theorem sumGroup_spec {l : List FVal} (hl : ∀ x ∈ l, x.Finite) : (sumGroup l).Finite ∧
    (sumGroup l).exact = (l.map FVal.exact).sum ∧ ((sumGroup l).NegZero ↔ l ≠ [] ∧ ∀ x ∈ l, x.NegZero) := by
  cases l with
  | nil => exact ⟨⟨_, _, _, rfl⟩, by simp [sumGroup, FVal.exact_fin], by simp [sumGroup, negZero_fin]⟩
  | cons x l =>
    obtain ⟨fin, value, zero⟩ := foldl_addX (fun y hy => hl y (List.mem_cons_of_mem _ hy)) (hl x List.mem_cons_self)
    refine ⟨fin, value, zero.trans ?_⟩
    rw [List.forall_mem_cons, and_iff_right (List.cons_ne_nil x l)]

end Sys2Proof.Machine
end

section
/-!
SUPPORT. The orders of accumulation (R84, R108, R109, R189): what the integer minor adds, and that groups of eight end with their list.
-/
namespace Sys2Proof.Machine

/-- Fuel beyond the number of groups changes nothing. -/
theorem accGroups_fuel (F : Fmt) (mode : Mode) {n n' : Nat} (acc : Nat) {ps : List FVal} (h : ps.length ≤ 8 * n)
    (h' : ps.length ≤ 8 * n') : accGroups F mode n acc ps = accGroups F mode n' acc ps := by
  have none : ∀ n acc, accGroups F mode n acc [] = (acc, 0) := fun n _ => by cases n <;> rfl
  induction n generalizing n' acc ps with
  | zero =>
    obtain rfl : ps = [] := List.length_eq_zero_iff.1 (by omega)
    rw [none, none]
  | succ n ih =>
    cases n' with
    | zero =>
      obtain rfl : ps = [] := List.length_eq_zero_iff.1 (by omega)
      rw [none, none]
    | succ n' =>
      have rest : ∀ k, ps.length ≤ 8 * (k + 1) → (ps.drop 8).length ≤ 8 * k := fun k hk => by rw [List.length_drop]; omega
      rw [accGroups, accGroups]
      dsimp only
      rw [ih _ (rest n h) (rest n' h')]

/-- The accumulation of a list in groups: the first eight, then the others (R109). -/
theorem accGroups_step (F : Fmt) (mode : Mode) (acc : Nat) {ps : List FVal} (h : ps ≠ []) :
    accGroups F mode (ps.length / 8 + 1) acc ps =
      let S := sumGroup (ps.take 8)
      let r := roundWith F mode (addX mode (unpack F acc) S)
      let q := accGroups F mode ((ps.drop 8).length / 8 + 1) r.1 (ps.drop 8)
      (q.1, r.2 ||| flagIf S.isNan fNv ||| q.2) := by
  rw [accGroups, if_neg (by simpa using h)]
  dsimp only
  rw [accGroups_fuel F mode _ (n' := (ps.drop 8).length / 8 + 1) (by rw [List.length_drop]; omega) (by omega)]

/-- The product of two codes under the blocks' scales (R109). -/
def scaledProduct (ta tb sA sB : Nat) (e : Nat × Nat) : FVal :=
  if sA = 0xFF ∨ sB = 0xFF then .nan false
  else (mulX (unpackTy ta e.1) (unpackTy tb e.2)).1.shift ((sA : Int) - 127 + ((sB : Int) - 127))

/-- A narrow minor accumulates the scaled products in groups (R109, R189). -/
theorem mmaElem_narrow {minor ta tb tc : Nat} (hm : mmaTy minor = (ta, tb, tc)) (h2 : 2 ≤ minor) (h12 : minor ≠ 12)
    (mode : Mode) (sA sB acc : Nat) (as bs : List Nat) :
    mmaElem minor mode sA sB acc as bs = accGroups (fmtTy tc) mode ((as.zip bs).length / 8 + 1) acc
      ((as.zip bs).map (scaledProduct ta tb sA sB)) := by
  have scale : (sA : Int) - 127 + ((sB : Int) - 127) = sA + sB - 254 := by ring
  have product : scaledProduct ta tb sA sB = (fun e => if sA = 0xFF ∨ sB = 0xFF then FVal.nan false
    else (mulX e.1 e.2).1.shift ((sA : Int) + sB - 254)) ∘ fun e => (unpackTy ta e.1, unpackTy tb e.2) := by
    funext e
    simp only [scaledProduct, scale, Function.comp_apply]
  rw [mmaElem, hm]
  dsimp only
  rw [if_neg h12, if_neg (Nat.not_lt.2 h2), List.map_map, List.length_map, product]

theorem mmaElem_narrow_step {minor ta tb tc : Nat} (hm : mmaTy minor = (ta, tb, tc)) (h2 : 2 ≤ minor) (h12 : minor ≠ 12)
    (mode : Mode) (sA sB acc : Nat) {as bs : List Nat} (ha : as ≠ []) (hb : bs ≠ []) :
    mmaElem minor mode sA sB acc as bs =
      let S := sumGroup (((as.zip bs).take 8).map (scaledProduct ta tb sA sB))
      let r := roundWith (fmtTy tc) mode (addX mode (unpack (fmtTy tc) acc) S)
      let q := mmaElem minor mode sA sB r.1 (as.drop 8) (bs.drop 8)
      (q.1, r.2 ||| flagIf S.isNan fNv ||| q.2) := by
  have pairs : (as.zip bs).map (scaledProduct ta tb sA sB) ≠ [] := by simp [List.zip_eq_nil_iff, ha, hb]
  have rest : (as.zip bs).drop 8 = (as.drop 8).zip (bs.drop 8) := List.drop_zipWith
  have step := accGroups_step (fmtTy tc) mode acc pairs
  rw [List.length_map, ← List.map_take, ← List.map_drop, List.length_map, rest] at step
  rw [mmaElem_narrow hm h2 h12, step]
  dsimp only
  rw [mmaElem_narrow hm h2 h12]

theorem intTy_zero_of_lt {x : Nat} (h : x < 2 ^ 8) : intTy 0 x = if x < 2 ^ 7 then (x : Int) else (x : Int) - 2 ^ 8 := by
  have residue : intTy 0 x = if x % 2 ^ 8 < 2 ^ 7 then ((x % 2 ^ 8 : Nat) : Int) else (x % 2 ^ 8 : Nat) - 2 ^ 8 := rfl
  rw [residue, Nat.mod_eq_of_lt h]

/-- The integer minor (R84, R189). -/
theorem mmaElem_int (mode : Mode) (sA sB acc : Nat) (as bs : List Nat) : mmaElem 12 mode sA sB acc as bs =
    (((acc + ((as.zip bs).map (fun e => intTy 0 e.1 * intTy 0 e.2)).sum) % 2 ^ 32 : Int).toNat, 0) := by
  rw [List.sum_eq_foldl]
  rfl

/-- Settles O39: the integer minor by `mmaElem_int`, the wide minors by the recursion of `accSeq`, the narrow ones by
`mmaElem_narrow_step`, and the sum of a group by `sumGroup_spec`. -/
theorem matrixAccumulation : Obligations.MatrixAccumulation := by
  intro mode acc a b as bs i8 sum step groups
  have group : ∀ minor ta tb tc : Nat, mmaTy minor = (ta, tb, tc) → 2 ≤ minor ∧ minor ≠ 12 → groups minor ta tb (fmtTy tc) :=
    fun _ _ _ _ hm narrow sA sB ha hb => mmaElem_narrow_step hm narrow.1 narrow.2 mode sA sB acc ha hb
  refine ⟨fun small => ?int, rfl, rfl,
    group 2 11 11 9 rfl (by decide), group 3 10 10 9 rfl (by decide), group 4 11 11 11 rfl (by decide),
    group 5 10 10 10 rfl (by decide), group 6 12 12 9 rfl (by decide), group 7 13 13 9 rfl (by decide),
    group 8 12 12 11 rfl (by decide), group 9 13 13 11 rfl (by decide), group 10 14 11 9 rfl (by decide),
    group 11 14 11 11 rfl (by decide), fun l hl => ?sum, fun m hm => ?empty⟩
  case int =>
    have terms : (as.zip bs).map (fun e => intTy 0 e.1 * intTy 0 e.2) = (as.zip bs).map (fun e => i8 e.1 * i8 e.2) := by
      refine List.map_congr_left fun e he => ?_
      obtain ⟨ha, hb⟩ := List.of_mem_zip he
      rw [intTy_zero_of_lt (small _ (List.mem_append_left _ ha)), intTy_zero_of_lt (small _ (List.mem_append_right _ hb))]
    rw [mmaElem_int, terms]
  case sum =>
    obtain ⟨⟨n, m, k, number⟩, value, zero⟩ := sumGroup_spec hl
    refine ⟨n, m, k, number, value, fun hm => ?_⟩
    rw [number, negZero_fin, and_iff_right hm] at zero
    exact zero
  case empty =>
    interval_cases m <;> rfl

end Sys2Proof.Machine
end

section
/-!
SUPPORT. The scalar integer operations as arithmetic on the numbers that words denote (R118 to R122).
-/
namespace Sys2Proof.Machine

/-! Two-source arithmetic (R118). -/

theorem sub_eq_ofInt (a b : Word) : a - b = BitVec.ofInt 64 (a.toNat - b.toNat) := by
  rw [sub_eq_add_neg, sub_eq_add_neg, BitVec.ofInt_add, BitVec.ofInt_neg, BitVec.ofInt_natCast, BitVec.ofInt_natCast, BitVec.ofNat_toNat, BitVec.ofNat_toNat,
    BitVec.setWidth_eq, BitVec.setWidth_eq]

theorem mul_eq_ofNat (a b : Word) : a * b = BitVec.ofNat 64 (a.toNat * b.toNat) := by
  apply BitVec.eq_of_toNat_eq
  rw [BitVec.toNat_mul, BitVec.toNat_ofNat]

theorem shN_eq (b : Word) : shN b = b.toNat % 64 := fld_zero b 6

theorem shiftLeft_eq_ofNat (a : Word) (n : Nat) : a <<< n = BitVec.ofNat 64 (a.toNat * 2 ^ n) := by
  apply BitVec.eq_of_toNat_eq
  rw [BitVec.toNat_shiftLeft, BitVec.toNat_ofNat, Nat.shiftLeft_eq]

theorem ushiftRight_eq_ofNat (a : Word) (n : Nat) : a >>> n = BitVec.ofNat 64 (a.toNat / 2 ^ n) := by
  rw [← Nat.shiftRight_eq_div_pow, ← BitVec.toNat_ushiftRight, BitVec.ofNat_toNat, BitVec.setWidth_eq]

theorem sshiftRight_eq_ofInt (a : Word) (n : Nat) : a.sshiftRight n = BitVec.ofInt 64 (a.toInt / (2 ^ n : Nat)) := by
  rw [← Int.shiftRight_eq_div_pow, ← BitVec.toInt_sshiftRight, BitVec.ofInt_toInt]

/-- A rotation joins the two shifts; by 0 it leaves the word, as the second shift would be by all 64 bits. -/
theorem rotateLeft_eq_ofNat (a : Word) {n : Nat} (h : n < 64) : a.rotateLeft n =
    if n = 0 then a else BitVec.ofNat 64 (a.toNat * 2 ^ n) ||| BitVec.ofNat 64 (a.toNat / 2 ^ (64 - n)) := by
  rw [← shiftLeft_eq_ofNat, ← ushiftRight_eq_ofNat, BitVec.rotateLeft_def, Nat.mod_eq_of_lt h]
  split
  case isTrue zero => simp [zero, BitVec.ushiftRight_eq_zero]
  case isFalse => rfl

theorem smin_eq (a b : Word) : (if b.slt a then b else a) = if a.toInt ≤ b.toInt then a else b := by
  simp only [BitVec.slt_iff_toInt_lt, ← not_le, ite_not]

theorem smax_eq (a b : Word) : (if a.slt b then b else a) = if a.toInt ≤ b.toInt then b else a := by
  simp only [BitVec.slt_iff_toInt_lt]
  rcases lt_trichotomy a.toInt b.toInt with less | same | more
  · rw [if_pos less, if_pos less.le]
  · rw [BitVec.eq_of_toInt_eq same, ite_self, ite_self]
  · rw [if_neg more.not_gt, if_neg more.not_ge]

theorem umin_eq (a b : Word) : (if b.ult a then b else a) = if a.toNat ≤ b.toNat then a else b := by
  simp only [BitVec.ult_iff_lt, BitVec.lt_def, ← not_le, ite_not]

theorem umax_eq (a b : Word) : (if a.ult b then b else a) = if a.toNat ≤ b.toNat then b else a := by
  simp only [BitVec.ult_iff_lt, BitVec.lt_def]
  rcases lt_trichotomy a.toNat b.toNat with less | same | more
  · rw [if_pos less, if_pos less.le]
  · rw [BitVec.eq_of_toNat_eq same, ite_self, ite_self]
  · rw [if_neg more.not_gt, if_neg more.not_ge]

/-! Counts of bits (R119). -/

/-- The positions of the one bits of a word, lowest first. -/
def onesOf (a : Word) : List Nat := (List.range 64).filter (fun j => a.getLsbD j)

theorem onesFrom_eq_filter (x k n : Nat) : onesFrom x k n = ((List.range n).filter x.testBit).map (k + ·) := by
  induction n generalizing x k with
  | zero => rfl
  | succ n ih =>
    have above : x.testBit ∘ Nat.succ = (x / 2).testBit := funext fun j => Nat.testBit_succ x j
    have shifted : (k + ·) ∘ Nat.succ = (k + 1 + ·) := funext fun j => by simp only [Function.comp]; omega
    rw [onesFrom, ih, List.range_succ_eq_map, List.filter_cons, List.filter_map, above, Nat.testBit_zero]
    by_cases odd : x % 2 = 1
    · simp [odd, shifted]
    · simp [odd, shifted]

theorem onesFrom_word (a : Word) : onesFrom a.toNat 0 64 = onesOf a := by
  rw [onesFrom_eq_filter]
  simp only [Nat.zero_add, List.map_id']
  rfl

theorem popc_eq_length (x k n : Nat) : popc x n = (onesFrom x k n).length := by
  induction n generalizing x k with
  | zero => rfl
  | succ n ih =>
    rw [popc, onesFrom, ih _ (k + 1)]
    rcases Nat.mod_two_eq_zero_or_one x with even | odd
    · rw [even, if_neg (by decide), Nat.zero_add]
    · rw [odd, if_pos rfl, List.length_cons, Nat.add_comm]

/-- The last number below `n` that satisfies `p` is the one above which none does. -/
theorem getLast?_filter_range {p : Nat → Bool} {n m : Nat} (below : m < n) (here : p m = true) (above : ∀ j, m < j → p j = false) :
    ((List.range n).filter p).getLast? = some m := by
  induction n with
  | zero => exact absurd below (Nat.not_lt_zero m)
  | succ n ih =>
    rw [List.range_succ, List.filter_append]
    rcases (Nat.lt_succ_iff_lt_or_eq.1 below) with less | rfl
    · rw [List.filter_singleton, above n less, cond_false, List.append_nil, ih less]
    · rw [List.filter_singleton, here, cond_true, List.getLast?_concat]

/-- The highest one bit of a word is its logarithm. -/
theorem getLast?_onesOf {a : Word} (h : a ≠ 0) : (onesOf a).getLast? = some (Nat.log2 a.toNat) := by
  have nonzero : a.toNat ≠ 0 := fun zero => h (BitVec.eq_of_toNat_eq zero)
  refine getLast?_filter_range ((Nat.log2_lt nonzero).2 a.isLt) (Nat.testBit_log2 nonzero) fun j more => ?_
  exact Nat.testBit_lt_two_pow ((Nat.log2_lt nonzero).1 more)

theorem clz64_eq (a : Word) : clz64 a = BitVec.ofNat 64 (63 - (onesOf a).getLast?.getD 0 + (if a = 0 then 1 else 0)) := by
  unfold clz64
  by_cases zero : a = 0
  · rw [if_pos zero, if_pos zero, zero]
    rfl
  · rw [if_neg zero, if_neg zero, getLast?_onesOf zero]
    rfl

theorem ctz64_eq (a : Word) : ctz64 a = BitVec.ofNat 64 ((onesOf a).headD 64) := by rw [ctz64, onesFrom_word]

theorem popc_word (a : Word) : popc a.toNat 64 = (onesOf a).length := by rw [popc_eq_length _ 0, onesFrom_word]

/-! Comparisons (R119). -/

theorem bne_eq_decide_ne (a b : Word) : (a != b) = decide (a ≠ b) := by
  rw [decide_not, ← beq_eq_decide]
  rfl

theorem not_slt_eq (a b : Word) : (!a.slt b) = decide (b.toInt ≤ a.toInt) := by rw [BitVec.slt, ← decide_not, decide_eq_decide, not_lt]

theorem not_ult_eq (a b : Word) : (!a.ult b) = decide (b.toNat ≤ a.toNat) := by rw [BitVec.ult, ← decide_not, decide_eq_decide, not_lt]

/-! Products, bit fields and immediates (R120, R122). -/

theorem bfP_eq (b : Word) : bfP b = b.toNat % 64 := fld_zero b 6
theorem bfW_eq (b : Word) : bfW b = min (b.toNat / 2 ^ 8 % 2 ^ 7) (64 - b.toNat % 64) := by rw [bfW, bfP_eq, fld_eq]

/-- A field of `w` bits read as two's complement (R83). -/
theorem signed_of_lt {v w : Nat} (h : v < 2 ^ w) : signed v w = if 0 < w ∧ 2 ^ (w - 1) ≤ v then (v : Int) - (2 ^ w : Nat) else v := by
  unfold signed
  rw [Nat.mod_eq_of_lt h]
  rcases Nat.eq_zero_or_pos w with rfl | pos
  · have zero : v = 0 := by omega
    simp [zero]
  · simp only [pos.ne', if_false, pos, true_and, ← not_lt, ite_not]

theorem bfxOf_eq (sx : Bool) (a b : Word) : bfxOf sx a b =
    let w := bfW b
    let v := a.toNat / 2 ^ bfP b % 2 ^ w
    if sx = true ∧ 0 < w ∧ 2 ^ (w - 1) ≤ v then BitVec.ofInt 64 ((v : Int) - (2 ^ w : Nat)) else BitVec.ofNat 64 v := by
  unfold bfxOf bits
  dsimp only
  cases sx
  · rw [if_neg (by simp), if_neg (by simp)]
  · rw [if_pos rfl, signed_of_lt (Nat.mod_lt _ (Nat.two_pow_pos _)), apply_ite (BitVec.ofInt 64), BitVec.ofInt_natCast]
    simp only [true_and]

/-- A field put in place lies between what is kept below it and above it. -/
theorem setFld_eq_ofNat (c : Word) {p w : Nat} (x : Nat) : setFld c p w x =
    BitVec.ofNat 64 (c.toNat % 2 ^ p + x % 2 ^ w * 2 ^ p + c.toNat / 2 ^ (p + w) * 2 ^ (p + w)) := by
  have parts : c.toNat % 2 ^ p + x % 2 ^ w * 2 ^ p + c.toNat / 2 ^ (p + w) * 2 ^ (p + w) =
      2 ^ p * (2 ^ w * (c.toNat / 2 ^ (p + w)) + x % 2 ^ w) + c.toNat % 2 ^ p := by
    rw [Nat.pow_add]
    ring
  rw [parts]
  refine BitVec.eq_of_getLsbD_eq fun j hj => ?_
  simp only [setFld, BitVec.getLsbD_or, BitVec.getLsbD_and, BitVec.getLsbD_not, BitVec.getLsbD_ofNat, hj, decide_true, Bool.true_and,
    Nat.testBit_mul_two_pow, Nat.testBit_two_pow_sub_one, Nat.testBit_mod_two_pow,
    Nat.testBit_two_pow_mul_add _ (Nat.mod_lt _ (Nat.two_pow_pos _)), Nat.testBit_div_two_pow, BitVec.testBit_toNat]
  by_cases low : j < p
  · simp [low, Nat.not_le.2 low]
  · by_cases mid : j - p < w
    · simp [low, mid, Nat.not_lt.1 low]
    · have back : j - p - w + (p + w) = j := by omega
      simp [low, mid, back]

theorem immS_eq (f : Fields) : immS f = BitVec.ofInt 64 f.imm.toInt := rfl

theorem add_immS (a : Word) (f : Fields) : a + immS f = BitVec.ofInt 64 (a.toNat + f.imm.toInt) := by
  rw [immS_eq, BitVec.ofInt_add, BitVec.ofInt_natCast, BitVec.ofNat_toNat, BitVec.setWidth_eq]

theorem immS_shiftLeft (f : Fields) (n : Nat) : immS f <<< n = BitVec.ofInt 64 (f.imm.toInt * (2 ^ n : Nat)) := by
  rw [immS_eq, BitVec.ofInt_mul, BitVec.shiftLeft_eq_mul_twoPow, BitVec.twoPow_eq, shiftLeft_eq_ofNat, BitVec.toNat_one (by decide), one_mul,
    BitVec.ofInt_natCast]

end Sys2Proof.Machine
end

section
/-!
SUPPORT. The scalar integer instructions (R118 to R120, R122): each writes its destination with a function of its sources.
-/
namespace Sys2Proof.Machine

section
variable {i : Instr} {f : Fields} {v : State → Word}

/-- An instruction that only writes a g register. -/
theorem setsG_of {d : BitVec 6} {body : State → Shape → Eff} (hx : ∀ s, exec i s = issue i s body)
    (hb : ∀ sh s, Issues i sh s → body (s.begun sh) sh = .done ((s.begun sh).wrG d (v s))) : SetsG i d v :=
  completes_regs hx (fun sh s h _ => hb sh s h) fun _ _ => onlyRegs_wrG _ _ _

/-- One of two g sources. -/
theorem setsG_binary {op : Word → Word → Word} (hx : ∀ s, exec i s = issue i s (gBin f op))
    (hv : ∀ s : State, op (s.gr f.a) (s.gr f.b) = v s) : SetsG i f.d v :=
  setsG_of hx fun sh s h => by rw [gBin, begun_gOp s sh h.fresh, begun_gOp s sh h.fresh, hv]

/-- One of one g source. -/
theorem setsG_unary {op : Word → Word} (hx : ∀ s, exec i s = issue i s (gUn f op)) (hv : ∀ s : State, op (s.gr f.a) = v s) : SetsG i f.d v :=
  setsG_of hx fun sh s h => by rw [gUn, begun_gOp s sh h.fresh, hv]

end

/-- Settles O1: each operation is the arithmetic of its sources. -/
theorem integerArithmeticResults : Obligations.IntegerArithmeticResults := by
  intro f a b n
  have count (s : State) : shN (s.gr f.b) = n s := shN_eq _
  refine ⟨setsG_binary (fun _ => rfl) fun s => BitVec.add_def _ _, setsG_binary (fun _ => rfl) fun s => sub_eq_ofInt _ _,
    setsG_binary (fun _ => rfl) fun s => rfl, setsG_binary (fun _ => rfl) fun s => rfl,
    setsG_binary (fun _ => rfl) fun s => rfl, setsG_binary (fun _ => rfl) fun s => rfl,
    setsG_binary (fun _ => rfl) ?shl, setsG_binary (fun _ => rfl) ?shr, setsG_binary (fun _ => rfl) ?sar,
    setsG_binary (fun _ => rfl) ?rotl, setsG_binary (fun _ => rfl) fun s => mul_eq_ofNat _ _,
    setsG_binary (fun _ => rfl) fun s => smin_eq _ _, setsG_binary (fun _ => rfl) fun s => smax_eq _ _,
    setsG_binary (fun _ => rfl) fun s => umin_eq _ _, setsG_binary (fun _ => rfl) fun s => umax_eq _ _⟩
  case shl => exact fun s => by rw [count, shiftLeft_eq_ofNat]
  case shr => exact fun s => by rw [count, ushiftRight_eq_ofNat]
  case sar => exact fun s => by rw [count, sshiftRight_eq_ofInt]
  case rotl => exact fun s => by rw [count, rotateLeft_eq_ofNat _ (Nat.mod_lt _ (by decide))]

/-! Majors 0x01 to 0x03. -/

/-- A field that a row does not use is zero in a well-formed instruction (R74, R78). -/
theorem b_eq_zero_of_unused {i : Instr} {u : Fields} {sh : Shape} (hw : i.wf u = true) (hs : i.shape u = some sh) (unused : sh.b.cls = .none) :
    sh.f.b = 0 := by
  rw [Instr.wf, hs] at hw
  obtain ⟨⟨-, -, hb, -⟩, -⟩ := Shape.valid_parts hw
  rw [unused] at hb
  exact BitVec.eq_of_toNat_eq (Nat.lt_one_iff.1 hb)

/-- `sel`. -/
theorem setsG_sel (f : Fields) : SetsG (.sel f) f.d (fun s => if s.gr f.a ≠ 0 then s.gr f.b else s.gr f.c) :=
  setsG_of (fun _ => rfl) fun sh s h => by
    rw [begun_gOp s sh h.fresh, begun_gOp s sh h.fresh, begun_gOp s sh h.fresh, ite_not]

/-- The address of the line that the strand is in (R63). -/
def State.lineBase (s : State) : Nat := 64 * (s.me.pc.toNat / 64)

theorem branchTarget_of_line (f : Fields) (s : State) :
    branchTarget f s = BitVec.ofInt 64 (s.lineBase + 64 * (f.imm.toInt / 32) + 2 * (f.imm.toNat % 32 + 1)) := by
  unfold branchTarget State.lineBase
  push_cast
  rfl

/-- `lea`. -/
theorem setsG_lea (f : Fields) : SetsG (.lea f) f.d (fun s =>
    if f.o = 0 then BitVec.ofInt 64 (s.lineBase + 64 * (f.imm.toInt / 32) + 2 * (f.imm.toNat % 32 + 1))
    else BitVec.ofInt 64 (s.lineBase + f.imm.toInt)) :=
  setsG_of (fun _ => rfl) fun sh s h => by
    have here : s.pcNow = s.me.pc := by rw [State.pcNow, State.replay, h.fresh]
    rw [begun_pcNow, relTarget_eq f h.fresh, branchTarget_of_line, here, add_immS, lineStart_toNat]
    rfl

/-- Settles O2: each operation is what its rule says of its sources. -/
theorem unaryCompareAndFieldResults : Obligations.UnaryCompareAndFieldResults := by
  refine ⟨fun f => ?unary, fun f => ?fields⟩
  case unary =>
    intro a b ones bit
    refine ⟨setsG_unary (fun _ => rfl) fun s => clz64_eq _, setsG_unary (fun _ => rfl) fun s => ctz64_eq _,
      setsG_unary (fun _ => rfl) fun s => congrArg _ (popc_word _),
      setsG_unary (fun _ => rfl) fun s => rfl, setsG_unary (fun _ => rfl) fun s => rfl, setsG_unary (fun _ => rfl) fun s => rfl,
      setsG_unary (fun _ => rfl) fun s => setWidth_setWidth_word _ 8, setsG_unary (fun _ => rfl) fun s => setWidth_setWidth_word _ 16,
      setsG_unary (fun _ => rfl) fun s => setWidth_setWidth_word _ 32,
      setsG_binary (fun _ => rfl) fun s => congrArg bit (beq_eq_decide _ _), setsG_binary (fun _ => rfl) fun s => congrArg bit (bne_eq_decide_ne _ _),
      setsG_binary (fun _ => rfl) fun s => rfl, setsG_binary (fun _ => rfl) fun s => congrArg bit (not_slt_eq _ _),
      setsG_binary (fun _ => rfl) fun s => rfl, setsG_binary (fun _ => rfl) fun s => congrArg bit (not_ult_eq _ _), rfl, ?unused⟩
    case unused =>
      rw [← List.forall_iff_forall_mem]
      and_intros
      all_goals exact fun u hw => b_eq_zero_of_unused hw rfl rfl
  case fields =>
    intro a b c p w v line
    have at_ (s : State) : bfP (s.gr f.b) = p s := bfP_eq _
    have width (s : State) : bfW (s.gr f.b) = w s := bfW_eq _
    refine ⟨setsG_binary (fun _ => rfl) fun s => rfl, setsG_binary (fun _ => rfl) fun s => rfl, setsG_sel f,
      setsG_binary (fun _ => rfl) ?bfx, setsG_of (fun _ => rfl) ?bfi, setsG_unary (fun _ => rfl) fun s => add_immS _ f,
      setsG_of (fun _ => rfl) fun sh s _ => congrArg (fun u => Eff.done ((s.begun sh).wrG f.d u)) (immS_shiftLeft f _),
      setsG_lea f⟩
    case bfx =>
      intro s
      rw [bfxOf_eq]
      simp only [at_, width, beq_iff_eq]
      rfl
    case bfi =>
      intro sh s h
      rw [begun_gOp s sh h.fresh, begun_gOp s sh h.fresh, begun_gOp s sh h.fresh, bfiOf, setFld_eq_ofNat, at_, width]

end Sys2Proof.Machine
end

section
/-!
SUPPORT. Scalar floating point (R128 to R133): how a result with flags retires or traps, and what sources and rounding mode an
instruction reads; and the detached operations whose result is known at issue (R33, R121, R131).
-/
namespace Sys2Proof.Machine

/-! Results with flags (R98, R99, R128). -/

/-- FPX is raised where an enabled flag is set (R99). -/
theorem fpx_iff (k : Ctx) (fl : Flags) : fpx k fl = true ↔ fl &&& k.fpmode.extractLsb' 2 5 ≠ 0 := bne_iff_ne

theorem begun_fpx (s : State) (sh : Shape) (fl : Flags) : fpx (s.begun sh).me fl = fpx s.me fl := by
  unfold fpx enabled
  rw [begun_me_fpmode]

section
variable {i : Instr} {body : State → Shape → Eff} {write : State → Shape → State} {fl : State → Flags} (hx : ∀ s, exec i s = issue i s body)
  (hb : ∀ sh s, Issues i sh s → body (s.begun sh) sh =
    if fpx (s.begun sh).me (fl s) then .trap cFpx 0 0 (fl s) else .done ((write s sh).addFlags s.cur s.cx (fl s)))
include hx hb

/-- An instruction with flags writes its result and gathers them, or raises FPX and does neither. -/
theorem completes_or_trapsFpx (hw : ∀ sh s, OnlyRegs (s.begun sh) (write s sh)) :
    Completes i (fun s => fl s &&& s.me.fpmode.extractLsb' 2 5 = 0) (fun s sh => (write s sh).addFlags s.cur s.cx (fl s)) ∧
    TrapsFpx i (fun s => fl s &&& s.me.fpmode.extractLsb' 2 5 ≠ 0) fl := by
  refine ⟨completes_regs hx (fun sh s h masked => ?masked) fun sh s => (hw sh s).trans (onlyRegs_addFlags _ _ _ _),
    fun sh s h raised => exec_trap hx h ?raised⟩
  case masked =>
    rw [hb sh s h, begun_fpx, if_neg]
    rw [fpx_iff, not_not]
    exact masked
  case raised =>
    rw [hb sh s h, begun_fpx, if_pos ((fpx_iff _ _).2 raised)]

end

/-- One with a floating result. -/
theorem setsF_of {i : Instr} {ty : Nat} {d : BitVec 6} {r : State → Nat × Flags} {body : State → Shape → Eff} (hx : ∀ s, exec i s = issue i s body)
    (hb : ∀ sh s, Issues i sh s → body (s.begun sh) sh = fRes (s.begun sh) ty d (r s)) : SetsF i ty d r :=
  completes_or_trapsFpx hx (fun sh s h => by rw [hb sh s h, fRes, begun_cur, begun_cx]) fun _ _ => onlyRegs_wrF _ _ _

/-- One with a g result. -/
theorem setsGFlags_of {i : Instr} {d : BitVec 6} {v : State → Word} {fl : State → Flags} {body : State → Shape → Eff}
    (hx : ∀ s, exec i s = issue i s body)
    (hb : ∀ sh s, Issues i sh s → body (s.begun sh) sh = gRes (s.begun sh) d (v s) (fl s)) : SetsGFlags i d v fl :=
  completes_or_trapsFpx hx (fun sh s h => by rw [hb sh s h, gRes, begun_cur, begun_cx]) fun _ _ => onlyRegs_wrG _ _ _

/-! Sources and the rounding mode (R48, R76, R92). -/

theorem begun_fIn (s : State) (sh : Shape) (h : s.me.rett = none) (ty role : Nat) (x : BitVec 6) :
    (s.begun sh).fIn ty role x = unbox ty (s.fr x) := by rw [State.fIn, begun_fOp s sh h]

theorem begun_fVal (s : State) (sh : Shape) (h : s.me.rett = none) (ty role : Nat) (x : BitVec 6) :
    (s.begun sh).fVal ty role x = fSource ty x s := by rw [State.fVal, begun_fIn s sh h, fSource]

theorem begun_modeOf (s : State) (sh : Shape) (f : Fields) : (s.begun sh).modeOf (rmOf f) = roundMode f s := by
  rw [State.modeOf, begun_me_fpmode]
  rfl

/-! Arithmetic (R129, R130). -/

section
variable {i : Instr} {ty : Nat} {f : Fields}

theorem setsF_binary (op : Mode → FVal → FVal → FVal × Flags) (hx : ∀ s, exec i s = issue i s (fBin ty f op)) :
    SetsF i ty f.d (fun s => roundWith (fmtTy ty) (roundMode f s) (op (roundMode f s) (fSource ty f.a s) (fSource ty f.b s))) :=
  setsF_of hx fun sh s h => by rw [fBin, begun_modeOf, begun_fVal s sh h.fresh, begun_fVal s sh h.fresh]

theorem setsF_fused {np nc : Bool} (hx : ∀ s, exec i s = issue i s (fFma ty f np nc)) :
    SetsF i ty f.d (fun s => roundWith (fmtTy ty) (roundMode f s)
      (fmaX (roundMode f s) np nc (fSource ty f.a s) (fSource ty f.b s) (fSource ty f.c s))) :=
  setsF_of hx fun sh s h => by
    rw [fFma, begun_modeOf, begun_fVal s sh h.fresh, begun_fVal s sh h.fresh, begun_fVal s sh h.fresh]

theorem setsF_sign (hx : ∀ s, exec i s = issue i s (fSgn ty f)) :
    SetsF i ty f.d (fun s => fsgn (fmtTy ty) f.o.toNat (unbox ty (s.fr f.a)) (unbox ty (s.fr f.b))) :=
  setsF_of hx fun sh s h => by rw [fSgn, begun_fIn s sh h.fresh, begun_fIn s sh h.fresh]

end

/-- `fmv`, which moves between any two of the classes g and f and sets no flag. -/
theorem completes_fmv (f : Fields) : Completes (.fmv f) (fun _ => True) (fun s sh =>
    let v := if f.o.getLsbD 1 then s.gr f.a else s.fr f.a
    if f.o.getLsbD 0 then (s.begun sh).wrG f.d v else (s.begun sh).wrF f.d v) := by
  refine completes_regs (fun _ => rfl) (fun sh s h _ => ?value) fun sh s => ?frame
  case value => rw [begun_gOp s sh h.fresh, begun_fOp s sh h.fresh]
  case frame =>
    dsimp only
    split
    · exact onlyRegs_wrG _ _ _
    · exact onlyRegs_wrF _ _ _

/-- Settles O4: each instruction is one of the shapes above. -/
theorem floatArithmeticResults : Obligations.FloatArithmeticResults := by
  intro f
  exact ⟨setsF_binary addX fun _ => rfl, setsF_binary subX fun _ => rfl, setsF_binary (fun _ => mulX) fun _ => rfl,
    setsF_binary (fun _ => minMaxX false) fun _ => rfl, setsF_binary (fun _ => minMaxX true) fun _ => rfl,
    setsF_binary addX fun _ => rfl, setsF_binary subX fun _ => rfl, setsF_binary (fun _ => mulX) fun _ => rfl,
    setsF_binary (fun _ => minMaxX false) fun _ => rfl, setsF_binary (fun _ => minMaxX true) fun _ => rfl,
    setsF_sign fun _ => rfl, setsF_sign fun _ => rfl, completes_fmv f,
    setsF_fused fun _ => rfl, setsF_fused fun _ => rfl, setsF_fused fun _ => rfl, setsF_fused fun _ => rfl,
    setsF_fused fun _ => rfl, setsF_fused fun _ => rfl⟩

/-! Comparisons, classes and conversions (R132, R133). -/

section
variable {i : Instr} {f : Fields}

theorem setsGFlags_compare {ty : Nat} (k : Nat) (hx : ∀ s, exec i s = issue i s (fCmp ty k f)) :
    SetsGFlags i f.d (fun s => b2w (fcmpOf k (fSource ty f.a s) (fSource ty f.b s)).1)
      (fun s => (fcmpOf k (fSource ty f.a s) (fSource ty f.b s)).2) :=
  setsGFlags_of hx fun sh s h => by rw [fCmp, begun_fVal s sh h.fresh, begun_fVal s sh h.fresh]

theorem setsG_class (ty : Nat) (hx : ∀ s, exec i s = issue i s (fClass ty f)) :
    SetsG i f.d (fun s => BitVec.ofNat 64 (classify (fmtTy ty) (unbox ty (s.fr f.a)))) :=
  setsG_of hx fun sh s h => by rw [fClass, begun_fIn s sh h.fresh]

end

/-- What `fcvt` converts: an integer of a g register, or a floating source. -/
def convertSource (f : Fields) (s : State) : FVal :=
  if tyInt (fld f.imm 7 4) then ofInt (intTy (fld f.imm 7 4) (s.gr f.a).toNat) else fSource (fld f.imm 7 4) f.a s

/-- The integer that `fcvt` makes of it. -/
def convertInt (f : Fields) (s : State) : Int × Flags :=
  toInt (roundMode f s) (tySigned (fld f.imm 0 4)) (tyBits (fld f.imm 0 4)) (convertSource f s)

theorem fCvt_begun {i : Instr} {sh : Shape} {s : State} (h : Issues i sh s) (f : Fields) : fCvt f (s.begun sh) sh =
    if tyInt (fld f.imm 0 4) then gRes (s.begun sh) f.d (extInt (fld f.imm 0 4) (convertInt f s).1) (convertInt f s).2
    else fRes (s.begun sh) (fld f.imm 0 4) f.d (round (fmtTy (fld f.imm 0 4)) (roundMode f s) (convertSource f s)) := by
  unfold fCvt
  dsimp only
  rw [begun_modeOf, begun_gOp s sh h.fresh, begun_fVal s sh h.fresh]
  rfl

theorem setsGFlags_convert {f : Fields} (hd : tyInt (fld f.imm 0 4) = true) :
    SetsGFlags (.fcvt f) f.d (fun s => extInt (fld f.imm 0 4) (convertInt f s).1) (fun s => (convertInt f s).2) :=
  setsGFlags_of (fun _ => rfl) fun sh s h => by rw [fCvt_begun h, if_pos hd]

theorem setsF_convert {f : Fields} (hd : tyInt (fld f.imm 0 4) = false) :
    SetsF (.fcvt f) (fld f.imm 0 4) f.d (fun s => round (fmtTy (fld f.imm 0 4)) (roundMode f s) (convertSource f s)) :=
  setsF_of (fun _ => rfl) fun sh s h => by rw [fCvt_begun h, if_neg (Bool.eq_false_iff.1 hd)]

/-- Settles O5: comparisons by `fcmpOf`, and the two destinations of `fcvt`. -/
theorem floatCompareAndConvertResults : Obligations.FloatCompareAndConvertResults := by
  intro f
  exact ⟨setsGFlags_compare 0 fun _ => rfl, setsGFlags_compare 1 fun _ => rfl, setsGFlags_compare 2 fun _ => rfl,
    setsGFlags_compare 3 fun _ => rfl, setsGFlags_compare 0 fun _ => rfl, setsGFlags_compare 1 fun _ => rfl,
    setsGFlags_compare 2 fun _ => rfl, setsGFlags_compare 3 fun _ => rfl,
    setsG_class 8 fun _ => rfl, setsG_class 9 fun _ => rfl, setsGFlags_convert, setsF_convert⟩

/-! Detached operations. -/

/-- A detached operation changes registers' full/empty bits and its context's list. -/
theorem keepsStrand_detach (s : State) (i : Instr) (sh : Shape) (g : DetOp → DetOp) : KeepsStrand s (s.detach i sh g) := by
  unfold State.detach
  refine KeepsStrand.trans (OnlyRegs.keepsStrand ?emptied) (keepsStrand_updMe ⟨rfl, rfl⟩)
  exact OnlyRegs.foldl _ (fun t r => onlyRegs_setFull t _ _ r false) _ s

/-- An operation whose result is known at issue detaches with it (R33, R121, R131). -/
theorem detachesWith_of {i : Instr} {n code : Nat} {v : State → Vec} {fl : State → Flags} {body : State → Shape → Eff}
    (hx : ∀ s, exec i s = issue i s body)
    (hb : ∀ sh s, Issues i sh s → body (s.begun sh) sh = .done ((s.begun sh).detachVal i sh n code (v s) (fl s))) : DetachesWith i n code v fl :=
  fun sh s h _ => by
    have judged (u : OpSt) : (if fpx (s.begun sh).me (fl s) then u else .done) =
        if fl s &&& s.me.fpmode.extractLsb' 2 5 = 0 then .done else u := by
      rw [begun_fpx]
      simp only [fpx_iff, ite_not]
    rw [exec_done hx h (hb sh s h) (keepsStrand_detach _ _ _ _), State.detachVal, judged, begun_cycles]

theorem detachesWith_integer {i : Instr} {f : Fields} {op : Word → Word → Word} {v : State → Word} (hx : ∀ s, exec i s = issue i s (gDet i f op))
    (hv : ∀ s : State, op (s.gr f.a) (s.gr f.b) = v s) : DetachesWith i 34 f.d.toNat (fun s => (v s).setWidth 1024) (fun _ => 0) :=
  detachesWith_of hx fun sh s h => by rw [gDet, begun_gOp s sh h.fresh, begun_gOp s sh h.fresh, hv]

theorem detachesWith_float {i : Instr} {ty n : Nat} {f : Fields} {op v : State → FVal × Flags} (hx : ∀ s, exec i s = issue i s (fDet i ty n f op))
    (hv : ∀ sh s, Issues i sh s → op (s.begun sh) = v s) :
    DetachesWith i n (0x40 + f.d.toNat) (fun s => (box ty (roundWith (fmtTy ty) (roundMode f s) (v s)).1).setWidth 1024)
      (fun s => (roundWith (fmtTy ty) (roundMode f s) (v s)).2) :=
  detachesWith_of hx fun sh s h => by rw [fDet, begun_modeOf, hv sh s h]

/-- Settles O6: the integer operations by `divS` and its like, the floating ones by their exact result. -/
theorem divisionAndRootResults : Obligations.DivisionAndRootResults := by
  intro f
  have two (ty : Nat) {i : Instr} (sh : Shape) (s : State) (h : Issues i sh s) :
      divX ((s.begun sh).fVal ty 1 f.a) ((s.begun sh).fVal ty 2 f.b) = divX (fSource ty f.a s) (fSource ty f.b s) := by
    rw [begun_fVal s sh h.fresh, begun_fVal s sh h.fresh]
  have one (ty : Nat) {i : Instr} (sh : Shape) (s : State) (h : Issues i sh s) : sqrtX ((s.begun sh).fVal ty 1 f.a) = sqrtX (fSource ty f.a s) := by
    rw [begun_fVal s sh h.fresh]
  exact ⟨detachesWith_integer (fun _ => rfl) fun _ => rfl, detachesWith_integer (fun _ => rfl) fun _ => rfl,
    detachesWith_integer (fun _ => rfl) fun _ => rfl, detachesWith_integer (fun _ => rfl) fun _ => rfl,
    detachesWith_float (fun _ => rfl) (two 8), detachesWith_float (fun _ => rfl) (one 8),
    detachesWith_float (fun _ => rfl) (two 9), detachesWith_float (fun _ => rfl) (one 9)⟩

end Sys2Proof.Machine
end

section
/-!
SUPPORT. Suspensions (R126, R261, R345): a strand that may leave waits until it is settled, then takes DATA-UNCORRECTABLE for a
register that it is to carry, and else leaves; and `yield`, `park` and `spt`, which suspend.
-/
namespace Sys2Proof.Machine

/-! What a suspension comes to. -/

/-- The end of each suspending instruction, with the registers that it carries, and what it comes to where none of them fails. -/
def State.suspending (s : State) (regs : List Nat) (leave : Eff) : Eff :=
  if !s.me.settled then .wait .settle
  else if let some e := s.carryBad regs then e
  else leave

section
variable {s : State} {regs : List Nat} (leave : Eff)

theorem suspending_unsettled (h : s.me.settled = false) : s.suspending regs leave = .wait .settle := by
  rw [State.suspending, h]
  rfl

theorem suspending_unsound (h : s.me.settled = true) {j : Nat} (bad : s.badCarried regs = some j) :
    s.suspending regs leave = .trap cUncorrectable (BitVec.ofNat 64 j) (s.bankSel j) 0 := by
  rw [State.suspending, h, State.carryBad, bad]
  rfl

theorem suspending_sound (h : s.me.settled = true) (sound : s.badCarried regs = none) : s.suspending regs leave = leave := by
  rw [State.suspending, h, State.carryBad, sound]
  rfl

end

/-! What an issue leaves of that which decides it. -/

/-- Outside a replay an operand is the register's value as the effect starts. -/
theorem gOp_of_begun (s : State) (sh : Shape) (h : s.me.rett = none) (role : Nat) (x : BitVec 6) :
    (s.begun sh).gOp role x = (s.begun sh).gr x := by rw [begun_gOp s sh h, begun_gr]

@[simp] theorem begun_settled (s : State) (sh : Shape) : (s.begun sh).me.settled = s.me.settled := by
  rw [begun_me]
  simp only [Ctx.settled, Ctx.drained, Ctx.counted, List.isEmpty_map]

@[simp] theorem begun_badCarried (s : State) (sh : Shape) (regs : List Nat) : (s.begun sh).badCarried regs = s.badCarried regs := by
  rw [State.badCarried, begun_me_bad]
  rfl

@[simp] theorem begun_preempt (s : State) (sh : Shape) : (s.begun sh).myCore.preempt = s.myCore.preempt := by
  rw [State.myCore, begun_cur, begun_core_preempt]
  rfl

@[simp] theorem begun_dequeFull (s : State) (sh : Shape) : (s.begun sh).myCore.dequeFull = s.myCore.dequeFull := by
  rw [Core.dequeFull, State.myCore, begun_cur, begun_core_spawnLim, begun_core_deque]
  rfl

/-- A suspension that would carry a register that fails its check faults. -/
theorem carriesSound_of {i : Instr} {body : State → Shape → Eff} {ok : State → Prop} {regs : State → List Nat} {leave : State → Shape → Eff}
    (hx : ∀ s, exec i s = issue i s body)
    (hb : ∀ sh s, Issues i sh s → ok (s.begun sh) →
      (s.begun sh).me.settled = true ∧ body (s.begun sh) sh = (s.begun sh).suspending (regs (s.begun sh)) (leave (s.begun sh) sh)) :
    CarriesSound i ok regs := fun sh s j h ho bad => by
  obtain ⟨settled, suspends⟩ := hb sh s h ho
  have sel : (s.begun sh).bankSel j = s.bankSel j := by rw [State.bankSel, begun_cur, begun_cx, State.bankSel]
  exact exec_trap hx h (by rw [suspends, suspending_unsound _ settled bad, sel])

/-! `yield` (R261). -/

/-- The safe point of a strand that goes on (R126). -/
def State.safePoint (s : State) : State := s.updMe (fun k => { k with sinceSpt := 0 })

theorem keepsStrand_safePoint (s : State) : KeepsStrand s s.safePoint := keepsStrand_updMe ⟨rfl, rfl⟩

/-- A strand that suspends at the old end of its own deque (R261, R345). -/
def State.yielded (s : State) (regs : List Nat) : State :=
  (s.pushRec s.cur (s.susRecord regs) { slot := 0, mt := s.me.mt } false).freeCtx s.cur s.cx

def yieldBody (s : State) (sh : Shape) : Eff :=
  if s.myCore.dequeFull then .done s.safePoint
  else if overMask (s.gOp 2 sh.f.b) 6 0 then .flt cIllegal 0
  else s.suspending (maskRegs (s.gOp 2 sh.f.b) 0) (.left (s.yielded (maskRegs (s.gOp 2 sh.f.b) 0)))

theorem exec_yield (s : State) : exec .yield s = issue .yield s yieldBody := rfl

theorem dequeFull_iff (k : Core) : k.dequeFull = true ↔ ¬k.deque.length < k.spawnLim.toNat := by rw [Core.dequeFull, decide_eq_true_eq, not_lt]

theorem does_yield_full : Does .yield (fun s => ¬s.myCore.deque.length < s.myCore.spawnLim.toNat) (fun s _ => s.safePoint) :=
  does_kept exec_yield (fun sh s _ full => by rw [yieldBody, if_pos ((dequeFull_iff _).2 full)]) fun _ s => keepsStrand_safePoint s

theorem exec_yield_leaves {sh : Shape} {s : State} (h : Issues .yield sh s) (room : s.myCore.deque.length < s.myCore.spawnLim.toNat)
    (fits : overMask (s.gr sh.f.b) 6 0 = false) (settled : s.me.settled = true)
    (sound : s.badCarried (maskRegs (s.gr sh.f.b) 0) = none) :
    exec .yield s = .next (s.leaves ((s.begun sh).yielded (maskRegs (s.gr sh.f.b) 0))) := by
  have notFull : ¬s.myCore.dequeFull = true := fun full => (dequeFull_iff _).1 full room
  refine (exec_yield s).trans (issue_left h ?_)
  rw [yieldBody, begun_dequeFull, if_neg notFull, begun_gOp s sh h.fresh, if_neg (Bool.eq_false_iff.1 fits),
    suspending_sound _ ((begun_settled s sh).trans settled) ((begun_badCarried s sh _).trans sound)]

/-! `park` (R261). -/

/-- A parking strand has sent its record to the home of the word at `a`. -/
def State.parksAt (s : State) (sh : Shape) (a m pc : Word) : State :=
  (s.send (8192 + s.cur) (s.trueHome (s.pidOf s.cur) s.me.asid.toNat a.toNat) (s.cycles + s.figure (s.myWho .strand) a.toNat false)
    (.parkRec s.cur s.cx { s.reqOf .ldfeKeep a pc.toNat with data := a, cmp := m, lane := s.iw.toNat }
      (s.susRecord (maskRegs m 0)) s.me.mt)).updMe (fun k => { k with
    st := .waiting .atHome s.cycles, sent := some (s.issueFaultInfo (some sh) 0 0 0 0, s.succ), sinceSpt := 0 })

def parkBody (f : Fields) (s : State) (sh : Shape) : Eff :=
  if overMask (s.gOp 2 f.b) 6 0 then .flt cIllegal 0
  else
    match s.parkFault (s.gOp 1 f.a) with
    | some (c, b) => .flt c b
    | none => s.suspending (maskRegs (s.gOp 2 f.b) 0) (.left (s.parksAt sh (s.gOp 1 f.a) (s.gOp 2 f.b) s.pcNow))

theorem exec_park (f : Fields) (s : State) : exec (.park f) s = issue (.park f) s (parkBody f) := rfl

/-- Whether a `park` passes its checks. -/
def Parks (f : Fields) (s : State) : Prop := overMask (s.gr f.b) 6 0 = false ∧ s.parkFault (s.gr f.a) = none

/-- A `park` that passes its checks suspends. -/
theorem parkBody_suspends {i : Instr} {sh : Shape} {s : State} (h : Issues i sh s) {f : Fields} (parks : Parks f (s.begun sh)) :
    parkBody f (s.begun sh) sh = (s.begun sh).suspending (maskRegs ((s.begun sh).gr f.b) 0)
      (.left ((s.begun sh).parksAt sh ((s.begun sh).gr f.a) ((s.begun sh).gr f.b) (s.begun sh).me.pc)) := by
  have here : (s.begun sh).pcNow = (s.begun sh).me.pc := by rw [State.pcNow, State.replay, begun_me_rett, h.fresh]
  obtain ⟨fits, free⟩ := parks
  rw [parkBody, gOp_of_begun s sh h.fresh, gOp_of_begun s sh h.fresh, if_neg (Bool.eq_false_iff.1 fits), free, here]

theorem departs_park (f : Fields) : Departs (.park f)
    (fun s => Parks f s ∧ s.me.settled = true ∧ s.badCarried (maskRegs (s.gr f.b) 0) = none)
    (fun s sh => s.parksAt sh (s.gr f.a) (s.gr f.b) s.me.pc) :=
  departs_of (exec_park f) fun sh s h ⟨parks, settled, sound⟩ => by rw [parkBody_suspends h parks, suspending_sound _ settled sound]

theorem carriesSound_park (f : Fields) :
    CarriesSound (.park f) (fun s => Parks f s ∧ s.me.settled = true) (fun s => maskRegs (s.gr f.b) 0) :=
  carriesSound_of (leave := fun s sh => .left (s.parksAt sh (s.gr f.a) (s.gr f.b) s.me.pc)) (exec_park f) fun _ _ h ⟨parks, settled⟩ => ⟨settled, parkBody_suspends h parks⟩

theorem awaits_park (f : Fields) : Awaits (.park f) (fun s => Parks f s ∧ s.me.settled = false) (fun _ => .settle) :=
  awaits_of (exec_park f) fun sh s h ⟨parks, unsettled⟩ => by rw [parkBody_suspends h parks, suspending_unsettled _ unsettled]

/-! `spt` (R126, R345). -/

/-- A victim is saved and leaves, or takes the fallback (R345, R346). -/
def State.sptLeave (s : State) (imm : BitVec 40) : Eff :=
  match s.sptSave imm with
  | some t => .left t
  | none => .overdue 0

def sptBody (f : Fields) (s : State) (_ : Shape) : Eff :=
  if s.myCore.preempt != some s.cx then .done s.safePoint
  else s.suspending (sptG f.imm ++ sptRest f.imm) (s.sptLeave f.imm)

theorem exec_spt (f : Fields) (s : State) : exec (.spt f) s = issue (.spt f) s (sptBody f) := by
  refine congrArg (issue (.spt f) s) (funext₂ fun u sh => ?_)
  rw [sptBody, State.suspending, State.sptLeave]
  cases u.carryBad (sptG f.imm ++ sptRest f.imm) <;> cases u.sptSave f.imm <;> rfl

/-- Whether a pre-emption request names the strand. -/
def State.named (s : State) : Prop := s.myCore.preempt = some s.cx

theorem named_begun (s : State) (sh : Shape) : (s.begun sh).named ↔ s.named := by
  unfold State.named
  rw [begun_preempt, begun_cx]

theorem sptBody_suspends (f : Fields) {s : State} (sh : Shape) (h : s.named) :
    sptBody f s sh = s.suspending (sptG f.imm ++ sptRest f.imm) (s.sptLeave f.imm) := by
  rw [sptBody, h, bne_self_eq_false, if_neg Bool.false_ne_true]

theorem does_spt_unnamed (f : Fields) : Does (.spt f) (fun s => ¬s.named) (fun s _ => s.safePoint) :=
  does_kept (exec_spt f) (fun sh s _ other => by rw [sptBody, if_pos (bne_iff_ne.2 other)]) fun _ s => keepsStrand_safePoint s

theorem carriesSound_spt (f : Fields) :
    CarriesSound (.spt f) (fun s => s.named ∧ s.me.settled = true) (fun _ => sptG f.imm ++ sptRest f.imm) :=
  carriesSound_of (leave := fun s _ => s.sptLeave f.imm) (exec_spt f) fun sh _ _ ⟨named, settled⟩ => ⟨settled, sptBody_suspends f sh named⟩

theorem awaits_spt (f : Fields) : Awaits (.spt f) (fun s => s.named ∧ s.me.settled = false) (fun _ => .settle) :=
  awaits_of (exec_spt f) fun sh s _ ⟨named, unsettled⟩ => by rw [sptBody_suspends f sh named, suspending_unsettled _ unsettled]

section
variable {f : Fields} {sh : Shape} {s : State} (h : Issues (.spt f) sh s) (named : s.named) (settled : s.me.settled = true)
  (sound : s.badCarried (sptG f.imm ++ sptRest f.imm) = none)
include named settled sound

/-- A settled victim with sound registers is saved, or takes the fallback. -/
theorem sptBody_leaves : sptBody f (s.begun sh) sh = (s.begun sh).sptLeave f.imm := by
  rw [sptBody_suspends f sh ((named_begun s sh).2 named),
    suspending_sound _ ((begun_settled s sh).trans settled) ((begun_badCarried s sh _).trans sound)]

include h

theorem exec_spt_saved {t : State} (saved : (s.begun sh).sptSave f.imm = some t) : exec (.spt f) s = .next (s.leaves t) := by
  refine (exec_spt f s).trans (issue_left h ?_)
  rw [sptBody_leaves named settled sound, State.sptLeave, saved]

theorem exec_spt_fallback (unsaved : (s.begun sh).sptSave f.imm = none) : exec (.spt f) s = .next ((s.withIw sh).mySlot.takeOverdue 0) := by
  rw [exec_spt, issue_go h, sptBody_leaves named settled sound, State.sptLeave, unsaved]
  rfl

end

/-- Settles O23: each clause is one of the outcomes above. -/
theorem yieldParkSafePoint : Obligations.YieldParkSafePoint := by
  intro f
  refine ⟨does_yield_full, fun sh s h room fits settled sound => ?yields, departs_park f, carriesSound_park f, awaits_park f,
    does_spt_unnamed f, carriesSound_spt f, fun sh s t h named settled sound saved => exec_spt_saved h named settled sound saved,
    fun sh s h named settled sound unsaved => exec_spt_fallback h named settled sound unsaved, awaits_spt f⟩
  case yields =>
    rw [exec_yield_leaves h room fits settled sound, State.yielded, begun_cur, begun_cx, begun_me_mt]

end Sys2Proof.Machine
end

section
/-!
SUPPORT. Accesses of one request (R142 to R146): effective addresses, requests that leave the strand as it is, and how loads, prefetches
and stores end.
-/
namespace Sys2Proof.Machine

/-! Effective addresses (R142). -/

theorem effAddr_untyped (core : Nat) (base idx : Word) (imm : BitVec 40) :
    effAddr core base idx imm false = BitVec.ofInt 64 ((base.toNat + idx.toNat : Nat) + (imm.setWidth 16).toInt) := by
  rw [effAddr, if_neg Bool.false_ne_true, BitVec.ofInt_add, BitVec.ofInt_natCast, BitVec.ofNat_add, BitVec.ofNat_toNat,
    BitVec.ofNat_toNat, BitVec.setWidth_eq, BitVec.setWidth_eq]
  rfl

/-- The effective address of an issue, from what its registers hold. -/
theorem effAddr_eq_memAddress (f : Fields) (indexed : Bool) (s : State) :
    effAddr s.cur (s.gr f.a) (if indexed then s.gr f.b else 0) f.imm (f.o.getLsbD 1) = memAddress f indexed s := by
  have index : (if indexed then (s.gr f.b).toNat else 0) = (if indexed then s.gr f.b else (0 : Word)).toNat := by
    cases indexed <;> rfl
  rw [memAddress, index]
  cases typed : f.o.getLsbD 1 with
  | false => exact effAddr_untyped ..
  | true => rw [effAddr, if_pos rfl, if_pos rfl, Nat.add_assoc (bufAddr _ _)]

@[simp] theorem begun_fr (s : State) (sh : Shape) (x : BitVec 6) : (s.begun sh).fr x = s.fr x := by
  unfold State.fr
  rw [begun_reg, begun_cur, begun_cx]

section
variable {i : Instr} {sh : Shape} {s : State} (h : Issues i sh s) (f : Fields)
include h

theorem Issues.ea : (s.begun sh).ea f = memAddress f true (s.begun sh) := by
  rw [State.ea, h.gOp, h.gOp]
  exact effAddr_eq_memAddress f true _

theorem Issues.eaSync : (s.begun sh).eaSync f = memAddress f false (s.begun sh) := by
  rw [State.eaSync, h.gOp]
  exact effAddr_eq_memAddress f false _

theorem Issues.fOp (role : Nat) (x : BitVec 6) : (s.begun sh).fOp role x = (s.begun sh).fr x := by
  rw [begun_fOp s sh h.fresh, begun_fr]

end

/-! Requests leave their strand as it is. -/

theorem keepsStrand_send (s : State) (src dst due : Nat) (body : Msg) : KeepsStrand s (s.send src dst due body) := keepsStrand_of_me rfl

theorem keepsStrand_sendReq (s : State) (op : Nat) (r : MemReq) (extra : Nat) : KeepsStrand s (s.sendReq op r extra) := by
  unfold State.sendReq State.sendReqAt
  refine KeepsStrand.trans ?filtered (keepsStrand_send _ ..)
  split
  · exact keepsStrand_updCore s _ _ rfl
  · exact KeepsStrand.refl s

theorem keepsStrand_postOp (s : State) (i : Instr) (sh : Shape) (left : Nat) (virt : Bool) : KeepsStrand s (s.postOp i sh left virt) :=
  keepsStrand_updMe ⟨rfl, rfl⟩

theorem keepsStrand_detachReq (s : State) (i : Instr) (sh : Shape) (r : MemReq) (mode : Nat) (acq : Bool) :
    KeepsStrand s (s.detachReq i sh r mode acq) := (keepsStrand_detach ..).trans (keepsStrand_sendReq ..)

theorem keepsStrand_postReq (s : State) (i : Instr) (sh : Shape) (r : MemReq) : KeepsStrand s (s.postReq i sh r) :=
  (keepsStrand_postOp ..).trans (keepsStrand_sendReq ..)

/-! Loads, prefetches and stores. -/

section
variable {i : Instr} {f : Fields} {n : Nat}

theorem accesses_load (hx : ∀ s, exec i s = issue i s (loadN i f n)) :
    Accesses i (memAddress f true) n false (fun _ => True) (fun s sh =>
      s.detachReq i sh { s.reqOf .load (memAddress f true s) n with lease := if f.c = 0 then 3 else f.c.toNat - 1 } 0 false) := by
  refine ⟨does_kept hx (fun sh s h ok => ?goes) (fun _ _ => keepsStrand_detachReq ..), fun c b => faults_of hx fun sh s h bad => ?faults⟩
  case goes =>
    rw [loadN, h.ea, ok.1]
    rfl
  case faults =>
    rw [loadN, h.ea, bad]
    rfl

/-- What a store posts: the low bytes of its source. -/
def State.storeReq (f : Fields) (n : Nat) (v : Word) (s : State) : MemReq :=
  { s.reqOf .store (memAddress f true s) n with
    data := BitVec.ofNat 64 (v.toNat % 2 ^ (8 * n)), lease := if f.c = 0 then 3 else f.c.toNat - 1 }

section
variable {src : State → Word} (hx : ∀ s, exec i s = issue i s (fun s => storeN i f n (src s) s))
include hx

theorem accesses_store {v : State → Word} (hv : ∀ sh s, Issues i sh s → src (s.begun sh) = v (s.begun sh)) :
    Accesses i (memAddress f true) n true (fun s => s.me.posted.length < 32)
    (fun s sh => s.postReq i sh (s.storeReq f n (v s))) := by
  refine ⟨does_kept hx (fun sh s h ok => ?goes) (fun _ _ => keepsStrand_postReq ..), fun c b => faults_of hx fun sh s h bad => ?faults⟩
  case goes =>
    obtain ⟨allowed, room⟩ := ok
    simp only [storeN, h.ea, hv sh s h, allowed, if_neg (Nat.not_le.2 room)]
    rfl
  case faults =>
    rw [storeN, h.ea, bad]
    rfl

theorem awaits_store :
    Awaits i (fun s => s.issueFault (s.myWho .strand) (memAddress f true s) n n true = none ∧ 32 ≤ s.me.posted.length) (fun _ => .posted) :=
  awaits_of hx fun sh s h ⟨allowed, full⟩ => by
    simp only [storeN, h.ea, allowed, if_pos full]

end
end

theorem does_prefetch_window (f : Fields) : Does (.pf f) (fun s => 2 ^ 52 ≤ (memAddress f true s).toNat) (fun s _ => s) :=
  does_kept (fun _ => rfl) (fun sh s h window => by rw [State.sendPf, h.ea, if_pos window]) fun _ s => KeepsStrand.refl s

theorem does_prefetch (f : Fields) : Does (.pf f) (fun s => (memAddress f true s).toNat < 2 ^ 52) (fun s _ =>
    let w := s.myWho .strand
    let a := (memAddress f true s).toNat
    s.send (2 ^ 15 + s.cur) (s.trueHome w.pid w.asid a) (s.cycles + s.figure w a (s.l1Hit w a))
      (.mem s.cur s.cx 0 { s.reqOf .pf (memAddress f true s) 64 with
        lease := if f.c = 0 then 3 else f.c.toNat - 1, posted := true })) :=
  does_kept (fun _ => rfl) (fun sh s h virtual => by
    rw [State.sendPf, h.ea, if_neg (Nat.not_le.2 virtual)]
    rfl) fun _ _ => keepsStrand_send ..

/-- Settles O13: each clause is a load, a prefetch or a store of its size. -/
theorem loadsAndStoresSendTheirRequest : Obligations.LoadsAndStoresSendTheirRequest := by
  have stores {i : Instr} {f : Fields} {n : Nat} {v src : State → Word} (hx : ∀ s, exec i s = issue i s (fun s => storeN i f n (src s) s))
      (hv : ∀ sh s, Issues i sh s → src (s.begun sh) = v (s.begun sh)) := And.intro (accesses_store hx hv) (awaits_store hx)
  refine ⟨fun f => ⟨accesses_load fun _ => rfl, accesses_load fun _ => rfl, accesses_load fun _ => rfl, accesses_load fun _ => rfl,
    accesses_load fun _ => rfl, does_prefetch_window f, does_prefetch f⟩, fun f => ?stores⟩
  case stores =>
    have g {i : Instr} (sh : Shape) (s : State) (h : Issues i sh s) : (s.begun sh).gOp 0 f.d = (s.begun sh).gr f.d := h.gOp 0 f.d
    exact ⟨stores (fun _ => rfl) g, stores (fun _ => rfl) g, stores (fun _ => rfl) g, stores (fun _ => rfl) g,
      stores (fun _ => rfl) fun _ _ h => h.fOp 0 f.d⟩

end Sys2Proof.Machine
end

section
/-!
SUPPORT. Atomics (R149, R150, R296): the checks of an access that reads and writes, and how an atomic ends.
-/
namespace Sys2Proof.Machine

/-- The first byte of a word in window memory that a read finds uncorrectable (R143, R377). -/
def State.unreadable (s : State) (a n : Nat) : Option Nat := if 2 ^ 52 ≤ a then s.win.firstBad a n else none

theorem windowBad_read (s : State) (a n : Nat) : s.windowBad a n false = (s.unreadable a n).map (BitVec.ofNat 64) := by
  unfold State.windowBad State.unreadable
  simp only [Bool.not_false, Bool.true_or, Bool.and_true, decide_eq_true_eq]
  split <;> rfl

section
variable {s : State} {a : Word} {n : Nat}

theorem rmwFault_of_issueFault {e : Flt} (h : s.issueFault (s.myWho .strand) a n n true = some e) : s.rmwFault a n = some e := by
  rw [State.rmwFault, h]

/-- An access that no check of a write stops has only what it reads left to fail. -/
theorem rmwFault_of_allowed (h : s.issueFault (s.myWho .strand) a n n true = none) :
    s.rmwFault a n = (s.unreadable a.toNat n).map (fun b => (cUncorrectable, BitVec.ofNat 64 b)) := by
  rw [State.rmwFault, h, windowBad_read]
  dsimp only
  rw [Option.map_map]
  rfl

end

/-- To have passed a fence or a release leaves the strand as it is. -/
theorem keepsStrand_seenBy (s : State) (id : Nat) : KeepsStrand s (s.seenBy id) := keepsStrand_of_me (me_seenBy s id)

theorem modeOf_rmOf (s : State) (f : Fields) : s.modeOf (rmOf f) = roundMode f s := rfl

/-! How an atomic ends. -/

/-- The size of an atomic's type in bytes. -/
abbrev amoSize (ty : Nat) : Nat := tyBits ty / 8

/-- No check of R143 stops an atomic. -/
abbrev AmoSound (f : Fields) (ty : Nat) (s : State) : Prop :=
  s.issueFault (s.myWho .strand) (s.gr f.a) (amoSize ty) (amoSize ty) true = none ∧ s.unreadable (s.gr f.a).toNat (amoSize ty) = none

section
variable {i : Instr} {f : Fields} {op ty : Nat} {src data cmpSrc cmp : State → Word}
  (hx : ∀ s, exec i s = issue i s (fun s sh => amoN i f op (src s) (cmpSrc s) s sh))
  (hty : (if op = 8 then 9 else if op = 9 then 8 else fld f.imm 0 4) = ty)
include hx hty

theorem does_atomic (hd : ∀ sh s, Issues i sh s → src (s.begun sh) = data (s.begun sh))
    (hc : ∀ sh s, Issues i sh s → cmpSrc (s.begun sh) = cmp (s.begun sh)) :
    Does i (fun s => AmoSound f ty s ∧ MayPass s (fld f.imm 8 5) true true)
      (fun s sh => (s.seenBy (fld f.imm 8 5)).detachReq i sh { s.reqOf (.amo op ty (roundMode f s)) (s.gr f.a) (amoSize ty) with
        data := data s, cmp := cmp s } (roundMode f s) (fld f.imm 8 5 != 0)) := by
  refine does_kept hx (fun sh s h ok => ?_) fun _ s => (keepsStrand_seenBy s _).trans (keepsStrand_detachReq ..)
  obtain ⟨⟨allowed, readable⟩, passes⟩ := ok
  have sound := rmwFault_of_allowed allowed
  rw [readable] at sound
  rw [amoN, hty, h.gOp, sound, orderWait_of_mayPass passes, hd sh s h, hc sh s h]
  rfl

theorem faults_atomic {ok : State → Prop} {c : Nat} {a : State → Word} (hf : ∀ s, ok s → s.rmwFault (s.gr f.a) (amoSize ty) = some (c, a s)) :
    Faults i ok c a :=
  faults_of hx fun sh s h bad => by
    rw [amoN, hty, h.gOp, hf _ bad]
    rfl

theorem awaits_atomic : Awaits i (fun s => AmoSound f ty s ∧ ¬MayPass s (fld f.imm 8 5) true true) (fun _ => passWait (fld f.imm 8 5) true true) :=
  awaits_of hx fun sh s h ok => by
    obtain ⟨⟨allowed, readable⟩, waits⟩ := ok
    have sound := rmwFault_of_allowed allowed
    rw [readable] at sound
    rw [amoN, hty, h.gOp, sound, orderWait_of_not_mayPass waits]
    rfl

end

/-- Settles O14: every atomic is `amoN` of its operation, on g or on f operands. -/
theorem atomicsSendTheirRequest : Obligations.AtomicsSendTheirRequest := by
  intro f
  have fails {ty : Nat} (s : State) (b : Nat) (h : s.issueFault (s.myWho .strand) (s.gr f.a) (amoSize ty) (amoSize ty) true = none ∧
      s.unreadable (s.gr f.a).toNat (amoSize ty) = some b) : s.rmwFault (s.gr f.a) (amoSize ty) = some (cUncorrectable, BitVec.ofNat 64 b) := by
    rw [rmwFault_of_allowed h.1, h.2]
    rfl
  have atomics {i : Instr} {op ty : Nat} {src data cmpSrc cmp : State → Word}
      (hx : ∀ s, exec i s = issue i s (fun s sh => amoN i f op (src s) (cmpSrc s) s sh))
      (hty : (if op = 8 then 9 else if op = 9 then 8 else fld f.imm 0 4) = ty)
      (hd : ∀ sh s, Issues i sh s → src (s.begun sh) = data (s.begun sh)) (hc : ∀ sh s, Issues i sh s → cmpSrc (s.begun sh) = cmp (s.begun sh)) :=
    And.intro (does_atomic hx hty hd hc) <|
      And.intro (fun c b => faults_atomic hx hty (c := c) (a := fun _ => b) fun _ => rmwFault_of_issueFault) <|
        And.intro (fun b => faults_atomic hx hty fun s => fails s b) (awaits_atomic hx hty)
  have int {i : Instr} {op : Nat} (hx : ∀ s, exec i s = issue i s (amoI i f op)) (h8 : op ≠ 8) (h9 : op ≠ 9) :=
    atomics (src := fun s => s.gOp 2 f.b) (data := fun s => s.gr f.b) (cmpSrc := fun s => s.gOp 3 f.c) (cmp := fun s => s.gr f.c)
      hx (by rw [if_neg h8, if_neg h9]) (fun _ _ h => h.gOp 2 f.b) (fun _ _ h => h.gOp 3 f.c)
  have fits (ty : Nat) {i : Instr} (sh : Shape) (s : State) (h : Issues i sh s) :
      BitVec.ofNat 64 (unbox ty ((s.begun sh).fOp 2 f.b)) = BitVec.ofNat 64 (unbox ty ((s.begun sh).fr f.b)) := by rw [h.fOp]
  exact ⟨int (fun _ => rfl) (by decide) (by decide), int (fun _ => rfl) (by decide) (by decide), int (fun _ => rfl) (by decide) (by decide),
    int (fun _ => rfl) (by decide) (by decide), int (fun _ => rfl) (by decide) (by decide), int (fun _ => rfl) (by decide) (by decide),
    int (fun _ => rfl) (by decide) (by decide), int (fun _ => rfl) (by decide) (by decide),
    atomics (fun _ => rfl) rfl (fits 9) fun _ _ _ => rfl, atomics (fun _ => rfl) rfl (fits 8) fun _ _ _ => rfl⟩

end Sys2Proof.Machine
end

section
/-!
SUPPORT. Full/empty operations and sync words (R147, R156, R157, R278), fences and range operations (R154, R155).
-/
namespace Sys2Proof.Machine

theorem KeepsStrand.foldl {α : Type} {g : State → α → State} (h : ∀ s a, KeepsStrand s (g s a)) (l : List α) :
    ∀ s : State, KeepsStrand s (l.foldl g s) := by
  induction l with
  | nil => exact KeepsStrand.refl
  | cons a l ih => exact fun s => (h s a).trans (ih (g s a))

/-! Full/empty operations. -/

/-- A full/empty access reaches its address under the strand's node: a window access stands under node 0 (R278). -/
abbrev NodeReaches (a : State → Word) (s : State) : Prop := s.me.hypCur = 0 ∨ (a s).toNat < 2 ^ 52

theorem feFault_none {s : State} {a : State → Word} {n : Nat} {write : Bool} (allowed : s.issueFault (s.myWho .strand) (a s) n n write = none)
    (reaches : NodeReaches a s) : s.feFault (a s) n write = none := by
  have passes : (s.me.hypCur != 0 && decide (2 ^ 52 ≤ (a s).toNat)) = false := by
    rcases reaches with root | virtual
    · rw [root, bne_self_eq_false, Bool.false_and]
    · rw [decide_eq_false (Nat.not_le.2 virtual), Bool.and_false]
  rw [State.feFault, allowed, passes]
  rfl

section
variable {i : Instr} {f : Fields} {kind : ReqKind}

theorem does_fullEmpty {write : Bool} {src data : State → Word} (hx : ∀ s, exec i s = issue i s (fun s sh => feOp i f kind (src s) s sh))
    (hw : (kind != .ldfeClr && kind != .ldfeKeep) = write) (hd : ∀ sh s, Issues i sh s → src (s.begun sh) = data (s.begun sh)) :
    Does i (fun s => s.issueFault (s.myWho .strand) (memAddress f true s) 8 8 write = none ∧ NodeReaches (memAddress f true) s)
      (fun s sh => s.detachReq i sh { s.reqOf kind (memAddress f true s) 8 with data := data s } 0 false) :=
  does_kept hx (fun sh s h ok => by
    rw [feOp, h.ea, hw, feFault_none ok.1 ok.2, hd sh s h]) fun _ _ => keepsStrand_detachReq ..

theorem does_fullEmpty_posted (hx : ∀ s, exec i s = issue i s (fePost i f kind)) :
    Does i (fun s => s.issueFault (s.myWho .strand) (memAddress f true s) 8 8 true = none ∧ NodeReaches (memAddress f true) s ∧
        s.me.posted.length < 32)
      (fun s sh => s.postReq i sh (s.reqOf kind (memAddress f true s) 8)) :=
  does_kept hx (fun sh s h ⟨allowed, reaches, room⟩ => by
    simp only [fePost, h.ea, feFault_none allowed reaches, if_neg (Nat.not_le.2 room)]) fun _ _ => keepsStrand_postReq ..

end

/-! Sync words. -/

section
variable {s : State} {a : Word}

theorem syncFault_none (sound : s.rmwFault a 16 = none) (window : 2 ^ 52 ≤ a.toNat) : s.syncFault a = none := by
  simp only [State.syncFault, sound, if_neg (Nat.not_lt.2 window)]

theorem syncFault_of_rmwFault {e : Flt} (h : s.rmwFault a 16 = some e) : s.syncFault a = some e := by
  rw [State.syncFault, h]

theorem syncFault_virtual (sound : s.rmwFault a 16 = none) (virtual : a.toNat < 2 ^ 52) : s.syncFault a = some (cPerm, a) := by
  simp only [State.syncFault, sound, if_pos virtual]

end

/-- A sync word that may be accessed (R156). -/
abbrev SyncSound (f : Fields) (s : State) : Prop :=
  s.rmwFault (memAddress f false s) 16 = none ∧ 2 ^ 52 ≤ (memAddress f false s).toNat

/-- What `swarrive` comes to (R156). -/
def arriveBody (f : Fields) (s : State) (sh : Shape) : Eff :=
  if 2 ^ 32 ≤ (s.gOp 2 f.b).toNat then .flt cIllegal 0
  else
    match s.syncFault (s.eaSync f) with
    | some (c, a) => .flt c a
    | none =>
      match s.orderWait f.c.toNat true true with
      | some w => .wait w
      | none => .done ((s.seenBy f.c.toNat).detachReq (.swarrive f) sh { s.reqOf .swarrive (s.eaSync f) 16 with data := s.gOp 2 f.b } 0 false)

theorem exec_swarrive (f : Fields) (s : State) : exec (.swarrive f) s = issue (.swarrive f) s (arriveBody f) := rfl

theorem does_swarrive (f : Fields) : Does (.swarrive f)
    (fun s => SyncSound f s ∧ (s.gr f.b).toNat < 2 ^ 32 ∧ MayPass s f.c.toNat true true)
    (fun s sh => (s.seenBy f.c.toNat).detachReq (.swarrive f) sh { s.reqOf .swarrive (memAddress f false s) 16 with data := s.gr f.b } 0 false) :=
  does_kept (exec_swarrive f) (fun sh s h ⟨⟨sound, window⟩, fits, passes⟩ => by
    rw [arriveBody, h.gOp, if_neg (Nat.not_le.2 fits), h.eaSync, syncFault_none sound window, orderWait_of_mayPass passes])
    fun _ s => (keepsStrand_seenBy s _).trans (keepsStrand_detachReq ..)

theorem awaits_swarrive (f : Fields) : Awaits (.swarrive f)
    (fun s => SyncSound f s ∧ (s.gr f.b).toNat < 2 ^ 32 ∧ ¬MayPass s f.c.toNat true true) (fun _ => passWait f.c.toNat true true) :=
  awaits_of (exec_swarrive f) fun sh s h ⟨⟨sound, window⟩, fits, waits⟩ => by
    rw [arriveBody, h.gOp, if_neg (Nat.not_le.2 fits), h.eaSync, syncFault_none sound window, orderWait_of_not_mayPass waits]

theorem faults_swarrive (f : Fields) : Faults (.swarrive f) (fun s => 2 ^ 32 ≤ (s.gr f.b).toNat) cIllegal (fun _ => 0) :=
  faults_of (exec_swarrive f) fun sh s h large => by
    rw [arriveBody, h.gOp, if_pos large]
    rfl

theorem does_swwait (f : Fields) : Does (.swwait f) (SyncSound f)
    (fun s sh => s.detachReq (.swwait f) sh { s.reqOf .swwait (memAddress f false s) 16 with data := s.gr f.b } 0 true) :=
  does_kept (fun _ => rfl) (fun sh s h ⟨sound, window⟩ => by
    dsimp only
    rw [h.gOp, h.eaSync, syncFault_none sound window]) fun _ _ => keepsStrand_detachReq ..

theorem faults_swwait (f : Fields) {ok : State → Prop} {c : Nat} {b : State → Word}
    (hf : ∀ s, ok s → s.syncFault (memAddress f false s) = some (c, b s)) : Faults (.swwait f) ok c b :=
  faults_of (fun _ => rfl) fun sh s h bad => by
    dsimp only
    rw [h.eaSync, hf _ bad]
    rfl

/-! Fences. -/

/-- What `fence` comes to (R154). -/
def fenceBody (f : Fields) (s : State) (_ : Shape) : Eff :=
  match s.orderWait f.c.toNat (f.o == 0) true with
  | some w => .wait w
  | none => .done (s.seenBy f.c.toNat)

theorem exec_fence (f : Fields) (s : State) : exec (.fence f) s = issue (.fence f) s (fenceBody f) := rfl

theorem does_fence (f : Fields) : Does (.fence f) (fun s => MayPass s f.c.toNat (f.o == 0) true) (fun s _ => s.seenBy f.c.toNat) :=
  does_kept (exec_fence f) (fun sh s h passes => by rw [fenceBody, orderWait_of_mayPass passes]) fun _ s => keepsStrand_seenBy s _

theorem awaits_fence (f : Fields) :
    Awaits (.fence f) (fun s => ¬MayPass s f.c.toNat (f.o == 0) true) (fun _ => passWait f.c.toNat (f.o == 0) true) :=
  awaits_of (exec_fence f) fun sh s h waits => by rw [fenceBody, orderWait_of_not_mayPass waits]

/-! Range operations. -/

/-- When a request for a range leaves, one ck after another for its lines (R155). -/
theorem rangeLines_ahead {n : Nat} (a c : Nat) (h : 0 < n) : c + rangeLines a n - 1 = c + (a + n - 1) / 64 - a / 64 := by
  rw [rangeLines, if_neg (Nat.ne_of_gt h)]
  omega

section
variable {i : Instr} {f : Fields} {kind : ReqKind} (hx : ∀ s, exec i s = issue i s (rangeOp i f kind))
include hx

/-- An empty range, and one on windows, is done at once. -/
theorem does_range_nothing : Does i
    (fun s => (s.gr f.b).toNat = 0 ∨ (s.windowFault (s.gr f.a).toNat (s.gr f.b).toNat = none ∧ 2 ^ 52 ≤ (s.gr f.a).toNat)) (fun s _ => s) :=
  does_kept hx (fun sh s h ok => by
    simp only [rangeOp, h.gOp]
    by_cases empty : (s.begun sh).gr f.b = 0
    · rw [if_pos empty]
    · obtain ⟨mapped, window⟩ := ok.resolve_left fun zero => empty (BitVec.eq_of_toNat_eq zero)
      rw [if_neg empty, mapped]
      exact if_pos window) fun _ s => KeepsStrand.refl s

theorem does_range {base : Nat} (hb : (if f.c = 6 ∧ kind = .wb then 160 else 48) = base) : Does i
    (fun s => 0 < (s.gr f.b).toNat ∧ s.windowFault (s.gr f.a).toNat (s.gr f.b).toNat = none ∧ (s.gr f.a).toNat < 2 ^ 52 ∧
      s.me.posted.length < 32)
    (fun s sh => (s.rangeHomes (s.pidOf s.cur) (s.gr f.a).toNat (s.gr f.b).toNat).foldl (fun t h =>
        t.send (8192 + s.cur) h (s.cycles + ((s.gr f.a).toNat + (s.gr f.b).toNat - 1) / 64 - (s.gr f.a).toNat / 64 + base)
          (.mem s.cur s.cx s.me.nextId { s.reqOf kind (s.gr f.a) 0 with
            data := s.gr f.b, cmp := f.c.setWidth 64, lane := h, posted := true }))
      (s.postOp i sh (s.rangeHomes (s.pidOf s.cur) (s.gr f.a).toNat (s.gr f.b).toNat).length false)) := by
  refine does_kept hx (fun sh s h ok => ?_) fun _ s => (keepsStrand_postOp ..).trans (KeepsStrand.foldl (fun _ _ => keepsStrand_send ..) _ _)
  obtain ⟨some_, mapped, virtual, room⟩ := ok
  have nonempty : (s.begun sh).gr f.b ≠ 0 := fun zero => Nat.ne_of_gt some_ (congrArg BitVec.toNat zero)
  simp only [rangeOp, h.gOp, if_neg nonempty, mapped, if_neg (Nat.not_le.2 virtual), if_neg (Nat.not_le.2 room), hb, List.foldl_map,
    rangeLines_ahead _ _ some_]
  rfl

theorem faults_range (b : Word) : Faults i
    (fun s => 0 < (s.gr f.b).toNat ∧ s.windowFault (s.gr f.a).toNat (s.gr f.b).toNat = some b) cWindow (fun _ => b) :=
  faults_of hx fun sh s h ⟨some_, unmapped⟩ => by
    have nonempty : (s.begun sh).gr f.b ≠ 0 := fun zero => Nat.ne_of_gt some_ (congrArg BitVec.toNat zero)
    simp only [rangeOp, h.gOp, if_neg nonempty, unmapped]
    rfl

end

/-! `disc`. -/

/-- Whether a range is not made of whole lines (R155). -/
theorem disc_unaligned_iff (a n : Word) : (fld a 0 6 != 0 || fld n 0 6 != 0) = true ↔ a.toNat % 64 ≠ 0 ∨ n.toNat % 64 ≠ 0 := by
  simp only [fld_zero, Bool.or_eq_true, bne_iff_ne, Nat.reducePow]

theorem does_disc_nothing (f : Fields) : Does (.disc f) (fun s => (s.gr f.b).toNat = 0) (fun s _ => s) :=
  does_kept (fun _ => rfl) (fun sh s h empty => by
    simp only [discOp, h.gOp]
    exact if_pos (BitVec.eq_of_toNat_eq empty)) fun _ s => KeepsStrand.refl s

theorem does_disc (f : Fields) : Does (.disc f)
    (fun s => 0 < (s.gr f.b).toNat ∧ (s.gr f.a).toNat % 64 = 0 ∧ (s.gr f.b).toNat % 64 = 0 ∧
      s.issueFault (s.myWho .strand) (s.gr f.a) (s.gr f.b).toNat 64 true = none ∧ s.me.posted.length < 32)
    (fun s sh => (List.range ((s.gr f.b).toNat / 64)).foldl (fun t j =>
        t.sendReq s.me.nextId { s.reqOf .disc (BitVec.ofNat 64 ((s.gr f.a).toNat + 64 * j)) 64 with lane := j, posted := true } 0)
      (s.postOp (.disc f) sh ((s.gr f.b).toNat / 64) false)) := by
  refine does_kept (fun _ => rfl) (fun sh s h ok => ?_) fun _ s => (keepsStrand_postOp ..).trans (KeepsStrand.foldl (fun _ _ => keepsStrand_sendReq ..) _ _)
  obtain ⟨some_, aligned, whole, allowed, room⟩ := ok
  have nonempty : (s.begun sh).gr f.b ≠ 0 := fun zero => Nat.ne_of_gt some_ (congrArg BitVec.toNat zero)
  have lines : ¬(fld ((s.begun sh).gr f.a) 0 6 != 0 || fld ((s.begun sh).gr f.b) 0 6 != 0) = true := fun bad =>
    ((disc_unaligned_iff _ _).1 bad).elim (fun e => e aligned) fun e => e whole
  have address (a : Word) (j : Nat) : wadd a (64 * (j : Int)) = BitVec.ofNat 64 (a.toNat + 64 * j) := BitVec.ofInt_natCast _ (a.toNat + 64 * j)
  simp only [discOp, h.gOp, if_neg nonempty, if_neg lines, allowed, if_neg (Nat.not_le.2 room), State.sendAll, List.foldl_map, address]

theorem faults_disc (f : Fields) : Faults (.disc f)
    (fun s => 0 < (s.gr f.b).toNat ∧ ((s.gr f.a).toNat % 64 ≠ 0 ∨ (s.gr f.b).toNat % 64 ≠ 0)) cAlign (fun s => s.gr f.a) :=
  faults_of (fun _ => rfl) fun sh s h ⟨some_, parts⟩ => by
    have nonempty : (s.begun sh).gr f.b ≠ 0 := fun zero => Nat.ne_of_gt some_ (congrArg BitVec.toNat zero)
    simp only [discOp, h.gOp, if_neg nonempty]
    exact if_pos ((disc_unaligned_iff _ _).2 parts)

/-- Settles O15: each clause is one of the outcomes above. -/
theorem synchronisingAccessesAndFences : Obligations.SynchronisingAccessesAndFences := by
  refine ⟨fun f => ?words, fun f => ?ranges⟩
  case words =>
    exact ⟨does_fullEmpty (src := fun _ => 0) (fun _ => rfl) rfl fun _ _ _ => rfl, does_fullEmpty (src := fun _ => 0) (fun _ => rfl) rfl fun _ _ _ => rfl,
      does_fullEmpty (fun _ => rfl) rfl fun _ _ h => h.gOp 0 f.d, does_fullEmpty (fun _ => rfl) rfl fun _ _ h => h.gOp 3 f.c,
      does_fullEmpty_posted fun _ => rfl, does_fullEmpty_posted fun _ => rfl,
      does_swarrive f, awaits_swarrive f, faults_swarrive f, does_swwait f,
      fun c b => faults_swwait f fun _ => syncFault_of_rmwFault, faults_swwait f fun _ ⟨sound, virtual⟩ => syncFault_virtual sound virtual⟩
  case ranges =>
    have range {i : Instr} {kind : ReqKind} {base : Nat} (hx : ∀ s, exec i s = issue i s (rangeOp i f kind))
        (hb : (if f.c = 6 ∧ kind = .wb then 160 else 48) = base) :=
      And.intro (does_range_nothing hx) (And.intro (does_range hx hb) (faults_range hx))
    exact ⟨does_fence f, awaits_fence f, range (fun _ => rfl) (by simp), range (fun _ => rfl) (by simp),
      does_disc_nothing f, does_disc f, faults_disc f⟩

end Sys2Proof.Machine
end

section
/-!
SUPPORT. What an access changes as it issues (R134, R144, R150): no byte of memory, no register, and no full/empty bit but that of its
destination.
-/
namespace Sys2Proof.Machine

/-! What is checked of an access is not changed by the clears and counts of its own issue. -/

@[simp] theorem begun_pidOf (s : State) (sh : Shape) (c : Nat) : (s.begun sh).pidOf c = s.pidOf c := by
  rw [State.pidOf, begun_parts, State.pidOf]

@[simp] theorem begun_inPart (s : State) (sh : Shape) (pid c : Nat) : (s.begun sh).inPart pid c = s.inPart pid c := by
  rw [State.inPart, State.part, begun_parts, State.inPart, State.part]

@[simp] theorem begun_mapped (s : State) (sh : Shape) (a : Nat) : (s.begun sh).mapped a = s.mapped a := by
  simp only [State.mapped, State.unavail, begun_core_unavailable]

@[simp] theorem begun_windowFault (s : State) (sh : Shape) (a n : Nat) : (s.begun sh).windowFault a n = s.windowFault a n := by
  simp only [State.windowFault, begun_mapped]

@[simp] theorem begun_windowPerm (s : State) (sh : Shape) (w : Who) (a n : Nat) (write : Bool) :
    (s.begun sh).windowPerm w a n write = s.windowPerm w a n write := by
  simp only [State.windowPerm, State.clusterIn, begun_inPart]

@[simp] theorem begun_issueFault (s : State) (sh : Shape) (w : Who) (a : Word) (n align : Nat) (write : Bool) :
    (s.begun sh).issueFault w a n align write = s.issueFault w a n align write := by
  simp only [State.issueFault, State.accessFault, begun_windowFault, begun_windowPerm, State.windowBad, begun_win]

@[simp] theorem begun_myWho (s : State) (sh : Shape) (u : Unit4) : (s.begun sh).myWho u = s.myWho u := by
  have own : (s.begun sh).ctx s.cur s.cx = s.me.counted (!sh.det).toNat := by rw [← begun_me, State.me, begun_cur, begun_cx]
  rw [State.myWho, begun_cur, begun_cx, State.whoOf, own, begun_pidOf]
  rfl

@[simp] theorem begun_rmwFault (s : State) (sh : Shape) (a : Word) (n : Nat) : (s.begun sh).rmwFault a n = s.rmwFault a n := by
  simp only [State.rmwFault, begun_issueFault, begun_myWho, State.windowBad, begun_win]

@[simp] theorem begun_memAddress (s : State) (sh : Shape) (f : Fields) (indexed : Bool) :
    memAddress f indexed (s.begun sh) = memAddress f indexed s := by
  simp only [memAddress, begun_gr, begun_cur]

/-! What an access keeps. -/

/-- What the issue of an access leaves of its context beside its registers. -/
def Ctx.standing (k : Ctx) : BitVec 5 × BitVec 8 × BitVec 4 × BitVec 2 := (k.fpflags, k.hypCur, k.depth, k.lvl)

/-- From `s` to `t` an access of shape `sh` may have issued: memory, registers, full/empty bits but its destinations', and what stands
in its context are the same. -/
structure AccessKeeps (sh : Shape) (s t : State) : Prop where
  cur : t.cur = s.cur
  cx : t.cx = s.cx
  memory : SameMemory s t
  reg : ∀ code, t.reg s.cur s.cx code = s.reg s.cur s.cx code
  full : ∀ code, code ∉ writesOf sh → t.full s.cur s.cx code = s.full s.cur s.cx code
  standing : t.me.standing = s.me.standing

theorem SameMemory.refl (s : State) : SameMemory s s := ⟨rfl, rfl, rfl, rfl, rfl, rfl, fun _ => rfl⟩

theorem SameMemory.trans {s t u : State} (h : SameMemory s t) (k : SameMemory t u) : SameMemory s u :=
  ⟨k.win.trans h.win, k.dram.trans h.dram, k.far.trans h.far, k.host.trans h.host, k.slices.trans h.slices, k.vers.trans h.vers,
    fun c => (k.l1 c).trans (h.l1 c)⟩

variable {sh : Shape}

theorem AccessKeeps.refl (s : State) : AccessKeeps sh s s := ⟨rfl, rfl, SameMemory.refl s, fun _ => rfl, fun _ _ => rfl, rfl⟩

theorem AccessKeeps.trans {s t u : State} (h : AccessKeeps sh s t) (k : AccessKeeps sh t u) : AccessKeeps sh s u where
  cur := k.cur.trans h.cur
  cx := k.cx.trans h.cx
  memory := h.memory.trans k.memory
  reg := fun code => by
    have later := k.reg code
    rw [h.cur, h.cx] at later
    rw [later, h.reg code]
  full := fun code hc => by
    have later := k.full code hc
    rw [h.cur, h.cx] at later
    rw [later, h.full code hc]
  standing := k.standing.trans h.standing

theorem AccessKeeps.foldl {α : Type} {g : State → α → State} {l : List α} (h : ∀ s, ∀ a ∈ l, AccessKeeps sh s (g s a)) :
    ∀ s : State, AccessKeeps sh s (l.foldl g s) := by
  induction l with
  | nil => exact AccessKeeps.refl
  | cons a l ih => exact fun s => (h s a (List.mem_cons_self ..)).trans (ih (fun s b hb => h s b (List.mem_cons_of_mem a hb)) (g s a))

/-- A change outside memory and cores. -/
theorem accessKeeps_of_cores {s t : State} (hc : t.cores = s.cores) (at_ : t.cur = s.cur ∧ t.cx = s.cx)
    (bytes : t.win = s.win ∧ t.dram = s.dram ∧ t.far = s.far ∧ t.host = s.host ∧ t.slices = s.slices ∧ t.vers = s.vers) :
    AccessKeeps sh s t := by
  obtain ⟨win, dram, far, host, slices, vers⟩ := bytes
  have core (c : Nat) : t.core c = s.core c := by rw [State.core, hc, State.core]
  have ctx (c x : Nat) : t.ctx c x = s.ctx c x := by rw [State.ctx, core, State.ctx]
  exact ⟨at_.1, at_.2, ⟨win, dram, far, host, slices, vers, fun c => by rw [core]⟩,
    fun code => State.reg_congr (by rw [core]) (by rw [ctx]) (by rw [ctx]) (by rw [ctx]) (by rw [ctx]) code,
    fun code _ => State.full_congr (by rw [core]) (by rw [ctx]), by rw [State.me, at_.1, at_.2, ctx, State.me]⟩

/-- A change of the core that keeps contexts, shared registers and L1. -/
theorem accessKeeps_updCore (s : State) (c : Nat) (g : Core → Core) (hc : (g (s.core c)).ctxs = (s.core c).ctxs)
    (hg : (g (s.core c)).shg = (s.core c).shg) (hf : (g (s.core c)).shfe = (s.core c).shfe) (hl : (g (s.core c)).l1 = (s.core c).l1) :
    AccessKeeps sh s (s.updCore c g) where
  cur := rfl
  cx := rfl
  memory := ⟨rfl, rfl, rfl, rfl, rfl, rfl, fun d => by
    rw [State.core_updCore]
    split
    · rename_i same
      rw [same, hl]
    · rfl⟩
  reg := fun _ => s.reg_updCore_of _ _ _ _ hc hg _
  full := fun _ _ => s.full_updCore_of _ _ _ _ _ hc (by rw [hf])
  standing := congrArg Ctx.standing (s.ctx_updCore _ _ _ _ hc)

/-- A change of the context that acts, beside its registers and what stands in it. -/
theorem accessKeeps_updMe (s : State) (g : Ctx → Ctx) (hg : (g s.me).g = s.me.g) (hf : (g s.me).f = s.me.f) (hv : (g s.me).v = s.me.v)
    (hk : (g s.me).k = s.me.k) (he : (g s.me).fe = s.me.fe) (hs : (g s.me).standing = s.me.standing) : AccessKeeps sh s (s.updMe g) where
  cur := rfl
  cx := rfl
  memory := ⟨rfl, rfl, rfl, rfl, rfl, rfl, fun c => by rw [State.updMe, State.updCtx_core_l1]⟩
  reg := fun _ => s.reg_updCtx_of _ _ _ _ _ hg hf hv hk _
  full := fun _ _ => s.full_updCtx_of _ _ _ _ _ _ (congrArg (mget true · _) he)
  standing := by rw [State.me_updMe, hs]

theorem accessKeeps_of_only {s t : State} (only : OnlyRegs s t) (reg : ∀ code, t.reg s.cur s.cx code = s.reg s.cur s.cx code)
    (full : ∀ code, code ∉ writesOf sh → t.full s.cur s.cx code = s.full s.cur s.cx code) (flags : t.me.fpflags = s.me.fpflags) :
    AccessKeeps sh s t :=
  ⟨only.cur, only.cx, only.sameMemory, reg, full, by
    rw [only.me]
    exact congrArg (·, s.me.hypCur, s.me.depth, s.me.lvl) flags⟩

theorem accessKeeps_begun (s : State) (sh : Shape) : AccessKeeps sh s (s.begun sh) :=
  accessKeeps_of_only (keeps_begun s sh).only (fun _ => begun_reg ..) (fun _ _ => begun_full ..) (begun_me_fpflags ..)

theorem accessKeeps_goesTo (t : State) (pc : Word) : AccessKeeps sh t (t.goesTo pc) :=
  accessKeeps_of_only (onlyRegs_goesTo t pc) (fun _ => goesTo_reg ..) (fun _ _ => goesTo_full ..) (goesTo_fpflags ..)

/-! The operations of an access. -/

theorem accessKeeps_enterWait (s : State) (why : WaitWhy) : AccessKeeps sh s (s.enterWait why) := accessKeeps_updMe s _ rfl rfl rfl rfl rfl rfl

theorem accessKeeps_send (s : State) (src dst due : Nat) (body : Msg) : AccessKeeps sh s (s.send src dst due body) :=
  accessKeeps_of_cores rfl ⟨rfl, rfl⟩ ⟨rfl, rfl, rfl, rfl, rfl, rfl⟩

theorem accessKeeps_aliasRoll (s : State) (hit : Nat → Bool) : AccessKeeps sh s (s.aliasRoll hit) := by
  unfold State.aliasRoll State.aliasRollAt
  exact accessKeeps_updCore s _ _ rfl rfl rfl rfl

theorem accessKeeps_sendReq (s : State) (op : Nat) (r : MemReq) (extra : Nat) : AccessKeeps sh s (s.sendReq op r extra) := by
  unfold State.sendReq State.sendReqAt
  refine AccessKeeps.trans ?filtered (accessKeeps_send _ ..)
  split
  · exact accessKeeps_aliasRoll ..
  · exact AccessKeeps.refl s

theorem accessKeeps_seenBy (s : State) (id : Nat) : AccessKeeps sh s (s.seenBy id) := by
  have outside (t : State) (e : t = { s with net := t.net, hostWr := t.hostWr }) : AccessKeeps sh s t := by
    rw [e]
    exact accessKeeps_of_cores rfl ⟨rfl, rfl⟩ ⟨rfl, rfl, rfl, rfl, rfl, rfl⟩
  unfold State.seenBy
  split
  · exact outside _ rfl
  · split
    · exact AccessKeeps.refl s
    · exact outside _ rfl

/-- A detached operation empties its destinations. -/
theorem accessKeeps_detach (s : State) (i : Instr) (g : DetOp → DetOp) (hg : ∀ d, (g d).dests = d.dests) :
    AccessKeeps sh s (s.detach i sh g) := by
  unfold State.detach
  dsimp only
  rw [hg]
  refine AccessKeeps.trans (AccessKeeps.foldl (fun t r written => ?_) s) (accessKeeps_updMe _ _ rfl rfl rfl rfl rfl rfl)
  refine accessKeeps_of_only (onlyRegs_setFull ..) (fun _ => t.reg_setFull ..) (fun code other => t.full_setFull_ne _ _ _ _ ?_ _ _) ?_
  · rintro rfl
    exact other written
  · have same := sameElsewhere_setFull (s := t) rfl rfl r false
    rw [State.me, same.cur, same.cx, (sameButRegs_setFull t _ _ r false).fpflags]
    rfl

theorem accessKeeps_detachReq (s : State) (i : Instr) (r : MemReq) (mode : Nat) (acq : Bool) : AccessKeeps sh s (s.detachReq i sh r mode acq) :=
  (accessKeeps_detach s i (fun d => { d with left := 1, mode, acq }) fun _ => rfl).trans (accessKeeps_sendReq ..)

theorem accessKeeps_postReq (s : State) (i : Instr) (r : MemReq) : AccessKeeps sh s (s.postReq i sh r) :=
  AccessKeeps.trans (accessKeeps_updMe s _ rfl rfl rfl rfl rfl rfl) (accessKeeps_sendReq ..)

/-! How an access ends. -/

/-- An effect that leaves an access on its way, or waits. -/
def Eff.Sends (e : Eff) (sh : Shape) (s : State) : Prop := (∃ t, e = .done t ∧ KeepsStrand s t ∧ AccessKeeps sh s t) ∨ ∃ w, e = .wait w

theorem exec_accessKeeps {i : Instr} {s : State} {body : State → Shape → Eff} (hx : ∀ s, exec i s = issue i s body) (h : Issues i sh s)
    (sends : (body (s.begun sh) sh).Sends sh (s.begun sh)) : ∃ t, exec i s = .next t ∧ AccessKeeps sh s t := by
  rcases sends with ⟨t, done, strand, keeps⟩ | ⟨w, waits⟩
  · exact ⟨_, exec_done hx h done strand, ((accessKeeps_begun s sh).trans keeps).trans (accessKeeps_goesTo ..)⟩
  · refine ⟨(s.withIw sh).enterWait w, by rw [hx, issue_wait h waits], AccessKeeps.trans ?_ (accessKeeps_enterWait ..)⟩
    exact accessKeeps_of_cores rfl ⟨rfl, rfl⟩ ⟨rfl, rfl, rfl, rfl, rfl, rfl⟩

section
variable {i : Instr} {s : State} (h : Issues i sh s) {f : Fields} {n : Nat}
include h

theorem sends_load (allowed : s.issueFault (s.myWho .strand) (memAddress f true s) n n false = none) :
    (loadN i f n (s.begun sh) sh).Sends sh (s.begun sh) := by
  rw [loadN, h.ea, begun_memAddress, begun_issueFault, begun_myWho, allowed]
  exact .inl ⟨_, rfl, keepsStrand_detachReq .., accessKeeps_detachReq ..⟩

theorem sends_store (v : Word) (allowed : s.issueFault (s.myWho .strand) (memAddress f true s) n n true = none) :
    (storeN i f n v (s.begun sh) sh).Sends sh (s.begun sh) := by
  rw [storeN, h.ea, begun_memAddress, begun_issueFault, begun_myWho, allowed]
  dsimp only
  split
  · exact .inr ⟨_, rfl⟩
  · exact .inl ⟨_, rfl, keepsStrand_postReq .., accessKeeps_postReq ..⟩

theorem sends_atomic {op : Nat} (data cmp : Word) (hn : tyBits (if op = 8 then 9 else if op = 9 then 8 else fld f.imm 0 4) / 8 = n)
    (sound : s.rmwFault (s.gr f.a) n = none) : (amoN i f op data cmp (s.begun sh) sh).Sends sh (s.begun sh) := by
  rw [amoN, h.gOp, begun_gr, begun_rmwFault, hn, sound]
  dsimp only
  split
  · exact .inr ⟨_, rfl⟩
  · exact .inl ⟨_, rfl, (keepsStrand_seenBy ..).trans (keepsStrand_detachReq ..), (accessKeeps_seenBy ..).trans (accessKeeps_detachReq ..)⟩

end

/-- Loads and stores with their sizes (R145). -/
def plainAccesses (f : Fields) : List (Instr × Nat × Bool) := [
  (.ldB f, 1, false), (.ldH f, 2, false), (.ldW f, 4, false), (.ldD f, 8, false), (.ldF f, if f.o.getLsbD 0 then 4 else 8, false),
  (.stB f, 1, true), (.stH f, 2, true), (.stW f, 4, true), (.stD f, 8, true), (.stF f, if f.o.getLsbD 0 then 4 else 8, true)]

/-- Atomics with their sizes (R149). -/
def atomicAccesses (f : Fields) : List (Instr × Nat × Bool) :=
  let m := tyBits (fld f.imm 0 4) / 8
  [(.amoAdd f, m, true), (.amoAnd f, m, true), (.amoOr f, m, true), (.amoXor f, m, true), (.amoMin f, m, true),
    (.amoMax f, m, true), (.amoSwap f, m, true), (.amoCas f, m, true), (.amoAddF32 f, 4, true), (.amoAddF64 f, 8, true)]

theorem exec_plainAccess (f : Fields) (s : State) : ∀ e ∈ plainAccesses f, Issues e.1 sh s →
    s.issueFault (s.myWho .strand) (memAddress f true s) e.2.1 e.2.1 e.2.2 = none → ∃ t, exec e.1 s = .next t ∧ AccessKeeps sh s t := by
  have load {i : Instr} {n : Nat} (hx : ∀ s, exec i s = issue i s (loadN i f n)) (h : Issues i sh s)
      (allowed : s.issueFault (s.myWho .strand) (memAddress f true s) n n false = none) := exec_accessKeeps hx h (sends_load h allowed)
  have store {i : Instr} {n : Nat} {v : State → Word} (hx : ∀ s, exec i s = issue i s (fun s => storeN i f n (v s) s)) (h : Issues i sh s)
      (allowed : s.issueFault (s.myWho .strand) (memAddress f true s) n n true = none) := exec_accessKeeps hx h (sends_store h _ allowed)
  simp only [plainAccesses, List.forall_mem_cons, List.not_mem_nil, false_imp_iff, implies_true, and_true]
  exact ⟨load fun _ => rfl, load fun _ => rfl, load fun _ => rfl, load fun _ => rfl, load fun _ => rfl,
    store fun _ => rfl, store fun _ => rfl, store fun _ => rfl, store fun _ => rfl, store fun _ => rfl⟩

theorem exec_atomicAccess (f : Fields) (s : State) : ∀ e ∈ atomicAccesses f, Issues e.1 sh s →
    s.rmwFault (s.gr f.a) e.2.1 = none → ∃ t, exec e.1 s = .next t ∧ AccessKeeps sh s t := by
  have atomic {i : Instr} {op n : Nat} {data cmp : State → Word} (hx : ∀ s, exec i s = issue i s (fun s sh => amoN i f op (data s) (cmp s) s sh))
      (hn : tyBits (if op = 8 then 9 else if op = 9 then 8 else fld f.imm 0 4) / 8 = n) (h : Issues i sh s)
      (sound : s.rmwFault (s.gr f.a) n = none) := exec_accessKeeps hx h (sends_atomic h _ _ hn sound)
  simp only [atomicAccesses, List.forall_mem_cons, List.not_mem_nil, false_imp_iff, implies_true, and_true]
  exact ⟨atomic (fun _ => rfl) rfl, atomic (fun _ => rfl) rfl, atomic (fun _ => rfl) rfl, atomic (fun _ => rfl) rfl, atomic (fun _ => rfl) rfl,
    atomic (fun _ => rfl) rfl, atomic (fun _ => rfl) rfl, atomic (fun _ => rfl) rfl, atomic (fun _ => rfl) (by simp [tyBits]),
    atomic (fun _ => rfl) (by simp [tyBits])⟩

/-- Settles O60: an access that leaves, and one that waits, is an `AccessKeeps`. -/
theorem accessesKeepMemoryAtIssue : Obligations.AccessesKeepMemoryAtIssue := by
  intro f i a n write sh s ea g fl m access h allowed
  have keeps : ∃ t, exec i s = .next t ∧ AccessKeeps sh s t := by
    rcases access with ⟨row, rfl⟩ | ⟨row, rfl, sound⟩
    · exact exec_plainAccess f s (i, n, write) row h allowed
    · exact exec_atomicAccess f s (i, n, write) row h sound
  obtain ⟨t, goes, kept⟩ := keeps
  have standing := kept.standing
  simp only [Ctx.standing, Prod.mk.injEq] at standing
  exact ⟨t, goes, kept.memory, kept.reg, fun code other _ => kept.full code other, standing⟩

end Sys2Proof.Machine
end

section
/-!
SUPPORT. What an integer atomic leaves in memory (R149), and what an arrival leaves in a sync word (R156, R157).
-/
namespace Sys2Proof.Machine

/-! Integer atomics. -/

/-- The value of a `w`-bit operand as its type code says (R77, R149). -/
def typedVal (ty x : Nat) : Int := if tySigned ty ∧ 2 ^ (tyBits ty - 1) ≤ x then (x : Int) - (2 ^ tyBits ty : Nat) else (x : Int)

theorem tyBits_ne_zero (ty : Nat) : tyBits ty ≠ 0 := by
  unfold tyBits
  split <;> decide

theorem intTy_eq_typedVal {ty x : Nat} (h : x < 2 ^ tyBits ty) : intTy ty x = typedVal ty x := by
  unfold intTy typedVal
  cases tySigned ty with
  | false => rw [Nat.mod_eq_of_lt h, if_neg Bool.false_ne_true, if_neg fun k => Bool.false_ne_true k.1]
  | true =>
    rw [if_pos rfl, signed, if_neg (tyBits_ne_zero ty), Nat.mod_eq_of_lt h]
    by_cases negative : 2 ^ (tyBits ty - 1) ≤ x
    · rw [if_neg (Nat.not_lt.2 negative), if_pos ⟨rfl, negative⟩]
    · rw [if_pos (Nat.not_le.1 negative), if_neg fun k => negative k.2]

section
variable {ty m old b c : Nat} (hold : old < 2 ^ tyBits ty) (hb : b < 2 ^ tyBits ty)

include hold hb in
/-- A sum modulo `2 ^ w` of two operands below it. -/
theorem amoNew_add : amoNew 0 ty m old b c = (if old + b < 2 ^ tyBits ty then old + b else old + b - 2 ^ tyBits ty, 0) := by
  have sum : (old + b) % 2 ^ tyBits ty = if old + b < 2 ^ tyBits ty then old + b else old + b - 2 ^ tyBits ty := by
    split
    · exact Nat.mod_eq_of_lt ‹_›
    · rw [Nat.mod_eq_sub_mod (Nat.not_lt.1 ‹_›), Nat.mod_eq_of_lt (by omega)]
  rw [← sum]
  simp [amoNew, Nat.mod_eq_of_lt hb]

include hold hb in
theorem amoNew_min : amoNew 4 ty m old b c = (if typedVal ty b < typedVal ty old then b else old, 0) := by
  rw [← intTy_eq_typedVal hb, ← intTy_eq_typedVal hold]
  simp [amoNew, Nat.mod_eq_of_lt hb]

include hold hb in
theorem amoNew_max : amoNew 5 ty m old b c = (if typedVal ty b < typedVal ty old then old else b, 0) := by
  rw [← intTy_eq_typedVal hb, ← intTy_eq_typedVal hold]
  simp [amoNew, Nat.mod_eq_of_lt hb]

end

/-! Sync words. -/

/-- The fields of a sync word: target, count, generation and phase (R156). -/
def syncWord (t c g p : Nat) : Nat := t + c * 2 ^ 32 + g * 2 ^ 64 + p * 2 ^ 96

section
variable {t c g p : Nat} (ht : t < 2 ^ 32) (hc : c < 2 ^ 32) (hg : g < 2 ^ 32) (hp : p < 2)
include ht hc hg hp

theorem syncWord_fields : bits (syncWord t c g p) 0 32 = t ∧ bits (syncWord t c g p) 32 32 = c ∧ bits (syncWord t c g p) 64 32 = g ∧
    bits (syncWord t c g p) 96 1 = p := by
  unfold bits syncWord
  omega

end

section
variable {w t c g p : Nat} (target : bits w 0 32 = t) (count : bits w 32 32 = c) (gen : bits w 64 32 = g) (phase : bits w 96 1 = p)
include target gen phase

include count in
/-- An arrival completes as many phases as the target goes into the count (R156). -/
theorem swArrive_counts (n : Nat) (h : t ≠ 0) : swArrive w n =
    (syncWord t ((c + n) % t) ((g + (c + n) / t) % 2 ^ 32) ((p + (c + n) / t) % 2), (g + (c + n) / t) % 2 ^ 32) := by
  simp only [swArrive, target, count, gen, phase, if_neg h, syncWord]

/-- With target 0 every arrival completes one phase. -/
theorem swArrive_target_zero (n : Nat) (h : t = 0) : swArrive w n = (syncWord 0 0 ((g + 1) % 2 ^ 32) ((p + 1) % 2), (g + 1) % 2 ^ 32) := by
  simp only [swArrive, target, gen, phase, h, if_true, syncWord]

end

/-- A waiter's generation lies behind by less than half of the circle (R157). -/
theorem swAfter_iff {g b : Nat} (hg : g < 2 ^ 32) (hb : b < 2 ^ 32) :
    swAfter g b = true ↔ ∃ d, 1 ≤ d ∧ d < 2 ^ 31 ∧ g = (b + d) % 2 ^ 32 := by
  simp only [swAfter, Bool.and_eq_true, decide_eq_true_eq]
  constructor
  · rintro ⟨ahead, near⟩
    exact ⟨(g + 2 ^ 32 - b % 2 ^ 32) % 2 ^ 32, ahead, near, by omega⟩
  · rintro ⟨d, ahead, near, rfl⟩
    have distance : ((b + d) % 2 ^ 32 + 2 ^ 32 - b % 2 ^ 32) % 2 ^ 32 = d := by omega
    rw [distance]
    exact ⟨ahead, near⟩

/-- Settles O19: the integer operations by their arithmetic, the arrival by the fields of its word. -/
theorem atomicAndSyncWordValues : Obligations.AtomicAndSyncWordValues := by
  refine ⟨fun ty m old b c integer hold hb hc => ?atomics, fun t c g p n ht hc hg hp hn => ?arrivals⟩
  case atomics =>
    have operand : b % 2 ^ tyBits ty = b := Nat.mod_eq_of_lt hb
    have compared : c % 2 ^ tyBits ty = c := Nat.mod_eq_of_lt hc
    exact ⟨amoNew_add hold hb, by simp [amoNew, operand], by simp [amoNew, operand], by simp [amoNew, operand],
      amoNew_min hold hb, amoNew_max hold hb, by simp [amoNew, operand], by simp [amoNew, operand, compared]⟩
  case arrivals =>
    obtain ⟨target, count, gen, phase⟩ := syncWord_fields ht hc hg hp
    have flips : (p + 1) % 2 = 1 - p := by omega
    exact ⟨swArrive_counts target count gen phase n, fun zero => by rw [← flips]; exact swArrive_target_zero target gen phase n zero,
      fun b hb => swAfter_iff hg hb⟩

end Sys2Proof.Machine
end

section
/-!
SUPPORT. Vector accesses (R166 to R169): the addresses of their lanes, the fault that is reported of several, and how they end.
-/
namespace Sys2Proof.Machine

/-! Lane addresses (R167). -/

theorem wadd_ofInt (x n : Int) : wadd (BitVec.ofInt 64 x) n = BitVec.ofInt 64 (x + n) := by
  rw [wadd, BitVec.ofInt_add, BitVec.ofInt_natCast, BitVec.ofNat_toNat, BitVec.setWidth_eq, BitVec.ofInt_add]

theorem signed_lane {v : Vec} {w : Nat} (i : Nat) (hw : w ≠ 0) :
    signed (lane v w i) w = if 2 ^ (w - 1) ≤ lane v w i then (lane v w i : Int) - (2 ^ w : Nat) else lane v w i := by
  have fits : lane v w i % 2 ^ w = lane v w i := Nat.mod_mod _ _
  rw [signed, if_neg hw, fits]
  by_cases negative : 2 ^ (w - 1) ≤ lane v w i
  · rw [if_neg (Nat.not_lt.2 negative), if_pos negative]
  · rw [if_pos (Nat.not_le.1 negative), if_neg negative]

theorem vAddr_eq_laneAddress (form : Nat) (f : Fields) (s : State) (i : Nat) :
    vAddr s.cur form f (s.gr f.a) (s.gr f.b) (s.vr f.b) i = laneAddress form f s i := by
  have word (x : Word) : BitVec.ofInt 64 x.toNat = x := by rw [BitVec.ofInt_natCast, BitVec.ofNat_toNat, BitVec.setWidth_eq]
  have base : (if f.o.getLsbD 1 then BitVec.ofNat 64 (bufAddr s.cur (fld f.imm 8 2)) + s.gr f.a else s.gr f.a) =
      BitVec.ofInt 64 ((s.gr f.a).toNat + if f.o.getLsbD 1 then bufAddr s.cur (fld f.imm 8 2) else 0 : Nat) := by
    rw [BitVec.ofInt_natCast, BitVec.ofNat_add, BitVec.ofNat_toNat, BitVec.setWidth_eq, BitVec.add_comm]
    split
    · rfl
    · exact (BitVec.add_zero _).symm
  unfold vAddr laneAddress
  dsimp only
  rw [base]
  match form with
  | 0 =>
    have offset (x : Int) : BitVec.ofInt 64 x + s.gr f.b = BitVec.ofInt 64 (x + (s.gr f.b).toNat) := by rw [BitVec.ofInt_add, word]
    rw [offset, wadd_ofInt, Int.add_assoc]
    rfl
  | 1 => exact wadd_ofInt _ _
  | _ + 2 =>
    rw [signed_lane i (tyBits_ne_zero _)]
    exact wadd_ofInt _ _

/-- The active lanes of an access and their addresses. -/
def State.activeAddresses (s : State) (form : Nat) (f : Fields) : List (Nat × Word) :=
  ((List.range (1024 / tyBits (vTy f))).filter (fun i => (s.kr f.c).getLsbD i)).map (fun i => (i, laneAddress form f s i))

/-! Faults of several lanes (R143, R169). -/

/-- What an access meets at issue is one of the four kinds of R143. -/
theorem issueFault_code {s : State} {w : Who} {a : Word} {n align : Nat} {write : Bool} {e : Flt}
    (h : s.issueFault w a n align write = some e) : e.1 = cAlign ∨ e.1 = cWindow ∨ e.1 = cPerm ∨ e.1 = cUncorrectable := by
  unfold State.issueFault at h
  split at h
  · rename_i met
    unfold State.accessFault at met
    dsimp only at met
    cases h
    split at met
    · cases met
      exact .inl rfl
    · split at met
      · cases met
        exact .inr (.inl rfl)
      · split at met
        · cases met
          exact .inr (.inr (.inl rfl))
        · cases met
  · obtain ⟨b, -, rfl⟩ := Option.map_eq_some_iff.1 h
    exact .inr (.inr (.inr rfl))

/-- The faults of the active lanes, each with its lane's address. -/
def State.laneFaults (s : State) (ls : List (Nat × Word)) (n : Nat) (write : Bool) : List Flt :=
  ls.filterMap (fun e => (s.issueFault (s.myWho .vector) e.2 n n write).map (fun x => (x.1, e.2)))

theorem laneFaults_code {s : State} {ls : List (Nat × Word)} {n : Nat} {write : Bool} :
    ∀ e ∈ s.laneFaults ls n write, e.1 = cAlign ∨ e.1 = cWindow ∨ e.1 = cPerm ∨ e.1 = cUncorrectable := fun e he => by
  obtain ⟨l, -, met⟩ := List.mem_filterMap.1 he
  obtain ⟨x, meets, rfl⟩ := Option.map_eq_some_iff.1 met
  exact issueFault_code (e := x) meets

/-- No lane meets a fault of kind `c`. -/
def NoneOf (fs : List Flt) (c : Nat) : Prop := fs.find? (fun e => e.1 == c) = none

/-- The lowest lane that meets kind `c` is at `a`, and no lane meets a kind before `c` in R143's order. -/
def FirstOf (fs : List Flt) (c : Nat) (a : Word) : Prop :=
  fs.find? (fun e => e.1 == c) = some (c, a) ∧
    (c = cAlign ∨ (NoneOf fs cAlign ∧ (c = cWindow ∨ (NoneOf fs cWindow ∧ (c = cPerm ∨ (NoneOf fs cPerm ∧ c = cUncorrectable))))))

theorem firstKind_of_first {fs : List Flt} (known : ∀ e ∈ fs, e.1 = cAlign ∨ e.1 = cWindow ∨ e.1 = cPerm ∨ e.1 = cUncorrectable)
    {c : Nat} {a : Word} (h : FirstOf fs c a) : firstKind fs = some (c, a) := by
  obtain ⟨found, rfl | ⟨noAlign, rfl | ⟨noWindow, rfl | ⟨noPerm, rfl⟩⟩⟩⟩ := h
  · simp [firstKind, found]
  · simp only [NoneOf] at noAlign
    simp [firstKind, found, noAlign]
  · simp only [NoneOf] at noAlign noWindow
    simp [firstKind, found, noAlign, noWindow]
  · simp only [NoneOf] at noAlign noWindow noPerm
    have rest : fs.head? = fs.find? (fun e => e.1 == cUncorrectable) := by
      cases fs with
      | nil => rfl
      | cons e l =>
        have own : e.1 = cUncorrectable := by
          simp only [List.find?_eq_none, beq_iff_eq] at noAlign noWindow noPerm
          have member := List.mem_cons_self (a := e) (l := l)
          simpa [noAlign e member, noWindow e member, noPerm e member] using known e member
        simp [own]
    simp only [firstKind, List.findSome?_cons, List.findSome?_nil, noAlign, noWindow, noPerm, Option.none_or, rest, found]

section
variable {i : Instr} {sh : Shape} {s : State} (h : Issues i sh s) (form : Nat) (f : Fields)
include h

theorem Issues.vOp (role : Nat) (x : BitVec 6) : (s.begun sh).vOp role x = (s.begun sh).vr x := by
  rw [begun_vOp s sh h.fresh, State.vr, State.vr, begun_reg, begun_cur, begun_cx]

theorem Issues.kOp (role : Nat) (x : BitVec 6) : (s.begun sh).kOp role x = (s.begun sh).kr x := by
  rw [begun_kOp s sh h.fresh, State.kr, State.kr, begun_reg, begun_cur, begun_cx]

theorem Issues.vLanes : (s.begun sh).vLanes form f = (s.begun sh).activeAddresses form f := by
  rw [State.vLanes, h.gOp, h.gOp, h.vOp, h.kOp]
  simp only [vAddr_eq_laneAddress]
  rfl

end

/-! How they end. -/

/-- Requests of the active lanes, in lane order, each when R168 says. -/
def State.sendsLanes (s : State) (op form : Nat) (f : Fields) (r : Nat × Word → MemReq) (t : State) : State :=
  (((s.activeAddresses form f).map r).zip (laneDelay s.cur form (s.activeAddresses form f) 0 [])).foldl (fun t e => t.sendReq op e.1 e.2) t

theorem keepsStrand_sendsLanes (s : State) (op form : Nat) (f : Fields) (r : Nat × Word → MemReq) (t : State) :
    KeepsStrand t (s.sendsLanes op form f r t) := KeepsStrand.foldl (fun _ _ => keepsStrand_sendReq ..) _ t

/-- The bytes of an element (R166). -/
abbrev laneBytes (f : Fields) : Nat := tyBits (vTy f) / 8

section
variable {i : Instr} {form : Nat} {f : Fields}

section
variable (hx : ∀ s, exec i s = issue i s (vLoad i form f))
include hx

theorem does_vectorLoad : Does i (fun s => s.laneFaults (s.activeAddresses form f) (laneBytes f) false = []) (fun s sh =>
    s.sendsLanes s.me.nextId form f (fun e => { s.reqOf .load e.2 (laneBytes f) with lane := e.1, vec := true, lease := vLease f })
      (s.detach i sh (fun d => { d with
        left := (s.activeAddresses form f).length, st := if s.activeAddresses form f = [] then .done else .pending, due := s.cycles + 12 }))) :=
  does_kept hx (fun sh s h clear => by
    have sound : (s.begun sh).lanesFault ((s.begun sh).activeAddresses form f) (laneBytes f) false = none := congrArg firstKind clear
    rw [vLoad, h.vLanes, sound]
    simp only [List.isEmpty_iff]
    rfl) fun _ s => (keepsStrand_detach ..).trans (keepsStrand_sendsLanes ..)

theorem faults_vectorLoad (c : Nat) (a : Word) :
    Faults i (fun s => FirstOf (s.laneFaults (s.activeAddresses form f) (laneBytes f) false) c a) c (fun _ => a) :=
  faults_of hx fun sh s h first => by
    have met : (s.begun sh).lanesFault ((s.begun sh).activeAddresses form f) (laneBytes f) false = some (c, a) :=
      firstKind_of_first laneFaults_code first
    rw [vLoad, h.vLanes, met]
    rfl

end

section
variable (hx : ∀ s, exec i s = issue i s (vStore i form f))
include hx

theorem does_vectorStore : Does i (fun s => s.laneFaults (s.activeAddresses form f) (laneBytes f) true = [] ∧ s.me.posted.length < 32)
    (fun s sh => s.sendsLanes s.me.nextId form f (fun e => { s.reqOf .store e.2 (laneBytes f) with
        lane := e.1, vec := true, lease := vLease f, posted := true, data := BitVec.ofNat 64 (lane (s.vr f.d) (tyBits (vTy f)) e.1) })
      (s.postOp i sh (s.activeAddresses form f).length ((s.activeAddresses form f).all (fun e => decide (e.2.toNat < 2 ^ 52))))) :=
  does_kept hx (fun sh s h ⟨clear, room⟩ => by
    have sound : (s.begun sh).lanesFault ((s.begun sh).activeAddresses form f) (laneBytes f) true = none := congrArg firstKind clear
    simp only [vStore, h.vLanes, sound, h.vOp, if_neg (Nat.not_le.2 room)]
    rfl) fun _ s => (keepsStrand_postOp ..).trans (keepsStrand_sendsLanes ..)

theorem faults_vectorStore (c : Nat) (a : Word) :
    Faults i (fun s => FirstOf (s.laneFaults (s.activeAddresses form f) (laneBytes f) true) c a) c (fun _ => a) :=
  faults_of hx fun sh s h first => by
    have met : (s.begun sh).lanesFault ((s.begun sh).activeAddresses form f) (laneBytes f) true = some (c, a) :=
      firstKind_of_first laneFaults_code first
    rw [vStore, h.vLanes, met]
    rfl

theorem awaits_vectorStore :
    Awaits i (fun s => s.laneFaults (s.activeAddresses form f) (laneBytes f) true = [] ∧ 32 ≤ s.me.posted.length) (fun _ => .posted) :=
  awaits_of hx fun sh s h ⟨clear, full⟩ => by
    have sound : (s.begun sh).lanesFault ((s.begun sh).activeAddresses form f) (laneBytes f) true = none := congrArg firstKind clear
    simp only [vStore, h.vLanes, sound, if_pos full]

end
end

/-- Settles O37: a vector access is `vLoad` or `vStore` of its form of address. -/
theorem vectorMemoryAccesses : Obligations.VectorMemoryAccesses := by
  intro f
  have load {i : Instr} {form : Nat} (hx : ∀ s, exec i s = issue i s (vLoad i form f)) := And.intro (does_vectorLoad hx) (faults_vectorLoad hx)
  have store {i : Instr} {form : Nat} (hx : ∀ s, exec i s = issue i s (vStore i form f)) :=
    And.intro (does_vectorStore hx) (And.intro (faults_vectorStore hx) (awaits_vectorStore hx))
  exact ⟨load fun _ => rfl, load fun _ => rfl, load fun _ => rfl, store fun _ => rfl, store fun _ => rfl, store fun _ => rfl⟩

end Sys2Proof.Machine
end

section
/-!
SUPPORT. Requests at their homes (R134, R147, R356): what holds one back, and what it comes to at its turn.
-/
namespace Sys2Proof.Machine

section
variable {s : State} {k c x op : Nat} {p : Pkt} {r : MemReq}

/-- What holds the request of packet `p` back at its home (R216, R225, R269, R361). -/
def State.HoldsBack (s : State) (k : Nat) (p : Pkt) (c x op : Nat) (r : MemReq) : Prop :=
  s.ownTurn k = false ∨ ((r.kind.writes = true ∨ r.kind = .reserve) ∧ s.heldBy c r.snap (s.watched c r) = true) ∨
    (r.kind = .ppub ∧ (s.ctx c x).before op = true) ∨ (r.kind ≠ .reserve ∧ s.tstBars c x op p.dst = true)

/-- The performance of the request of packet `p`, once the records that it has to keep are kept: `u` is the state then (R134, R147). -/
def State.served (u : State) (k : Nat) (p : Pkt) (c x op : Nat) (r : MemReq) : Option State :=
  match u.perform c x p.sentAt .strand r with
  | (t, .ok v fl) => some (((u.pointerUsed t k).dropPkt k).answer c x op r v fl)
  | (t, .flt code a) => some (((u.pointerUsed t k).dropPkt k).answerFault c x op r code a (u.faultAt c p.sentAt r code))
  | (t, .wait loc) =>
    let t : State := t.dropPkt k
    let t : State := { t with waiters := t.waiters ++ [{ loc, kind := r.kind.waitKind, core := c, ctx := x, op, r }] }
    some (t.send p.dst p.src (t.cycles + t.backTime (r.who c .strand) r.ea.toNat false) (.parkNotice c x op))
  | (t, .hold) => if t = u then none else some t

/-- What a request that has waited for its translation and its line comes to at its turn. -/
def State.atItsTurn (s : State) (k : Nat) (p : Pkt) (c x op : Nat) (r : MemReq) : Option State :=
  match s.ownedBefore k c r with
  | some j => some (s.performOwned j)
  | none =>
    match s.recordKept r p.sentAt with
    | none => none
    | some u => if nth u.net k ≠ nth s.net k then some u else u.served k p c x op r

variable (hp : nth s.net k = some p) (hb : p.body = .mem c x op r)
include hp hb

theorem homeStep_eq : s.homeStep k =
    if !s.performable k || !s.ownTurn k || ((r.kind.writes || r.kind == .reserve) && s.heldBy c r.snap (s.watched c r)) then none
    else if r.kind = .ppub && (s.ctx c x).before op then none
    else if r.kind = .reserve then some (s.reserveStep k c x op)
    else if s.tstBars c x op p.dst then none
    else if !p.walked && decide (0 < s.awaits c r) then some (s.walkTo k c r)
    else s.atItsTurn k p c x op r := by
  cases p
  cases hb
  unfold State.homeStep State.atItsTurn State.served
  rw [hp]
  dsimp only
  cases s.ownedBefore k c r <;> rfl

/-- A request that is held back changes nothing. -/
theorem homeStep_held (held : s.HoldsBack k p c x op r) : s.homeStep k = none := by
  rw [homeStep_eq hp hb]
  rcases held with turn | ⟨kind, unread⟩ | ⟨kind, before⟩ | ⟨kind, bars⟩
  · rw [turn, Bool.not_false, Bool.or_true, Bool.true_or]
    exact if_pos rfl
  · have hit : (r.kind.writes || r.kind == .reserve) = true := by simpa using kind
    rw [hit, unread, Bool.and_self, Bool.or_true]
    exact if_pos rfl
  · split
    · rfl
    · exact if_pos (by simp [kind, before])
  · rw [if_neg kind, bars]
    split
    · rfl
    · split <;> rfl

variable (ready : s.performable k = true) (free : ¬s.HoldsBack k p c x op r)
include ready free

theorem homeStep_free : s.homeStep k =
    if r.kind = .reserve then some (s.reserveStep k c x op)
    else if !p.walked && decide (0 < s.awaits c r) then some (s.walkTo k c r)
    else s.atItsTurn k p c x op r := by
  obtain ⟨turn, read, published, clear⟩ : _ ∧ _ ∧ _ ∧ _ := by simpa only [State.HoldsBack, not_or] using free
  have first : ¬(!s.performable k || !s.ownTurn k || ((r.kind.writes || r.kind == .reserve) && s.heldBy c r.snap (s.watched c r))) = true := by
    simpa [ready, turn] using read
  have second : ¬(r.kind = .ppub && (s.ctx c x).before op) = true := by simpa using published
  rw [homeStep_eq hp hb, if_neg first, if_neg second]
  by_cases reserve : r.kind = .reserve
  · rw [if_pos reserve, if_pos reserve]
  · rw [if_neg reserve, if_neg reserve, if_neg fun bars => clear ⟨reserve, bars⟩]

theorem homeStep_reserve (kind : r.kind = .reserve) : s.homeStep k = some (s.reserveStep k c x op) := by
  rw [homeStep_free hp hb ready free, if_pos kind]

variable (kind : r.kind ≠ .reserve)
include kind

theorem homeStep_walks (walked : p.walked = false) (awaits : 0 < s.awaits c r) : s.homeStep k = some (s.walkTo k c r) := by
  rw [homeStep_free hp hb ready free, if_neg kind, walked, decide_eq_true awaits]
  rfl

theorem homeStep_turn (here : p.walked = true ∨ s.awaits c r = 0) : s.homeStep k = s.atItsTurn k p c x op r := by
  have waited : ¬(!p.walked && decide (0 < s.awaits c r)) = true := by
    rcases here with walked | none_ <;> simp [*]
  rw [homeStep_free hp hb ready free, if_neg kind, if_neg waited]

end

section
variable {s : State} (now : s.ev.flag = false)
include now

/-- The event performs what the home's step says. -/
theorem exec_memoryRequest : exec .memoryRequestAtHome s = .next ((s.homeStep s.ev.k).getD s) := by
  change execMemoryRequestAtHome s = _
  rw [execMemoryRequestAtHome, now]
  rfl

theorem exec_memoryRequest_some {t : State} (h : s.homeStep s.ev.k = some t) : exec .memoryRequestAtHome s = .next t := by
  rw [exec_memoryRequest now, h, Option.getD_some]

theorem exec_memoryRequest_none (h : s.homeStep s.ev.k = none) : exec .memoryRequestAtHome s = .next s := by
  rw [exec_memoryRequest now, h, Option.getD_none]

end

/-- Settles O16: each clause is one branch of the home's step. -/
theorem requestsArePerformedAtTheirHome : Obligations.RequestsArePerformedAtTheirHome := by
  intro s p c x op r ⟨hp, ready⟩ hb now held turn here
  have turns (h : here) : s.homeStep s.ev.k = s.atItsTurn s.ev.k p c x op r := homeStep_turn hp hb ready h.1.1 h.1.2 h.2
  refine ⟨fun h => exec_memoryRequest_none now (homeStep_held hp hb h),
    fun free kind => exec_memoryRequest_some now (homeStep_reserve hp hb ready free kind),
    fun h walked awaits => exec_memoryRequest_some now (homeStep_walks hp hb ready h.1 h.2 walked awaits),
    fun h j owned => exec_memoryRequest_some now ?owned, fun h unowned unkept => exec_memoryRequest_none now ?unkept,
    fun h unowned u kept same => ?served⟩
  case owned => rw [turns h, State.atItsTurn, owned]
  case unkept => rw [turns h, State.atItsTurn, unowned, unkept]
  case served =>
    have performs : s.homeStep s.ev.k = u.served s.ev.k p c x op r := by
      rw [turns h, State.atItsTurn, unowned, kept]
      exact if_neg fun other => other (same.trans hp.symm)
    refine ⟨fun t v fl ok => exec_memoryRequest_some now ?_, fun t code a fault => exec_memoryRequest_some now ?_,
      fun t loc wait => exec_memoryRequest_some now ?_, fun t hold => ?_⟩
    · rw [performs, State.served, ok]
    · rw [performs, State.served, fault]
    · rw [performs, State.served, wait]
      rfl
    · rw [exec_memoryRequest now, performs, State.served, hold]
      dsimp only
      split <;> rfl

end Sys2Proof.Machine
end

section
/-!
SUPPORT. Events of a context (R140, R328, R344, R346, R368): what releases it from a wait, and what its core and its lines come to.
-/
namespace Sys2Proof.Machine

variable {s : State} {c x : Nat}

/-- A context in a wait that goes on, with no fault reported, takes what releases it (R328, R346). -/
theorem release_waiting {why : WaitWhy} {n : Nat} (waits : (s.ctx c x).st = .waiting why n) (apart : why.suspends = false)
    (on : s.waitOver c x why = false) (sound : (s.ctx c x).faults = []) (reason : Nat) (take : State → State) :
    s.release c x reason take = some (take (s.present c x).1) := by
  have goes : ¬(why.suspends || s.waitOver c x why || !(s.ctx c x).faults.isEmpty) = true := by simp [apart, on, sound]
  unfold State.release
  rw [waits]
  split
  case h_1 offered =>
    cases offered
    cases apart
  case h_2 atHome =>
    cases atHome
    cases apart
  case h_3 waiting =>
    cases waiting
    exact if_neg goes
  case h_4 parked => cases parked
  case h_5 other _ => exact absurd rfl (other why n)

theorem ipiStep_due (due : ({ s with cur := c, cx := x } : State).ipiDue = true) : s.ipiStep c x = s.release c x 2 State.takeIpi := if_pos due

/-- The fallback releases a victim that was in its wait when the request was made (R346). -/
theorem overdueStep_victim {why : WaitWhy} {n : Nat} (waits : (s.ctx c x).st = .waiting why n) (named : (s.core c).preempt = some x)
    (before : n ≤ (s.core c).preemptAt) : s.overdueStep c x = s.release c x 1 (fun s => s.takeOverdue 0) := by
  have since : ((s.ctx c x).st.since.map (fun t => decide (t ≤ (s.core c).preemptAt))).getD false = true := by
    rw [waits]
    exact decide_eq_true before
  exact if_pos ⟨named, since⟩

theorem overdueStep_later {why : WaitWhy} {n : Nat} (waits : (s.ctx c x).st = .waiting why n) (after : (s.core c).preemptAt < n) :
    s.overdueStep c x = none := by
  have since : ((s.ctx c x).st.since.map (fun t => decide (t ≤ (s.core c).preemptAt))).getD false = false := by
    rw [waits]
    exact decide_eq_false (Nat.not_le.2 after)
  refine if_neg fun victim => ?_
  rw [since] at victim
  exact Bool.false_ne_true victim.2

theorem overdueStep_unnamed (other : (s.core c).preempt ≠ some x) : s.overdueStep c x = none := if_neg fun victim => other victim.1

/-- A core without a Free context, whose packets or entries wait, asks for the context of its victim (R344). -/
theorem preemptStep_victim {y : Nat} (quiet : (s.core c).preempt = none) (full : s.freeContext c = none)
    (work : (s.core c).sorus ≠ [] ∨ (s.core c).deque ≠ [])
    (victim : s.victim c (((s.core c).sorus.map (·.mt.prio) ++ (s.core c).deque.map (·.mt.prio)).foldl max 0) = some y) :
    s.preemptStep c = some (s.updCore c (fun k => { k with preempt := some y, preemptAt := s.cycles })) := by
  have asks : ¬((s.core c).preempt.isSome || (s.freeContext c).isSome || ((s.core c).sorus.isEmpty && (s.core c).deque.isEmpty)) = true := by
    simpa [quiet, full, imp_iff_not_or] using work
  unfold State.preemptStep
  dsimp only
  rw [if_neg asks, victim, Option.map_some]

theorem trapStep_reported (ready : (s.ctx c x).st = .ready) (idle : (s.ctx c x).busyTill ≤ s.cycles) (on : (s.ctx c x).ending = false)
    (reported : (s.ctx c x).faults ≠ []) : s.trapStep c x = some ({ s with cur := c, cx := x } : State).trapEntry :=
  if_pos (by simp [ready, idle, on, reported])

/-- A lease that has run out is marked (R140). -/
theorem SLine.checked_over {l : SLine} {now : BitVec 8} (loose : l.pinned = false) (ended : leaseOver now l.expiry = true) :
    l.checked now = { l with expired := true } := if_pos (by rw [loose, ended]; rfl)

theorem L1Line.checked_over {l : L1Line} {now : BitVec 8} (loose : l.pinned = false) (ended : leaseOver now l.expiry = true) :
    l.checked now = { l with expired := true } := if_pos (by rw [loose, ended]; rfl)

section
variable {t : State}

theorem exec_trapEntry (h : s.trapStep s.ev.core s.ev.ctx = some t) : exec .trapEntry s = .next t := by
  change execTrapEntry s = _
  rw [execTrapEntry, h, Option.getD_some]

theorem exec_ipiDelivery (h : s.ipiStep s.ev.core s.ev.ctx = some t) : exec .ipiDelivery s = .next t := by
  change execIpiDelivery s = _
  rw [execIpiDelivery, h, Option.getD_some]

theorem exec_safepointOverdue (h : s.overdueStep s.ev.core s.ev.ctx = some t) : exec .safepointOverdue s = .next t := by
  change execSafepointOverdue s = _
  rw [execSafepointOverdue, h, Option.getD_some]

theorem exec_safepointOverdue_none (h : s.overdueStep s.ev.core s.ev.ctx = none) : exec .safepointOverdue s = .next s := by
  change execSafepointOverdue s = _
  rw [execSafepointOverdue, h, Option.getD_none]

theorem exec_preemptionRequest (h : s.preemptStep s.ev.core = some t) : exec .preemptionRequest s = .next t := by
  change execPreemptionRequest s = _
  rw [execPreemptionRequest, h, Option.getD_some]

end

theorem exec_forcedFallback (one : s.ev.group = [(c, x)]) (held : (s.ctx c x).st ≠ .free) :
    exec .rhizoidForcedFallback s = .next (s.updCtx c x (fun k => { k with forced := true })) := by
  change execRhizoidForcedFallback s = _
  rw [execRhizoidForcedFallback, one, List.foldl_cons, List.foldl_nil, if_neg held]

theorem exec_leaseCheck_slice {l : SLine} (slice : s.ev.flag = true) (line : s.slice s.ev.key = some l) :
    exec .leaseExpiryCheck s = .next (s.putSlice s.ev.key (some (l.checked s.tick8))) := by
  change execLeaseExpiryCheck s = _
  rw [execLeaseExpiryCheck, if_pos slice, line]

theorem exec_leaseCheck_l1 {l : L1Line} (near : s.ev.flag = false) (line : s.l1 s.ev.core s.ev.key = some l) :
    exec .leaseExpiryCheck s = .next (s.putL1 s.ev.core s.ev.key (some (l.checked s.tick8))) := by
  change execLeaseExpiryCheck s = _
  rw [execLeaseExpiryCheck, near, if_neg Bool.false_ne_true, line]

/-- Settles O47: each event by the step of its context, its core or its line. -/
theorem contextEvents : Obligations.ContextEvents := by
  intro s
  refine ⟨fun ready idle on reported => exec_trapEntry (trapStep_reported ready idle on reported),
    fun why ⟨⟨n, waits⟩, apart, on, sound⟩ due => exec_ipiDelivery ((ipiStep_due due).trans (release_waiting waits apart on sound ..)),
    fun why n waits apart on sound named before =>
      exec_safepointOverdue ((overdueStep_victim waits named before).trans (release_waiting waits apart on sound ..)),
    fun why n waits named after => exec_safepointOverdue_none (overdueStep_later waits after),
    fun other => exec_safepointOverdue_none (overdueStep_unnamed other),
    fun y quiet full work victim => exec_preemptionRequest (preemptStep_victim quiet full work victim),
    fun d y one held => exec_forcedFallback one held, fun l slice line loose ended => ?slice, fun l near line loose ended => ?l1⟩
  case slice => rw [exec_leaseCheck_slice slice line, SLine.checked_over (now := s.tick8) loose ended]
  case l1 => rw [exec_leaseCheck_l1 near line, L1Line.checked_over (now := s.tick8) loose ended]

end Sys2Proof.Machine
end

section
/-!
SUPPORT. Memory stays canonical (R141). The canonical form of every memory is kept by writes of registers, by accesses to memory and
by what the caches do with their lines.
-/
namespace Sys2Proof.Machine

variable {s t : State}

/-- Every memory of the state is in canonical form. -/
def Canonical (s : State) : Prop := s.MemOk

theorem Mem.wf_allFull {m : Mem} (h : m.wf) (a n : Nat) : (m.allFull a n).wf := ⟨h.1, mwf_filter true _ h.2.1, h.2.2⟩

theorem Canonical.phys (h : Canonical s) (tgt : Nat) : (s.phys tgt).wf := by
  obtain ⟨-, hd, hf, hh⟩ := h
  unfold State.phys
  split_ifs
  exacts [hd, hf, hh]

/-- A step that keeps the canonical form does so as often as it is taken. -/
theorem Canonical.foldl {α : Type} {g : State → α → State} (hg : ∀ s x, Canonical s → Canonical (g s x)) (l : List α) :
    ∀ {s : State}, Canonical s → Canonical (l.foldl g s) := by
  induction l with
  | nil => exact fun h => h
  | cons x l ih => exact fun h => ih (hg _ _ h)

/-- The same for a step that carries a result beside the state. -/
theorem Canonical.foldl_fst {α β : Type} {g : State × β → α → State × β} (hg : ∀ p x, Canonical p.1 → Canonical (g p x).1)
    (l : List α) :
    ∀ {p : State × β}, Canonical p.1 → Canonical (l.foldl g p).1 := by
  induction l with
  | nil => exact fun h => h
  | cons x l ih => exact fun h => ih (hg _ _ h)

theorem Canonical.updCore (hs : Canonical s) (c : Nat) (f : Core → Core) : Canonical (s.updCore c f) := hs

theorem Canonical.setCtx (hs : Canonical s) (c x : Nat) (k : Ctx) : Canonical (s.setCtx c x k) := hs

theorem Canonical.updCtx (hs : Canonical s) (c x : Nat) (f : Ctx → Ctx) : Canonical (s.updCtx c x f) := hs

theorem Canonical.updMe (hs : Canonical s) (f : Ctx → Ctx) : Canonical (s.updMe f) := hs

theorem Canonical.updMyCore (hs : Canonical s) (f : Core → Core) : Canonical (s.updMyCore f) := hs

theorem Canonical.updCluster (hs : Canonical s) (n : Nat) (f : Cluster → Cluster) : Canonical (s.updCluster n f) := hs

theorem Canonical.updPart (hs : Canonical s) (p : Nat) (f : Part → Part) : Canonical (s.updPart p f) := hs

theorem Canonical.putReg (hs : Canonical s) (c x code : Nat) (v : Vec) : Canonical (s.putReg c x code v) := by
  unfold State.putReg
  grind [Canonical.updCore, Canonical.updCtx]

theorem Canonical.setFull (hs : Canonical s) (c x code : Nat) (b : Bool) : Canonical (s.setFull c x code b) := by
  unfold State.setFull
  grind [Canonical.updCore, Canonical.updCtx]

theorem Canonical.later (hs : Canonical s) (c : Nat) (l : Late) : Canonical (s.later c l) := hs

theorem Canonical.fill (hs : Canonical s) (c x code : Nat) (v : Vec) : Canonical (s.fill c x code v) := by
  unfold State.fill
  grind [Canonical.later, Canonical.putReg, Canonical.setFull]

theorem Canonical.retireReg (hs : Canonical s) (c x code : Nat) (v : Vec) : Canonical (s.retireReg c x code v) := by
  unfold State.retireReg
  grind [Canonical.later, Canonical.fill, Canonical.updCore]

theorem Canonical.retireClear (hs : Canonical s) (c x code : Nat) (claim : Bool) : Canonical (s.retireClear c x code claim) := by
  unfold State.retireClear
  grind [Canonical.later]

theorem Canonical.srWrite (hs : Canonical s) (c x n : Nat) (v : Word) : Canonical (s.srWrite c x n v) := by
  unfold State.srWrite
  grind [Canonical.updCore, Canonical.updCtx]

theorem Canonical.addFlags (hs : Canonical s) (c x : Nat) (fl : Flags) : Canonical (s.addFlags c x fl) := hs

theorem Canonical.flushFlags (hs : Canonical s) (c x : Nat) : Canonical (s.flushFlags c x) := hs

theorem Canonical.setPhys (h : Canonical s) (tgt : Nat) {m : Mem} (hm : m.wf) : Canonical (s.setPhys tgt m) := by
  obtain ⟨hw, hd, hf, hh⟩ := h
  unfold State.setPhys
  split_ifs
  exacts [⟨hw, hm, hf, hh⟩, ⟨hw, hd, hm, hh⟩, ⟨hw, hd, hf, hm⟩]

theorem Canonical.newPage (h : Canonical s) (pid asid va : Nat) (lf : Leaf) : Canonical (s.newPage pid asid va lf) := by
  unfold State.newPage
  grind [Canonical.setPhys, Canonical.phys, Mem.wf_allFull, Canonical]

theorem Canonical.noPage (hs : Canonical s) (pid asid va : Nat) : Canonical (s.noPage pid asid va) := hs

theorem Canonical.leaf (hs : Canonical s) (pid asid va : Nat) : Canonical (s.leaf pid asid va).1 := by
  unfold State.leaf
  grind [Canonical.noPage, Canonical.newPage, Canonical]

theorem Canonical.setAD (h : Canonical s) (pte : Nat) (d : Bool) : Canonical (s.setAD pte d) := by
  unfold State.setAD
  grind [Mem.wf_write, Canonical]

theorem Canonical.translate (hs : Canonical s) (pid asid va : Nat) (acc : AccKind) (user : Bool) :
    Canonical (s.translate pid asid va acc user).1 := by
  unfold State.translate
  grind [Canonical.leaf, Canonical.setAD]

theorem Canonical.primary (hs : Canonical s) (pid : Nat) (lf : Leaf) : Canonical (s.primary pid lf).1 := by
  unfold State.primary
  grind [Canonical.leaf]

theorem Canonical.redirect (h : Canonical s) (pid asid va : Nat) (acc : AccKind) (user : Bool) :
    Canonical (s.redirect pid asid va acc user).1 := by
  unfold State.redirect
  extract_lets _ _ _ go
  have hgo : ∀ s r, Canonical s → Canonical (go s r).1 := by
    intro s r h
    simp only [go]
    grind [Canonical.setAD, Canonical]
  clear_value go
  grind [Canonical.leaf, Canonical.primary, Canonical]

theorem Canonical.putSlice (hs : Canonical s) (key : Nat) (l : Option SLine) : Canonical (s.putSlice key l) := hs

theorem Canonical.putL1 (hs : Canonical s) (c key : Nat) (l : Option L1Line) : Canonical (s.putL1 c key l) := hs

theorem Canonical.post (hs : Canonical s) (pid : Nat) (e : HostEvt) : Canonical (s.post pid e) := hs

theorem Canonical.shed (hs : Canonical s) (key c : Nat) : Canonical (s.shed key c) := by
  unfold State.shed
  grind [Canonical.putL1, Canonical.post]

theorem Canonical.shedOthers (h : Canonical s) (key c : Nat) : Canonical (s.shedOthers key c) :=
  Canonical.foldl (fun _ _ h => by split; exacts [h, h.shed _ _]) _ h

theorem Canonical.recall (h : Canonical s) (key : Nat) : Canonical (s.recall key) := by
  unfold State.recall
  grind [Canonical.shedOthers, Canonical.foldl, Canonical.putL1, Canonical.putSlice]

theorem Canonical.toMemory (h : Canonical s) (key : Nat) (sl : SLine) : Canonical (s.toMemory key sl) := by
  unfold State.toMemory
  have ht := h.translate (keyPid key) (keyAsid key) (keyVa key) .writeBack false
  split_ifs
  · exact h
  · exact h.post _ _
  · split
    · rename_i e
      rw [e] at ht
      exact Canonical.post ht _ _
    · rename_i e
      rw [e] at ht
      refine Canonical.setPhys ht _ (Mem.wf_foldl _ _ (fun _ _ h => by split; exacts [Mem.wf_setBad h _ _, h]) ?_)
      split
      · exact Mem.wf_write (ht.phys _) _ _ _
      · exact Mem.wf_foldl _ _ (fun _ _ h => by split; exacts [h, Mem.wf_setFull h _ _]) (Mem.wf_write (ht.phys _) _ _ _)

theorem Canonical.evict (hs : Canonical s) (key : Nat) : Canonical (s.evict key) := by
  unfold State.evict
  grind [Canonical.recall, Canonical.toMemory, Canonical.putSlice]

theorem Canonical.sliceRoom (hs : Canonical s) (key : Nat) : Canonical (s.sliceRoom key) := by
  unfold State.sliceRoom
  grind [Canonical.evict]

theorem Canonical.settleLine (hs : Canonical s) (key lease : Nat) : Canonical (s.settleLine key lease) := by
  unfold State.settleLine
  grind [Canonical.sliceRoom]

theorem Canonical.bringLine (hs : Canonical s) (pid asid va : Nat) (acc : AccKind) (user : Bool) (lease : Nat) :
    Canonical (s.bringLine pid asid va acc user lease).1 := by
  unfold State.bringLine
  grind [Canonical.settleLine, Canonical.putSlice, Canonical.translate, Canonical.sliceRoom]

theorem Canonical.letPass (hs : Canonical s) (key : Nat) : Canonical (s.letPass key) := by
  unfold State.letPass
  grind [Canonical.evict]

theorem Canonical.leaseSweep (hs : Canonical s) : Canonical s.leaseSweep := by
  unfold State.leaseSweep
  grind [Canonical]

theorem Canonical.mergeHome (hs : Canonical s) (key : Nat) (dirty : BitVec 64) : Canonical (s.mergeHome key dirty) := by
  unfold State.mergeHome
  grind [Canonical.bringLine, Canonical.post]

theorem Canonical.l1Drop (hs : Canonical s) (c key : Nat) : Canonical (s.l1Drop c key) := by
  unfold State.l1Drop
  grind [Canonical.shed, Canonical.putL1, Canonical.mergeHome, Canonical.putSlice]

theorem Canonical.l1Clean (hs : Canonical s) (c key : Nat) : Canonical (s.l1Clean c key) := by
  unfold State.l1Clean
  grind [Canonical.shed, Canonical.mergeHome, Canonical.putL1, Canonical.putSlice]

theorem Canonical.l1Put (hs : Canonical s) (c key lease : Nat) (l : L1Line) (old : Option L1Line) :
    Canonical (s.l1Put c key lease l old) := by
  unfold State.l1Put
  grind [Canonical.l1Drop, Canonical.putL1]

theorem Canonical.l1Alloc (hs : Canonical s) (c key lease : Nat) (l : L1Line) : Canonical (s.l1Alloc c key lease l) := by
  unfold State.l1Alloc
  grind [Canonical.l1Put]

theorem Canonical.l1Touch (hs : Canonical s) (c key lease : Nat) : Canonical (s.l1Touch c key lease) := by
  unfold State.l1Touch
  grind [Canonical.putL1]

theorem Canonical.mergeP (hs : Canonical s) (c key lease : Nat) : Canonical (s.mergeP c key lease) := by
  unfold State.mergeP
  grind [Canonical.recall, Canonical.putSlice, Canonical.l1Put]

theorem Canonical.extend (hs : Canonical s) (c key : Nat) (mask : BitVec 64) (lease : Nat) :
    Canonical (s.extend c key mask lease) := by
  unfold State.extend
  grind [Canonical.putL1, Canonical.mergeP]

theorem Canonical.readMiss (hs : Canonical s) (c key lease : Nat) : Canonical (s.readMiss c key lease) := by
  unfold State.readMiss
  grind [Canonical.putSlice, Canonical.putL1, Canonical.l1Alloc, Canonical.mergeP]

theorem Canonical.ownLine (h : Canonical s) (c key : Nat) (mask : BitVec 64) (lease : Nat) :
    Canonical (s.ownLine c key mask lease) := by
  unfold State.ownLine
  split
  · exact h
  · extract_lets full toM
    have hM : ∀ s, Canonical s → Canonical (toM s) := by
      intro s h
      simp only [toM]
      grind [Canonical.shedOthers, Canonical.putSlice, Canonical.foldl, Canonical.putL1, Canonical.l1Alloc]
    clear_value toM
    grind [Canonical.shedOthers, Canonical.putSlice, Canonical.putL1, Canonical.l1Alloc, Canonical.extend, Canonical.mergeP,
      Canonical.foldl]

theorem Canonical.putVer (hs : Canonical s) (key node : Nat) (v : Option VLine) : Canonical (s.putVer key node v) := hs

theorem Canonical.reach (hs : Canonical s) (w : Who) (va : Nat) (acc : AccKind) (lease : Nat) :
    Canonical (s.reach w va acc lease).1 := by
  unfold State.reach
  grind [Canonical.redirect, Canonical.bringLine]

theorem Canonical.letIn (hs : Canonical s) (w : Who) (va : Nat) (acc : AccKind) : Canonical (s.letIn w va acc).1 := by
  unfold State.letIn
  grind [Canonical.redirect, Canonical.translate]

theorem Canonical.winStore (hs : Canonical s) (a v n : Nat) : Canonical (s.winStore a v n) := by
  unfold State.winStore
  grind [Mem.wf_store, Canonical]

theorem Canonical.hostView (hs : Canonical s) (key c : Nat) (l : Line) : Canonical (s.hostView key c l).1 := by
  unfold State.hostView
  grind [Canonical]

theorem Canonical.hostNote (hs : Canonical s) (w : Who) (tgt key off n : Nat) (old : Line) :
    Canonical (s.hostNote w tgt key off n old) := by
  unfold State.hostNote
  grind [Canonical]

theorem Canonical.hostSeen (hs : Canonical s) (cs : List Nat) : Canonical (s.hostSeen cs) := hs

theorem Canonical.hostSeenOf (hs : Canonical s) (pid seq : Nat) : Canonical (s.hostSeenOf pid seq) := hs

theorem Canonical.hostOwn (hs : Canonical s) (c : Nat) (m : Meta) : Canonical (s.hostOwn c m) := hs

theorem Canonical.load (hs : Canonical s) (w : Who) (a n lease : Nat) (alloc : Bool) :
    Canonical (s.load w a n lease alloc).1 := by
  unfold State.load
  split
  · grind
  · dsimp only
    split
    · grind [Canonical.l1Touch]
    · have hr := hs.reach w a .read lease
      split
      · grind
      · split
        · grind
        · grind [Canonical.hostView, Canonical.letPass, Canonical.l1Alloc, Canonical.extend, Canonical.l1Touch, Canonical.readMiss]

theorem Canonical.sliceWrite (hs : Canonical s) (key off n v : Nat) : Canonical (s.sliceWrite key off n v) := by
  unfold State.sliceWrite
  grind [Canonical.recall, Canonical.putSlice]

theorem Canonical.verWrite (hs : Canonical s) (key e off n v : Nat) (ht : s.verWrite key e off n v = some t) : Canonical t := by
  unfold State.verWrite at ht
  grind [Canonical.putVer]

theorem Canonical.swStore (hs : Canonical s) (w : Who) (key off n v lease : Nat) (sl : SLine) :
    Canonical (s.swStore w key off n v lease sl) := by
  unfold State.swStore
  grind [Canonical.sliceWrite, Canonical.putL1, Canonical.l1Touch, Canonical.l1Alloc, Canonical.putSlice]

theorem Canonical.store (hs : Canonical s) (w : Who) (a n v lease : Nat) (alloc : Bool) :
    Canonical (s.store w a n v lease alloc).1 := by
  unfold State.store
  split
  · grind [Canonical.winStore]
  · dsimp only
    split
    · exact hs
    · grind [Canonical.letIn, Canonical.verWrite]
    · have hr := hs.reach w a .write lease
      split
      · grind
      · split
        · grind
        · grind [Canonical.putSlice, Canonical.swStore, Canonical.letPass, Canonical.hostNote, Canonical.sliceWrite,
            Canonical.ownLine, Canonical.putL1]

theorem Canonical.atHome (hs : Canonical s) (w : Who) (a : Nat) (acc : AccKind) (lease : Nat) :
    Canonical (s.atHome w a acc lease).1 := by
  unfold State.atHome
  grind [Canonical.reach, Canonical.l1Drop, Canonical.recall]

theorem Canonical.hWrite (hs : Canonical s) (h : HLoc) (v n : Nat) : Canonical (s.hWrite h v n) := by
  unfold State.hWrite
  grind [Canonical.putSlice, Mem.wf_write, Canonical]

theorem Canonical.hwWrite (hs : Canonical s) (w : Who) (a n v : Nat) : Canonical (s.hwWrite w a n v) := by
  unfold State.hwWrite
  have hh := hs.atHome w a .write 3
  split
  · grind
  · grind [Mem.wf_store, Canonical]
  · grind [Canonical.putSlice]

theorem Canonical.hGood (hs : Canonical s) (h : HLoc) : Canonical (s.hGood h) := by
  unfold State.hGood
  grind [Canonical.putSlice, Mem.wf_setBad, Canonical]

theorem Canonical.hSetFull (hs : Canonical s) (h : HLoc) (b : Bool) : Canonical (s.hSetFull h b) := by
  unfold State.hSetFull
  grind [Canonical.putSlice, Mem.wf_setFull, Canonical]

end Sys2Proof.Machine
end

section
/-!
SUPPORT. Memory stays canonical (R141): requests at their home, detached operations, and what a strand goes through.
-/
namespace Sys2Proof.Machine

variable {s t : State}

theorem Canonical.send (hs : Canonical s) (src dst due : Nat) (body : Msg) : Canonical (s.send src dst due body) := hs

theorem Canonical.dropPkt (hs : Canonical s) (k : Nat) : Canonical (s.dropPkt k) := hs

theorem Canonical.updDet (hs : Canonical s) (c x id : Nat) (f : DetOp → DetOp) : Canonical (s.updDet c x id f) := hs

theorem Canonical.updPost (hs : Canonical s) (c x id : Nat) (f : PostOp → PostOp) : Canonical (s.updPost c x id f) := hs

theorem Canonical.sweepPosted (hs : Canonical s) (c x : Nat) : Canonical (s.sweepPosted c x) := hs

theorem Canonical.answer (hs : Canonical s) (c x op : Nat) (r : MemReq) (v : Nat) (fl : Flags) :
    Canonical (s.answer c x op r v fl) := by
  unfold State.answer
  grind [Canonical.updPost, Canonical.sweepPosted, Canonical.updDet]

theorem Canonical.answerFault (hs : Canonical s) (c x op : Nat) (r : MemReq) (code : Nat) (a : Word) (due : Nat) :
    Canonical (s.answerFault c x op r code a due) := by
  unfold State.answerFault
  grind [Canonical.updPost, Canonical.updDet]

theorem Canonical.offer (hs : Canonical s) (core : Nat) (o : Offer) : Canonical (s.offer core o) := hs

theorem Canonical.serve (hs : Canonical s) (w : Waiter) (v : Nat) (bad : Bool) : Canonical (s.serve w v bad) := by
  unfold State.serve
  grind [Canonical.offer, Canonical.updDet, Canonical.send]

theorem canonical_servePass (h : HLoc) (l : List Waiter) : ∀ {s : State}, Canonical s → Canonical (servePass h l s).2 := by
  induction l with
  | nil => exact fun hs => hs
  | cons w l ih =>
    intro s hs
    unfold servePass
    have hk := ih hs
    grind [Canonical.serve, Canonical.hSetFull, Canonical.hGood, Canonical.hWrite]

theorem Canonical.holdLine (hs : Canonical s) (h : HLoc) : Canonical (s.holdLine h) := by
  unfold State.holdLine
  grind [Canonical.bringLine]

theorem Canonical.pass (hs : Canonical s) (h : HLoc) (loc : Nat) : Canonical (s.pass h loc) := by
  unfold State.pass
  grind [canonical_servePass, Canonical.holdLine, Canonical.letPass, Canonical]

theorem Canonical.passStore (hs : Canonical s) (w : Who) (a n : Nat) : Canonical (s.passStore w a n) := by
  unfold State.passStore
  grind [Canonical.pass, Canonical.redirect, Canonical.foldl, Canonical]

theorem Canonical.performOwned (hs : Canonical s) (k : Nat) : Canonical (s.performOwned k) := by
  unfold State.performOwned
  grind [Canonical.store, Canonical.putSlice, Canonical.post, Canonical.passStore, Canonical.dropPkt, Canonical.answer]

theorem Canonical.afterOwned (hs : Canonical s) (w : Who) (a : Nat) : Canonical (s.afterOwned w a) := by
  unfold State.afterOwned
  grind [Canonical.performOwned, Canonical.foldl, Canonical]

theorem canonical_readPieces (w : Who) (lease : Nat) (alloc : Bool) (l : List (Nat × Nat)) :
    ∀ {s : State}, Canonical s → Canonical (readPieces s w lease alloc l).1 := by
  induction l with
  | nil => exact fun hs => hs
  | cons p l ih =>
    intro s hs
    unfold readPieces
    grind [Canonical.afterOwned, Canonical.load]

theorem Canonical.readAt (hs : Canonical s) (w : Who) (a n lease : Nat) : Canonical (s.readAt w a n lease).1 := by
  unfold State.readAt
  grind [canonical_readPieces, Canonical]

theorem Canonical.clearHost (hs : Canonical s) (w : Who) (va : Nat) : Canonical (s.clearHost w va) := by
  unfold State.clearHost
  grind [Canonical.redirect, Canonical.putSlice]

theorem Canonical.takeRecord (hs : Canonical s) (e : Nat × CopyCmd) : Canonical (s.takeRecord e) := by
  unfold State.takeRecord
  grind [Canonical.readAt, Canonical.updCluster]

theorem Canonical.keepRecords (hs : Canonical s) (line now : Nat) : Canonical (s.keepRecords line now) := by
  unfold State.keepRecords
  grind [Canonical.takeRecord, Canonical.foldl, Canonical]

theorem Canonical.beforeWrite (hs : Canonical s) (w : Who) (a : Nat) : Canonical (s.beforeWrite w a) := by
  unfold State.beforeWrite
  grind [Canonical.afterOwned, Canonical.keepRecords]

theorem Canonical.unitStore (hs : Canonical s) (w : Who) (a n v lease : Nat) : Canonical (s.unitStore w a n v lease).1 := by
  unfold State.unitStore
  grind [Canonical.beforeWrite, Canonical.store, Canonical.clearHost]

theorem canonical_writePieces (w : Who) (lease : Nat) (l : List (Nat × Nat)) :
    ∀ {s : State} (v : Nat), Canonical s → Canonical (writePieces s w lease v l).1 := by
  induction l with
  | nil => exact fun _ hs => hs
  | cons p l ih =>
    intro s v hs
    unfold writePieces
    grind [Canonical.unitStore, Canonical.passStore]

theorem Canonical.writeAt (hs : Canonical s) (w : Who) (a n v lease : Nat) : Canonical (s.writeAt w a n v lease).1 := by
  unfold State.writeAt
  grind [canonical_writePieces, Canonical]

theorem Canonical.writeKeep (w : Who) (n : Nat) : ∀ {s : State} (a v : Nat), Canonical s → Canonical (s.writeKeep w a v n).1 := by
  induction n with
  | zero => exact fun _ _ hs => hs
  | succ n ih =>
    intro s a v hs
    unfold State.writeKeep
    grind [Canonical.beforeWrite, Canonical.clearHost, Canonical.atHome, Canonical.hWrite, Canonical.hGood]

theorem Canonical.readChecked (hs : Canonical s) (w : Who) (a : Word) (n align lease : Nat) :
    Canonical (s.readChecked w a n align lease).1 := by
  unfold State.readChecked
  grind [Canonical.readAt]

theorem Canonical.writeChecked (hs : Canonical s) (w : Who) (a : Word) (n align v lease : Nat) :
    Canonical (s.writeChecked w a n align v lease).1 := by
  unfold State.writeChecked
  grind [Canonical.writeAt]

theorem Canonical.swPass (hs : Canonical s) (a gen : Nat) : Canonical (s.swPass a gen) := by
  unfold State.swPass
  grind [Canonical.serve, Canonical.foldl, Canonical]

theorem Canonical.syncArrive (hs : Canonical s) {t : State} {a n gen : Nat}
    (hp : s.syncArrive a n = some (t, gen)) : Canonical t := by
  have hw : ∀ w, Canonical { s with win := s.win.write a w 16 } := fun w => ⟨Mem.wf_write hs.1 _ _ _, hs.2⟩
  unfold State.syncArrive at hp
  grind [Canonical.swPass]

theorem Canonical.prefetch (hs : Canonical s) (w : Who) (a lease : Nat) : Canonical (s.prefetch w a lease) := by
  unfold State.prefetch
  grind [Canonical.load]

theorem Canonical.askHost (hs : Canonical s) (h : HLoc) (c : Nat) (ht : s.askHost h c = some t) : Canonical t := by
  unfold State.askHost at ht
  grind [Canonical.putSlice]

theorem canonical_performFe (hs : Canonical s) (w : Who) (r : MemReq) : Canonical (performFe s w r).1 := by
  unfold performFe
  grind [Canonical.atHome, Canonical.pass, Canonical.askHost, Canonical.hSetFull, Canonical.hWrite, Canonical.hGood, Canonical]

theorem canonical_performAmo (hs : Canonical s) (w : Who) (r : MemReq) (op ty mode : Nat) :
    Canonical (performAmo s w r op ty mode).1 := by
  unfold performAmo
  grind [Canonical.atHome, Canonical.verWrite, Canonical.askHost, Canonical.hWrite, Canonical]

theorem Canonical.dropLine (hs : Canonical s) (key : Nat) : Canonical (s.dropLine key) := hs

theorem Canonical.zeroLine (hs : Canonical s) (key tgt pa : Nat) (old : Line) : Canonical (s.zeroLine key tgt pa old) :=
  hs.setPhys _ (Mem.wf_store (hs.phys tgt) _ _ _)

theorem canonical_performDisc (hs : Canonical s) (w : Who) (r : MemReq) : Canonical (performDisc s w r).1 := by
  unfold performDisc
  grind [Canonical.winStore, Canonical.passStore, Canonical.letIn, Canonical.verWrite, Canonical.askHost, Canonical.translate,
    Canonical.dropLine, Canonical.zeroLine, Canonical]

theorem canonical_performWb (hs : Canonical s) (scope : Nat → Bool) (six : Bool) (key : Nat) :
    Canonical (performWb s scope six key) := by
  unfold performWb
  grind [Canonical.l1Clean, Canonical.shedOthers, Canonical.toMemory, Canonical.putSlice, Canonical.foldl, Canonical]

theorem canonical_performInv (hs : Canonical s) (scope : Nat → Bool) (key : Nat) : Canonical (performInv s scope key) := by
  unfold performInv
  grind [Canonical.l1Drop, Canonical.updCore, Canonical.putSlice, Canonical.foldl, Canonical]

theorem Canonical.perform (hs : Canonical s) (core ctx sent : Nat) (unit : Unit4) (r : MemReq) :
    Canonical (s.perform core ctx sent unit r).1 := by
  unfold State.perform
  dsimp only
  split
  · exact hs
  · split
    case h_7 => exact Canonical.foldl (fun _ _ h => canonical_performWb h _ _ _) _ hs
    case h_8 => exact Canonical.foldl (fun _ _ h => canonical_performInv h _ _) _ hs
    case h_10 => split_ifs <;> exact hs
    all_goals grind [Canonical.load, Canonical.store, Canonical.passStore, Canonical.prefetch, Canonical.updCore,
      canonical_performAmo, canonical_performDisc, canonical_performFe, Canonical.syncArrive]

theorem Canonical.walkTo (hs : Canonical s) (k c : Nat) (r : MemReq) : Canonical (s.walkTo k c r) := by
  unfold State.walkTo
  grind [Canonical.leaf, Canonical]

theorem Canonical.fetch (hs : Canonical s) (c x : Nat) : Canonical (s.fetch c x).1 := by
  unfold State.fetch
  grind [Canonical.reach, Canonical.updCore]

theorem canonical_writeWide (w : Who) (a : Nat) (f : FaultInfo) (l : List Nat) :
    ∀ {s : State}, Canonical s → Canonical (writeWide s w a f l).1 := by
  induction l with
  | nil => exact fun hs => hs
  | cons r l ih =>
    intro s hs
    unfold writeWide
    grind [Canonical.writeAt]

theorem Canonical.markRec (hs : Canonical s) (w : Who) (a : Nat) (v : Option RecMeta) : Canonical (s.markRec w a v) := by
  unfold State.markRec
  grind [Canonical.redirect, Canonical]

theorem Canonical.writeRecord (hs : Canonical s) (f : FaultInfo) (slot : Nat) (chn : Bool) (rpc : Word) :
    Canonical (s.writeRecord f slot chn rpc).1 := by
  unfold State.writeRecord
  grind [Canonical.markRec, Canonical.writeAt, canonical_writeWide, Canonical]

theorem canonical_writeChain (d : Nat) (link : Bool) (rpc : Word) (l : List FaultInfo) :
    ∀ {s : State}, Canonical s → Canonical (writeChain s d link rpc l).1 := by
  induction l with
  | nil => exact fun hs => hs
  | cons f l ih =>
    intro s hs
    unfold writeChain
    grind [Canonical.writeRecord]

theorem canonical_readWide (w : Who) (a : Nat) (iw : IWord) (l : List Nat) :
    ∀ {s : State} (c : Caps), Canonical s → Canonical (readWide s w a iw l c).1 := by
  induction l with
  | nil => exact fun _ hs => hs
  | cons r l ih =>
    intro s c hs
    unfold readWide
    have hr := hs.readAt w (a + 128 * (if r = 0 then 3 else r - 1)) 128 3
    split
    · split <;> grind
    · exact ih c hs

theorem Canonical.readRecord (hs : Canonical s) (slot : Nat) : Canonical (s.readRecord slot).1 := by
  unfold State.readRecord
  grind [Canonical.readAt, Canonical.markRec, canonical_readWide, Canonical]

theorem Canonical.escalate (hs : Canonical s) (f : FaultInfo) : Canonical (s.escalate f) := hs

theorem Canonical.enterTrap (hs : Canonical s) (fs : List FaultInfo) (rpc : Word) (own : Bool) :
    Canonical (s.enterTrap fs rpc own) := by
  unfold State.enterTrap
  grind [Canonical.escalate, canonical_writeChain, Canonical.updMe, Canonical]

theorem Canonical.beforeIssue (hs : Canonical s) (code : Nat) (addr : Word) (stopped : List FaultInfo) :
    Canonical (s.beforeIssue code addr stopped) := by
  unfold State.beforeIssue
  grind [Canonical.enterTrap]

theorem Canonical.coreSlot (hs : Canonical s) (c x : Nat) (paced : Bool) : Canonical (s.coreSlot c x paced) := hs

theorem Canonical.mySlot (hs : Canonical s) : Canonical s.mySlot := hs

theorem Canonical.atRetire (hs : Canonical s) (sh : Shape) (act : RetAct) : Canonical (s.atRetire sh act) := hs

theorem Canonical.issueTrap (hs : Canonical s) (sh : Option Shape) (code : Nat) (addr aux : Word) (fx : Flags) :
    Canonical (s.issueTrap sh code addr aux fx) := by
  unfold State.issueTrap
  grind [Canonical.mySlot, Canonical.enterTrap]

theorem Canonical.fetchTrap (hs : Canonical s) (code : Nat) (addr : Word) : Canonical (s.fetchTrap code addr) := by
  unfold State.fetchTrap
  grind [Canonical.mySlot, Canonical.enterTrap]

theorem Canonical.report (hs : Canonical s) (c x : Nat) (f : FaultInfo) : Canonical (s.report c x f) := hs

theorem Canonical.owing (hs : Canonical s) (fs : List FaultInfo) : Canonical (s.owing fs) := by
  unfold State.owing
  grind [Canonical.updMyCore, Canonical.updCluster]

theorem Canonical.owed (hs : Canonical s) : Canonical s.owed := by
  unfold State.owed
  grind [Canonical.updMyCore, Canonical.updCluster]

theorem Canonical.trapEntry (hs : Canonical s) : Canonical s.trapEntry := by
  unfold State.trapEntry
  grind [Canonical.updMe, Canonical.owing, Canonical.enterTrap]

theorem Canonical.popRecords (n : Nat) : ∀ {s : State}, Canonical s → Canonical (s.popRecords n).1 := by
  induction n with
  | zero => exact fun hs => hs
  | succ n ih =>
    intro s hs
    unfold State.popRecords
    grind [Canonical.readRecord, Canonical.updMe]

theorem Canonical.replayDone (hs : Canonical s) : Canonical s.replayDone := by
  unfold State.replayDone
  split
  · exact hs
  · have hp := Canonical.popRecords 16 (hs.owed.updMe (fun k => { k with rett := none }))
    grind [Canonical.owed, Canonical.updMe, Canonical.fetchTrap]

theorem Canonical.enterWait (hs : Canonical s) (why : WaitWhy) : Canonical (s.enterWait why) := hs

theorem Canonical.clearMark (hs : Canonical s) (e : Nat × Mark) : Canonical (s.clearMark e) := by
  unfold State.clearMark
  grind [Canonical.retireClear]

theorem Canonical.clearMarks (hs : Canonical s) (sh : Shape) : Canonical (s.clearMarks sh) := by
  unfold State.clearMarks
  grind [Canonical.clearMark, Canonical.foldl]

theorem Canonical.countIssue (hs : Canonical s) (ret : Bool) : Canonical (s.countIssue ret) := hs

theorem Canonical.countRetire (hs : Canonical s) : Canonical s.countRetire := hs

theorem Canonical.useSlot (hs : Canonical s) : Canonical s.useSlot := hs

/-- The states that an instruction's effect carries have canonical memories. -/
def Eff.Canonical : Eff → Prop
  | .popTrap _ _ _ s | .done s | .jump s _ | .left s => Machine.Canonical s
  | .trap .. | .noFetch .. | .overdue _ | .wait _ | .reserve .. => True

theorem canonical_readSpill (w : Who) (l : List Nat) : ∀ {s : State} (a : Nat), Canonical s → Canonical (readSpill s w a l).1 := by
  induction l with
  | nil => exact fun _ hs => hs
  | cons c l ih =>
    intro s a hs
    unfold readSpill
    grind [Canonical.readAt]

theorem Canonical.spillOf (hs : Canonical s) (w : Who) (r : Record) : Canonical (s.spillOf w r).1 := by
  unfold State.spillOf
  grind [Canonical.readChecked, canonical_readSpill, Canonical]

/-- A write that a list of further writes follows, each of which carries a result and a place beside the state. -/
theorem Canonical.writeAll {α β : Type} {put : State × Option Flt × β → α → State × Option Flt × β}
    (hput : ∀ p x, Canonical p.1 → Canonical (put p x).1) (l : List α) (b : β) {p : State × Option Flt} (hp : Canonical p.1) :
    Canonical (match p with
      | (s, some e) => (s, some e)
      | (s, none) => let (s, e, _) := l.foldl put (s, none, b); (s, e)).1 := by
  obtain ⟨t, _ | e⟩ := p
  · exact Canonical.foldl_fst hput l (p := (t, none, b)) hp
  · exact hp

theorem Canonical.writeSpill (hs : Canonical s) (w : Who) (a : Nat) (codes : List Nat) (val : Nat → Vec) :
    Canonical (s.writeSpill w a codes val).1 := by
  unfold State.writeSpill
  extract_lets bit head order put
  have hput : ∀ p c, Canonical p.1 → Canonical (put p c).1 := by
    rintro ⟨s, _ | e, a⟩ c h
    · exact Canonical.writeKeep w _ a _ h
    · exact h
  split
  · exact hs
  · exact Canonical.writeAll hput order (a + 64) (Canonical.writeKeep w 8 a head hs)

theorem canonical_readScopes (w : Who) (base n : Nat) :
    ∀ {s : State} (l : List Nat), Canonical s → Canonical (readScopes s w base n l).1 := by
  induction n with
  | zero =>
    intro s l hs
    cases l <;> exact hs
  | succ n ih =>
    intro s l hs
    cases l with
    | nil => exact hs
    | cons id l =>
      have hr := hs.readChecked w (BitVec.ofNat 64 (base + 8 * id)) 8 8 3
      unfold readScopes
      split
      · grind
      · split
        · grind
        · grind [Canonical.readChecked]

theorem Canonical.scopesAt (hs : Canonical s) (w : Who) (base : Nat) : Canonical (s.scopesAt w base).1 := by
  unfold State.scopesAt
  grind [canonical_readScopes, Canonical]

theorem Canonical.unpublishMoved (hs : Canonical s) (c x : Nat) : Canonical (s.unpublishMoved c x) := by
  unfold State.unpublishMoved
  grind [Canonical.updCore, Canonical.foldl]

theorem Canonical.orphanCmds (hs : Canonical s) (c x : Nat) : Canonical (s.orphanCmds c x) := hs

theorem Canonical.wordsDone (hs : Canonical s) (c : Nat) (xs : List Nat) : Canonical (s.wordsDone c xs) := by
  unfold State.wordsDone
  grind [Canonical.updCtx, Canonical.foldl]

theorem Canonical.freeCtx (hs : Canonical s) (c x : Nat) : Canonical (s.freeCtx c x) := by
  unfold State.freeCtx
  grind [Canonical.flushFlags, Canonical.orphanCmds, Canonical.unpublishMoved, Canonical.updCore, Canonical.setCtx]

theorem Canonical.exitStrand (hs : Canonical s) (c x : Nat) (decrement : Bool) : Canonical (s.exitStrand c x decrement) := by
  unfold State.exitStrand
  grind [Canonical.send, Canonical.updCore, Canonical.wordsDone, Canonical.freeCtx]

theorem Canonical.pushRec (hs : Canonical s) (c : Nat) (r : Record) (e : DqEnt) (young : Bool) :
    Canonical (s.pushRec c r e young) := by
  unfold State.pushRec
  grind [Canonical.updCore, Mem.wf_store, Canonical]

theorem Canonical.holdPkt (hs : Canonical s) (c : Nat) (p : Packet96) (e : SorEnt) : Canonical (s.holdPkt c p e) := by
  unfold State.holdPkt
  grind [Canonical.updCore, Mem.wf_store, Canonical]

theorem Canonical.bindScopes (hs : Canonical s) (c x : Nat) : Canonical (s.bindScopes c x) := by
  unfold State.bindScopes
  grind [Canonical.scopesAt, Canonical.updCtx]

theorem Canonical.bindRecord (hs : Canonical s) (c x : Nat) (r : Record) (ra : Nat) (m : Meta) (extra : List (Nat × Word)) :
    Canonical (s.bindRecord c x r ra m extra) := by
  unfold State.bindRecord
  grind [Canonical.hostOwn, Canonical.setCtx, Canonical.bindScopes, Canonical.enterTrap, Canonical.spillOf, Canonical.updCtx,
    Canonical]

theorem Canonical.bindPacket (hs : Canonical s) (c x : Nat) (p : Packet96) (m : Meta) (ldm : Option FaultInfo) :
    Canonical (s.bindPacket c x p m ldm) := by
  unfold State.bindPacket
  grind [Canonical.hostOwn, Canonical.setCtx, Canonical.bindScopes, Canonical.updCore, Canonical.updCtx, Canonical.setFull,
    Canonical.send]

end Sys2Proof.Machine
end

section
/-!
SUPPORT. Memory stays canonical (R141): the issue of an instruction. An effect is canonical when the state that it carries is.
-/
namespace Sys2Proof.Machine

variable {s t : State}

theorem Canonical.detach (hs : Canonical s) (i : Instr) (sh : Shape) (f : DetOp → DetOp) : Canonical (s.detach i sh f) := by
  unfold State.detach
  grind [Canonical.setFull, Canonical.updMe, Canonical.foldl]

theorem Canonical.postOp (hs : Canonical s) (i : Instr) (sh : Shape) (left : Nat) (virt : Bool) :
    Canonical (s.postOp i sh left virt) := hs

theorem Canonical.failOp (hs : Canonical s) (c x : Nat) (d : DetOp) (code : Nat) (addr aux : Word) (fx : Flags) :
    Canonical (s.failOp c x d code addr aux fx) := hs

theorem Canonical.endDet (hs : Canonical s) (c x : Nat) (d : DetOp) (vals : List (Nat × Vec)) (fl : Flags) :
    Canonical (s.endDet c x d vals fl) := by
  unfold State.endDet
  grind [Canonical.updCtx, Canonical.fill, Canonical.addFlags, Canonical.foldl]

theorem Canonical.endPos (hs : Canonical s) (c x : Nat) (d : DetOp) (vals : List (Nat × Vec)) (fl : Flags) :
    Canonical (s.endPos c x d vals fl) := by
  unfold State.endPos
  grind [Canonical.endDet, Canonical.failOp, Canonical.updCtx, Canonical.updCore]

theorem Canonical.stopTile (hs : Canonical s) (c x : Nat) (d : DetOp) (row : Nat) (e : Flt) :
    Canonical (s.stopTile c x d row e) := by
  unfold State.stopTile
  extract_lets addr s₁ aux young feet held s₂ s₃ s₄ s₅
  have h₁ : Canonical s₁ := hs.updCtx _ _ _
  have h₃ : Canonical s₃ := (h₁.updCore _ _).failOp _ _ _ _ _ _ _
  clear_value s₃
  have h₄ : Canonical s₄ := h₃
  have h₅ : Canonical s₅ := h₄.foldl (fun _ _ h => h.failOp ..) _
  exact h₅.updCtx _ _ _

theorem Canonical.stopRunning (hs : Canonical s) (a : Word) : Canonical (s.stopRunning a).1 := by
  unfold State.stopRunning
  grind [Canonical.stopTile, Canonical.updMe, Canonical]

theorem Canonical.fallbackAt (hs : Canonical s) (c : Nat) : Canonical (s.fallbackAt c) := by
  unfold State.fallbackAt
  grind [Canonical.updCluster]

theorem Canonical.aliasRoll (hs : Canonical s) (hit : Nat → Bool) : Canonical (s.aliasRoll hit) := hs

theorem Canonical.sendReqAt (hs : Canonical s) (snap : List (Nat × Nat)) (op : Nat) (r : MemReq) (extra : Nat) :
    Canonical (s.sendReqAt snap op r extra) := by
  unfold State.sendReqAt
  grind [Canonical.aliasRoll, Canonical.send]

theorem Canonical.sendReq (hs : Canonical s) (op : Nat) (r : MemReq) (extra : Nat) : Canonical (s.sendReq op r extra) := by
  unfold State.sendReq
  grind [Canonical.sendReqAt]

theorem Canonical.sendPkt (hs : Canonical s) (dst : Nat) (p : Packet96) (f : FaultInfo) (held : Option FaultInfo) :
    Canonical (s.sendPkt dst p f held) := hs

theorem Canonical.depart (hs : Canonical s) : Canonical s.depart := by
  unfold State.depart
  grind [Canonical.updMe, Canonical.enterTrap, Canonical.unpublishMoved, Canonical.updMyCore, Canonical.sendPkt]

theorem Canonical.posMove (hs : Canonical s) (sh : Shape) : Canonical (s.posMove sh) := by
  unfold State.posMove
  grind [Canonical.updMe, Canonical.updMyCore]

theorem Canonical.popFault (s : State) {t : State} (ht : Canonical t) (sh : Shape) (v : Word) (code : Nat) (addr : Word) :
    Canonical (s.popFault t sh v code addr) :=
  Canonical.enterTrap (Canonical.mySlot (Canonical.updMe ht _)) _ _ _

theorem Canonical.posFault (hs : Canonical s) (ht : Canonical t) (sh : Shape) (v : Word) : Canonical (s.posFault t sh v) := by
  unfold State.posFault
  grind [Canonical.popFault, Canonical.issueTrap]

theorem Canonical.retire (s : State) {t : State} (ht : Canonical t) (sh : Shape) (target : Option Word) :
    Canonical (s.retire t sh target) := by
  unfold State.retire
  grind [Canonical.posMove, Canonical.useSlot, Canonical.updMe, Canonical.replayDone]

theorem Canonical.takeIpi (hs : Canonical s) : Canonical s.takeIpi := by
  unfold State.takeIpi
  grind [Canonical.updMe, Canonical.beforeIssue]

theorem Canonical.takeOverdue (hs : Canonical s) (a : Word) : Canonical (s.takeOverdue a) := by
  unfold State.takeOverdue
  grind [Canonical.updMe, Canonical.updMyCore, Canonical.stopRunning, Canonical.fallbackAt, Canonical.beforeIssue]

theorem Canonical.effOf (hs : Canonical s) (sh : Shape) {body : State → Shape → Eff}
    (hb : ∀ s sh, Canonical s → (body s sh).Canonical) : (s.effOf sh body).Canonical := by
  unfold State.effOf
  grind [Canonical.clearMarks, Canonical.countIssue, Eff.Canonical, Eff.flt]

theorem Canonical.emptyDests (hs : Canonical s) (sh : Shape) : Canonical (s.emptyDests sh) := by
  unfold State.emptyDests
  grind [Canonical.setFull, Canonical.foldl]

theorem Canonical.leftAt (hs : Canonical s) (c x now : Nat) : Canonical (s.leftAt c x now) := by
  unfold State.leftAt
  grind [Canonical.updCtx]

theorem Canonical.sendReserve (hs : Canonical s) (sh : Shape) (desc : Word) (n : Nat) : Canonical (s.sendReserve sh desc n) := by
  unfold State.sendReserve
  grind [Canonical.countIssue, Canonical.mySlot, Canonical.updMe, Canonical.send]

theorem Canonical.lateNow (hs : Canonical s) : Canonical s.lateNow := hs

theorem Canonical.asRead (hs : Canonical s) (caps : Caps) : Canonical (s.asRead caps) := hs

theorem Canonical.settleLate (hs : Canonical s) (sh : Shape) (caps : Caps) {body : State → Shape → Eff}
    (hb : ∀ s sh, Canonical s → (body s sh).Canonical) : Canonical (s.settleLate sh caps body) := by
  unfold State.settleLate
  have hl := hb _ sh (((hs.asRead caps).clearMarks sh).countRetire)
  grind [Canonical.enterTrap, Canonical.updMe, Canonical.lateNow, Canonical.posMove, Canonical.replayDone, Eff.Canonical]

theorem Canonical.waitOr (hs : Canonical s) (w : WaitWhy) : Canonical (s.waitOr w) := by
  unfold State.waitOr
  grind [Canonical.mySlot, Canonical.takeOverdue, Canonical.takeIpi, Canonical.enterWait]

theorem Canonical.settle (hs : Canonical s) (sh : Shape) {e : Eff} (he : e.Canonical) : Canonical (s.settle sh e) := by
  unfold State.settle
  cases e with
  | trap c a aux fx => exact (hs.emptyDests sh).issueTrap _ _ _ _ _
  | popTrap v c a t => exact Canonical.popFault s he sh v c a
  | noFetch c a => exact hs.fetchTrap c a
  | overdue a => exact hs.mySlot.takeOverdue a
  | wait w => exact hs.waitOr w
  | reserve a n => grind [Canonical.mySlot, Canonical.takeOverdue, Canonical.takeIpi, Canonical.sendReserve]
  | done t => grind [Canonical.posFault, Canonical.mySlot, Canonical.takeOverdue, Canonical.takeIpi, Canonical.retire,
    Eff.Canonical]
  | jump t pc => grind [Canonical.posFault, Canonical.mySlot, Canonical.takeOverdue, Canonical.takeIpi, Canonical.retire,
    Eff.Canonical]
  | left t => grind [Canonical.mySlot, Canonical.takeOverdue, Canonical.takeIpi, Canonical.coreSlot, Canonical.leftAt,
    Eff.Canonical]

theorem Canonical.issueStep (hs : Canonical s) (sh : Shape) {body : State → Shape → Eff}
    (hb : ∀ s sh, Canonical s → (body s sh).Canonical) : Canonical (s.issueStep sh body) := by
  unfold State.issueStep
  grind [Canonical.trapEntry, Canonical.exitStrand, Canonical.mySlot, Canonical.beforeIssue, Canonical.depart, Canonical.waitOr,
    Canonical.settle, Canonical.effOf]

theorem Canonical.wrG (hs : Canonical s) (d : BitVec 6) (v : Word) : Canonical (s.wrG d v) := by
  unfold State.wrG
  grind [Canonical.retireReg]

theorem Canonical.wrF (hs : Canonical s) (d : BitVec 6) (v : Word) : Canonical (s.wrF d v) := by
  unfold State.wrF
  grind [Canonical.retireReg]

theorem Canonical.wrV (hs : Canonical s) (d : BitVec 6) (v : Vec) : Canonical (s.wrV d v) := by
  unfold State.wrV
  grind [Canonical.retireReg]

theorem Canonical.wrK (hs : Canonical s) (d : BitVec 6) (v : KMask) : Canonical (s.wrK d v) := by
  unfold State.wrK
  grind [Canonical.retireReg]

theorem canonical_gBin (hs : Canonical s) (f : Fields) (op : Word → Word → Word) (x : Shape) : (gBin f op s x).Canonical := by
  unfold gBin
  grind [Canonical.wrG, Eff.Canonical, Canonical]

theorem canonical_gUn (hs : Canonical s) (f : Fields) (op : Word → Word) (x : Shape) : (gUn f op s x).Canonical := by
  unfold gUn
  grind [Canonical.wrG, Eff.Canonical, Canonical]

end Sys2Proof.Machine
end

section
/-!
SUPPORT. Memory stays canonical (R141): what scalar, floating, memory, vector and tile instructions do.
-/
namespace Sys2Proof.Machine

variable {s t : State}

theorem Canonical.detachVal (hs : Canonical s) (i : Instr) (sh : Shape) (n : Nat) (code : Nat) (v : Vec) (fl : Flags) :
    Canonical (s.detachVal i sh n code v fl) := by
  unfold State.detachVal
  grind [Canonical.detach]

theorem canonical_gDet (hs : Canonical s) (i : Instr) (f : Fields) (op : Word → Word → Word) (sh : Shape) :
    (gDet i f op s sh).Canonical := by
  unfold gDet
  grind [Canonical.detachVal, Eff.Canonical]

theorem canonical_branch (hs : Canonical s) (f : Fields) (c : State → Bool) (x : Shape) : (branch f c s x).Canonical := by
  unfold branch
  grind [Eff.Canonical]

theorem canonical_bcc (f : Fields) (c : Word → Word → Bool) {s : State} (hs : Canonical s) (x : Shape) :
    (bcc f c s x).Canonical := by
  unfold bcc
  grind [canonical_branch, Eff.Canonical]

theorem canonical_jumpTo {after : State} (hs : Canonical after) (t : Word) : (jumpTo t after).Canonical := by
  unfold jumpTo
  grind [Eff.Canonical, Eff.flt]

theorem canonical_fRes (hs : Canonical s) (ty : Nat) (d : BitVec 6) (r : Nat × Flags) : (fRes s ty d r).Canonical := by
  unfold fRes
  grind [Canonical.wrF, Canonical.addFlags, Eff.Canonical]

theorem canonical_gRes (hs : Canonical s) (d : BitVec 6) (v : Word) (fl : Flags) : (gRes s d v fl).Canonical := by
  unfold gRes
  grind [Canonical.wrG, Canonical.addFlags, Eff.Canonical]

theorem canonical_fBin (hs : Canonical s) (ty : Nat) (f : Fields) (op : Mode → FVal → FVal → FVal × Flags) (x : Shape) :
    (fBin ty f op s x).Canonical := by
  unfold fBin
  grind [canonical_fRes, Eff.Canonical]

theorem canonical_fFma (hs : Canonical s) (ty : Nat) (f : Fields) (np nc : Bool) (x : Shape) : (fFma ty f np nc s x).Canonical := by
  unfold fFma
  grind [canonical_fRes, Eff.Canonical]

theorem canonical_fDet (hs : Canonical s) (i : Instr) (ty n : Nat) (f : Fields) (op : State → FVal × Flags) (sh : Shape) :
    (fDet i ty n f op s sh).Canonical := by
  unfold fDet
  grind [Canonical.detachVal, Eff.Canonical]

theorem canonical_fSgn (hs : Canonical s) (ty : Nat) (f : Fields) (x : Shape) : (fSgn ty f s x).Canonical := by
  unfold fSgn
  grind [canonical_fRes, Eff.Canonical]

theorem canonical_fCmp (hs : Canonical s) (ty k : Nat) (f : Fields) (x : Shape) : (fCmp ty k f s x).Canonical := by
  unfold fCmp
  grind [canonical_gRes, Eff.Canonical]

theorem canonical_fClass (hs : Canonical s) (ty : Nat) (f : Fields) (x : Shape) : (fClass ty f s x).Canonical := by
  unfold fClass
  grind [Canonical.wrG, Eff.Canonical]

theorem canonical_fCvt (hs : Canonical s) (f : Fields) (x : Shape) : (fCvt f s x).Canonical := by
  unfold fCvt
  grind [canonical_gRes, canonical_fRes, Eff.Canonical]

theorem Canonical.detachReq (hs : Canonical s) (i : Instr) (sh : Shape) (r : MemReq) (mode : Nat) (acq : Bool) :
    Canonical (s.detachReq i sh r mode acq) := by
  unfold State.detachReq
  grind [Canonical.detach, Canonical.sendReq]

theorem Canonical.postReq (hs : Canonical s) (i : Instr) (sh : Shape) (r : MemReq) : Canonical (s.postReq i sh r) := by
  unfold State.postReq
  grind [Canonical.postOp, Canonical.sendReq]

theorem canonical_loadN (hs : Canonical s) (i : Instr) (f : Fields) (n : Nat) (sh : Shape) : (loadN i f n s sh).Canonical := by
  unfold loadN
  grind [Canonical.detachReq, Eff.Canonical, Eff.flt]

theorem canonical_storeN (hs : Canonical s) (i : Instr) (f : Fields) (n : Nat) (v : Word) (sh : Shape) :
    (storeN i f n v s sh).Canonical := by
  unfold storeN
  grind [Canonical.postReq, Eff.Canonical, Eff.flt]

theorem Canonical.sendPf (hs : Canonical s) (ea : Word) (lease : Nat) : Canonical (s.sendPf ea lease) := by
  unfold State.sendPf
  grind [Canonical.send]

theorem Canonical.seenBy (hs : Canonical s) (id : Nat) : Canonical (s.seenBy id) := by
  unfold State.seenBy
  grind [Canonical.hostSeen, Canonical]

theorem canonical_amoN (hs : Canonical s) (i : Instr) (f : Fields) (op : Nat) (data cmp : Word) (sh : Shape) :
    (amoN i f op data cmp s sh).Canonical := by
  unfold amoN
  grind [Canonical.seenBy, Canonical.detachReq, Eff.Canonical, Eff.flt]

theorem canonical_amoI (hs : Canonical s) (i : Instr) (f : Fields) (op : Nat) (sh : Shape) : (amoI i f op s sh).Canonical := by
  unfold amoI
  grind [canonical_amoN, Eff.Canonical]

theorem canonical_amoFl (hs : Canonical s) (i : Instr) (f : Fields) (op : Nat) (sh : Shape) : (amoFl i f op s sh).Canonical := by
  unfold amoFl
  grind [canonical_amoN, Eff.Canonical]

theorem Canonical.sendAll (hs : Canonical s) (op extra : Nat) (rs : List MemReq) : Canonical (s.sendAll op extra rs) := by
  unfold State.sendAll
  grind [Canonical.sendReq, Canonical.foldl]

theorem canonical_rangeOp (hs : Canonical s) (i : Instr) (f : Fields) (kind : ReqKind) (sh : Shape) :
    (rangeOp i f kind s sh).Canonical := by
  unfold rangeOp
  grind [Canonical.postOp, Canonical.send, Canonical.foldl, Eff.Canonical, Eff.flt]

theorem canonical_discOp (hs : Canonical s) (i : Instr) (f : Fields) (sh : Shape) : (discOp i f s sh).Canonical := by
  unfold discOp
  grind [Canonical.postOp, Canonical.sendAll, Eff.Canonical, Eff.flt]

theorem canonical_feOp (hs : Canonical s) (i : Instr) (f : Fields) (kind : ReqKind) (data : Word) (sh : Shape) :
    (feOp i f kind data s sh).Canonical := by
  unfold feOp
  grind [Canonical.detachReq, Eff.Canonical, Eff.flt]

theorem canonical_fePost (hs : Canonical s) (i : Instr) (f : Fields) (kind : ReqKind) (sh : Shape) :
    (fePost i f kind s sh).Canonical := by
  unfold fePost
  grind [Canonical.postReq, Eff.Canonical, Eff.flt]

theorem canonical_vRes (hs : Canonical s) (f : Fields) (r : Vec × Flags) : (vRes s f r).Canonical := by
  unfold vRes
  grind [Canonical.wrV, Canonical.addFlags, Eff.Canonical]

theorem canonical_vUn (hs : Canonical s) (f : Fields) (op : Nat → Mode → Nat → Nat × Flags) (x : Shape) :
    (vUn f op s x).Canonical := by
  unfold vUn
  grind [canonical_vRes, Eff.Canonical]

theorem canonical_vBin (hs : Canonical s) (f : Fields) (op : Nat → Mode → Nat → Nat → Nat × Flags) (x : Shape) :
    (vBin f op s x).Canonical := by
  unfold vBin
  grind [canonical_vRes, Eff.Canonical]

theorem canonical_vFma (hs : Canonical s) (f : Fields) (neg : Bool) (x : Shape) : (vFma f neg s x).Canonical := by
  unfold vFma
  grind [canonical_vRes, Eff.Canonical]

theorem canonical_vDet (hs : Canonical s) (i : Instr) (f : Fields) (n : Nat) (op : Nat → FVal × Flags) (sh : Shape) :
    (vDet i f n op s sh).Canonical := by
  unfold vDet
  grind [Canonical.detachVal, Eff.Canonical]

theorem canonical_vLogic (f : Fields) (op : Nat → Nat → Nat → Nat) {s : State} (hs : Canonical s) (x : Shape) :
    (vLogic f op s x).Canonical :=
  canonical_vBin hs ..

theorem canonical_kRes (hs : Canonical s) (d : BitVec 6) (v : KMask) (fl : Flags) : (kRes s d v fl).Canonical := by
  unfold kRes
  grind [Canonical.wrK, Canonical.addFlags, Eff.Canonical]

theorem canonical_vCmp (hs : Canonical s) (f : Fields) (cc : Nat) (x : Shape) : (vCmp f cc s x).Canonical := by
  unfold vCmp
  grind [canonical_kRes, Eff.Canonical]

theorem canonical_putEntries (w : Who) (core ctx : Nat) (l : List Outl) :
    ∀ {s : State} (a : Nat), Canonical s → Canonical (putEntries s w core ctx a l).1 := by
  induction l with
  | nil => exact fun _ hs => hs
  | cons o l ih =>
    intro s a hs
    unfold putEntries
    grind [Canonical.writeChecked]

theorem Canonical.listRead (hs : Canonical s) (w : Who) (desc : Word) : Canonical (s.listRead w desc).1 := by
  unfold State.listRead
  grind [Canonical.afterOwned, Canonical.atHome]

theorem Canonical.append (hs : Canonical s) {w : Who} {desc : Word} {core ctx : Nat} {os : List Outl}
    (ht : s.append w desc core ctx os = .ok t) : Canonical t := by
  unfold State.append at ht
  have hl := hs.listRead w desc
  grind [canonical_putEntries, Canonical.writeAt]

theorem canonical_vcvtBody (hs : Canonical s) (f : Fields) (replied : Bool) (x : Shape) : (vcvtBody f replied s x).Canonical := by
  unfold vcvtBody
  extract_lets dt st wd ws n off soff k a o outl hit
  split
  · trivial
  · split
    · trivial
    · split
      · trivial
      · have hr : Canonical (if outl.isEmpty then s else s.aliasRoll (fun l => hit.contains l)) := by
          split
          exacts [hs, hs.aliasRoll _]
        split
        · trivial
        next t ht =>
          have h := hr.append ht
          dsimp only [Eff.Canonical]
          grind [Canonical.wrV, Canonical.addFlags, Canonical.wrG, Canonical.later]

theorem canonical_vMove (hs : Canonical s) (f : Fields) (l : State → Nat → Nat → Nat) (x : Shape) : (vMove f l s x).Canonical := by
  unfold vMove
  grind [Canonical.wrV, Eff.Canonical]

theorem canonical_vRed (hs : Canonical s) (f : Fields) (k : Nat) (op : Nat → Mode → Nat → Nat → Nat × Flags) (x : Shape) :
    (vRed f k op s x).Canonical := by
  unfold vRed
  grind [Canonical.wrG, Canonical.wrF, Canonical.addFlags, Eff.Canonical]

theorem canonical_kBin (hs : Canonical s) (f : Fields) (op : KMask → KMask → KMask) (x : Shape) : (kBin f op s x).Canonical := by
  unfold kBin
  grind [Canonical.wrK, Eff.Canonical]

theorem Canonical.sendLanes (hs : Canonical s) (op : Nat) (rs : List (MemReq × Nat)) : Canonical (s.sendLanes op rs) := by
  unfold State.sendLanes
  grind [Canonical.sendReq, Canonical.foldl]

theorem canonical_vLoad (hs : Canonical s) (i : Instr) (form : Nat) (f : Fields) (sh : Shape) :
    (vLoad i form f s sh).Canonical := by
  unfold vLoad
  grind [Canonical.detach, Canonical.sendLanes, Eff.Canonical, Eff.flt]

theorem canonical_vStore (hs : Canonical s) (i : Instr) (form : Nat) (f : Fields) (sh : Shape) :
    (vStore i form f s sh).Canonical := by
  unfold vStore
  grind [Canonical.postOp, Canonical.sendLanes, Eff.Canonical, Eff.flt]

theorem Canonical.readEl (hs : Canonical s) (w : Who) (a : Word) (n lease : Nat) : Canonical (s.readEl w a n lease).1 := by
  unfold State.readEl
  grind [canonical_readPieces]

theorem canonical_readEls (w : Who) (n lease : Nat) (l : List Word) :
    ∀ {s : State}, Canonical s → Canonical (readEls s w n lease l).1 := by
  induction l with
  | nil => exact fun hs => hs
  | cons a l ih =>
    intro s hs
    unfold readEls
    grind [Canonical.readEl]

theorem canonical_readRows (w : Who) (n lease : Nat) (l : List (List Word)) :
    ∀ {s : State}, Canonical s → Canonical (readRows s w n lease l).1 := by
  induction l with
  | nil => exact fun hs => hs
  | cons r l ih =>
    intro s hs
    unfold readRows
    grind [canonical_readEls]

theorem Canonical.cWrite (hs : Canonical s) {core n : Nat} {vs : List (Nat × Nat)} (ht : s.cWrite core n vs = .ok t) :
    Canonical t := by
  unfold State.cWrite at ht
  have hv : ∀ l : List Nat, ((l.foldl (fun m w => m.setBad (8 * w) false)
      (vs.foldl (fun m e => m.store (bufAddr core 2 + e.1) e.2 n) s.win) : Mem)).wf := fun l =>
    Mem.wf_foldl _ _ (fun _ _ h => Mem.wf_setBad h _ _) (Mem.wf_foldl _ _ (fun _ _ h => Mem.wf_store h _ _ _) hs.1)
  dsimp only at ht
  split at ht
  · cases ht
  · cases ht
    exact ⟨hv _, hs.2⟩

theorem Canonical.cBlock (hs : Canonical s) (core n : Nat) (vs : List (Nat × Nat)) (fl : Flags) :
    Canonical (s.cBlock core n vs fl).s := by
  unfold State.cBlock
  grind [Canonical.cWrite]

theorem canonical_mmaBlock (hs : Canonical s) (core : Nat) (d : DetOp) (rows : List Nat) :
    Canonical (mmaBlock s core d rows).s := by
  unfold mmaBlock
  grind [canonical_readRows, Canonical.cBlock]

theorem canonical_tldBlock (hs : Canonical s) (core : Nat) (d : DetOp) (rows : List Nat) :
    Canonical (tldBlock s core d rows).s := by
  unfold tldBlock
  grind [canonical_readEls, Canonical.cBlock]

theorem canonical_putEls (w : Who) (n lease : Nat) (l : List (Word × Nat)) :
    ∀ {s : State}, Canonical s → Canonical (putEls s w n lease l).1 := by
  induction l with
  | nil => exact fun hs => hs
  | cons e l ih =>
    intro s hs
    unfold putEls
    grind [Canonical.writeChecked]

theorem Canonical.goodWord (hs : Canonical s) (w : Who) (a : Nat) : Canonical (s.goodWord w a) := by
  unfold State.goodWord
  grind [Canonical.letIn, Canonical.putVer, Canonical.afterOwned, Canonical.atHome, Canonical.hGood]

theorem Canonical.goodWhole (hs : Canonical s) (w : Who) (n : Nat) (as : List Nat) : Canonical (s.goodWhole w n as) := by
  unfold State.goodWhole
  grind [Canonical.goodWord, Canonical.foldl]

theorem canonical_tstBlock (hs : Canonical s) (core ctx : Nat) (d : DetOp) (rows : List Nat) :
    Canonical (tstBlock s core ctx d rows).s := by
  unfold tstBlock
  grind [Canonical.append, canonical_putEls, Canonical.goodWhole]

theorem canonical_tzeroBlock (hs : Canonical s) (core : Nat) (d : DetOp) (rows : List Nat) :
    Canonical (tzeroBlock s core d rows).s := by
  unfold tzeroBlock
  grind [Canonical.cBlock]

theorem canonical_readKept (w : Who) (n lease : Nat) (l : List (Nat × Word)) :
    ∀ {s : State} (kept : List (Nat × Vec)), Canonical s → Canonical (readKept s w n lease l kept).1 := by
  induction l with
  | nil => exact fun _ hs => hs
  | cons e l ih =>
    intro s kept hs
    unfold readKept
    grind [Canonical.readEl]

theorem canonical_toutEntry (hs : Canonical s) (core : Nat) (d : DetOp) (base e : Nat) :
    Canonical (toutEntry s core d base e).s := by
  unfold toutEntry
  grind [Canonical.readChecked, canonical_readKept, Canonical.cBlock]

theorem Canonical.tileStart (hs : Canonical s) (c x : Nat) (d : DetOp) : Canonical (s.tileStart c x d).1 := by
  unfold State.tileStart
  grind [Canonical.updCtx, Canonical.readChecked]

theorem Canonical.tileUnit (hs : Canonical s) (c x : Nat) (d : DetOp) : Canonical (s.tileUnit c x d).s := by
  unfold State.tileUnit
  grind [canonical_toutEntry, canonical_mmaBlock, canonical_tldBlock, canonical_tstBlock, canonical_tzeroBlock]

theorem Canonical.tileEnd (hs : Canonical s) (c x : Nat) (d : DetOp) : Canonical (s.tileEnd c x d) := by
  unfold State.tileEnd
  grind [Canonical.updCtx, Canonical.updCore, Canonical.endDet]

theorem Canonical.tileStep (hs : Canonical s) (c x : Nat) (d : DetOp) : Canonical (s.tileStep c x d) := by
  unfold State.tileStep
  grind [Canonical.tileStart, Canonical.stopTile, Canonical.tileEnd, Canonical.tileUnit, Canonical.updCtx, Canonical.updDet]

theorem Canonical.tprogDone (hs : Canonical s) (c x : Nat) (d : DetOp) : Canonical (s.tprogDone c x d) := by
  unfold State.tprogDone
  grind [Canonical.failOp, Canonical.hostSeen, Canonical.updCtx, Canonical.endPos]

theorem canonical_tileIssue (hs : Canonical s) (i : Instr) (f : Fields) (faults : Tile → List Flt) (caps : Tile → Caps)
    (sh : Shape) : (tileIssue i f faults caps s sh).Canonical := by
  unfold tileIssue
  grind [Canonical.detach, Canonical.updMyCore, Canonical.updDet, Canonical.aliasRoll, Eff.Canonical, Eff.flt]

theorem canonical_mmaIssue (hs : Canonical s) (i : Instr) (f : Fields) (sh : Shape) : (mmaIssue i f s sh).Canonical := by
  unfold mmaIssue
  grind [canonical_tileIssue, Eff.Canonical]

theorem canonical_tmemIssue (hs : Canonical s) (i : Instr) (f : Fields) (write : Bool) (sh : Shape) :
    (tmemIssue i f write s sh).Canonical := by
  unfold tmemIssue
  grind [canonical_tileIssue, Eff.Canonical]

end Sys2Proof.Machine
end

section
/-!
SUPPORT. Memory stays canonical (R141): the copy engines, tile tasks and collectives.
-/
namespace Sys2Proof.Machine

variable {s t : State}

theorem Canonical.putHdl (hs : Canonical s) (core h v : Nat) : Canonical (s.putHdl core h v) := by
  unfold State.putHdl
  grind [Mem.wf_store, Canonical]

theorem canonical_engReadP (w : Who) (lease : Nat) (l : List (Nat × Nat)) :
    ∀ {s : State}, Canonical s → Canonical (engReadP s w lease l).1 := by
  induction l with
  | nil => exact fun hs => hs
  | cons p l ih =>
    intro s hs
    unfold engReadP
    grind [Canonical.afterOwned, Canonical.load]

theorem canonical_readRecv (w : Who) (n : Nat) : ∀ {s : State} (a : Nat), Canonical s → Canonical (readRecv s w a n).1 := by
  induction n with
  | zero => exact fun _ hs => hs
  | succ n ih =>
    intro s a hs
    unfold readRecv
    grind [Canonical.readChecked]

theorem canonical_copyRun (hs : Canonical s) (d : CopyCmd) (r : Nat) : Canonical (copyRun s d r).1 := by
  unfold copyRun
  have hr := canonical_engReadP d.who d.lease (linePieces (wadd d.src (d.offs r).1).toNat (d.len0 * d.ws)) hs
  dsimp only
  split
  · grind
  · grind [Canonical.append]

theorem Canonical.landed (hs : Canonical s) (d : CopyCmd) (p : CopyPiece) : Canonical (s.landed d p) := by
  unfold State.landed
  grind [Canonical.putHdl]

theorem canonical_copyWrite (d : CopyCmd) (l : List CopyPiece) : ∀ {s : State}, Canonical s → Canonical (copyWrite d l s).1 := by
  induction l with
  | nil => exact fun hs => hs
  | cons p l ih =>
    intro s hs
    unfold copyWrite
    grind [Canonical.unitStore, Canonical.passStore, Canonical.landed]

theorem Canonical.submitCopy (hs : Canonical s) (minor : Nat) (addr : Word) (op : Option Nat) (bad : Bool) (now : Nat) :
    Canonical (s.submitCopy minor addr op bad now) := hs

theorem canonical_copyIssue (hs : Canonical s) (i : Instr) (f : Fields) (minor : Nat) (sh : Shape) :
    (copyIssue i f minor s sh).Canonical := by
  unfold copyIssue
  grind [Canonical.detach, Canonical.submitCopy, Eff.Canonical, Eff.flt]

theorem Canonical.updCmd (hs : Canonical s) (cl i : Nat) (f : CopyCmd → CopyCmd) : Canonical (s.updCmd cl i f) := hs

theorem Canonical.copyAccept (hs : Canonical s) (cl i : Nat) : Canonical (s.copyAccept cl i) := by
  unfold State.copyAccept
  split
  · exact hs
  next d _ =>
    dsimp only
    split
    next t e hg =>
      have ht : Canonical t := by grind [Canonical.readChecked]
      exact ht.updCmd _ _ _
    next t v hg =>
      have ht : Canonical t := by grind [Canonical.readChecked]
      split
      all_goals
        refine Canonical.updCmd ?_ _ _ _
        split
        exacts [canonical_readRecv _ _ _ ht, ht]

theorem Canonical.recordKept (hs : Canonical s) (r : MemReq) (sentAt : Nat) (ht : s.recordKept r sentAt = some t) :
    Canonical t := by
  unfold State.recordKept at ht
  grind [Canonical.keepRecords]

theorem Canonical.nextRun (hs : Canonical s) (cl i : Nat) (d : CopyCmd) : Canonical (s.nextRun cl i d) := by
  unfold State.nextRun
  grind [Canonical.updCmd, canonical_copyRun]

theorem Canonical.copyStart (hs : Canonical s) (cl i : Nat) : Canonical (s.copyStart cl i) := by
  unfold State.copyStart
  grind [Canonical.putHdl, Canonical.updCluster, Canonical.nextRun, Canonical.foldl]

theorem Canonical.copyGo (hs : Canonical s) {cl i k : Nat} (ht : s.copyGo cl i k = some t) : Canonical t := by
  unfold State.copyGo at ht
  split at ht
  · cases ht
  next d _ =>
    have hw := canonical_copyWrite d (if k = 0 then d.pend else d.pend.take k) hs
    grind [Canonical.nextRun, Canonical.updCmd]

theorem Canonical.copyArrive (hs : Canonical s) (cl i : Nat) : Canonical (s.copyArrive cl i) := by
  unfold State.copyArrive
  split
  · exact hs
  · refine Canonical.foldl_fst (fun p r h => ?_) _ (hs.updCmd _ _ _)
    grind [Canonical.updCmd, Canonical.send]

theorem Canonical.arrival (hs : Canonical s) (k : Nat) : Canonical (s.arrival k) := by
  unfold State.arrival
  grind [Canonical.dropPkt, Canonical.syncArrive, Canonical.updCluster]

theorem Canonical.element (hs : Canonical s) (core ctx q : Nat) (pushed : Bool) (v : Word) :
    Canonical (s.element core ctx q pushed v) := hs

theorem Canonical.copyDone (hs : Canonical s) (cl i : Nat) : Canonical (s.copyDone cl i) := by
  unfold State.copyDone
  grind [Canonical.putHdl, Canonical.updCluster, Canonical.element, Canonical.updDet, Canonical.foldl]

theorem Canonical.taskStatus (hs : Canonical s) (d : TileTask) (status commit : Nat) (faddr : Word) :
    Canonical (s.taskStatus d status commit faddr) := by
  unfold State.taskStatus
  grind [Canonical.hwWrite, Canonical.passStore]

theorem Canonical.updTask (hs : Canonical s) (cl i : Nat) (f : TileTask → TileTask) : Canonical (s.updTask cl i f) := hs

theorem Canonical.dropTask (hs : Canonical s) (cl i : Nat) : Canonical (s.dropTask cl i) := by
  unfold State.dropTask
  grind [Canonical.updCore, Canonical.updCluster, Canonical.foldl]

theorem Canonical.taskElement (hs : Canonical s) (d : TileTask) (status : Nat) : Canonical (s.taskElement d status) := by
  unfold State.taskElement
  grind [Canonical.element]

theorem Canonical.submitTask (hs : Canonical s) (addr : Word) (op : Option Nat) : Canonical (s.submitTask addr op) := hs

theorem canonical_taskCmd (hs : Canonical s) (i : Instr) (f : Fields) (cancel : Bool) (sh : Shape) :
    (taskCmd i f cancel s sh).Canonical := by
  unfold taskCmd
  grind [Canonical.detach, Canonical.taskStatus, Canonical.dropTask, Canonical.updMe, Canonical.updTask, Eff.Canonical]

theorem Canonical.taskAccept (hs : Canonical s) (cl i : Nat) : Canonical (s.taskAccept cl i) := by
  unfold State.taskAccept
  grind [Canonical.updCluster, Canonical.updDet, Canonical.readChecked, Canonical.dropTask, Canonical.taskElement,
    Canonical.taskStatus, Canonical.updTask]

theorem canonical_fetchPanels (d : TileTask) (l : List (Nat × Nat × List Word)) :
    ∀ {s : State} (kept : List (Nat × List Nat)), Canonical s → Canonical (fetchPanels s d l kept).1 := by
  induction l with
  | nil => exact fun _ hs => hs
  | cons p l ih =>
    intro s kept hs
    unfold fetchPanels
    grind [canonical_readEls]

theorem Canonical.subBlock (hs : Canonical s) (d : TileTask) (b : SubTile) : Canonical (s.subBlock d b).s := by
  unfold State.subBlock
  grind [canonical_readEls, Canonical.cBlock]

theorem Canonical.subCommit (hs : Canonical s) (d : TileTask) (b : SubTile) : Canonical (s.subCommit d b).1 := by
  unfold State.subCommit
  grind [Canonical.goodWhole, canonical_putEls]

theorem Canonical.taskStep (hs : Canonical s) (cl i u : Nat) : Canonical (s.taskStep cl i u).1 := by
  unfold State.taskStep
  split
  · exact hs
  next d _ =>
    split
    · exact hs
    · split
      · have hp := canonical_fetchPanels d (d.panels d.next) d.pans hs
        grind [Canonical.updTask]
      next b _ => grind [Canonical.updTask, Canonical.updCore, Canonical.subBlock, Canonical.subCommit]

theorem Canonical.catchMsgs (hs : Canonical s) (cl i : Nat) (d : TileTask) : Canonical (s.catchMsgs cl i d) := by
  unfold State.catchMsgs
  grind [Canonical.updTask, Canonical.updCore, Canonical.foldl, Mem.wf_store, Canonical]

theorem Canonical.taskPause (hs : Canonical s) (cl i : Nat) (e : Flt) : Canonical (s.taskPause cl i e) := by
  unfold State.taskPause
  grind [Canonical.catchMsgs, Canonical.taskStatus, Canonical.updTask, Canonical.taskElement]

theorem Canonical.taskDone (hs : Canonical s) (cl i : Nat) : Canonical (s.taskDone cl i) := by
  unfold State.taskDone
  grind [Canonical.taskStatus, Canonical.dropTask, Canonical.writeChecked, Canonical.taskElement]

theorem Canonical.updColl (hs : Canonical s) (pid id : Nat) (f : Coll → Coll) : Canonical (s.updColl pid id f) := hs

theorem Canonical.contribute (hs : Canonical s) (pid id cluster : Nat) (v : Vec) (p : Poster) :
    Canonical (s.contribute pid id cluster v p) := hs

theorem Canonical.redCfgEnd (hs : Canonical s) (c x : Nat) (d : DetOp) (ht : s.redCfgEnd c x d = some t) : Canonical t := by
  unfold State.redCfgEnd at ht
  grind [Canonical.failOp, Canonical.updColl, Canonical.endDet]

theorem Canonical.redPostEnd (hs : Canonical s) (c x : Nat) (d : DetOp) (ht : s.redPostEnd c x d = some t) : Canonical t := by
  unfold State.redPostEnd at ht
  grind [Canonical.failOp, Canonical.updCtx, Canonical.contribute, Canonical.endPos]

theorem Canonical.redGetEnd (hs : Canonical s) (c x : Nat) (d : DetOp) (ht : s.redGetEnd c x d = some t) : Canonical t := by
  unfold State.redGetEnd at ht
  grind [Canonical.failOp, Canonical.updCtx, Canonical.endPos]

theorem canonical_putBlock (w : Who) (l : List (Nat × Nat × Nat)) : ∀ {s : State}, Canonical s → Canonical (putBlock s w l).1 := by
  induction l with
  | nil => exact fun hs => hs
  | cons p l ih =>
    intro s hs
    unfold putBlock
    grind [Canonical.unitStore, Canonical.passStore]

theorem Canonical.pushRed (hs : Canonical s) (v : Word) : Canonical (s.pushRed v) := by
  unfold State.pushRed
  grind [Canonical.updMe, Canonical.element, canonical_engReadP, Canonical.contribute]

theorem Canonical.updRound (hs : Canonical s) (pid id k : Nat) (f : Round → Round) : Canonical (s.updRound pid id k f) := hs

theorem Canonical.routeRound (hs : Canonical s) (pid id k r : Nat) : Canonical (s.routeRound pid id k r) := by
  unfold State.routeRound
  grind [Canonical.updRound]

theorem Canonical.failRound (hs : Canonical s) (pid id k : Nat) : Canonical (s.failRound pid id k) := by
  unfold State.failRound
  grind [Canonical.updRound]

theorem Canonical.deliver (hs : Canonical s) (pid id k j : Nat) : Canonical (s.deliver pid id k j) := by
  unfold State.deliver
  split
  · exact hs
  next rd _ =>
    split
    · exact hs
    next p _ =>
      dsimp only
      split
      · exact hs
      · have hu := hs.updRound pid id k (fun rd => { rd with posters := delNth rd.posters j })
        split
        · grind [Canonical.updCtx]
        next a _ =>
          have hp := fun v : Vec => canonical_putBlock p.who (cutPieces v.toNat (linePieces a.toNat 128)) hu
          grind [Canonical.updCtx, Canonical.element]

end Sys2Proof.Machine
end

section
/-!
SUPPORT. Memory stays canonical (R141): queues, bit streams and streams.
-/
namespace Sys2Proof.Machine

variable {s t : State}

theorem Canonical.qPop (hs : Canonical s) {q : Nat} {v : Word} (ht : s.qPop q = some (v, t)) : Canonical t := by
  unfold State.qPop at ht
  grind [Canonical.updMe, Canonical.updMyCore]

theorem Canonical.qPush (hs : Canonical s) (q : Nat) (v : Word) : Canonical (s.qPush q v) := by
  unfold State.qPush
  grind [Canonical.updMe, Canonical.submitCopy, Canonical.submitTask, Canonical.pushRed, Canonical.updMyCore]

theorem Canonical.qSource (hs : Canonical s) {q : Nat} {v : Word} (ht : s.qSource q = .ok (v, t)) : Canonical t := by
  unfold State.qSource at ht
  grind [Canonical.qPop, Canonical.updMyCore]

theorem Canonical.qSource_error (hs : Canonical s) {q : Nat} {e : Eff} (he : s.qSource q = .error e) : e.Canonical := by
  unfold State.qSource at he
  have hm : ∀ {t : State} n, Canonical t → Canonical { t with fresh := n } := fun _ h => h
  grind [Canonical.qPop, Canonical.updMyCore, Eff.Canonical, Eff.flt]

theorem canonical_qmovOf (hs : Canonical s) (f : Fields) (sh : Shape) : (qmovOf f s sh).Canonical := by
  unfold qmovOf
  grind [Canonical.qSource, Canonical.qSource_error, Canonical.atRetire, Canonical.wrG, Eff.Canonical, Eff.flt]

theorem Canonical.eat (hs : Canonical s) (n : Nat) : Canonical (s.eat n) := by
  unfold State.eat
  grind [Canonical.updMyCore, Canonical.wordsDone]

theorem Canonical.bitsFault (s : State) : s.bitsFault.Canonical := trivial

theorem canonical_bsRead (hs : Canonical s) (f : Fields) (eat : Bool) (x : Shape) : (bsRead f eat s x).Canonical := by
  unfold bsRead
  grind [Canonical.bitsFault, Canonical.eat, Canonical.wrG, Eff.Canonical, Eff.flt]

theorem canonical_bsWrite (hs : Canonical s) (n : Nat) (v : Nat) : (bsWrite n v s).Canonical := by
  unfold bsWrite
  grind [Canonical.updMyCore, Eff.Canonical]

theorem Canonical.putStrm (hs : Canonical s) (c k : Nat) (t : Option Strm) : Canonical (s.putStrm c k t) := hs

theorem Canonical.updStrm (hs : Canonical s) (c k : Nat) (f : Strm → Strm) : Canonical (s.updStrm c k f) := hs

theorem Canonical.startRead (hs : Canonical s) (c k : Nat) (at_ : Nat) : Canonical (s.startRead c k at_) := hs

theorem Canonical.readElem (hs : Canonical s) (c k : Nat) (t : Strm) : Canonical (s.readElem c k t) := by
  unfold State.readElem
  grind [Canonical.updStrm, Canonical.afterOwned, Canonical.load]

theorem Canonical.hop (hs : Canonical s) (c k : Nat) : Canonical (s.hop c k) := by
  unfold State.hop
  grind [Canonical.updStrm, Canonical.startRead]

theorem Canonical.sendSave (hs : Canonical s) (c x : Nat) (d : DetOp) (t : Option Strm) : Canonical (s.sendSave c x d t) := by
  unfold State.sendSave
  grind [Canonical.sendReqAt, Canonical.updDet, Canonical.foldl, Canonical]

theorem Canonical.strmArrive (hs : Canonical s) (c k : Nat) : Canonical (s.strmArrive c k) := by
  unfold State.strmArrive
  grind [Canonical.updStrm, Canonical.putStrm, Canonical.startRead, Canonical.sendSave]

theorem canonical_strmIssue (h : Nat) {body : State → Option (Nat × Strm) → Eff} {s : State} (hb : ∀ t, (body s t).Canonical) :
    (strmIssue h body s).Canonical := by
  unfold strmIssue
  split
  exacts [trivial, hb _]

theorem canonical_openIssue (h : Nat) {body : State → Nat → Strm → Eff} {s : State} (hb : ∀ k t, (body s k t).Canonical) :
    (openIssue h body s).Canonical :=
  canonical_strmIssue h fun t => by grind [Eff.Canonical, Eff.flt]

theorem canonical_defIssue (hs : Canonical s) (i : Instr) (f : Fields) (n : Nat) (sh : Shape) :
    (defIssue i f n s sh).Canonical := by
  unfold defIssue
  refine canonical_strmIssue _ fun t => ?_
  grind [Canonical.detach, Canonical.sendReq, Canonical.updStrm, Canonical.putStrm, Eff.Canonical, Eff.flt]

theorem canonical_consume (hs : Canonical s) (i : Instr) (count : Nat) (sh : Shape) (k : Nat) (t : Strm) :
    (consume i count s sh k t).Canonical := by
  unfold consume
  grind [Canonical.detach, Canonical.updStrm, Eff.Canonical, Eff.flt]

theorem Canonical.openGen (hs : Canonical s) (c : Nat) : Canonical (s.openGen c) := hs

theorem Canonical.strmCtl (hs : Canonical s) (c x : Nat) (d : DetOp) (ht : s.strmCtl c x d = some t) : Canonical t := by
  unfold State.strmCtl at ht
  grind [Canonical.endDet, Canonical.putStrm, Canonical.failOp, Canonical.openGen, Canonical.updStrm, Canonical.startRead,
    Canonical.updDet, Canonical.endPos]

theorem Canonical.consumeEnd (hs : Canonical s) (c x : Nat) (d : DetOp) (ht : s.consumeEnd c x d = some t) : Canonical t := by
  unfold State.consumeEnd at ht
  grind [Canonical.updDet, Canonical.updStrm, Canonical.endPos, Canonical.failOp]

theorem Canonical.tellStrm (hs : Canonical s) (c k : Nat) : Canonical (s.tellStrm c k) := by
  unfold State.tellStrm
  grind [Canonical.updStrm]

end Sys2Proof.Machine
end

section
/-!
SUPPORT. Memory stays canonical (R141): strands that come and go, arrivals, waits, the pick of an instruction and events.
-/
namespace Sys2Proof.Machine

variable {s t : State}

theorem Canonical.carryBad {rs : List Nat} {e : Eff} (he : s.carryBad rs = some e) : e.Canonical := by
  simp only [State.carryBad, Option.map_eq_some_iff] at he
  obtain ⟨j, -, rfl⟩ := he
  trivial

theorem Canonical.spawnEnd (hs : Canonical s) (c x : Nat) (d : DetOp) : Canonical (s.spawnEnd c x d) := by
  unfold State.spawnEnd
  grind [Canonical.failOp, Canonical.pushRec, Canonical.endDet]

theorem Canonical.sptSave (hs : Canonical s) (imm : BitVec 40) (ht : s.sptSave imm = some t) : Canonical t := by
  unfold State.sptSave at ht
  grind [Canonical.pushRec, Canonical.freeCtx, Canonical.writeSpill, Canonical.updCore]

theorem Canonical.leaveFor (hs : Canonical s) (sh : Shape) (dst kind : Nat) (ea : Word) (d sz : Nat) (regs : List Nat)
    (held : Option FaultInfo) : Canonical (s.leaveFor sh dst kind ea d sz regs held) := hs

theorem Canonical.postPub (hs : Canonical s) (sh : Shape) (v : Word) : Canonical (s.postPub sh v) := hs

theorem Canonical.nbrStore (hs : Canonical s) {c x : Nat} {d : DetOp} {j : Nat} (ht : s.nbrStore c x d j = some t) :
    Canonical t := by
  have hh : Canonical { s with cur := c, cx := x } := hs
  unfold State.nbrStore at ht
  split at ht
  · cases ht
  · cases ht
    split
    · exact hs.failOp _ _ _ _ _ _ _
    · exact (hh.updDet c x d.id (fun d => { d with left := 1, st := .pending })).sendReq d.id _ 0

theorem Canonical.nbrStep (hs : Canonical s) (c x : Nat) (d : DetOp) (ht : s.nbrStep c x d = some t) : Canonical t := by
  unfold State.nbrStep at ht
  grind [Canonical.updDet, Canonical.nbrStore]

theorem Canonical.orphanAtBind (hs : Canonical s) (c x : Nat) : Canonical (s.orphanAtBind c x) := by
  unfold State.orphanAtBind
  grind [Canonical.exitStrand]

theorem Canonical.freeSvb (hs : Canonical s) (r : Record) (m : Meta) : Canonical (s.freeSvb r m) := by
  unfold State.freeSvb
  grind [Canonical.updCore]

theorem Canonical.bindEntry (hs : Canonical s) (c x : Nat) (r : Record) (ra : Nat) (m : Meta) (launchEntry : Bool) :
    Canonical (s.bindEntry c x r ra m launchEntry) := by
  unfold State.bindEntry
  grind [Canonical.freeSvb, Canonical.bindRecord, Canonical.updCtx, Canonical.orphanAtBind]

theorem Canonical.bindSor (hs : Canonical s) (c x : Nat) (e : SorEnt) : Canonical (s.bindSor c x e) := by
  unfold State.bindSor
  grind [Canonical.updCore, Canonical.bindPacket, Canonical.orphanAtBind, Canonical.bindEntry, Canonical.report]

theorem Canonical.bindOne (hs : Canonical s) (c : Nat) (ht : s.bindOne c = some t) : Canonical t := by
  unfold State.bindOne at ht
  grind [Canonical.updCore, Canonical.bindSor, Canonical.bindEntry]

theorem Canonical.stealOne (hs : Canonical s) (c : Nat) (ht : s.stealOne c = some t) : Canonical t := by
  unfold State.stealOne at ht
  grind [Canonical.updCore, Canonical.bindEntry]

theorem Canonical.entryTakeable (hs : Canonical s) (c i : Nat) (ht : s.entryTakeable c i = some t) : Canonical t := by
  unfold State.entryTakeable at ht
  grind [Canonical.updCore]

theorem Canonical.senderLeaves (hs : Canonical s) (o : Offer) : Canonical (s.senderLeaves o) := by
  unfold State.senderLeaves
  grind [Canonical.freeCtx]

theorem Canonical.sorusArrive (hs : Canonical s) (c : Nat) (ht : s.sorusArrive c = some t) : Canonical t := by
  unfold State.sorusArrive at ht
  grind [Canonical.updCore, Canonical.senderLeaves, Canonical.holdPkt, Canonical.winStore]

theorem Canonical.sorusRefill (hs : Canonical s) (c : Nat) (ht : s.sorusRefill c = some t) : Canonical t := by
  unfold State.sorusRefill at ht
  grind [Canonical.updCore, Canonical.holdPkt]

theorem Canonical.lastCk (hs : Canonical s) {f : State → Option State} (hf : ∀ {s t}, Canonical s → f s = some t → Canonical t)
    (ht : s.lastCk f = some t) : Canonical t := by
  simp only [State.lastCk, Option.map_eq_some_iff] at ht
  obtain ⟨u, hu, rfl⟩ := ht
  have hc : Canonical { s with cycles := s.cycles - 1 } := hs
  have hu : Canonical u := hf hc hu
  exact hu

theorem Canonical.sentFault (hs : Canonical s) (c x code : Nat) (addr aux : Word) : Canonical (s.sentFault c x code addr aux) := by
  unfold State.sentFault
  grind [Canonical.updMe, Canonical.enterTrap, Canonical]

theorem Canonical.offerExpire (hs : Canonical s) (c i : Nat) (ht : s.offerExpire c i = some t) : Canonical t := by
  unfold State.offerExpire at ht
  grind [Canonical.updCore, Canonical.sentFault]

theorem Canonical.putCounter (hs : Canonical s) (a v : Nat) : Canonical (s.putCounter a v) := by
  unfold State.putCounter
  grind [Mem.wf_write, Canonical]

theorem Canonical.goOn (hs : Canonical s) (c x : Nat) : Canonical (s.goOn c x) := by
  unfold State.goOn
  grind [Canonical.updMe, Canonical.replayDone, Canonical]

theorem Canonical.joinStep (hs : Canonical s) (k : Nat) (ht : s.joinStep k = some t) : Canonical t := by
  unfold State.joinStep at ht
  grind [Canonical.dropPkt, Canonical.sentFault, Canonical.putCounter, Canonical.goOn, Canonical.freeCtx, Mem.wf_store, Canonical]

theorem Canonical.decStep (hs : Canonical s) (k : Nat) (ht : s.decStep k = some t) : Canonical t := by
  unfold State.decStep at ht
  grind [Canonical.dropPkt, Canonical.putCounter, Canonical.offer, Canonical]

theorem Canonical.parkStep (hs : Canonical s) (k : Nat) (ht : s.parkStep k = some t) : Canonical t := by
  unfold State.parkStep at ht
  grind [canonical_performFe, Canonical.dropPkt, Canonical.sentFault, Canonical.offer, Canonical.freeCtx, Canonical]

theorem Canonical.splitCell (hs : Canonical s) (pid core : Nat) (ht : s.splitCell pid core = some t) : Canonical t := by
  unfold State.splitCell at ht
  grind [Canonical.updPart, Canonical.updCore, Canonical.updCtx, Canonical.foldl]

theorem Canonical.splitEnd (hs : Canonical s) (pid : Nat) (ht : s.splitEnd pid = some t) : Canonical t := by
  unfold State.splitEnd at ht
  grind [Canonical.updPart]

theorem Canonical.present (hs : Canonical s) (c x : Nat) : Canonical (s.present c x).1 := by
  unfold State.present
  grind [Canonical.fetch, Canonical]

theorem Canonical.detEnd (hs : Canonical s) {c x : Nat} {d : DetOp} (ht : s.detEnd c x d = some t) : Canonical t := by
  unfold State.detEnd at ht
  dsimp only at ht
  split at ht
  · grind [Canonical.tileStep]
  split at ht
  · grind [Canonical.tprogDone]
  split at ht
  · exact hs.consumeEnd c x d ht
  split at ht
  · exact hs.strmCtl c x d ht
  split at ht
  · exact hs.redCfgEnd c x d ht
  split at ht
  · cases ht
  split at ht
  · grind [Canonical.redPostEnd, Canonical.redGetEnd, Canonical.nbrStep]
  · grind [Canonical.failOp, Canonical.updCtx]
  · grind [Canonical.nbrStep, Canonical.spawnEnd, Canonical.endPos]

theorem Canonical.complete (hs : Canonical s) (c x id : Nat) (ht : s.complete c x id = some t) : Canonical t := by
  unfold State.complete at ht
  grind [Canonical.detEnd]

theorem Canonical.postedFault (hs : Canonical s) (c x id : Nat) (ht : s.postedFault c x id = some t) : Canonical t := by
  unfold State.postedFault at ht
  grind [Canonical.updCtx, Canonical.report]

theorem Canonical.reserveStep (hs : Canonical s) (k c x op : Nat) : Canonical (s.reserveStep k c x op) := by
  unfold State.reserveStep
  grind [Canonical.dropPkt, Canonical.settleLate, canonical_vcvtBody, Canonical]

theorem Canonical.pointerUsed (s : State) {t : State} (ht : Canonical t) (k : Nat) : Canonical (s.pointerUsed t k) := by
  unfold State.pointerUsed
  split
  · split <;> exact ht
  · exact ht

theorem Canonical.ownStep (hs : Canonical s) {k : Nat} (ht : s.ownStep k = some t) : Canonical t := by
  unfold State.ownStep at ht
  split at ht
  · split at ht
    · cases ht
    dsimp only at ht
    split at ht
    · cases ht
      exact hs.keepRecords _ _
    split at ht
    · cases ht
      refine Canonical.pointerUsed s ?_ k
      exact hs.keepRecords _ _
    · cases ht
  · cases ht

theorem Canonical.homeStep (hs : Canonical s) {k : Nat} (ht : s.homeStep k = some t) : Canonical t := by
  unfold State.homeStep at ht
  split at ht
  · split at ht
    · cases ht
    split at ht
    · cases ht
    split at ht
    · cases ht
      exact hs.reserveStep _ _ _ _
    split at ht
    · cases ht
    split at ht
    · cases ht
      exact hs.walkTo _ _ _
    split at ht
    · cases ht
      exact hs.performOwned _
    split at ht
    · cases ht
    next u hk =>
      have hu := hs.recordKept _ _ hk
      grind [Canonical.perform, Canonical.pointerUsed, Canonical.dropPkt, Canonical.answer, Canonical.answerFault, Canonical.send,
        Canonical]
  · cases ht

theorem Canonical.noticeStep (hs : Canonical s) (k : Nat) (ht : s.noticeStep k = some t) : Canonical t := by
  unfold State.noticeStep at ht
  grind [Canonical.dropPkt, Canonical.updDet]

theorem Canonical.wakeStep (hs : Canonical s) (k : Nat) (ht : s.wakeStep k = some t) : Canonical t := by
  unfold State.wakeStep at ht
  grind [Canonical.dropPkt, Canonical.updDet, Canonical.updCtx]

theorem Canonical.askBack (hs : Canonical s) (c x op why : Nat) : Canonical (s.askBack c x op why) := by
  unfold State.askBack
  grind [Canonical.updCtx, Canonical.send]

theorem Canonical.waitTrap (hs : Canonical s) (c x : Nat) (why : WaitWhy) : Canonical (s.waitTrap c x why) := by
  unfold State.waitTrap
  grind [Canonical.present, Canonical.enterTrap, Canonical]

theorem Canonical.limitEnd (hs : Canonical s) (c x : Nat) (ht : s.limitEnd c x = some t) : Canonical t := by
  unfold State.limitEnd at ht
  grind [Canonical.waitTrap, Canonical.askBack]

theorem Canonical.withdrawStep (hs : Canonical s) (k : Nat) (ht : s.withdrawStep k = some t) : Canonical t := by
  unfold State.withdrawStep at ht
  grind [Canonical.dropPkt, Canonical.updDet, Canonical.updMyCore, Canonical.stopTile, Canonical.fallbackAt, Canonical.updMe,
    Canonical]

theorem Canonical.turnBack (hs : Canonical s) (c x why : Nat) : Canonical (s.turnBack c x why) := by
  unfold State.turnBack
  grind [Canonical.updCtx, Canonical.updCore, Canonical.fallbackAt, Canonical.sentFault]

theorem Canonical.release (hs : Canonical s) {c x why : Nat} {take : State → State}
    (hk : ∀ {s}, Canonical s → Canonical (take s)) (ht : s.release c x why take = some t) : Canonical t := by
  unfold State.release at ht
  grind [Canonical.updCore, Canonical.turnBack, Canonical.present, Canonical.askBack, Canonical]

theorem Canonical.ipiStep (hs : Canonical s) (c x : Nat) (ht : s.ipiStep c x = some t) : Canonical t := by
  unfold State.ipiStep at ht
  grind [Canonical.release, Canonical.takeIpi]

theorem Canonical.overdueStep (hs : Canonical s) (c x : Nat) (ht : s.overdueStep c x = some t) : Canonical t := by
  unfold State.overdueStep at ht
  grind [Canonical.release, Canonical.takeOverdue]

theorem Canonical.preemptStep (hs : Canonical s) {c : Nat} (ht : s.preemptStep c = some t) : Canonical t := by
  unfold State.preemptStep at ht
  dsimp only at ht
  split at ht
  · cases ht
  · obtain ⟨x, -, rfl⟩ := Option.map_eq_some_iff.1 ht
    exact hs.updCore _ _

theorem Canonical.trapStep (hs : Canonical s) (c x : Nat) (ht : s.trapStep c x = some t) : Canonical t := by
  unfold State.trapStep at ht
  grind [Canonical.trapEntry, Canonical]

theorem Canonical.notRetired (hs : Canonical s) (c : Nat) (p : Retiring) (code : Nat) (addr : Word) :
    Canonical (s.notRetired c p code addr) := hs

theorem Canonical.actNow (hs : Canonical s) (c : Nat) (p : Retiring) : Canonical (s.actNow c p) := by
  unfold State.actNow
  grind [Canonical.notRetired, Canonical.pushRec, Canonical.qPush, Canonical.putHdl, Canonical.updCtx, Canonical.putReg,
    Canonical.setFull, Canonical]

theorem Canonical.actsNow (hs : Canonical s) (c : Nat) : Canonical (s.actsNow c) := by
  unfold State.actsNow
  grind [Canonical.actNow, Canonical.updCore, Canonical.foldl]

theorem Canonical.requestEnd (hs : Canonical s) (c : Nat) : Canonical (s.requestEnd c) := by
  unfold State.requestEnd
  grind [Canonical.updCore]

theorem Canonical.waitsEnd (hs : Canonical s) (c x : Nat) : Canonical (s.waitsEnd c x) := by
  unfold State.waitsEnd
  cases h : s.lastCk (fun s => (s.overdueStep c x).orElse (fun _ => (s.ipiStep c x).orElse (fun _ => s.limitEnd c x))) with
  | none => exact hs
  | some t =>
    refine hs.lastCk (fun {s t} hs ht => ?_) h
    grind [Option.or_eq_some_iff, Canonical.overdueStep, Canonical.ipiStep, Canonical.limitEnd]

theorem Canonical.tick (hs : Canonical s) : Canonical s.tick := by
  unfold State.tick
  extract_lets s₁ s₂ s₃ s₄ all s₅ s₆
  have h₂ : Canonical s₂ := Canonical.foldl (fun _ _ h => h.actsNow _) _ (s := s₁) hs
  clear_value s₂
  have h₄ : Canonical s₄ := h₂
  clear_value s₄
  have h₅ : Canonical s₅ := Canonical.foldl (fun _ _ h => h.waitsEnd _ _) _ h₄
  have h₆ : Canonical s₆ := by
    refine Canonical.foldl (fun s c h => Canonical.foldl (fun s i h => ?_) _ h) _ h₅
    cases hl : s.lastCk (fun s => s.offerExpire c i) with
    | none => exact h
    | some t => exact h.lastCk (fun h => h.offerExpire c i) hl
  exact (Canonical.foldl (fun _ _ h => h.requestEnd _) _ h₆).leaseSweep

end Sys2Proof.Machine
end

section
/-!
SUPPORT. Memory stays canonical (R141): hypotheses, launches and system instructions.
-/
namespace Sys2Proof.Machine

variable {s t : State}

theorem Canonical.hypValue (hs : Canonical s) (r : Resolve) (v extra : Nat) (st : OpSt) : Canonical (s.hypValue r v extra st) := hs

theorem Canonical.startResolve (hs : Canonical s) (pid fuel : Nat) : Canonical (s.startResolve pid fuel) := by
  induction fuel generalizing s with
  | zero => exact hs
  | succ fuel ih =>
    rw [State.startResolve]
    split
    · exact hs
    split
    · exact hs
    dsimp only
    split
    · exact ih ((hs.updDet _ _ _ _).updPart _ _)
    · exact ih ((hs.hypValue _ _ _ _).updPart _ _)
    · exact (hs.hypValue _ _ _ _).updPart _ _

theorem Canonical.endResolve (hs : Canonical s) (pid : Nat) : Canonical (s.endResolve pid) := by
  unfold State.endResolve
  grind [Canonical.updDet, Canonical.updPart, Canonical.startResolve, Canonical]

theorem Canonical.submitChange (hs : Canonical s) (asid node kind op : Nat) : Canonical (s.submitChange asid node kind op) := by
  unfold State.submitChange
  grind [Canonical.updPart, Canonical.startResolve, Canonical.endResolve, Canonical]

theorem Canonical.commitVersion (hs : Canonical s) (key : Nat) (v : VLine) : Canonical (s.commitVersion key v) := by
  unfold State.commitVersion
  grind [Canonical.recall, Canonical.holdLine, Canonical.sliceRoom, Canonical.putSlice, Canonical.pass, Canonical.foldl]

theorem Canonical.mergeVersion (hs : Canonical s) (asid parent vk : Nat) : Canonical (s.mergeVersion asid parent vk) := by
  unfold State.mergeVersion
  grind [Canonical.commitVersion, Canonical.putVer, Canonical]

theorem Canonical.resolveSlice (hs : Canonical s) (pid slice : Nat) : Canonical (s.resolveSlice pid slice) := by
  unfold State.resolveSlice
  grind [Canonical.updPart, Canonical.mergeVersion, Canonical.endResolve, Canonical.foldl, Canonical]

theorem Canonical.resolveCore (hs : Canonical s) (pid core : Nat) : Canonical (s.resolveCore pid core) := by
  unfold State.resolveCore
  grind [Canonical.updPart, Canonical.endResolve]

theorem Canonical.dropHyp (hs : Canonical s) (pid asid : Nat) : Canonical (s.dropHyp pid asid) := hs

theorem canonical_hypDet (hs : Canonical s) (i : Instr) (f : Fields) (kind n : Nat) (sh : Shape) :
    (hypDet i f kind n s sh).Canonical := by
  unfold hypDet
  grind [Canonical.detach, Canonical.submitChange, Eff.Canonical, Eff.flt]

theorem Canonical.dropSpace (hs : Canonical s) (pid asid : Nat) : Canonical (s.dropSpace pid asid) := hs

theorem Canonical.putCtrl (hs : Canonical s) (pid off n v : Nat) : Canonical (s.putCtrl pid off n v) := by
  unfold State.putCtrl
  grind [Canonical.recall, Canonical.putSlice, Canonical.foldl, Mem.wf_write, Canonical]

theorem canonical_readPlace (hs : Canonical s) (w : Who) (a j n : Nat) : Canonical (readPlace s w a j n).1 := by
  induction n generalizing s j with
  | zero => exact hs
  | succ n ih =>
    rw [readPlace]
    grind [Canonical.readAt]

theorem Canonical.acceptRecord (hs : Canonical s) (pid : Nat) (l : BitVec 1024) : Canonical (s.acceptRecord pid l) := by
  unfold State.acceptRecord
  dsimp only
  split
  · exact hs.post _ _
  have hp : Canonical (if lrPlist l then readPlace s (s.rhizoid pid false) (fld l 320 64) 0 (lrCount l) else (s, some [])).1 := by
    split
    · exact canonical_readPlace hs _ _ _ _
    · exact hs
  split
  next s₁ he => rw [he] at hp; exact Canonical.post hp _ _
  next s₁ cores he =>
    rw [he] at hp
    split
    · exact Canonical.post hp _ _
    have hq := Canonical.scopesAt hp (s.rhizoid pid false) (fld l 448 64)
    split
    next s₂ _ he => rw [he] at hq; exact Canonical.post hq _ _
    next s₂ _ he => rw [he] at hq; exact hq

theorem Canonical.acceptNext (hs : Canonical s) (pid : Nat) (ht : s.acceptNext pid = some t) : Canonical t := by
  unfold State.acceptNext at ht
  split at ht
  · cases ht
  dsimp only at ht
  split at ht
  · cases ht
  have hr := fun w a n l => Canonical.readAt hs w a n l
  split at ht
  · cases ht
  next s₁ v he =>
    split at ht
    · cases ht
    cases ht
    have h₁ := congrArg Prod.fst he ▸ hr _ _ _ _
    exact (h₁.putCtrl _ _ _ _).acceptRecord _ _

theorem Canonical.putLaunch (hs : Canonical s) (pid seq : Nat) (l : Launch) : Canonical (s.putLaunch pid seq l) := hs

theorem Canonical.pushEntry (hs : Canonical s) (pid seq : Nat) (ht : s.pushEntry pid seq = some t) : Canonical t := by
  unfold State.pushEntry at ht
  grind [Canonical.putLaunch, Canonical.bindRecord, Canonical.pushRec]

theorem Canonical.prefetchLine (hs : Canonical s) (w : Who) (va lease : Nat) : Canonical (s.prefetchLine w va lease) := by
  unfold State.prefetchLine
  grind [Canonical.redirect, Canonical.bringLine]

theorem canonical_eachEntry {f : State → Nat → State} (hf : ∀ s v, Canonical s → Canonical (f s v)) {s : State} (hs : Canonical s)
    (w : Who) (a j n : Nat) : Canonical (eachEntry f w a s j n) := by
  induction n generalizing s j with
  | zero => exact hs
  | succ n ih =>
    rw [eachEntry]
    grind [Canonical.readAt]

theorem Canonical.prefetchAll (hs : Canonical s) (pid seq : Nat) (ht : s.prefetchAll pid seq = some t) : Canonical t := by
  unfold State.prefetchAll at ht
  split at ht
  · cases ht
  split at ht
  · cases ht
  cases ht
  exact canonical_eachEntry (fun u v hu => Canonical.foldl (fun t b ht => ht.prefetchLine _ _ _) _ hu) (hs.putLaunch _ _ _) _ _ _ _

theorem canonical_discLines (hs : Canonical s) (w : Who) (l : List Nat) : Canonical (discLines w s l).1 := by
  induction l generalizing s with
  | nil => exact hs
  | cons a l ih =>
    rw [discLines]
    grind [canonical_performDisc, Canonical.clearHost]

theorem canonical_deadRange (w : Who) {st : State × Nat} (hs : Canonical st.1) (e : Nat) : Canonical (deadRange w st e).1 := by
  unfold deadRange
  grind [canonical_discLines]

theorem canonical_deadRanges (w : Who) (a : Nat) {st : State × Nat} (hs : Canonical st.1) (j n : Nat) :
    Canonical (deadRanges w a st j n).1 := by
  induction n generalizing st j with
  | zero => exact hs
  | succ n ih =>
    obtain ⟨s, code⟩ := st
    rw [deadRanges]
    have hr := Canonical.readAt hs w (a + 16 * j) 16 3
    grind [canonical_deadRange]

theorem Canonical.endLaunch (hs : Canonical s) (pid seq : Nat) (ht : s.endLaunch pid seq = some t) : Canonical t := by
  unfold State.endLaunch at ht
  grind [canonical_deadRanges, Canonical.putLaunch, Canonical.post]

theorem Canonical.putEvent (hs : Canonical s) (pid a n v : Nat) : Canonical (s.putEvent pid a n v) := by
  unfold State.putEvent
  grind [Canonical.hwWrite, Canonical.passStore, Canonical.redirect, Canonical]

theorem Canonical.postEvent (hs : Canonical s) (pid : Nat) (ht : s.postEvent pid = some t) : Canonical t := by
  unfold State.postEvent at ht
  grind [Canonical.hostSeenOf, Canonical.putEvent, Canonical.putCtrl, Canonical.updPart]

theorem canonical_sysOp (hs : Canonical s) {body : State → Shape → Eff} (hb : ∀ s sh, Canonical s → (body s sh).Canonical)
    (sh : Shape) : (sysOp body s sh).Canonical := by
  unfold sysOp
  split
  · exact hb _ _ hs
  · trivial

theorem Canonical.dropTrans (hs : Canonical s) (pid : Nat) (all : Bool) (asid a n : Nat) :
    Canonical (s.dropTrans pid all asid a n) := hs

theorem canonical_xinvOf (hs : Canonical s) (all : Bool) (f : Fields) (x : Shape) : (xinvOf all f s x).Canonical := by
  unfold xinvOf
  grind [Canonical.dropTrans, Eff.Canonical, Eff.flt]

theorem Canonical.sweepLine (hs : Canonical s) (key : Nat) : Canonical (s.sweepLine key).1 := by
  unfold State.sweepLine
  refine Canonical.foldl_fst ?_ _ hs
  rintro ⟨u, bad, m, d⟩ c hu
  dsimp only
  split
  · exact hu
  · exact Canonical.l1Drop hu _ _

theorem Canonical.setMode (hs : Canonical s) (pid asid p : Nat) (sw : Bool) : Canonical (s.setMode pid asid p sw).1 := by
  unfold State.setMode
  split
  · exact hs
  dsimp only
  refine Canonical.foldl_fst (p := (s, none)) ?_ (s.pageLines pid asid p) hs
  intro q k hq
  split
  · exact hq.recall _
  · exact hq.sweepLine _

theorem canonical_rmodeOf (hs : Canonical s) (sw : Bool) (f : Fields) (x : Shape) : (rmodeOf sw f s x).Canonical := by
  unfold rmodeOf
  dsimp only
  split
  · trivial
  split
  · exact hs
  split
  · trivial
  have h : ∀ (q : State × Option Nat) j, Canonical q.1 → Canonical ((fun (st : State × Option Nat) j =>
      let (s', b) := st.1.setMode (s.pidOf s.cur) s.me.asid.toNat ((s.gOp 1 f.a).toNat / 2 ^ 16 + j) sw
      (s', st.2.orElse (fun _ => b))) q j).1 := fun q j hq => hq.setMode _ _ _ _
  have hf := Canonical.foldl_fst h (List.range ((s.gOp 2 f.b).toNat / 2 ^ 16)) (p := (s, none)) hs
  split
  · exact Canonical.post hf _ _
  · exact hf

theorem canonical_readStandby (hs : Canonical s) (w : Who) (pid a j n : Nat) : Canonical (readStandby s w pid a j n).1 := by
  induction n generalizing s j with
  | zero => exact hs
  | succ n ih =>
    rw [readStandby]
    grind [Canonical.readChecked]

theorem canonical_readCells (hs : Canonical s) (w : Who) (pid a : Nat) (stby : List Nat) (l : List Cell) (n : Nat) :
    Canonical (readCells s w pid a stby l n).1 := by
  induction n generalizing s l with
  | zero => exact hs
  | succ n ih =>
    rw [readCells]
    grind [Canonical.readChecked]

theorem Canonical.readMap (hs : Canonical s) (w : Who) (pid a : Nat) : Canonical (s.readMap w pid a).1 := by
  unfold State.readMap
  grind [Canonical.readAt, canonical_readStandby, Canonical.readChecked, canonical_readCells]

theorem Canonical.installMap (hs : Canonical s) (pid : Nat) (m : CellMap) : Canonical (s.installMap pid m) := by
  unfold State.installMap
  grind [Canonical.updPart, Canonical.updCore, Canonical.updCtx, Canonical.foldl]

theorem Canonical.retireCore (hs : Canonical s) (c : Nat) : Canonical (s.retireCore c).1 := by
  unfold State.retireCore
  grind [Canonical.updCore, Canonical.updCluster]

theorem Canonical.laneFail (hs : Canonical s) (n : Nat) : Canonical (s.laneFail n).1 := by
  unfold State.laneFail
  extract_lets r spared put lost u w dead
  have hput : ∀ t v, Canonical t → Canonical (put t v) := fun _ _ ht => ht
  have hu : Canonical u := hs
  have hw : Canonical w := hput _ _ hu
  clear_value put u w
  split
  · exact hs
  split
  · exact hput _ _ hs
  split
  · exact hput _ _ hu
  dsimp only
  split
  · exact Canonical.foldl (fun t e ht => ht.post _ _) _ hw
  · exact hw

theorem Canonical.retireSel (hs : Canonical s) (sel : Word) (spare : Bool) : Canonical (s.retireSel sel spare).1 := by
  unfold State.retireSel
  grind [Canonical.retireCore, Canonical.laneFail, Canonical]

theorem Canonical.selfTest (hs : Canonical s) (sel : Word) (probe : Bool) : Canonical (s.selfTest sel probe).1 := by
  unfold State.selfTest
  grind [Canonical.retireSel, Canonical]

theorem Canonical.loadImage (hs : Canonical s) (v : Nat) : Canonical (s.loadImage v) := by
  unfold State.loadImage
  grind [Canonical.setFull, Canonical.updMe, Canonical.updMyCore, Canonical.foldl]

end Sys2Proof.Machine
end

section
/-!
SUPPORT. Memory stays canonical (R141): the fabric, its errors and bring-up, and special registers.
-/
namespace Sys2Proof.Machine

variable {s t : State}

theorem Canonical.getD {o : Option State} (hs : Canonical s) (ho : ∀ t, o = some t → Canonical t) :
    Canonical (o.getD s) := by
  cases o with
  | none => exact hs
  | some t => exact ho t rfl

theorem Canonical.walkFor (hs : Canonical s) (k : Nat) (ht : s.walkFor k = some t) : Canonical t := by
  unfold State.walkFor at ht
  obtain ⟨⟨c, r, a⟩, -, rfl⟩ := Option.map_eq_some_iff.mp ht
  exact hs.walkTo _ _ _

theorem Canonical.remapFor (hs : Canonical s) (k : Nat) (ht : s.remapFor k = some t) : Canonical t := by
  unfold State.remapFor at ht
  obtain ⟨⟨c, r, a⟩, -, rfl⟩ := Option.map_eq_some_iff.mp ht
  exact hs.redirect _ _ _ _ _

theorem Canonical.fetchFor (hs : Canonical s) (k : Nat) (ht : s.fetchFor k = some t) : Canonical t := by
  unfold State.fetchFor at ht
  obtain ⟨⟨c, r, a⟩, -, ht⟩ := Option.bind_eq_some_iff.mp ht
  dsimp only at ht
  split at ht
  · cases ht
  · cases ht
    exact hs.reach _ _ _ _

theorem Canonical.readFor (hs : Canonical s) (k : Nat) (ht : s.readFor k = some t) : Canonical t := by
  unfold State.readFor at ht
  grind [Canonical.readMiss]

theorem Canonical.ownFor (hs : Canonical s) (k : Nat) (ht : s.ownFor k = some t) : Canonical t := by
  unfold State.ownFor at ht
  grind [Canonical.putSlice, Canonical.pointerUsed, Canonical.ownLine]

theorem Canonical.extendFor (hs : Canonical s) (k : Nat) (ht : s.extendFor k = some t) : Canonical t := by
  unfold State.extendFor at ht
  grind [Canonical.extend]

theorem Canonical.l1Back (hs : Canonical s) (c key : Nat) (drop : Bool) (ht : s.l1Back c key drop = some t) : Canonical t := by
  unfold State.l1Back at ht
  grind [Canonical.l1Drop, Canonical.l1Clean]

theorem Canonical.evictLine (hs : Canonical s) (key : Nat) (ht : s.evictLine key = some t) : Canonical t := by
  unfold State.evictLine at ht
  grind [Canonical.putSlice, Canonical.evict]

theorem Canonical.hostReq (hs : Canonical s) (pid va : Nat) (acc : AccKind) (image : List Byte)
    (ht : s.hostReq pid va acc image = some t) : Canonical t := by
  unfold State.hostReq at ht
  grind [Canonical.reach, Canonical.post, Canonical.recall, Canonical.keepRecords, Canonical.sliceWrite, Canonical.passStore,
    Canonical.putSlice]

theorem Canonical.hostReply (hs : Canonical s) (key : Nat) (ht : s.hostReply key = some t) : Canonical t := by
  unfold State.hostReply at ht
  grind [Canonical.putSlice]

theorem Canonical.hostSnoop (hs : Canonical s) (key : Nat) (inval : Bool) (ht : s.hostSnoop key inval = some t) : Canonical t := by
  unfold State.hostSnoop at ht
  grind [Canonical.evict, Canonical.recall, Canonical.l1Clean, Canonical.putL1, Canonical.toMemory, Canonical.putSlice,
    Canonical.foldl]

theorem Canonical.expanderSnoop (hs : Canonical s) (key : Nat) (ht : s.expanderSnoop key = some t) : Canonical t := by
  unfold State.expanderSnoop at ht
  grind [Canonical.putSlice, Canonical.evict]

theorem Canonical.logged (hs : Canonical s) (kind what : Nat) : Canonical (s.logged kind what) := hs

theorem Canonical.badRegister (hs : Canonical s) (c x code : Nat) : Canonical (s.badRegister c x code) := by
  unfold State.badRegister
  grind [Canonical.updCore, Canonical.updCtx]

theorem Canonical.spoil (hs : Canonical s) (e : EvArgs) : Canonical (s.spoil e) := by
  unfold State.spoil
  grind [Canonical.putSlice, Canonical.badRegister, Canonical.putL1, Canonical.updCore, Canonical.putVer, Mem.wf_setBad, Canonical]

theorem Canonical.softError (hs : Canonical s) (e : EvArgs) (sel : Word) : Canonical (s.softError e sel) := by
  unfold State.softError
  grind [Canonical.spoil, Canonical]

theorem Canonical.runTest (hs : Canonical s) (sel : Word) (ht : s.runTest sel = some t) : Canonical t := by
  unfold State.runTest at ht
  grind [Canonical.selfTest, Canonical.logged, Canonical]

theorem Canonical.unread (hs : Canonical s) (c : Nat) (e : Nat × Nat) : Canonical (s.unread c e) := by
  unfold State.unread
  grind [Canonical.badRegister, Canonical.updCore, Canonical.updCtx, Mem.wf_setBad, Canonical]

theorem Canonical.retireRunning (hs : Canonical s) (c : Nat) (lost : List (Nat × Nat)) : Canonical (s.retireRunning c lost) := by
  unfold State.retireRunning
  grind [Canonical.retireCore, Canonical.unread, Canonical.foldl]

theorem Canonical.giveUp (hs : Canonical s) (k : Nat) (m : Msg) : Canonical (s.giveUp k m) := by
  unfold State.giveUp
  grind [Canonical.dropPkt, Canonical.answerFault, Canonical.sentFault]

theorem Canonical.sendAgain (hs : Canonical s) (which : List Nat) : Canonical (s.sendAgain which) := by
  unfold State.sendAgain
  grind [Canonical.logged, Canonical.foldl, Canonical]

theorem Canonical.resend (hs : Canonical s) (k : Nat) (ht : s.resend k = some t) : Canonical t := by
  unfold State.resend at ht
  grind [Canonical.giveUp, Canonical.sendAgain]

theorem Canonical.receive (hs : Canonical s) (k how port : Nat) (head : Option Word)
    (ht : s.receive k how port head = some t) : Canonical t := by
  unfold State.receive at ht
  split at ht
  · cases ht
  split at ht
  · cases ht
  split at ht
  · cases ht
    have h₁ : ∀ u : State, Canonical u → Canonical (if how = 2 then u.logged 4 port else u) := by grind [Canonical.logged]
    exact h₁ _ hs
  extract_lets s₁ s₂ at ht
  have h₁ : Canonical s₁ := by
    dsimp only [s₁]
    split
    · exact hs.logged _ _
    · exact hs
  have h₂ : Canonical s₂ := by
    dsimp only [s₂]
    split
    · exact h₁
    · exact h₁
  clear_value s₁ s₂
  split at ht
  · cases ht
    exact h₂.getD (fun t => h₂.resend _)
  · cases ht
    exact h₂

theorem Canonical.loseOffer (hs : Canonical s) (c i how port : Nat) (ht : s.loseOffer c i how port = some t) : Canonical t := by
  unfold State.loseOffer at ht
  grind [Canonical.updCore, Canonical.logged]

theorem Canonical.resendOffer (hs : Canonical s) (c i : Nat) (ht : s.resendOffer c i = some t) : Canonical t := by
  unfold State.resendOffer at ht
  grind [Canonical.updCore, Canonical.sentFault, Canonical.logged, Canonical.foldl]

theorem Canonical.loseOther (hs : Canonical s) (e : EvArgs) (ht : s.loseOther e = some t) : Canonical t := by
  unfold State.loseOther at ht
  grind [Canonical.updCluster, Canonical.logged, Canonical.updCore, Canonical.updRound]

theorem Canonical.resendDue (hs : Canonical s) (k : Nat) (ht : s.resendDue k = some t) : Canonical t := by
  unfold State.resendDue at ht
  grind [Canonical.resend]

theorem Canonical.resendUnacked (hs : Canonical s) (k : Nat) (ht : s.resendUnacked k = some t) : Canonical t := by
  unfold State.resendUnacked at ht
  grind [Canonical.logged, Canonical.sendAgain, Canonical]

theorem Canonical.edgeFail (hs : Canonical s) (n : Nat) (spare : Bool) : Canonical (s.edgeFail n spare) := by
  unfold State.edgeFail
  grind [Canonical]

theorem Canonical.takeImage (hs : Canonical s) (agent kind : Nat) (image : List Byte) :
    Canonical (s.takeImage agent kind image) := by
  unfold State.takeImage
  grind [Canonical.logged, Canonical]

theorem Canonical.runSwitch (hs : Canonical s) (ht : s.runSwitch = some t) : Canonical t := by
  unfold State.runSwitch at ht
  split at ht
  · cases ht
  extract_lets v u at ht
  obtain ⟨kind, -, rfl⟩ := Option.map_eq_some_iff.mp ht
  have hu : Canonical u := hs
  exact hu.takeImage _ _ _

theorem Canonical.askSwitch (hs : Canonical s) (e : EvArgs) (ht : s.askSwitch e = some t) : Canonical t := by
  unfold State.askSwitch at ht
  split at ht
  · cases ht
  extract_lets u at ht
  have hu : Canonical u := hs
  clear_value u
  cases ht
  exact hu.getD (fun t => hu.runSwitch)

theorem Canonical.recover (hs : Canonical s) (image : List Byte) (ht : s.recover image = some t) : Canonical t := by
  unfold State.recover at ht
  grind [Canonical]

theorem Canonical.holdDie (hs : Canonical s) (d step : Nat) : Canonical (s.holdDie d step) := by
  unfold State.holdDie
  grind [Canonical.updCore, Canonical.logged, Canonical.foldl, Canonical]

theorem Canonical.agree (hs : Canonical s) (e : EvArgs) : Canonical (s.agree e) := by
  unfold State.agree
  grind [Canonical.logged, Canonical.foldl, Canonical]

theorem Canonical.trainLink (hs : Canonical s) (n lanes : Nat) : Canonical (s.trainLink n lanes) := by
  unfold State.trainLink
  grind [Canonical.laneFail, Canonical.foldl, Canonical]

theorem Canonical.bringUp (hs : Canonical s) (d : Nat) (e : EvArgs) (ht : s.bringUp d e = some t) : Canonical t := by
  unfold State.bringUp at ht
  extract_lets b pass l at ht
  have hp : ∀ u, Canonical u → pass u = some t → Canonical t := by
    intro u hu h
    cases h
    exact hu
  clear_value pass b
  split at ht
  · cases ht
  split at ht
  · split at ht
    · refine hp _ ?_ ht
      exact hs
    · exact Option.some.inj ht ▸ hs.holdDie d 1
  · split at ht
    · refine hp _ ?_ ht
      exact Canonical.foldl (fun u g hu => hu.retireSel _ _) _ hs
    · exact Option.some.inj ht ▸ hs.holdDie d 2
  · refine hp _ ?_ ht
    exact Canonical.foldl (fun u g hu => hu.retireSel _ _) _ hs
  · refine hp _ ?_ ht
    refine Canonical.foldl ?_ _ hs
    intro u g hu
    exact hu
  · split at ht
    · cases ht
    split at ht
    · cases ht
    split at ht
    · exact hp _ (hs.agree _) ht
    split at ht
    · exact hp _ hs ht
    · cases ht
  · exact hp _ hs ht
  · refine hp _ ?_ ht
    refine Canonical.foldl (fun u g hu => hu.trainLink _ _) _ ?_
    exact hs
  · cases ht

theorem Canonical.createPart (hs : Canonical s) (p : PartSpec) : Canonical (s.createPart p) := by
  unfold State.createPart
  grind [Mem.wf_write, Canonical]

theorem Canonical.throttleMove (hs : Canonical s) (ht : s.throttleMove = some t) : Canonical t := by
  unfold State.throttleMove at ht
  grind [Canonical]

theorem canonical_wrsrOf (hs : Canonical s) {f : Fields} {check : State → Word → Option Flt} {body : State → Word → Eff}
    (hb : ∀ s v, Canonical s → (body s v).Canonical) (x : Shape) : (wrsrOf f check body s x).Canonical := by
  unfold wrsrOf
  have hv := hb s (s.gOp 1 f.a) hs
  grind [Eff.Canonical, Eff.flt]

theorem canonical_wrsrPlain (hs : Canonical s) (f : Fields) (v : Word) : (wrsrPlain f s v).Canonical := by
  unfold wrsrPlain
  grind [Canonical.srWrite, Eff.Canonical]

end Sys2Proof.Machine
end

section
/-!
SUPPORT. Memory stays canonical (R141): the rows with bodies of their own.
-/
namespace Sys2Proof.Machine

variable {s t : State}

/-- What the machine goes on to is in canonical form. -/
def StaysCanonical (o : Host.Outcome State Fault Refusal) : Prop := ∀ t, o = .next t → Canonical t

theorem staysCanonical_next {t : State} (ht : Canonical t) : StaysCanonical (.next t) := by
  intro u hu
  cases hu
  exact ht

theorem staysCanonical_fault (c : Fault) : StaysCanonical (.fault c) := nofun

theorem staysCanonical_issue (hs : Canonical s) {body : State → Shape → Eff} (hb : ∀ s sh, Canonical s → (body s sh).Canonical)
    (i : Instr) : StaysCanonical (issue i s body) := by
  unfold issue
  split
  · exact staysCanonical_next hs
  split
  · exact staysCanonical_fault _
  · exact staysCanonical_next hs
  · refine staysCanonical_next (Canonical.issueStep ?_ _ hb)
    exact hs

/-- A row whose body keeps the canonical form does (R63). -/
theorem staysCanonical_row {i : Instr} {s : State} {body : State → Shape → Eff} (row : exec i s = issue i s body) (hs : Canonical s)
    (hb : ∀ s sh, Canonical s → (body s sh).Canonical) : StaysCanonical (exec i s) :=
  row ▸ staysCanonical_issue hs hb i

theorem staysCanonical_execCall (hs : Canonical s) (f : Fields) : StaysCanonical (execCall f s) := by
  unfold execCall
  refine staysCanonical_issue hs (fun s sh hs => ?_) _
  grind [Canonical.wrG, Eff.Canonical, Eff.flt]

theorem staysCanonical_execLoop (hs : Canonical s) (f : Fields) : StaysCanonical (execLoop f s) := by
  unfold execLoop
  refine staysCanonical_issue hs (fun s sh hs => ?_) _
  grind [Canonical.wrG, Eff.Canonical, Eff.flt]

theorem staysCanonical_execNop (hs : Canonical s) : StaysCanonical (execNop s) := by
  unfold execNop
  refine staysCanonical_issue hs (fun s sh hs => ?_) _
  grind [Eff.Canonical, Eff.flt]

theorem staysCanonical_execRet (hs : Canonical s) : StaysCanonical (execRet s) := by
  unfold execRet
  refine staysCanonical_issue hs (fun s sh hs => ?_) _
  grind [canonical_jumpTo, Eff.Canonical, Eff.flt]

theorem staysCanonical_execJr (hs : Canonical s) (f : Fields) : StaysCanonical (execJr f s) := by
  unfold execJr
  refine staysCanonical_issue hs (fun s sh hs => ?_) _
  grind [canonical_jumpTo, Canonical.wrG, Eff.Canonical, Eff.flt]

theorem staysCanonical_execJt (hs : Canonical s) (f : Fields) : StaysCanonical (execJt f s) := by
  unfold execJt
  refine staysCanonical_issue hs (fun s sh hs => ?_) _
  grind [canonical_jumpTo, Eff.Canonical, Eff.flt]

theorem staysCanonical_execFmv (hs : Canonical s) (f : Fields) : StaysCanonical (execFmv f s) := by
  unfold execFmv
  refine staysCanonical_issue hs (fun s sh hs => ?_) _
  grind [Canonical.wrG, Canonical.wrF, Eff.Canonical, Eff.flt]

theorem staysCanonical_execPf (hs : Canonical s) (f : Fields) : StaysCanonical (execPf f s) := by
  unfold execPf
  refine staysCanonical_issue hs (fun s sh hs => ?_) _
  grind [Canonical.sendPf, Eff.Canonical, Eff.flt]

theorem staysCanonical_execFence (hs : Canonical s) (f : Fields) : StaysCanonical (execFence f s) := by
  unfold execFence
  refine staysCanonical_issue hs (fun s sh hs => ?_) _
  grind [Canonical.seenBy, Eff.Canonical, Eff.flt]

theorem staysCanonical_execSwarrive (hs : Canonical s) (f : Fields) : StaysCanonical (execSwarrive f s) := by
  unfold execSwarrive
  refine staysCanonical_issue hs (fun s sh hs => ?_) _
  grind [Canonical.seenBy, Canonical.detachReq, Eff.Canonical, Eff.flt]

theorem staysCanonical_execSwwait (hs : Canonical s) (f : Fields) : StaysCanonical (execSwwait f s) := by
  unfold execSwwait
  refine staysCanonical_issue hs (fun s sh hs => ?_) _
  grind [Canonical.detachReq, Eff.Canonical, Eff.flt]

theorem staysCanonical_execVdiv (hs : Canonical s) (f : Fields) : StaysCanonical (execVdiv f s) := by
  unfold execVdiv
  refine staysCanonical_issue hs (fun s sh hs => ?_) _
  grind [canonical_vDet, Eff.Canonical, Eff.flt]

theorem staysCanonical_execVsqrt (hs : Canonical s) (f : Fields) : StaysCanonical (execVsqrt f s) := by
  unfold execVsqrt
  refine staysCanonical_issue hs (fun s sh hs => ?_) _
  grind [canonical_vDet, Eff.Canonical, Eff.flt]

theorem staysCanonical_execVsel (hs : Canonical s) (f : Fields) : StaysCanonical (execVsel f s) := by
  unfold execVsel
  refine staysCanonical_issue hs (fun s sh hs => ?_) _
  grind [Canonical.wrV, Eff.Canonical, Eff.flt]

theorem staysCanonical_execVscan (hs : Canonical s) (f : Fields) : StaysCanonical (execVscan f s) := by
  unfold execVscan
  refine staysCanonical_issue hs (fun s sh hs => ?_) _
  grind [canonical_vRes, Eff.Canonical, Eff.flt]

theorem staysCanonical_execTzero (hs : Canonical s) (f : Fields) : StaysCanonical (execTzero f s) := by
  unfold execTzero
  refine staysCanonical_issue hs (fun s sh hs => ?_) _
  grind [canonical_tileIssue, Eff.Canonical, Eff.flt]

theorem staysCanonical_execTout (hs : Canonical s) (f : Fields) : StaysCanonical (execTout f s) := by
  unfold execTout
  refine staysCanonical_issue hs (fun s sh hs => ?_) _
  grind [canonical_tileIssue, Eff.Canonical, Eff.flt]

theorem staysCanonical_execTprog (hs : Canonical s) (f : Fields) : StaysCanonical (execTprog f s) := by
  unfold execTprog
  refine staysCanonical_issue hs (fun s sh hs => ?_) _
  grind [Canonical.detach, Eff.Canonical, Eff.flt]

theorem staysCanonical_execTpost (hs : Canonical s) (f : Fields) : StaysCanonical (execTpost f s) := by
  unfold execTpost
  refine staysCanonical_issue hs (fun s sh hs => ?_) _
  grind [Canonical.detach, Canonical.submitTask, Eff.Canonical, Eff.flt]

theorem staysCanonical_execTpostRes (hs : Canonical s) : StaysCanonical (execTpostRes s) := by
  unfold execTpostRes
  refine staysCanonical_issue hs (fun s sh hs => ?_) _
  grind [canonical_taskCmd, Eff.Canonical, Eff.flt]

theorem staysCanonical_execTpostCan (hs : Canonical s) : StaysCanonical (execTpostCan s) := by
  unfold execTpostCan
  refine staysCanonical_issue hs (fun s sh hs => ?_) _
  grind [canonical_taskCmd, Eff.Canonical, Eff.flt]

theorem staysCanonical_execRedCfg (hs : Canonical s) (f : Fields) : StaysCanonical (execRedCfg f s) := by
  unfold execRedCfg
  refine staysCanonical_issue hs (fun s sh hs => ?_) _
  grind [Canonical.detach, Canonical.sendReq, Eff.Canonical, Eff.flt]

theorem staysCanonical_execRedPost (hs : Canonical s) (f : Fields) : StaysCanonical (execRedPost f s) := by
  unfold execRedPost
  refine staysCanonical_issue hs (fun s sh hs => ?_) _
  grind [Canonical.detach, Eff.Canonical, Eff.flt]

theorem staysCanonical_execRedGet (hs : Canonical s) (f : Fields) : StaysCanonical (execRedGet f s) := by
  unfold execRedGet
  refine staysCanonical_issue hs (fun s sh hs => ?_) _
  grind [Canonical.detach, Canonical.updMe, Eff.Canonical, Eff.flt]

theorem staysCanonical_execQbind (hs : Canonical s) (f : Fields) : StaysCanonical (execQbind f s) := by
  unfold execQbind
  refine staysCanonical_issue hs (fun s sh hs => ?_) _
  grind [Canonical.updMyCore, Canonical.updMe, Eff.Canonical, Eff.flt]

theorem staysCanonical_execQbindOff (hs : Canonical s) : StaysCanonical (execQbindOff s) := by
  unfold execQbindOff
  refine staysCanonical_issue hs (fun s sh hs => ?_) _
  grind [Canonical.updMyCore, Eff.Canonical, Eff.flt]

theorem staysCanonical_execHwait (hs : Canonical s) (f : Fields) : StaysCanonical (execHwait f s) := by
  unfold execHwait
  refine staysCanonical_issue hs (fun s sh hs => ?_) _
  grind [Eff.Canonical, Eff.flt]

theorem staysCanonical_execHset (hs : Canonical s) (f : Fields) : StaysCanonical (execHset f s) := by
  unfold execHset
  refine staysCanonical_issue hs (fun s sh hs => ?_) _
  grind [Canonical.seenBy, Canonical.atRetire, Eff.Canonical, Eff.flt]

theorem staysCanonical_execHfree (hs : Canonical s) (f : Fields) : StaysCanonical (execHfree f s) := by
  unfold execHfree
  refine staysCanonical_issue hs (fun s sh hs => ?_) _
  grind [Canonical.atRetire, Eff.Canonical, Eff.flt]

theorem staysCanonical_execBsPut (hs : Canonical s) (f : Fields) : StaysCanonical (execBsPut f s) := by
  unfold execBsPut
  refine staysCanonical_issue hs (fun s sh hs => ?_) _
  grind [canonical_bsWrite, Eff.Canonical, Eff.flt]

theorem staysCanonical_execBsDec (hs : Canonical s) (f : Fields) : StaysCanonical (execBsDec f s) := by
  unfold execBsDec
  refine staysCanonical_issue hs (fun s sh hs => ?_) _
  grind [Canonical.wrG, Canonical.bitsFault, Canonical.eat, Eff.Canonical, Eff.flt]

theorem staysCanonical_execBsAlign (hs : Canonical s) (f : Fields) : StaysCanonical (execBsAlign f s) := by
  unfold execBsAlign
  refine staysCanonical_issue hs (fun s sh hs => ?_) _
  grind [Canonical.bitsFault, Canonical.eat, canonical_bsWrite, Canonical.updMyCore, Eff.Canonical, Eff.flt]

theorem staysCanonical_execSopen (hs : Canonical s) (f : Fields) : StaysCanonical (execSopen f s) := by
  unfold execSopen
  refine staysCanonical_issue hs (fun s sh hs => ?_) _
  grind [canonical_strmIssue, Canonical.detach, Eff.Canonical, Eff.flt]

theorem staysCanonical_execSclose (hs : Canonical s) (f : Fields) : StaysCanonical (execSclose f s) := by
  unfold execSclose
  refine staysCanonical_issue hs (fun s sh hs => ?_) _
  grind [canonical_strmIssue, Canonical.detach, Canonical.updStrm, Eff.Canonical, Eff.flt]

theorem staysCanonical_execSattach (hs : Canonical s) (f : Fields) : StaysCanonical (execSattach f s) := by
  unfold execSattach
  refine staysCanonical_issue hs (fun s sh hs => ?_) _
  grind [canonical_strmIssue, Canonical.updStrm, Eff.Canonical, Eff.flt]

theorem staysCanonical_execSsave (hs : Canonical s) (f : Fields) : StaysCanonical (execSsave f s) := by
  unfold execSsave
  refine staysCanonical_issue hs (fun s sh hs => ?_) _
  grind [canonical_strmIssue, Canonical.detach, Canonical.aliasRoll, Canonical.sendSave, Canonical.updStrm, Eff.Canonical, Eff.flt]

theorem staysCanonical_execSpop (hs : Canonical s) (f : Fields) : StaysCanonical (execSpop f s) := by
  unfold execSpop
  refine staysCanonical_issue hs (fun s sh hs => ?_) _
  grind [canonical_openIssue, canonical_consume, Eff.Canonical, Eff.flt]

theorem staysCanonical_execSstep (hs : Canonical s) (f : Fields) : StaysCanonical (execSstep f s) := by
  unfold execSstep
  refine staysCanonical_issue hs (fun s sh hs => ?_) _
  grind [canonical_openIssue, canonical_consume, Eff.Canonical, Eff.flt]

theorem staysCanonical_execSsink (hs : Canonical s) (f : Fields) : StaysCanonical (execSsink f s) := by
  unfold execSsink
  refine staysCanonical_issue hs (fun s sh hs => ?_) _
  grind [canonical_openIssue, Canonical.detach, Eff.Canonical, Eff.flt]

theorem staysCanonical_execSfloat (hs : Canonical s) (f : Fields) : StaysCanonical (execSfloat f s) := by
  unfold execSfloat
  refine staysCanonical_issue hs (fun s sh hs => ?_) _
  grind [canonical_openIssue, Canonical.updStrm, Eff.Canonical, Eff.flt]

theorem staysCanonical_execSrecall (hs : Canonical s) (f : Fields) : StaysCanonical (execSrecall f s) := by
  unfold execSrecall
  refine staysCanonical_issue hs (fun s sh hs => ?_) _
  grind [canonical_openIssue, Canonical.detach, Canonical.updStrm, Eff.Canonical, Eff.flt]

theorem staysCanonical_execSres (hs : Canonical s) (f : Fields) : StaysCanonical (execSres f s) := by
  unfold execSres
  refine staysCanonical_issue hs (fun s sh hs => ?_) _
  grind [canonical_openIssue, Canonical.detach, Canonical.updStrm, Eff.Canonical, Eff.flt]

theorem staysCanonical_execSpawn (hs : Canonical s) (f : Fields) : StaysCanonical (execSpawn f s) := by
  unfold execSpawn
  refine staysCanonical_issue hs (fun s sh hs => ?_) _
  grind [Canonical.detachReq, Eff.Canonical, Eff.flt]

theorem staysCanonical_execFork (hs : Canonical s) (f : Fields) : StaysCanonical (execFork f s) := by
  unfold execFork
  refine staysCanonical_issue hs (fun s sh hs => ?_) _
  grind [Canonical.atRetire, Eff.Canonical, Eff.flt]

theorem staysCanonical_execJoin (hs : Canonical s) (f : Fields) : StaysCanonical (execJoin f s) := by
  unfold execJoin
  refine staysCanonical_issue hs (fun s sh hs => ?_) _
  grind [Canonical.carryBad, Canonical.send, Canonical.updMe, Eff.Canonical, Eff.flt]

theorem staysCanonical_execJinit (hs : Canonical s) (f : Fields) : StaysCanonical (execJinit f s) := by
  unfold execJinit
  refine staysCanonical_issue hs (fun s sh hs => ?_) _
  grind [Canonical.postReq, Eff.Canonical, Eff.flt]

theorem staysCanonical_execExit (hs : Canonical s) : StaysCanonical (execExit s) := by
  unfold execExit
  refine staysCanonical_issue hs (fun s sh hs => ?_) _
  grind [Canonical.exitStrand, Eff.Canonical, Eff.flt]

theorem staysCanonical_execYield (hs : Canonical s) : StaysCanonical (execYield s) := by
  unfold execYield
  refine staysCanonical_issue hs (fun s sh hs => ?_) _
  grind [Canonical.updMe, Canonical.carryBad, Canonical.pushRec, Canonical.freeCtx, Eff.Canonical, Eff.flt]

theorem staysCanonical_execPark (hs : Canonical s) (f : Fields) : StaysCanonical (execPark f s) := by
  unfold execPark
  refine staysCanonical_issue hs (fun s sh hs => ?_) _
  grind [Canonical.carryBad, Canonical.send, Canonical.updMe, Eff.Canonical, Eff.flt]

theorem staysCanonical_execSpt (hs : Canonical s) (f : Fields) : StaysCanonical (execSpt f s) := by
  unfold execSpt
  refine staysCanonical_issue hs (fun s sh hs => ?_) _
  split
  · exact hs.updMe _
  split
  · trivial
  split
  next he => exact Canonical.carryBad he
  split
  next ht => exact hs.sptSave _ ht
  · trivial

theorem staysCanonical_execLdM (hs : Canonical s) (f : Fields) : StaysCanonical (execLdM f s) := by
  unfold execLdM
  refine staysCanonical_issue hs (fun s sh hs => ?_) _
  grind [Canonical.detachReq, Canonical.carryBad, Canonical.leaveFor, Eff.Canonical, Eff.flt]

theorem staysCanonical_execMig (hs : Canonical s) (f : Fields) : StaysCanonical (execMig f s) := by
  unfold execMig
  refine staysCanonical_issue hs (fun s sh hs => ?_) _
  grind [Canonical.carryBad, Canonical.leaveFor, Eff.Canonical, Eff.flt]

theorem staysCanonical_execPbind (hs : Canonical s) (f : Fields) : StaysCanonical (execPbind f s) := by
  unfold execPbind
  refine staysCanonical_issue hs (fun s sh hs => ?_) _
  grind [Canonical.updMyCore, Canonical.unpublishMoved, Canonical.updMe, Eff.Canonical, Eff.flt]

theorem staysCanonical_execPunbind (hs : Canonical s) : StaysCanonical (execPunbind s) := by
  unfold execPunbind
  refine staysCanonical_issue hs (fun s sh hs => ?_) _
  grind [Canonical.updMyCore, Canonical.updMe, Eff.Canonical, Eff.flt]

theorem staysCanonical_execPpub (hs : Canonical s) : StaysCanonical (execPpub s) := by
  unfold execPpub
  refine staysCanonical_issue hs (fun s sh hs => ?_) _
  grind [Canonical.postPub, Eff.Canonical, Eff.flt]

theorem staysCanonical_execNbr (hs : Canonical s) (f : Fields) : StaysCanonical (execNbr f s) := by
  unfold execNbr
  refine staysCanonical_issue hs (fun s sh hs => ?_) _
  grind [Canonical.detach, Eff.Canonical, Eff.flt]

theorem staysCanonical_execCellq (hs : Canonical s) (f : Fields) : StaysCanonical (execCellq f s) := by
  unfold execCellq
  refine staysCanonical_issue hs (fun s sh hs => ?_) _
  grind [Canonical.wrG, Eff.Canonical, Eff.flt]

theorem staysCanonical_execHnewRcl (hs : Canonical s) : StaysCanonical (execHnewRcl s) := by
  unfold execHnewRcl
  refine staysCanonical_issue hs (fun s sh hs => ?_) _
  grind [canonical_hypDet, Eff.Canonical, Eff.flt]

theorem staysCanonical_execHenter (hs : Canonical s) (f : Fields) : StaysCanonical (execHenter f s) := by
  unfold execHenter
  refine staysCanonical_issue hs (fun s sh hs => ?_) _
  grind [Canonical.updMe, Eff.Canonical, Eff.flt]

theorem staysCanonical_execHleave (hs : Canonical s) : StaysCanonical (execHleave s) := by
  unfold execHleave
  refine staysCanonical_issue hs (fun s sh hs => ?_) _
  grind [Canonical.updMe, Eff.Canonical, Eff.flt]

theorem staysCanonical_execHnstat (hs : Canonical s) (f : Fields) : StaysCanonical (execHnstat f s) := by
  unfold execHnstat
  refine staysCanonical_issue hs (fun s sh hs => ?_) _
  grind [Canonical.wrG, Eff.Canonical, Eff.flt]

theorem staysCanonical_execTrap (hs : Canonical s) (f : Fields) : StaysCanonical (execTrap f s) := by
  unfold execTrap
  refine staysCanonical_issue hs (fun s sh hs => ?_) _
  grind [Eff.Canonical, Eff.flt]

theorem staysCanonical_execRett (hs : Canonical s) : StaysCanonical (execRett s) := by
  unfold execRett
  refine staysCanonical_issue hs (fun s sh hs => ?_) _
  grind [Canonical.popRecords, Canonical.updMe, Eff.Canonical, Eff.flt]

theorem staysCanonical_execHalt (hs : Canonical s) : StaysCanonical (execHalt s) := by
  unfold execHalt
  refine staysCanonical_issue hs (fun s sh hs => ?_) _
  grind [Canonical.exitStrand, Eff.Canonical, Eff.flt]

theorem staysCanonical_execIpi (hs : Canonical s) (f : Fields) : StaysCanonical (execIpi f s) := by
  unfold execIpi
  refine staysCanonical_issue hs (fun s sh hs => canonical_sysOp hs (fun s sh hs => ?_) sh) _
  grind [Canonical.atRetire, Eff.Canonical, Eff.flt]

theorem staysCanonical_execXinv (hs : Canonical s) (f : Fields) : StaysCanonical (execXinv f s) := by
  unfold execXinv
  refine staysCanonical_issue hs (fun s sh hs => canonical_sysOp hs (fun s sh hs => ?_) sh) _
  grind [canonical_xinvOf, Eff.Canonical, Eff.flt]

theorem staysCanonical_execXinvAll (hs : Canonical s) : StaysCanonical (execXinvAll s) := by
  unfold execXinvAll
  refine staysCanonical_issue hs (fun s sh hs => canonical_sysOp hs (fun s sh hs => ?_) sh) _
  grind [canonical_xinvOf, Eff.Canonical, Eff.flt]

theorem staysCanonical_execRmodeCoh (hs : Canonical s) (f : Fields) : StaysCanonical (execRmodeCoh f s) := by
  unfold execRmodeCoh
  refine staysCanonical_issue hs (fun s sh hs => canonical_sysOp hs (fun s sh hs => ?_) sh) _
  grind [canonical_rmodeOf, Eff.Canonical, Eff.flt]

theorem staysCanonical_execRmodeSw (hs : Canonical s) : StaysCanonical (execRmodeSw s) := by
  unfold execRmodeSw
  refine staysCanonical_issue hs (fun s sh hs => canonical_sysOp hs (fun s sh hs => ?_) sh) _
  grind [canonical_rmodeOf, Eff.Canonical, Eff.flt]

theorem staysCanonical_execPmask (hs : Canonical s) (f : Fields) : StaysCanonical (execPmask f s) := by
  unfold execPmask
  refine staysCanonical_issue hs (fun s sh hs => canonical_sysOp hs (fun s sh hs => ?_) sh) _
  grind [Canonical.readChecked, Canonical.updCore, Eff.Canonical, Eff.flt]

theorem staysCanonical_execScset (hs : Canonical s) (f : Fields) : StaysCanonical (execScset f s) := by
  unfold execScset
  refine staysCanonical_issue hs (fun s sh hs => canonical_sysOp hs (fun s sh hs => ?_) sh) _
  grind [Canonical.scopesAt, Canonical.updMe, Eff.Canonical, Eff.flt]

theorem staysCanonical_execCellset (hs : Canonical s) (f : Fields) : StaysCanonical (execCellset f s) := by
  unfold execCellset
  refine staysCanonical_issue hs (fun s sh hs => canonical_sysOp hs (fun s sh hs => ?_) sh) _
  grind [Canonical.readMap, Canonical.wrG, Canonical.installMap, Eff.Canonical, Eff.flt]

theorem staysCanonical_execCellsetOff (hs : Canonical s) : StaysCanonical (execCellsetOff s) := by
  unfold execCellsetOff
  refine staysCanonical_issue hs (fun s sh hs => canonical_sysOp hs (fun s sh hs => ?_) sh) _
  grind [Canonical.wrG, Canonical.updPart, Eff.Canonical, Eff.flt]

theorem staysCanonical_execHwtest (hs : Canonical s) (f : Fields) : StaysCanonical (execHwtest f s) := by
  unfold execHwtest
  refine staysCanonical_issue hs (fun s sh hs => canonical_sysOp hs (fun s sh hs => ?_) sh) _
  grind [Canonical.selfTest, Canonical.wrG, Eff.Canonical, Eff.flt]

theorem staysCanonical_execCtxsave (hs : Canonical s) (f : Fields) : StaysCanonical (execCtxsave f s) := by
  unfold execCtxsave
  refine staysCanonical_issue hs (fun s sh hs => canonical_sysOp hs (fun s sh hs => ?_) sh) _
  grind [Canonical.aliasRoll, Canonical.writeChecked, Eff.Canonical, Eff.flt]

theorem staysCanonical_execCtxload (hs : Canonical s) (f : Fields) : StaysCanonical (execCtxload f s) := by
  unfold execCtxload
  refine staysCanonical_issue hs (fun s sh hs => canonical_sysOp hs (fun s sh hs => ?_) sh) _
  grind [Canonical.readChecked, Canonical.loadImage, Canonical.scopesAt, Canonical.updMe, Eff.Canonical, Eff.flt]

theorem staysCanonical_execRdsr (hs : Canonical s) (f : Fields) : StaysCanonical (execRdsr f s) := by
  unfold execRdsr
  refine staysCanonical_issue hs (fun s sh hs => ?_) _
  grind [Canonical.wrG, Eff.Canonical, Eff.flt]

theorem staysCanonical_execWrsr (hs : Canonical s) (f : Fields) : StaysCanonical (execWrsr f s) := by
  unfold execWrsr
  refine staysCanonical_issue hs (fun s sh hs => ?_) _
  grind [canonical_wrsrOf, canonical_wrsrPlain, Eff.Canonical, Eff.flt]

theorem staysCanonical_execWrsrKipi (hs : Canonical s) : StaysCanonical (execWrsrKipi s) := by
  unfold execWrsrKipi
  refine staysCanonical_issue hs (fun s sh hs => ?_) _
  grind [canonical_wrsrOf, canonical_wrsrPlain, Eff.Canonical, Eff.flt]

theorem staysCanonical_execWrsrKvec (hs : Canonical s) : StaysCanonical (execWrsrKvec s) := by
  unfold execWrsrKvec
  refine staysCanonical_issue hs (fun s sh hs => ?_) _
  grind [canonical_wrsrOf, canonical_wrsrPlain, Eff.Canonical, Eff.flt]

theorem staysCanonical_execWrsrPart (hs : Canonical s) : StaysCanonical (execWrsrPart s) := by
  unfold execWrsrPart
  refine staysCanonical_issue hs (fun s sh hs => ?_) _
  grind [canonical_wrsrOf, canonical_wrsrPlain, Eff.Canonical, Eff.flt]

theorem staysCanonical_execWrsrSpill (hs : Canonical s) : StaysCanonical (execWrsrSpill s) := by
  unfold execWrsrSpill
  refine staysCanonical_issue hs (fun s sh hs => ?_) _
  grind [canonical_wrsrOf, canonical_wrsrPlain, Eff.Canonical, Eff.flt]

theorem staysCanonical_execWrsrHypRst (hs : Canonical s) : StaysCanonical (execWrsrHypRst s) := by
  unfold execWrsrHypRst
  refine staysCanonical_issue hs (fun s sh hs => ?_) _
  grind [canonical_wrsrOf, Canonical.dropHyp, Eff.Canonical, Eff.flt]

end Sys2Proof.Machine
end

section
/-!
SUPPORT. Memory stays canonical (R141): the events with effects of their own, and every row.
-/
namespace Sys2Proof.Machine

variable {s t : State}

theorem staysCanonical_execCopyCommandAccept (hs : Canonical s) : StaysCanonical (execCopyCommandAccept s) := by
  unfold execCopyCommandAccept
  grind [staysCanonical_next, Canonical.copyAccept]

theorem staysCanonical_execCopyRunStart (hs : Canonical s) : StaysCanonical (execCopyRunStart s) := by
  unfold execCopyRunStart
  grind [staysCanonical_next, Canonical.getD, Canonical.copyStart, Canonical.copyGo]

theorem staysCanonical_execCopyArrivalSend (hs : Canonical s) : StaysCanonical (execCopyArrivalSend s) := by
  unfold execCopyArrivalSend
  grind [staysCanonical_next, Canonical.copyArrive]

theorem staysCanonical_execCopyCompletion (hs : Canonical s) : StaysCanonical (execCopyCompletion s) := by
  unfold execCopyCompletion
  grind [staysCanonical_next, Canonical.copyDone]

theorem staysCanonical_execTileTaskAccept (hs : Canonical s) : StaysCanonical (execTileTaskAccept s) := by
  unfold execTileTaskAccept
  grind [staysCanonical_next, Canonical.taskAccept]

theorem staysCanonical_execTileTaskDependenceReady (hs : Canonical s) : StaysCanonical (execTileTaskDependenceReady s) := by
  unfold execTileTaskDependenceReady
  grind [staysCanonical_next, Canonical.updTask]

theorem staysCanonical_execSubtileComplete (hs : Canonical s) : StaysCanonical (execSubtileComplete s) := by
  unfold execSubtileComplete
  grind [staysCanonical_next, Canonical.taskStep]

theorem staysCanonical_execTileTaskPause (hs : Canonical s) : StaysCanonical (execTileTaskPause s) := by
  unfold execTileTaskPause
  grind [staysCanonical_next, Canonical.taskPause]

theorem staysCanonical_execStreamFloat (hs : Canonical s) : StaysCanonical (execStreamFloat s) := by
  unfold execStreamFloat
  grind [staysCanonical_next, Canonical.updStrm, Canonical.startRead]

theorem staysCanonical_execStreamElementRead (hs : Canonical s) : StaysCanonical (execStreamElementRead s) := by
  unfold execStreamElementRead
  grind [staysCanonical_next, Canonical.readElem]

theorem staysCanonical_execSorusOfferExpiry (hs : Canonical s) : StaysCanonical (execSorusOfferExpiry s) := by
  unfold execSorusOfferExpiry
  grind [staysCanonical_next, Canonical.getD, Canonical.lastCk, Canonical.offerExpire]

theorem staysCanonical_execCellSplit (hs : Canonical s) : StaysCanonical (execCellSplit s) := by
  unfold execCellSplit
  grind [staysCanonical_next, Canonical.getD, Canonical.splitCell, Canonical.splitEnd]

theorem staysCanonical_execIssueIllegalOpcode (hs : Canonical s) : StaysCanonical (execIssueIllegalOpcode s) := by
  unfold execIssueIllegalOpcode
  split
  · exact staysCanonical_fault _
  · exact staysCanonical_next hs
  · exact staysCanonical_next (hs.issueStep _ fun _ _ _ => trivial)

theorem staysCanonical_execIssueMalformedLine (hs : Canonical s) : StaysCanonical (execIssueMalformedLine s) := by
  unfold execIssueMalformedLine
  split
  · exact staysCanonical_fault _
  · exact staysCanonical_next hs
  · refine staysCanonical_next (hs.issueStep _ fun s _ _ => ?_)
    split <;> trivial

theorem staysCanonical_execFetchFault (hs : Canonical s) : StaysCanonical (execFetchFault s) := by
  unfold execFetchFault
  split
  · exact staysCanonical_fault _
  · exact staysCanonical_next hs
  · have ht := hs.fetch s.cur s.cx
    split
    · exact staysCanonical_next hs
    next t _ _ he =>
      rw [he] at ht
      exact staysCanonical_next (Canonical.issueStep ht _ fun _ _ _ => trivial)

theorem staysCanonical_execMemoryRequestAtHome (hs : Canonical s) : StaysCanonical (execMemoryRequestAtHome s) := by
  unfold execMemoryRequestAtHome
  grind [staysCanonical_next, Canonical.getD, Canonical.ownStep, Canonical.homeStep]

theorem staysCanonical_execWaitLimitExpiry (hs : Canonical s) : StaysCanonical (execWaitLimitExpiry s) := by
  unfold execWaitLimitExpiry
  grind [staysCanonical_next, Canonical.getD, Canonical.lastCk, Canonical.limitEnd]

theorem staysCanonical_execRhizoidForcedFallback (hs : Canonical s) : StaysCanonical (execRhizoidForcedFallback s) := by
  unfold execRhizoidForcedFallback
  grind [staysCanonical_next, Canonical.updCtx, Canonical.foldl]

theorem staysCanonical_execLeaseExpiryCheck (hs : Canonical s) : StaysCanonical (execLeaseExpiryCheck s) := by
  unfold execLeaseExpiryCheck
  grind [staysCanonical_next, Canonical.putSlice, Canonical.putL1]

theorem staysCanonical_execAsidAllotmentEnd (hs : Canonical s) : StaysCanonical (execAsidAllotmentEnd s) := by
  unfold execAsidAllotmentEnd
  grind [staysCanonical_next, Canonical.dropHyp, Canonical.dropSpace, Canonical.updPart]

theorem staysCanonical_execSoftErrorDetected (hs : Canonical s) : StaysCanonical (execSoftErrorDetected s) := by
  unfold execSoftErrorDetected
  grind [staysCanonical_next, Canonical.getD, Canonical.softError, Canonical.runTest]

theorem staysCanonical_execCoreRetirement (hs : Canonical s) : StaysCanonical (execCoreRetirement s) := by
  unfold execCoreRetirement
  grind [staysCanonical_next, Canonical.retireRunning]

theorem staysCanonical_execTransportPacketReceive (hs : Canonical s) : StaysCanonical (execTransportPacketReceive s) := by
  unfold execTransportPacketReceive
  grind [staysCanonical_next, Canonical.getD, Canonical.receive, Canonical.loseOffer, Canonical.loseOther]

theorem staysCanonical_execTransportResendTimeout (hs : Canonical s) : StaysCanonical (execTransportResendTimeout s) := by
  unfold execTransportResendTimeout
  grind [staysCanonical_next, Canonical.getD, Canonical.resendDue, Canonical.resendOffer, Canonical.resendUnacked]

theorem staysCanonical_execLaneFailure (hs : Canonical s) : StaysCanonical (execLaneFailure s) := by
  unfold execLaneFailure
  grind [staysCanonical_next, Canonical.edgeFail, Canonical.laneFail]

theorem staysCanonical_execFirmwareSwitch (hs : Canonical s) : StaysCanonical (execFirmwareSwitch s) := by
  unfold execFirmwareSwitch
  grind [staysCanonical_next, Canonical.getD, Canonical.askSwitch, Canonical.runSwitch, Canonical.recover]

theorem staysCanonical_execRecalibration (hs : Canonical s) : StaysCanonical (execRecalibration s) := by
  unfold execRecalibration
  refine staysCanonical_next ?_
  split
  · split <;> exact hs
  · exact hs

theorem staysCanonical_execColdReset (hs : Canonical s) : StaysCanonical (execColdReset s) := by
  unfold execColdReset
  split
  · exact staysCanonical_next reset_memOk
  · exact staysCanonical_next (hs.getD fun _ => hs.bringUp _ _)

theorem staysCanonical_execHostPartitionCreate (hs : Canonical s) : StaysCanonical (execHostPartitionCreate s) := by
  unfold execHostPartitionCreate
  grind [staysCanonical_next, Canonical.createPart]

theorem staysCanonical_execPowerSample (hs : Canonical s) : StaysCanonical (execPowerSample s) := by
  unfold execPowerSample
  refine staysCanonical_next ?_
  split <;> exact hs

theorem staysCanonical_execThrottleStep (hs : Canonical s) : StaysCanonical (execThrottleStep s) := by
  unfold execThrottleStep
  grind [staysCanonical_next, Canonical.getD, Canonical.throttleMove]

/-- Every row of the opcode table and every event: by the operation that they share, else by the lemma on their own body. -/
theorem staysCanonical_exec (i : Instr) {s : State} (hs : Canonical s) : StaysCanonical (exec i s) := by
  cases i with
  | add f | sub f | and f | or f | xor f | andn f | shl f | shr f | sar f | rotl f | mul f | minI64 f | maxI64 f
  | minN64 f | maxN64 f | cmpEq f | cmpNe f | cmpLt f | cmpGe f | cmpLo f | cmpHs f | mulhI64 f | mulhN64 f | bfx f =>
    exact staysCanonical_row rfl hs fun _ _ hs => canonical_gBin hs _ _ _
  | clz f | ctz f | popc f | sextI8 f | sextI16 f | sextI32 f | zextN8 f | zextN16 f | zextN32 f | addi f =>
    exact staysCanonical_row rfl hs fun _ _ hs => canonical_gUn hs _ _ _
  | divI64 f | divN64 f | remI64 f | remN64 f =>
    exact staysCanonical_row rfl hs fun _ _ hs => canonical_gDet hs _ _ _ _
  | br f | bz f | bnz f =>
    exact staysCanonical_row rfl hs fun _ _ hs => canonical_branch hs _ _ _
  | bcEq f | bcNe f | bcLt f | bcGe f | bcLo f | bcHs f =>
    exact staysCanonical_row rfl hs fun _ _ hs => canonical_bcc _ _ hs _
  | faddF64 f | fsubF64 f | fmulF64 f | fminF64 f | fmaxF64 f | faddF32 f | fsubF32 f | fmulF32 f | fminF32 f
  | fmaxF32 f =>
    exact staysCanonical_row rfl hs fun _ _ hs => canonical_fBin hs _ _ _ _
  | fsgnF64 f | fsgnF32 f =>
    exact staysCanonical_row rfl hs fun _ _ hs => canonical_fSgn hs _ _ _
  | fmaF64 f | fmsF64 f | fnmaF64 f | fmaF32 f | fmsF32 f | fnmaF32 f =>
    exact staysCanonical_row rfl hs fun _ _ hs => canonical_fFma hs _ _ _ _ _
  | fdivF64 f | fsqrtF64 f | fdivF32 f | fsqrtF32 f =>
    exact staysCanonical_row rfl hs fun _ _ hs => canonical_fDet hs _ _ _ _ _ _
  | fcmpEqF64 f | fcmpLtF64 f | fcmpLeF64 f | fcmpUnF64 f | fcmpEqF32 f | fcmpLtF32 f | fcmpLeF32 f | fcmpUnF32 f =>
    exact staysCanonical_row rfl hs fun _ _ hs => canonical_fCmp hs _ _ _ _
  | fclassF64 f | fclassF32 f =>
    exact staysCanonical_row rfl hs fun _ _ hs => canonical_fClass hs _ _ _
  | fcvt f =>
    exact staysCanonical_row rfl hs fun _ _ hs => canonical_fCvt hs _ _
  | ldB f | ldH f | ldW f | ldD f | ldF f =>
    exact staysCanonical_row rfl hs fun _ _ hs => canonical_loadN hs _ _ _ _
  | amoAdd f | amoAnd f | amoOr f | amoXor f | amoMin f | amoMax f | amoSwap f | amoCas f =>
    exact staysCanonical_row rfl hs fun _ _ hs => canonical_amoI hs _ _ _ _
  | amoAddF32 f | amoAddF64 f =>
    exact staysCanonical_row rfl hs fun _ _ hs => canonical_amoFl hs _ _ _ _
  | wb f | inv f =>
    exact staysCanonical_row rfl hs fun _ _ hs => canonical_rangeOp hs _ _ _ _
  | disc f =>
    exact staysCanonical_row rfl hs fun _ _ hs => canonical_discOp hs _ _ _
  | ldfeClr f | ldfeKeep f | stfeWait f | stfeFail f =>
    exact staysCanonical_row rfl hs fun _ _ hs => canonical_feOp hs _ _ _ _ _
  | setfe f | clrfe f =>
    exact staysCanonical_row rfl hs fun _ _ hs => canonical_fePost hs _ _ _ _
  | vadd f | vsub f | vmul f | vmin f | vmax f =>
    exact staysCanonical_row rfl hs fun _ _ hs => canonical_vBin hs _ _ _
  | vabs f | vneg f =>
    exact staysCanonical_row rfl hs fun _ _ hs => canonical_vUn hs _ _ _
  | vfma f | vfms f =>
    exact staysCanonical_row rfl hs fun _ _ hs => canonical_vFma hs _ _ _
  | vand f | vor f | vxor f | vshl f | vshr f | vsar f =>
    exact staysCanonical_row rfl hs fun _ _ hs => canonical_vLogic _ _ hs _
  | vcmpEq f | vcmpNe f | vcmpLt f | vcmpLe f | vcmpUn f =>
    exact staysCanonical_row rfl hs fun _ _ hs => canonical_vCmp hs _ _ _
  | vcvt f =>
    exact staysCanonical_row rfl hs fun _ _ hs => canonical_vcvtBody hs _ _ _
  | vbcast f | vperm f | vslideUp f | vslideDn f | vmov f =>
    exact staysCanonical_row rfl hs fun _ _ hs => canonical_vMove hs _ _ _
  | vredAdd f | vredMin f | vredMax f =>
    exact staysCanonical_row rfl hs fun _ _ hs => canonical_vRed hs _ _ _ _
  | kand f | kor f | kxor f =>
    exact staysCanonical_row rfl hs fun _ _ hs => canonical_kBin hs _ _ _
  | vld f | vldS f | vgather f =>
    exact staysCanonical_row rfl hs fun _ _ hs => canonical_vLoad hs _ _ _ _
  | vst f | vstS f | vscatter f =>
    exact staysCanonical_row rfl hs fun _ _ hs => canonical_vStore hs _ _ _ _
  | mmaF64F64 f | mmaF32F32 f | mmaBf16F32 f | mmaF16F32 f | mmaBf16Bf16 f | mmaF16F16 f | mmaE4m3F32 f | mmaE5m2F32 f
  | mmaE4m3Bf16 f | mmaE5m2Bf16 f | mmaDy8F32 f | mmaDy8Bf16 f | mmaI8I32 f =>
    exact staysCanonical_row rfl hs fun _ _ hs => canonical_mmaIssue hs _ _ _
  | tld f | tst f =>
    exact staysCanonical_row rfl hs fun _ _ hs => canonical_tmemIssue hs _ _ _ _
  | cpy f | cpyb f | mcast f =>
    exact staysCanonical_row rfl hs fun _ _ hs => canonical_copyIssue hs _ _ _ _
  | qmov f =>
    exact staysCanonical_row rfl hs fun _ _ hs => canonical_qmovOf hs _ _
  | bsGet f | bsPeek f =>
    exact staysCanonical_row rfl hs fun _ _ hs => canonical_bsRead hs _ _ _
  | sdef f | sload f =>
    exact staysCanonical_row rfl hs fun _ _ hs => canonical_defIssue hs _ _ _ _
  | hnew f | hresC f | hresR f =>
    exact staysCanonical_row rfl hs fun _ _ hs => canonical_hypDet hs _ _ _ _ _
  | sel f | bfi f | li f | lea f | kpop f | hstat f | sstat f =>
    exact staysCanonical_row rfl hs fun _ _ hs => hs.wrG _ _
  | stB f | stH f | stW f | stD f | stF f =>
    exact staysCanonical_row rfl hs fun _ _ hs => canonical_storeN hs _ _ _ _ _
  | knot f | kset f =>
    exact staysCanonical_row rfl hs fun _ _ hs => hs.wrK _ _
  | call f => exact staysCanonical_execCall hs f
  | loop f => exact staysCanonical_execLoop hs f
  | nop => exact staysCanonical_execNop hs
  | ret => exact staysCanonical_execRet hs
  | jr f => exact staysCanonical_execJr hs f
  | jt f => exact staysCanonical_execJt hs f
  | fmv f => exact staysCanonical_execFmv hs f
  | pf f => exact staysCanonical_execPf hs f
  | fence f => exact staysCanonical_execFence hs f
  | swarrive f => exact staysCanonical_execSwarrive hs f
  | swwait f => exact staysCanonical_execSwwait hs f
  | vdiv f => exact staysCanonical_execVdiv hs f
  | vsqrt f => exact staysCanonical_execVsqrt hs f
  | vsel f => exact staysCanonical_execVsel hs f
  | vscan f => exact staysCanonical_execVscan hs f
  | tzero f => exact staysCanonical_execTzero hs f
  | tout f => exact staysCanonical_execTout hs f
  | tprog f => exact staysCanonical_execTprog hs f
  | tpost f => exact staysCanonical_execTpost hs f
  | tpostRes => exact staysCanonical_execTpostRes hs
  | tpostCan => exact staysCanonical_execTpostCan hs
  | redCfg f => exact staysCanonical_execRedCfg hs f
  | redPost f => exact staysCanonical_execRedPost hs f
  | redGet f => exact staysCanonical_execRedGet hs f
  | qbind f => exact staysCanonical_execQbind hs f
  | qbindOff => exact staysCanonical_execQbindOff hs
  | hwait f => exact staysCanonical_execHwait hs f
  | hset f => exact staysCanonical_execHset hs f
  | hfree f => exact staysCanonical_execHfree hs f
  | bsPut f => exact staysCanonical_execBsPut hs f
  | bsDec f => exact staysCanonical_execBsDec hs f
  | bsAlign f => exact staysCanonical_execBsAlign hs f
  | sopen f => exact staysCanonical_execSopen hs f
  | sclose f => exact staysCanonical_execSclose hs f
  | sattach f => exact staysCanonical_execSattach hs f
  | ssave f => exact staysCanonical_execSsave hs f
  | spop f => exact staysCanonical_execSpop hs f
  | sstep f => exact staysCanonical_execSstep hs f
  | ssink f => exact staysCanonical_execSsink hs f
  | sfloat f => exact staysCanonical_execSfloat hs f
  | srecall f => exact staysCanonical_execSrecall hs f
  | sres f => exact staysCanonical_execSres hs f
  | spawn f => exact staysCanonical_execSpawn hs f
  | fork f => exact staysCanonical_execFork hs f
  | join f => exact staysCanonical_execJoin hs f
  | jinit f => exact staysCanonical_execJinit hs f
  | exit => exact staysCanonical_execExit hs
  | yield => exact staysCanonical_execYield hs
  | park f => exact staysCanonical_execPark hs f
  | spt f => exact staysCanonical_execSpt hs f
  | ldM f => exact staysCanonical_execLdM hs f
  | mig f => exact staysCanonical_execMig hs f
  | pbind f => exact staysCanonical_execPbind hs f
  | punbind => exact staysCanonical_execPunbind hs
  | ppub => exact staysCanonical_execPpub hs
  | nbr f => exact staysCanonical_execNbr hs f
  | cellq f => exact staysCanonical_execCellq hs f
  | hnewRcl => exact staysCanonical_execHnewRcl hs
  | henter f => exact staysCanonical_execHenter hs f
  | hleave => exact staysCanonical_execHleave hs
  | hnstat f => exact staysCanonical_execHnstat hs f
  | trap f => exact staysCanonical_execTrap hs f
  | rett => exact staysCanonical_execRett hs
  | halt => exact staysCanonical_execHalt hs
  | ipi f => exact staysCanonical_execIpi hs f
  | xinv f => exact staysCanonical_execXinv hs f
  | xinvAll => exact staysCanonical_execXinvAll hs
  | rmodeCoh f => exact staysCanonical_execRmodeCoh hs f
  | rmodeSw => exact staysCanonical_execRmodeSw hs
  | pmask f => exact staysCanonical_execPmask hs f
  | scset f => exact staysCanonical_execScset hs f
  | cellset f => exact staysCanonical_execCellset hs f
  | cellsetOff => exact staysCanonical_execCellsetOff hs
  | hwtest f => exact staysCanonical_execHwtest hs f
  | ctxsave f => exact staysCanonical_execCtxsave hs f
  | ctxload f => exact staysCanonical_execCtxload hs f
  | rdsr f => exact staysCanonical_execRdsr hs f
  | wrsr f => exact staysCanonical_execWrsr hs f
  | wrsrKipi => exact staysCanonical_execWrsrKipi hs
  | wrsrKvec => exact staysCanonical_execWrsrKvec hs
  | wrsrPart => exact staysCanonical_execWrsrPart hs
  | wrsrSpill => exact staysCanonical_execWrsrSpill hs
  | wrsrHypRst => exact staysCanonical_execWrsrHypRst hs
  | syncWordArrival => exact staysCanonical_next (hs.arrival _)
  | tileTaskComplete => exact staysCanonical_next (hs.taskDone _ _)
  | reductionContribution => exact staysCanonical_next (hs.routeRound _ _ _ _)
  | reductionResultArrival => exact staysCanonical_next (hs.deliver _ _ _ _)
  | reductionTimeout => exact staysCanonical_next (hs.failRound _ _ _)
  | streamHop => exact staysCanonical_next (hs.hop _ _)
  | consumeMessage => exact staysCanonical_next (hs.tellStrm _ _)
  | streamRecallArrival => exact staysCanonical_next (hs.strmArrive _ _)
  | contextBind => exact staysCanonical_next (hs.getD fun _ => hs.bindOne _)
  | stealProbe => exact staysCanonical_next (hs.getD fun _ => hs.stealOne _)
  | dequeEntryTakeable => exact staysCanonical_next (hs.getD fun _ => hs.entryTakeable _ _)
  | sorusArrival => exact staysCanonical_next (hs.getD fun _ => hs.sorusArrive _)
  | sorusRefill => exact staysCanonical_next (hs.getD fun _ => hs.sorusRefill _)
  | joinAtCounter => exact staysCanonical_next (hs.getD fun _ => hs.joinStep _)
  | joinDecrement => exact staysCanonical_next (hs.getD fun _ => hs.decStep _)
  | parkRecordAtHome => exact staysCanonical_next (hs.getD fun _ => hs.parkStep _)
  | detachedCompletion => exact staysCanonical_next (hs.getD fun _ => hs.complete _ _ _)
  | postedFaultReport => exact staysCanonical_next (hs.getD fun _ => hs.postedFault _ _ _)
  | parkNotice => exact staysCanonical_next (hs.getD fun _ => hs.noticeStep _)
  | wakeupArrival => exact staysCanonical_next (hs.getD fun _ => hs.wakeStep _)
  | withdrawalAtHome => exact staysCanonical_next (hs.getD fun _ => hs.withdrawStep _)
  | ipiDelivery => exact staysCanonical_next (hs.getD fun _ => hs.ipiStep _ _)
  | safepointOverdue => exact staysCanonical_next (hs.getD fun _ => hs.overdueStep _ _)
  | preemptionRequest => exact staysCanonical_next (hs.getD fun _ => hs.preemptStep)
  | trapEntry => exact staysCanonical_next (hs.getD fun _ => hs.trapStep _ _)
  | resolveAtSlice => exact staysCanonical_next (hs.resolveSlice _ _)
  | resolveAtCore => exact staysCanonical_next (hs.resolveCore _ _)
  | launchAccept | launchSlotPoll => exact staysCanonical_next (hs.getD fun _ => hs.acceptNext _)
  | launchEntryPush => exact staysCanonical_next (hs.getD fun _ => hs.pushEntry _ _)
  | launchPrefetch => exact staysCanonical_next (hs.getD fun _ => hs.prefetchAll _ _)
  | launchEnd => exact staysCanonical_next (hs.getD fun _ => hs.endLaunch _ _)
  | eventPost => exact staysCanonical_next (hs.getD fun _ => hs.postEvent _)
  | pageWalk => exact staysCanonical_next (hs.getD fun _ => hs.walkFor _)
  | remapFilterMiss => exact staysCanonical_next (hs.getD fun _ => hs.remapFor _)
  | lineFetchArrival => exact staysCanonical_next (hs.getD fun _ => hs.fetchFor _)
  | directoryReadMiss => exact staysCanonical_next (hs.getD fun _ => hs.readFor _)
  | ownershipRequest => exact staysCanonical_next (hs.getD fun _ => hs.ownFor _)
  | extensionRequest => exact staysCanonical_next (hs.getD fun _ => hs.extendFor _)
  | l1WriteBack => exact staysCanonical_next (hs.getD fun _ => hs.l1Back _ _ _)
  | sliceEviction => exact staysCanonical_next (hs.getD fun _ => hs.evictLine _)
  | hostM2sRequest => exact staysCanonical_next (hs.getD fun _ => hs.hostReq _ _ _ _)
  | hostBisnpReply => exact staysCanonical_next (hs.getD fun _ => hs.hostReply _)
  | h2dSnoop => exact staysCanonical_next (hs.getD fun _ => hs.hostSnoop _ _)
  | expanderBisnp => exact staysCanonical_next (hs.getD fun _ => hs.expanderSnoop _)
  | copyCommandAccept => exact staysCanonical_execCopyCommandAccept hs
  | copyRunStart => exact staysCanonical_execCopyRunStart hs
  | copyArrivalSend => exact staysCanonical_execCopyArrivalSend hs
  | copyCompletion => exact staysCanonical_execCopyCompletion hs
  | tileTaskAccept => exact staysCanonical_execTileTaskAccept hs
  | tileTaskDependenceReady => exact staysCanonical_execTileTaskDependenceReady hs
  | subtileComplete => exact staysCanonical_execSubtileComplete hs
  | tileTaskPause => exact staysCanonical_execTileTaskPause hs
  | streamFloat => exact staysCanonical_execStreamFloat hs
  | streamElementRead => exact staysCanonical_execStreamElementRead hs
  | sorusOfferExpiry => exact staysCanonical_execSorusOfferExpiry hs
  | cellSplit => exact staysCanonical_execCellSplit hs
  | issueIllegalOpcode => exact staysCanonical_execIssueIllegalOpcode hs
  | issueMalformedLine => exact staysCanonical_execIssueMalformedLine hs
  | fetchFault => exact staysCanonical_execFetchFault hs
  | memoryRequestAtHome => exact staysCanonical_execMemoryRequestAtHome hs
  | waitLimitExpiry => exact staysCanonical_execWaitLimitExpiry hs
  | rhizoidForcedFallback => exact staysCanonical_execRhizoidForcedFallback hs
  | leaseExpiryCheck => exact staysCanonical_execLeaseExpiryCheck hs
  | asidAllotmentEnd => exact staysCanonical_execAsidAllotmentEnd hs
  | softErrorDetected => exact staysCanonical_execSoftErrorDetected hs
  | coreRetirement => exact staysCanonical_execCoreRetirement hs
  | transportPacketReceive => exact staysCanonical_execTransportPacketReceive hs
  | transportResendTimeout => exact staysCanonical_execTransportResendTimeout hs
  | laneFailure => exact staysCanonical_execLaneFailure hs
  | firmwareSwitch => exact staysCanonical_execFirmwareSwitch hs
  | recalibration => exact staysCanonical_execRecalibration hs
  | coldReset => exact staysCanonical_execColdReset hs
  | hostPartitionCreate => exact staysCanonical_execHostPartitionCreate hs
  | powerSample => exact staysCanonical_execPowerSample hs
  | throttleStep => exact staysCanonical_execThrottleStep hs

end Sys2Proof.Machine
end

section
/-!
SUPPORT. Memory stays canonical (R141): the end of a ck and one step of the machine.
-/
namespace Sys2Proof.Machine

/-- Marking what would only wait runs each row aside and takes from it at most the state it went on to. -/
theorem Canonical.restWaits {s : State} (hs : Canonical s) : Canonical (s.restWaits exec) := by
  refine Canonical.foldl (fun u e hu => ?_) _ hs
  have run := staysCanonical_exec (u.present e.1 e.2).2 (hu.present e.1 e.2)
  dsimp only
  split
  · exact hu
  split
  next t he =>
    split
    · split
      · exact hu
      split
      · exact run t he
      · exact hu.updCtx _ _ _
    · exact hu
  · exact hu

theorem canonical_endCk {s : State} (hs : Canonical s) : Canonical (endCk s) := hs.tick.restWaits

theorem staysCanonical_issueFrom {s : State} (hs : Canonical s) (c x : Nat) : StaysCanonical (issueFrom s c x) :=
  staysCanonical_exec _ (hs.present c x)

theorem staysCanonical_stepOf {s : State} (hs : Canonical s) (c : Sched) : StaysCanonical (stepOf c s) := by
  cases c with
  | event i e =>
    rw [stepOf]
    split
    · refine staysCanonical_exec i ?_
      exact hs
    · exact staysCanonical_next hs
  | issue core =>
    rw [stepOf]
    split
    · exact staysCanonical_issueFrom hs _ _
    · exact staysCanonical_next hs
  | tick =>
    rw [stepOf]
    split
    · refine staysCanonical_issueFrom ?_ _ _
      exact hs
    · exact staysCanonical_next (canonical_endCk hs)

/-- The first due event is a row that ran. -/
theorem Canonical.due {s t : State} (hs : Canonical s) {l : List (Instr × EvArgs)} (ht : s.due l = some t) : Canonical t := by
  induction l with
  | nil => cases ht
  | cons c l ih =>
    obtain ⟨i, e⟩ := c
    rw [State.due] at ht
    have run := staysCanonical_exec i (s := { s with ev := e }) hs
    split at ht
    next u he =>
      split at ht
      · exact ih ht
      · cases ht
        exact run _ he
    · exact ih ht

theorem staysCanonical_step {s : State} (hs : Canonical s) : StaysCanonical (step s) := by
  unfold step
  split
  · refine staysCanonical_stepOf ?_ _
    exact hs
  split
  next t ht => exact staysCanonical_next (hs.due ht)
  split
  · exact staysCanonical_issueFrom hs _ _
  · exact staysCanonical_next (canonical_endCk hs)

/-- Settles O52: every operation of the machine keeps the canonical form, so every row does, and a step is a row or the end of a
    ck. -/
theorem memoryStaysCanonical : Obligations.MemoryStaysCanonical :=
  fun _ t hs ht => staysCanonical_step hs t ht

end Sys2Proof.Machine
end

section
/-!
SUPPORT. Lanes and masks of vectors (R6, R49, R163): what a lane of an assembled vector is, the flags of a list of results (R98),
and a mask as the sum of its ones.
-/
namespace Sys2Proof.Machine

/-! Lanes. -/

/-- The low bits of a number hold the same fields as the number. -/
theorem bits_mod_two_pow (x : Nat) {n lo w : Nat} (inside : lo + w ≤ n) : bits (x % 2 ^ n) lo w = bits x lo w := by
  refine Nat.eq_of_testBit_eq fun j => ?_
  simp only [bits, Nat.testBit_mod_two_pow, Nat.testBit_div_two_pow]
  by_cases below : j < w
  · have within : j + lo < n := by omega
    simp [below, within]
  · simp [below]

theorem lane_joinLanes_range {n w m i : Nat} (g : Nat → Nat) (hi : i < m) (fits : w * m ≤ n) :
    lane (BitVec.ofNat n (joinLanes w ((List.range m).map g))) w i = g i % 2 ^ w := by
  have inside : w * i + w ≤ n := (Nat.mul_succ w i ▸ Nat.mul_le_mul_left w hi).trans fits
  have here : i < ((List.range m).map g).length := by rwa [List.length_map, List.length_range]
  have value := bits_joinLanes w here
  rw [← bits_mod_two_pow _ inside, ← BitVec.toNat_ofNat, List.getElem_map, List.getElem_range] at value
  exact value

theorem lane_vecOf (ty : Nat) (old : Vec) (k : KMask) (l : Nat → Nat) {i : Nat} (hi : i < lanesN ty) :
    lane (vecOf ty old k l) (tyBits ty) i = if k.getLsbD i then l i % 2 ^ tyBits ty else lane old (tyBits ty) i := by
  have kept : lane old (tyBits ty) i % 2 ^ tyBits ty = lane old (tyBits ty) i := Nat.mod_mod _ _
  rw [vecOf, lane_joinLanes_range _ hi (Nat.mul_div_le _ _), apply_ite (· % 2 ^ tyBits ty), kept]

theorem nth_eq_getElem? {α : Type} (l : List α) (i : Nat) : nth l i = l[i]? := by
  induction l generalizing i with
  | nil => rfl
  | cons x l ih =>
    cases i with
    | zero => rfl
    | succ i => rw [nth, ih, List.getElem?_cons_succ]

/-! Flags of a list (R98). -/

/-- Flags gathered so far stay. -/
theorem foldl_flags (l : List (Nat × Flags)) (fl : Flags) : l.foldl (fun a r => a ||| r.2) fl = fl ||| flagsOf l := by
  unfold flagsOf
  induction l generalizing fl with
  | nil => exact BitVec.or_zero.symm
  | cons r l ih =>
    rw [List.foldl_cons, List.foldl_cons, ih, ih (0 ||| r.2)]
    simp [BitVec.or_assoc]

theorem flagsOf_cons (r : Nat × Flags) (l : List (Nat × Flags)) : flagsOf (r :: l) = r.2 ||| flagsOf l := by
  rw [flagsOf, List.foldl_cons, foldl_flags]
  simp

/-- Each result's flags are among those of the list. -/
theorem and_flagsOf {l : List (Nat × Flags)} {r : Nat × Flags} (h : r ∈ l) : r.2 &&& flagsOf l = r.2 := by
  induction l with
  | nil => exact absurd h List.not_mem_nil
  | cons q l ih =>
    rw [flagsOf_cons]
    refine BitVec.eq_of_getLsbD_eq fun j _ => ?_
    rcases List.mem_cons.1 h with rfl | later
    · simp +contextual
    · have kept := congrArg (·.getLsbD j) (ih later)
      simp only [BitVec.getLsbD_and, BitVec.getLsbD_or] at kept ⊢
      revert kept
      cases r.2.getLsbD j <;> simp +contextual

theorem flagsOf_eq_zero {l : List (Nat × Flags)} (h : ∀ r ∈ l, r.2 = 0) : flagsOf l = 0 := by
  induction l with
  | nil => rfl
  | cons q l ih =>
    rw [flagsOf_cons, h q List.mem_cons_self, ih fun r later => h r (List.mem_cons_of_mem q later)]
    rfl

/-- Results that can raise one flag raise it where one of them does. -/
theorem flagsOf_map_flagIf (value : Nat → Nat) (raised : Nat → Bool) (fl : Flags) (l : List Nat) :
    flagsOf (l.map (fun i => (value i, flagIf (raised i) fl))) = flagIf (l.any raised) fl := by
  induction l with
  | nil => rfl
  | cons i l ih =>
    rw [List.map_cons, flagsOf_cons, ih, List.any_cons]
    unfold flagIf
    cases raised i <;> cases l.any raised <;> simp

/-! Masks (R173, R182). -/

/-- A number of one-bit lanes is the sum of the weights of its ones. -/
theorem joinLanes_one_range' (one : Nat → Bool) (k n : Nat) :
    2 ^ k * joinLanes 1 ((List.range' k n).map (fun i => (one i).toNat)) = (((List.range' k n).filter one).map (2 ^ ·)).sum := by
  induction n generalizing k with
  | zero => rfl
  | succ n ih =>
    rw [List.range'_succ, List.map_cons, joinLanes, Nat.mul_add, ← Nat.mul_assoc, ← Nat.pow_add, ih, List.filter_cons]
    cases one k <;> simp

theorem joinLanes_one_range (one : Nat → Bool) (n : Nat) :
    joinLanes 1 ((List.range n).map (fun i => (one i).toNat)) = (((List.range n).filter one).map (2 ^ ·)).sum := by
  rw [List.range_eq_range', ← joinLanes_one_range', pow_zero, Nat.one_mul]

theorem popc_mask (k : KMask) : popc k.toNat 128 = ((List.range 128).filter (fun i => k.getLsbD i)).length := by
  rw [popc_eq_length _ 0, onesFrom_eq_filter, List.length_map]
  rfl

/-- Two words side by side. -/
theorem append_words (b a : Word) : (b ++ a : BitVec 128) = BitVec.ofNat 128 (a.toNat + 2 ^ 64 * b.toNat) := by
  refine BitVec.eq_of_toNat_eq ?_
  rw [BitVec.toNat_append, ← Nat.shiftLeft_add_eq_or_of_lt a.isLt, Nat.shiftLeft_eq, BitVec.toNat_ofNat, Nat.mod_eq_of_lt (by omega)]
  omega

end Sys2Proof.Machine
end

section
/-!
SUPPORT. Lane-wise instructions (R163, R165, R170 to R172): what `laneRes` gives, and that each of them retires or detaches with it.
-/
namespace Sys2Proof.Machine

/-! The result of a lane-wise operation (R163, R165). -/

theorem State.kOp_eq_kr {s : State} (h : s.me.rett = none) (role : Nat) (x : BitVec 6) : s.kOp role x = s.kr x := by
  unfold State.kOp State.opnd State.replay
  rw [h]
  rfl

theorem begun_vOld (s : State) (sh : Shape) (d : BitVec 6) : (s.begun sh).vOld d = s.vr d := by
  rw [State.vOld, begun_reg, begun_cur, begun_cx]
  rfl

/-- The results of the lanes: none of an inactive one. -/
def laneResults (ty : Nat) (k : KMask) (op : Nat → Nat × Flags) : List (Nat × Flags) :=
  (List.range (lanesN ty)).map (fun i => if k.getLsbD i then op i else (0, 0))

theorem laneRes_eq {s : State} (h : s.me.rett = none) (ty : Nat) (f : Fields) (op : Nat → Nat × Flags) :
    laneRes ty f s op = (vecOf ty (s.vr f.d) (s.kr f.c) (fun i => ((nth (laneResults ty (s.kr f.c) op) i).map (·.1)).getD 0),
      flagsOf (laneResults ty (s.kr f.c) op)) := by
  rw [laneRes, State.kOp_eq_kr h]
  rfl

theorem laneRes_begun {s : State} (h : s.me.rett = none) (sh : Shape) (ty : Nat) (f : Fields) (op : Nat → Nat × Flags) :
    laneRes ty f (s.begun sh) op = laneRes ty f s op := by
  rw [laneRes, laneRes, begun_kOp s sh h, State.kOp_eq_kr h, begun_vOld]
  rfl

theorem nth_laneResults {ty : Nat} (k : KMask) (op : Nat → Nat × Flags) {i : Nat} (hi : i < lanesN ty) :
    nth (laneResults ty k op) i = some (if k.getLsbD i then op i else (0, 0)) := by
  rw [nth_eq_getElem?, laneResults, List.getElem?_map, List.getElem?_range hi]
  rfl

theorem lane_laneRes {ty : Nat} {s : State} (h : s.me.rett = none) (f : Fields) (op : Nat → Nat × Flags) {i : Nat} (hi : i < lanesN ty) :
    lane (laneRes ty f s op).1 (tyBits ty) i =
      if (s.kr f.c).getLsbD i then (op i).1 % 2 ^ tyBits ty else lane (s.vr f.d) (tyBits ty) i := by
  rw [laneRes_eq h, lane_vecOf _ _ _ _ hi, nth_laneResults _ _ hi]
  by_cases active : (s.kr f.c).getLsbD i = true
  · simp only [active, if_true, Option.map_some, Option.getD_some]
  · rw [if_neg active, if_neg active]

theorem and_flags_laneRes {ty : Nat} {s : State} (h : s.me.rett = none) (f : Fields) (op : Nat → Nat × Flags) {i : Nat} (hi : i < lanesN ty)
    (active : (s.kr f.c).getLsbD i = true) : (op i).2 &&& (laneRes ty f s op).2 = (op i).2 := by
  rw [laneRes_eq h]
  refine and_flagsOf (List.mem_map.2 ⟨i, List.mem_range.2 hi, ?_⟩)
  rw [if_pos active]

theorem flags_laneRes_eq_zero {ty : Nat} {s : State} (h : s.me.rett = none) (f : Fields) (op : Nat → Nat × Flags)
    (quiet : ∀ j, j < lanesN ty → (s.kr f.c).getLsbD j = true → (op j).2 = 0) : (laneRes ty f s op).2 = 0 := by
  rw [laneRes_eq h]
  refine flagsOf_eq_zero (List.forall_mem_map.2 fun j hj => ?_)
  split
  next active => exact quiet j (List.mem_range.1 hj) active
  next => rfl

/-! Instructions that retire with such a result. -/

/-- Element `j` of a source of `f` (R162, R163). -/
abbrev elemAt (f : Fields) (v : Vec) (j : Nat) : Nat := lane v (tyBits (vTy f)) j

/-- A floating result of each active lane, rounded once (R170, R171). -/
def roundedLanes (f : Fields) (op : State → Nat → FVal × Flags) (s : State) : Vec × Flags :=
  laneRes (vTy f) f s (fun j => roundWith (fmtTy (vTy f)) (roundMode f s) (op s j))

section
variable {i : Instr} {f : Fields}

theorem setsV_of {r : State → Vec × Flags} {body : State → Shape → Eff} (hx : ∀ s, exec i s = issue i s body)
    (hb : ∀ sh s, Issues i sh s → body (s.begun sh) sh = vRes (s.begun sh) f (r s)) : SetsV i f.d r :=
  completes_or_trapsFpx hx (fun sh s h => by rw [hb sh s h, vRes, begun_cur, begun_cx]) fun _ _ => onlyRegs_wrV _ _ _

/-- Of one v source. -/
theorem setsV_unary (op : Nat → Mode → Nat → Nat × Flags) (hx : ∀ s, exec i s = issue i s (vUn f op)) :
    SetsV i f.d (fun s => laneRes (vTy f) f s (fun j => op (vTy f) (roundMode f s) (elemAt f (s.vr f.a) j))) :=
  setsV_of hx fun sh s h => by
    rw [vUn, begun_vOp s sh h.fresh, begun_modeOf, laneRes_begun h.fresh]

/-- Of two v sources. -/
theorem setsV_binary (op : Nat → Mode → Nat → Nat → Nat × Flags) (hx : ∀ s, exec i s = issue i s (vBin f op)) :
    SetsV i f.d (fun s => laneRes (vTy f) f s (fun j =>
      op (vTy f) (roundMode f s) (elemAt f (s.vr f.a) j) (elemAt f (s.vr f.b) j))) :=
  setsV_of hx fun sh s h => by
    rw [vBin, begun_vOp s sh h.fresh, begun_vOp s sh h.fresh, begun_modeOf, laneRes_begun h.fresh]

theorem setsV_logic (op : Nat → Nat → Nat → Nat) (hx : ∀ s, exec i s = issue i s (vLogic f op)) :
    SetsV i f.d (fun s => laneRes (vTy f) f s (fun j =>
      (op (tyBits (vTy f)) (elemAt f (s.vr f.a) j) (elemAt f (s.vr f.b) j) % 2 ^ tyBits (vTy f), 0))) :=
  setsV_binary (fun ty _ x y => (op (tyBits ty) x y % 2 ^ tyBits ty, 0)) hx

/-- The fused minors, which read their destination. -/
theorem setsV_fused {neg : Bool} (hx : ∀ s, exec i s = issue i s (vFma f neg)) :
    SetsV i f.d (roundedLanes f (fun s j => fmaX (roundMode f s) false neg (unpackTy (vTy f) (elemAt f (s.vr f.a) j))
      (unpackTy (vTy f) (elemAt f (s.vr f.b) j)) (unpackTy (vTy f) (elemAt f (s.vr f.d) j)))) :=
  setsV_of hx fun sh s h => by
    rw [vFma, begun_vOp s sh h.fresh, begun_vOp s sh h.fresh, begun_vOp s sh h.fresh, begun_modeOf, laneRes_begun h.fresh]
    rfl

/-- Division and roots detach with it (R171). -/
theorem detachesWith_lanes {n : Nat} {op : State → Nat → FVal × Flags} {body : State → Shape → Eff}
    (hx : ∀ s, exec i s = issue i s body)
    (hb : ∀ sh s, Issues i sh s → body (s.begun sh) sh = vDet i f n (op s) (s.begun sh) sh) :
    DetachesWith i n (0x60 + f.d.toNat) (fun s => (roundedLanes f op s).1) (fun s => (roundedLanes f op s).2) :=
  detachesWith_of hx fun sh s h => by
    rw [hb sh s h, vDet, begun_modeOf, laneRes_begun h.fresh]
    rfl

end

/-- Settles O8: the lanes and flags of `laneRes`, and each instruction by its shape. -/
theorem vectorLaneResults : Obligations.VectorLaneResults := by
  refine ⟨fun ty f s op i _ fresh hi => ⟨lane_laneRes fresh f op hi, and_flags_laneRes fresh f op hi, flags_laneRes_eq_zero fresh f op⟩,
    fun f => ?retires, fun f => ⟨detachesWith_lanes (fun _ => rfl) ?vdiv, detachesWith_lanes (fun _ => rfl) ?vsqrt⟩⟩
  case retires =>
    exact ⟨setsV_binary addE fun _ => rfl, setsV_binary subE fun _ => rfl, setsV_binary mulE fun _ => rfl,
      setsV_binary minE fun _ => rfl, setsV_binary maxE fun _ => rfl, setsV_unary absE fun _ => rfl, setsV_unary negE fun _ => rfl,
      setsV_fused fun _ => rfl, setsV_fused fun _ => rfl,
      setsV_logic (fun _ x y => x &&& y) fun _ => rfl, setsV_logic (fun _ x y => x ||| y) fun _ => rfl,
      setsV_logic (fun _ x y => x ^^^ y) fun _ => rfl, setsV_logic (fun w x y => x * 2 ^ (y % w)) fun _ => rfl,
      setsV_logic (fun w x y => x / 2 ^ (y % w)) fun _ => rfl,
      setsV_logic (fun w x y => wrapI (signed x w / (2 ^ (y % w) : Nat)) w) fun _ => rfl⟩
  case vdiv => exact fun sh s h => by rw [begun_vOp s sh h.fresh, begun_vOp s sh h.fresh]; rfl
  case vsqrt => exact fun sh s h => by rw [begun_vOp s sh h.fresh]; rfl

end Sys2Proof.Machine
end

section
/-!
SUPPORT. Movement of lanes, reductions and scans (R106, R107, R180, R181).
-/
namespace Sys2Proof.Machine

/-! Movement (R180). -/

/-- An instruction that puts `l'` in the active lanes of its destination, and sets no flag. -/
theorem completes_move {i : Instr} {f : Fields} {l : State → Nat → Nat → Nat} {l' : State → Nat → Nat}
    (hx : ∀ s, exec i s = issue i s (vMove f l))
    (hl : ∀ sh s, Issues i sh s → l (s.begun sh) (vTy f) = l' s) :
    Completes i (fun _ => True) (fun s sh => (s.begun sh).wrV f.d (vecOf (vTy f) (s.vr f.d) (s.kr f.c) (l' s))) :=
  completes_regs hx (fun sh s h _ => by rw [vMove, begun_vOld, begun_kOp s sh h.fresh, hl sh s h]) fun _ _ => onlyRegs_wrV _ _ _

/-! Reductions (R106, R181). -/

/-- What passes through a sum alone: a NaN becomes canonical, and a signalling one sets nv (R94). -/
def canonical (ty x : Nat) : Nat × Flags :=
  (if !tyInt ty && (unpackTy ty x).isNan then (fmtTy ty).canon else x,
    if (!tyInt ty && (unpackTy ty x).isNan) && (unpackTy ty x).isSig then fNv else 0)

theorem canonE_eq_canonical (ty : Nat) : canonE ty = canonical ty := by
  funext x
  unfold canonE canonical
  cases tyInt ty
  · cases unpackTy ty x <;> rfl
  · rfl

/-- The tree over the lanes of the source (R106). -/
def treeOf (op : Nat → Mode → Nat → Nat → Nat × Flags) (f : Fields) (s : State) : Option Nat × Flags :=
  treeRed (op (vTy f) (roundMode f s)) (Nat.log2 (lanesN (vTy f)))
    ((List.range (lanesN (vTy f))).map (fun j => if (s.kr f.c).getLsbD j then some (elemAt f (s.vr f.a) j) else none))

/-- The result of the tree, that of no lane where none is active. -/
def treeResult (op : Nat → Mode → Nat → Nat → Nat × Flags) (k : Nat) (f : Fields) (s : State) : Nat × Flags :=
  canonical (vTy f) ((treeOf op f s).1.getD (redEmpty k (vTy f)))

/-- Its flags and those of the tree. -/
def treeFlags (op : Nat → Mode → Nat → Nat → Nat × Flags) (k : Nat) (f : Fields) (s : State) : Flags :=
  (treeOf op f s).2 ||| (treeResult op k f s).2

theorem vRed_begun {i : Instr} {sh : Shape} {s : State} (h : Issues i sh s)
    (op : Nat → Mode → Nat → Nat → Nat × Flags) (k : Nat) (f : Fields) :
    vRed f k op (s.begun sh) sh =
      if fpx (s.begun sh).me (treeFlags op k f s) then .trap cFpx 0 0 (treeFlags op k f s)
      else
        let v := redVal (vTy f) (treeResult op k f s).1
        .done ((if tyInt (vTy f) then (s.begun sh).wrG f.d v else (s.begun sh).wrF f.d v).addFlags s.cur s.cx (treeFlags op k f s)) := by
  rw [vRed, begun_vOp s sh h.fresh, begun_kOp s sh h.fresh, begun_modeOf, canonE_eq_canonical, begun_cur, begun_cx]
  rfl

theorem reduces_of {i : Instr} {f : Fields} {k : Nat} {op : Nat → Mode → Nat → Nat → Nat × Flags}
    (hx : ∀ s, exec i s = issue i s (vRed f k op)) :
    Completes i (fun s => treeFlags op k f s &&& s.me.fpmode.extractLsb' 2 5 = 0) (fun s sh =>
      (if tyInt (vTy f) then (s.begun sh).wrG f.d (redVal (vTy f) (treeResult op k f s).1)
        else (s.begun sh).wrF f.d (redVal (vTy f) (treeResult op k f s).1)).addFlags s.cur s.cx (treeFlags op k f s)) ∧
    TrapsFpx i (fun s => treeFlags op k f s &&& s.me.fpmode.extractLsb' 2 5 ≠ 0) (treeFlags op k f) := by
  refine completes_or_trapsFpx hx (fun sh s h => vRed_begun h op k f) fun sh s => ?_
  split
  · exact onlyRegs_wrG _ _ _
  · exact onlyRegs_wrF _ _ _

/-! Scans (R107, R181). -/

/-- The running sums of the active lanes. -/
def scanOf (f : Fields) (s : State) : List (Nat × Nat × Flags) :=
  scanFrom (canonical (vTy f)) (addE (vTy f) (roundMode f s)) none
    ((activeLanes (vTy f) (s.kr f.c)).map (fun j => (j, elemAt f (s.vr f.a) j)))

theorem setsV_scan (f : Fields) : SetsV (.vscan f) f.d (fun s =>
    (vecOf (vTy f) (s.vr f.d) (s.kr f.c) (fun j => (((scanOf f s).find? (fun r => r.1 == j)).map (·.2.1)).getD 0),
      ((scanOf f s).map (·.2.2)).foldl (· ||| ·) 0)) :=
  setsV_of (fun _ => rfl) fun sh s h => by
    rw [begun_kOp s sh h.fresh, begun_vOp s sh h.fresh, begun_modeOf, begun_vOld, List.foldl_map, scanOf, ← canonE_eq_canonical]

/-- Settles O9: movement by what goes to each lane, reductions by `treeRed`, the scan by `scanFrom`. -/
theorem vectorMovementResults : Obligations.VectorMovementResults := by
  intro f
  refine ⟨completes_move (fun _ => rfl) ?vbcast, completes_move (fun _ => rfl) ?vperm, completes_move (fun _ => rfl) ?vslideUp,
    completes_move (fun _ => rfl) ?vslideDn, completes_move (fun _ => rfl) ?vmov,
    reduces_of fun _ => rfl, reduces_of fun _ => rfl, reduces_of fun _ => rfl, setsV_scan f⟩
  case vbcast => exact fun sh s h => by rw [begun_fIn s sh h.fresh, begun_fOp s sh h.fresh, begun_gOp s sh h.fresh]; rfl
  case vperm => exact fun sh s h => by rw [begun_vOp s sh h.fresh, begun_vOp s sh h.fresh]; rfl
  case vslideUp => exact fun sh s h => by rw [begun_vOp s sh h.fresh, begun_gOp s sh h.fresh]; rfl
  case vslideDn => exact fun sh s h => by rw [begun_vOp s sh h.fresh, begun_gOp s sh h.fresh]; rfl
  case vmov => exact fun sh s h => by rw [begun_vOp s sh h.fresh]; rfl

end Sys2Proof.Machine
end

section
/-!
SUPPORT. Comparisons, selection and masks (R173, R182).
-/
namespace Sys2Proof.Machine

/-! Comparisons (R173). -/

section
variable (ty x y : Nat)

theorem cmpE_equal : cmpE 0 ty x y = (if tyInt ty then decide (intTy ty x = intTy ty y) else cmpX (unpackTy ty x) (unpackTy ty y) == some .eq,
    flagIf (!tyInt ty && ((unpackTy ty x).isSig || (unpackTy ty y).isSig)) fNv) := by
  unfold cmpE
  cases tyInt ty <;> rfl

theorem cmpE_unequal : cmpE 1 ty x y = (if tyInt ty then decide (intTy ty x ≠ intTy ty y)
      else !(cmpX (unpackTy ty x) (unpackTy ty y) == some .eq),
    flagIf (!tyInt ty && ((unpackTy ty x).isSig || (unpackTy ty y).isSig)) fNv) := by
  unfold cmpE
  cases tyInt ty <;> rfl

theorem cmpE_less : cmpE 2 ty x y = (if tyInt ty then decide (intTy ty x < intTy ty y) else cmpX (unpackTy ty x) (unpackTy ty y) == some .lt,
    flagIf (!tyInt ty && ((unpackTy ty x).isNan || (unpackTy ty y).isNan)) fNv) := by
  unfold cmpE
  cases tyInt ty <;> rfl

theorem cmpE_lessEqual : cmpE 3 ty x y = (if tyInt ty then decide (intTy ty x ≤ intTy ty y)
      else cmpX (unpackTy ty x) (unpackTy ty y) == some .lt || cmpX (unpackTy ty x) (unpackTy ty y) == some .eq,
    flagIf (!tyInt ty && ((unpackTy ty x).isNan || (unpackTy ty y).isNan)) fNv) := by
  unfold cmpE
  cases tyInt ty <;> rfl

theorem cmpE_unordered {ty : Nat} (float : tyInt ty = false) (x y : Nat) :
    cmpE 4 ty x y = (if tyInt ty then false else (unpackTy ty x).isNan || (unpackTy ty y).isNan,
      flagIf (!tyInt ty && ((unpackTy ty x).isSig || (unpackTy ty y).isSig)) fNv) := by
  unfold cmpE
  rw [float]
  rfl

end

/-- The comparison of the sources of `f` in lane `j`. -/
def cmpLane (cc : Nat) (f : Fields) (s : State) (j : Nat) : Bool × Flags :=
  cmpE cc (vTy f) (elemAt f (s.vr f.a) j) (elemAt f (s.vr f.b) j)

/-- The results of the lanes: none of an inactive one. -/
def compareResults (cc : Nat) (f : Fields) (s : State) : List (Nat × Flags) :=
  (List.range (lanesN (vTy f))).map (fun j => if (s.kr f.c).getLsbD j then ((cmpLane cc f s j).1.toNat, (cmpLane cc f s j).2) else (0, 0))

/-- The mask of the active lanes that pass `test`. -/
def maskOf (f : Fields) (test : State → Nat → Bool) (s : State) : KMask :=
  BitVec.ofNat 128 (((activeLanes (vTy f) (s.kr f.c)).filter (test s)).map (fun j => 2 ^ j)).sum

/-- NV, where an active lane of a floating comparison raises it. -/
def compareFlags (f : Fields) (raise : State → Nat → Bool) (s : State) : Flags :=
  if !tyInt (vTy f) && (activeLanes (vTy f) (s.kr f.c)).any (raise s) then fNv else 0

section
variable {cc : Nat} {f : Fields} {test raise : State → Nat → Bool}
  (hc : ∀ s j, cmpLane cc f s j = (test s j, flagIf (!tyInt (vTy f) && raise s j) fNv))
include hc

theorem compareResults_eq (s : State) : compareResults cc f s = (List.range (lanesN (vTy f))).map (fun j =>
    ((test s j && (s.kr f.c).getLsbD j).toNat, flagIf ((s.kr f.c).getLsbD j && (!tyInt (vTy f) && raise s j)) fNv)) := by
  refine List.map_congr_left fun j _ => ?_
  rw [hc]
  cases (s.kr f.c).getLsbD j
  · rw [Bool.and_false]
    rfl
  · rw [Bool.and_true]
    rfl

theorem joinLanes_compareResults (s : State) :
    BitVec.ofNat 128 (joinLanes 1 ((compareResults cc f s).map (·.1))) = maskOf f test s := by
  rw [compareResults_eq hc, List.map_map, maskOf, activeLanes, List.filter_filter, ← joinLanes_one_range]
  rfl

theorem flagsOf_compareResults (s : State) : flagsOf (compareResults cc f s) = compareFlags f raise s := by
  rw [compareResults_eq hc, flagsOf_map_flagIf, ← List.any_filter, ← List.and_any_distrib_left]
  rfl

theorem vCmp_begun {i : Instr} {sh : Shape} {s : State} (h : Issues i sh s) :
    vCmp f cc (s.begun sh) sh = kRes (s.begun sh) f.d (maskOf f test s) (compareFlags f raise s) := by
  rw [← joinLanes_compareResults hc, ← flagsOf_compareResults hc, vCmp, begun_vOp s sh h.fresh, begun_vOp s sh h.fresh,
    begun_kOp s sh h.fresh]
  rfl

theorem compares_of {i : Instr} (hx : ∀ s, exec i s = issue i s (vCmp f cc)) :
    Completes i (fun s => compareFlags f raise s &&& s.me.fpmode.extractLsb' 2 5 = 0)
      (fun s sh => ((s.begun sh).wrK f.d (maskOf f test s)).addFlags s.cur s.cx (compareFlags f raise s)) ∧
    TrapsFpx i (fun s => compareFlags f raise s &&& s.me.fpmode.extractLsb' 2 5 ≠ 0) (compareFlags f raise) :=
  completes_or_trapsFpx hx (fun sh s h => by rw [vCmp_begun hc h, kRes, begun_cur, begun_cx]) fun _ _ => onlyRegs_wrK _ _ _

end

/-- `vsel`. -/
theorem completes_vsel (f : Fields) : Completes (.vsel f) (fun _ => True) (fun s sh =>
    (s.begun sh).wrV f.d (vecOf (vTy f) (s.vr f.b) (s.kr f.c) (elemAt f (s.vr f.a)))) :=
  completes_regs (fun _ => rfl) (fun sh s h _ => by rw [begun_vOp s sh h.fresh, begun_vOp s sh h.fresh, begun_kOp s sh h.fresh])
    fun _ _ => onlyRegs_wrV _ _ _

/-! Masks (R182). -/

/-- An instruction that only writes a mask. -/
theorem setsK_of {i : Instr} {d : BitVec 6} {v : State → KMask} {body : State → Shape → Eff} (hx : ∀ s, exec i s = issue i s body)
    (hb : ∀ sh s, Issues i sh s → body (s.begun sh) sh = .done ((s.begun sh).wrK d (v s))) :
    Completes i (fun _ => True) (fun s sh => (s.begun sh).wrK d (v s)) :=
  completes_regs hx (fun sh s h _ => hb sh s h) fun _ _ => onlyRegs_wrK _ _ _

/-- One of two masks. -/
theorem setsK_binary {i : Instr} {f : Fields} (op : KMask → KMask → KMask) (hx : ∀ s, exec i s = issue i s (kBin f op)) :
    Completes i (fun _ => True) (fun s sh => (s.begun sh).wrK f.d (op (s.kr f.a) (s.kr f.b))) :=
  setsK_of hx fun sh s h => by rw [kBin, begun_kOp s sh h.fresh, begun_kOp s sh h.fresh]

/-- Settles O10: each comparison by what it says of a lane, masks by what they write. -/
theorem vectorCompareAndMaskResults : Obligations.VectorCompareAndMaskResults := by
  refine ⟨fun f => ?compare, fun f => ?masks⟩
  case compare =>
    exact ⟨compares_of (fun _ _ => cmpE_equal ..) fun _ => rfl, compares_of (fun _ _ => cmpE_unequal ..) fun _ => rfl,
      compares_of (fun _ _ => cmpE_less ..) fun _ => rfl, compares_of (fun _ _ => cmpE_lessEqual ..) fun _ => rfl,
      fun float => compares_of (fun _ _ => cmpE_unordered float ..) fun _ => rfl, completes_vsel f⟩
  case masks =>
    refine ⟨setsK_binary (· &&& ·) fun _ => rfl, setsK_binary (· ||| ·) fun _ => rfl, setsK_binary (· ^^^ ·) fun _ => rfl,
      setsK_of (fun _ => rfl) ?knot, setsK_of (fun _ => rfl) ?kset, setsG_of (fun _ => rfl) ?kpop⟩
    case knot => exact fun sh s h => by rw [begun_kOp s sh h.fresh]
    case kset => exact fun sh s h => by rw [begun_gOp s sh h.fresh, begun_gOp s sh h.fresh, append_words]
    case kpop => exact fun sh s h => by rw [begun_kOp s sh h.fresh, popc_mask]

end Sys2Proof.Machine
end

section
/-!
SUPPORT. Conversion (R174 to R178): how `vcvt` ends where every element fits, and what it asks for where one is an outlier.
-/
namespace Sys2Proof.Machine

/-- A reservation is asked for (R104, R178). -/
theorem issue_reserve {i : Instr} {sh : Shape} {s : State} {a : Word} {n : Nat} {body : State → Shape → Eff} (h : Issues i sh s)
    (hb : body (s.begun sh) sh = .reserve a n) : issue i s body = .next ((s.withIw sh).sendReserve sh a n) := by
  rw [issue_go h, hb]
  unfold State.settle
  simp only [h.calm', h.quiet', Bool.false_eq_true, if_false]

/-- A late count of clamped scales adds to `scale_uflow`, which stops at its largest value (R56, R178). -/
theorem applyLate_uflow (c : Core) (due ctx : Nat) {n : Nat} (h : n < 2 ^ 64) :
    c.applyLate { due, ctx, code := uflowCode, val := some (BitVec.ofNat 64 n) } =
      { c with scaleUflow := BitVec.ofNat 32 (min (c.scaleUflow.toNat + n) (2 ^ 32 - 1)) } := by
  have late : ¬uflowCode < 0x1000 := by decide
  rw [Core.applyLate]
  dsimp only
  rw [if_neg late, if_pos rfl, BitVec.toNat_ofNat, Nat.mod_eq_of_lt h]

/-! The body of `vcvt`. -/

/-- What `vcvt` makes of its operands. -/
def cvtRead (f : Fields) (s : State) : CvtOut :=
  vcvtOf f (s.modeOf (rmOf f)) (s.vOp 1 f.a) (s.gOp 2 f.b) (fun j => (s.kOp 3 f.c).getLsbD j)

/-- The first destination lane. -/
def cvtOff (f : Fields) : Nat :=
  if tyBits (fld f.imm 0 4) < tyBits (fld f.imm 7 4) then 1024 / max (tyBits (fld f.imm 0 4)) (tyBits (fld f.imm 7 4)) * fld f.imm 13 3 else 0

/-- The first source lane. -/
def cvtSrcOff (f : Fields) : Nat :=
  if tyBits (fld f.imm 7 4) < tyBits (fld f.imm 0 4) then 1024 / max (tyBits (fld f.imm 0 4)) (tyBits (fld f.imm 7 4)) * fld f.imm 13 3 else 0

/-- The entries of the outlier list: destination lane and unscaled value (R102, R103). -/
def cvtOutliers (f : Fields) (s : State) : List Outl :=
  (cvtRead f s).els.filterMap (fun e => if e.2.isNone then
    some (cvtOff f + e.1, srcVal (fld f.imm 7 4) (lane (s.vOp 1 f.a) (tyBits (fld f.imm 7 4)) (cvtSrcOff f + e.1))) else none)

/-- The destination: the converted elements in their lanes, zero for an outlier, the old lanes elsewhere. -/
def cvtVec (f : Fields) (o : CvtOut) (old : Vec) : Vec :=
  BitVec.ofNat 1024 (joinLanes (tyBits (fld f.imm 0 4)) ((List.range (1024 / tyBits (fld f.imm 0 4))).map (fun j =>
    match o.els.find? (fun e => cvtOff f + e.1 == j) with
    | some e => e.2.getD (narrowTy (fld f.imm 0 4)).zero
    | none => lane old (tyBits (fld f.imm 0 4)) j)))

/-- Destination, flags and scale codes are written. -/
def State.cvtWritten (t : State) (f : Fields) (o : CvtOut) (old : Vec) : State :=
  let u := (t.wrV f.d (cvtVec f o old)).addFlags t.cur t.cx o.fl
  if fld f.imm 11 2 ≠ 0 ∧ 12 ≤ fld f.imm 0 4 then u.wrG f.b (BitVec.ofNat 64 (joinLanes 8 o.codes)) else u

/-- And the count of the clamped scales, late. -/
def State.cvtCounted (t : State) (o : CvtOut) : State :=
  if o.clamps = 0 then t else t.later t.cur { due := t.cycles + 8, ctx := t.cx, code := uflowCode, val := some (BitVec.ofNat 64 o.clamps) }

/-- The end of `vcvt`, once its outliers are in their list. -/
def cvtEnd (f : Fields) (o : CvtOut) : Except Flt State → Eff
  | .error (c, b) => .flt c b
  | .ok t => .done ((t.cvtWritten f o (t.vOld f.d)).cvtCounted o)

theorem vcvtBody_eq (f : Fields) (replied : Bool) (s : State) (sh : Shape) : vcvtBody f replied s sh =
    if fpx s.me (cvtRead f s).fl then .trap cFpx 0 0 (cvtRead f s).fl
    else if !(cvtOutliers f s).isEmpty && !replied && !s.pathClear s.cur then .wait .path
    else if !(cvtOutliers f s).isEmpty && !replied && s.me.outl != 0 then .reserve s.me.outl (cvtOutliers f s).length
    else cvtEnd f (cvtRead f s) ((if (cvtOutliers f s).isEmpty then s else s.aliasRoll (fun l =>
      (s.appendLines (s.myWho .strand) s.me.outl (cvtOutliers f s).length).contains l)).append
        (s.myWho .strand) s.me.outl s.cur s.cx (cvtOutliers f s)) := rfl

/-- The outliers are the elements that have no code. -/
theorem length_cvtOutliers (f : Fields) (s : State) : (cvtOutliers f s).length = ((cvtRead f s).els.filter (fun e => e.2.isNone)).length := by
  unfold cvtOutliers
  induction (cvtRead f s).els with
  | nil => rfl
  | cons e l ih =>
    rw [List.filterMap_cons, List.filter_cons]
    cases e.2.isNone
    · exact ih
    · exact congrArg (· + 1) ih

theorem cvtOutliers_eq_nil_iff (f : Fields) (s : State) : cvtOutliers f s = [] ↔ (cvtRead f s).els.all (fun e => e.2.isSome) = true := by
  rw [← List.length_eq_zero_iff, length_cvtOutliers, List.length_eq_zero_iff, List.filter_eq_nil_iff, List.all_eq_true]
  simp only [Option.isNone_iff_eq_none, Option.isSome_iff_ne_none, ne_eq]

theorem onlyRegs_cvtWritten (t : State) (f : Fields) (o : CvtOut) (old : Vec) : OnlyRegs t (t.cvtWritten f o old) := by
  have flags : OnlyRegs t ((t.wrV f.d (cvtVec f o old)).addFlags t.cur t.cx o.fl) := (onlyRegs_wrV _ _ _).trans (onlyRegs_addFlags _ _ _ _)
  unfold State.cvtWritten
  dsimp only
  split
  · exact flags.trans (onlyRegs_wrG _ _ _)
  · exact flags

theorem onlyRegs_cvtCounted (t : State) (o : CvtOut) : OnlyRegs t (t.cvtCounted o) := by
  unfold State.cvtCounted
  split
  · exact OnlyRegs.refl t
  · exact onlyRegs_later _ _ _

/-! `vcvt` at issue. -/

/-- What `vcvt` makes of its source. -/
def cvtOut (f : Fields) (s : State) : CvtOut := vcvtOf f (roundMode f s) (s.vr f.a) (s.gr f.b) (fun j => (s.kr f.c).getLsbD j)

theorem begun_cvtRead {s : State} (h : s.me.rett = none) (sh : Shape) (f : Fields) : cvtRead f (s.begun sh) = cvtOut f s := by
  rw [cvtRead, begun_modeOf, begun_vOp s sh h, begun_gOp s sh h, begun_kOp s sh h]
  rfl

theorem begun_cvtWritten (s : State) (sh : Shape) (f : Fields) (o : CvtOut) :
    ((s.begun sh).cvtWritten f o ((s.begun sh).vOld f.d)).cvtCounted o =
      if o.clamps = 0 then (s.begun sh).cvtWritten f o (s.vr f.d) else ((s.begun sh).cvtWritten f o (s.vr f.d)).later s.cur
        { due := s.cycles + 8, ctx := s.cx, code := uflowCode, val := some (BitVec.ofNat 64 o.clamps) } := by
  have kept := onlyRegs_cvtWritten (s.begun sh) f o (s.vr f.d)
  have now : ((s.begun sh).cvtWritten f o (s.vr f.d)).cycles = s.cycles := by rw [kept.rest, onlyCores_cycles, begun_cycles]
  rw [begun_vOld, State.cvtCounted, kept.cur, kept.cx, now, begun_cur, begun_cx]

section
variable {f : Fields} {sh : Shape} {s : State} (h : Issues (.vcvt f) sh s)
include h

theorem Issues.vcvt_raises (raised : (cvtOut f s).fl &&& s.me.fpmode.extractLsb' 2 5 ≠ 0) :
    vcvtBody f false (s.begun sh) sh = .trap cFpx 0 0 (cvtOut f s).fl := by
  rw [vcvtBody_eq, begun_cvtRead h.fresh, begun_fpx, if_pos ((fpx_iff _ _).2 raised)]

section
variable (masked : (cvtOut f s).fl &&& s.me.fpmode.extractLsb' 2 5 = 0)
include masked

/-- With no outlier nothing is appended. -/
theorem Issues.vcvt_fits (fit : (cvtOut f s).els.all (fun e => e.2.isSome) = true) : vcvtBody f false (s.begun sh) sh =
    .done (((s.begun sh).cvtWritten f (cvtOut f s) ((s.begun sh).vOld f.d)).cvtCounted (cvtOut f s)) := by
  have empty : cvtOutliers f (s.begun sh) = [] := (cvtOutliers_eq_nil_iff _ _).2 (by rwa [begun_cvtRead h.fresh])
  rw [vcvtBody_eq, begun_cvtRead h.fresh, begun_fpx, if_neg (not_not.2 masked ∘ (fpx_iff _ _).1), empty]
  rfl

theorem Issues.vcvt_reserves (outlier : (cvtOut f s).els.all (fun e => e.2.isSome) = false) (clear : s.pathClear s.cur = true)
    (list : s.me.outl ≠ 0) :
    vcvtBody f false (s.begun sh) sh = .reserve s.me.outl ((cvtOut f s).els.filter (fun e => e.2.isNone)).length := by
  have listed : (cvtOutliers f (s.begun sh)).isEmpty = false := by
    rw [List.isEmpty_eq_false_iff, ne_eq, cvtOutliers_eq_nil_iff, begun_cvtRead h.fresh, outlier]
    exact Bool.false_ne_true
  have path : (s.begun sh).pathClear s.cur = true := by rw [State.pathClear, begun_net]; exact clear
  rw [vcvtBody_eq, length_cvtOutliers, begun_cvtRead h.fresh, begun_fpx, if_neg (not_not.2 masked ∘ (fpx_iff _ _).1),
    listed, begun_cur, path, begun_me_outl, if_neg (by decide), if_pos (by simpa using list)]

end

end

/-- Settles O11: `vcvtBody` on the operands of an instruction that issues. -/
theorem vectorConversionResults : Obligations.VectorConversionResults := by
  intro f
  refine ⟨fun sh s h ⟨masked, fit⟩ => ?fits, ?count, fun sh s h raised => exec_trap (fun _ => rfl) h (h.vcvt_raises raised),
    fun sh s h masked outlier clear list => issue_reserve h (h.vcvt_reserves masked outlier clear list)⟩
  case fits =>
    have kept := (onlyRegs_cvtWritten (s.begun sh) f (cvtOut f s) ((s.begun sh).vOld f.d)).trans (onlyRegs_cvtCounted _ (cvtOut f s))
    rw [exec_done (fun _ => rfl) h (h.vcvt_fits masked fit) kept.keepsStrand, begun_cvtWritten, State.cvtWritten, begun_cur, begun_cx]
    rfl
  case count =>
    rintro c n x l small rfl
    exact applyLate_uflow c x x (by omega)

end Sys2Proof.Machine
end

section
/-!
SUPPORT. Tile instructions at issue (R183 to R191, R197 to R200): what one captures, how it detaches, and what faults it or holds it back.
-/
namespace Sys2Proof.Machine

/-! Operands of an instruction that issues. -/

section
variable {i : Instr} {sh : Shape} {s : State} (h : Issues i sh s)
include h

theorem Issues.op {op : Nat} (hs : ∀ u, (i.shape u).map (·.op) = some op) : sh.op = op := by
  have known := hs s.flds
  rw [h.shape] at known
  exact Option.some.inj known

theorem Issues.opnd (role code : Nat) : (s.begun sh).opnd role code = (s.begun sh).reg (s.begun sh).cur (s.begun sh).cx code := by
  rw [State.opnd, h.replay]

end

/-- The address and the stride that a register pair holds (R185). -/
def State.pairAt (s : State) (x : BitVec 6) : Word × Word := (s.gr x, s.gReg (x.toNat + 1))

theorem Issues.pairOp {i : Instr} {sh : Shape} {s : State} (h : Issues i sh s) (role : Nat) (x : BitVec 6) :
    (s.begun sh).pairOp role x = (s.begun sh).pairAt x := by
  rw [State.pairOp, h.gOp, State.pairAt]

/-! Sizes and times. -/

/-- The C element of an `mma` minor is its accumulator (R183, R188). -/
theorem tileSc_mma {m : Nat} (hm : m < 16) (ty : Nat) : tileSc (0x2C0 + m) ty = tyBits (mmaTy m).2.2 / 8 := by
  interval_cases m <;> rfl

theorem tileSc_tout {ty : Nat} (h : ty < 16) : tileSc 0x2D3 ty = tyBits (mmaTy ty).2.2 / 8 := by
  interval_cases ty <;> rfl

/-- A row block of an `mma` takes its products at the minor's rate (R190). -/
theorem tilePer_mma {m : Nat} (hm : m < 16) (t : Tile) : tilePer (0x2C0 + m) t = (8 * t.n * t.k + mmaRate m - 1) / mmaRate m := by
  have major : (0x2C0 + m) / 16 = 0x2C := by omega
  have minor : (0x2C0 + m) % 16 = m := by omega
  rw [tilePer, if_pos major, minor]

/-! What is captured and checked. -/

section
variable (f : Fields) (s : State)

/-- The tile that the shape word gives (R183). -/
def tileAt : Tile := tileOf (s.gr f.d)

/-- The row mask and the column mask (R50). -/
def tileMasks : KMask × KMask := s.pairMasks (fld f.imm 7 2)

/-- First and last enabled row, first and last enabled column, first and last k (R184). -/
def rowSpan : Option (Nat × Nat) := ends (enabledOf (tileMasks f s).1 (tileAt f s).m)
def colSpan : Option (Nat × Nat) := ends (enabledOf (tileMasks f s).2 (tileAt f s).n)
def kSpan : Option (Nat × Nat) := if (tileAt f s).k = 0 then none else some (0, (tileAt f s).k - 1)

end

/-- The issue-time faults of the operand in pair `x`, which spans rows `r` and columns `c`, where it has both (R186). -/
def State.pairFaults (s : State) (x : BitVec 6) (ty : Nat) (r c : Option (Nat × Nat)) (write : Bool) : List Flt :=
  match r, c with
  | some r, some c => s.spanFaults (s.myWho .matrix) (s.pairAt x).1 (s.pairAt x).2 (tyBits ty / 8) r.1 r.2 c.1 c.2 write
  | _, _ => []

@[simp] theorem State.pairFaults_no_row (s : State) (x : BitVec 6) (ty : Nat) (c : Option (Nat × Nat)) (write : Bool) :
    s.pairFaults x ty none c write = [] := rfl

@[simp] theorem State.pairFaults_no_column (s : State) (x : BitVec 6) (ty : Nat) (r : Option (Nat × Nat)) (write : Bool) :
    s.pairFaults x ty r none write = [] := by cases r <;> rfl

/-- The operand in pair `x` as it is captured, with its mask (R369). -/
def State.capturedPair (s : State) (x : BitVec 6) (m : KMask) : Vec := packOp (s.pairAt x).1 (s.pairAt x).2 m

/-- What a tile instruction captures: `cs` of its operands, and its shape word (R369). -/
def State.captured (s : State) (f : Fields) (cs : Caps) : Caps := { cs with od := s.reg s.cur s.cx f.d.toNat }

/-- A tile instruction detaches with its rounding mode and what it captures, and stands last at its unit, which starts it no sooner than
the time of a row block from now (R186, R191). -/
def State.entersUnit (s : State) (i : Instr) (sh : Shape) (mode : Mode) (caps : Caps) (n : Nat) : State :=
  (s.detach i sh (fun d => { d with mode, caps, due := s.cycles + 20 + n })).updMyCore (fun k =>
    { k with mtx := k.mtx ++ [(s.cx, s.me.nextId)] })

/-- The elements that operation `id`, a `tst`, will overwrite are recalled from the open streams (R216). -/
def State.rollsBack (s : State) (c x id : Nat) : State :=
  match s.det c x id with
  | some o => s.aliasRoll (s.tstHits c x o)
  | none => s

theorem State.rollsBack_some {s : State} {c x id : Nat} {o : DetOp} (h : s.det c x id = some o) :
    s.rollsBack c x id = s.aliasRoll (s.tstHits c x o) := by rw [State.rollsBack, h]

theorem State.rollsBack_none {s : State} {c x id : Nat} (h : s.det c x id = none) : s.rollsBack c x id = s := by rw [State.rollsBack, h]

/-- A `tst` that has entered its unit keeps a snapshot of the open streams besides. -/
def State.entersStoring (s : State) (i : Instr) (sh : Shape) (mode : Mode) (caps : Caps) (n : Nat) : State :=
  ((s.entersUnit i sh mode caps n).updDet s.cur s.cx s.me.nextId (fun o => { o with snap := s.snapshot })).rollsBack s.cur s.cx s.me.nextId

/-! The strand stays. -/

theorem keepsStrand_updCtx {g : Ctx → Ctx} (h : ∀ k : Ctx, k.SameStrand (g k)) (s : State) (c x : Nat) : KeepsStrand s (s.updCtx c x g) := by
  have own : (s.updCtx c x g).me = if s.cur = c ∧ s.cx = x then g (s.ctx c x) else s.me := s.ctx_updCtx c x _ _ g
  rw [KeepsStrand, own]
  split
  · rename_i here
    obtain ⟨rfl, rfl⟩ := here
    exact h _
  · exact ⟨rfl, rfl⟩

theorem keepsStrand_entersUnit (s : State) (i : Instr) (sh : Shape) (mode : Mode) (caps : Caps) (n : Nat) :
    KeepsStrand s (s.entersUnit i sh mode caps n) :=
  (keepsStrand_detach ..).trans (keepsStrand_updCore _ _ _ rfl)

theorem keepsStrand_rollsBack (s : State) (c x id : Nat) : KeepsStrand s (s.rollsBack c x id) := by
  unfold State.rollsBack
  split
  · exact keepsStrand_updCore _ _ _ rfl
  · exact KeepsStrand.refl s

theorem keepsStrand_updDet (s : State) (c x id : Nat) (g : DetOp → DetOp) : KeepsStrand s (s.updDet c x id g) := by
  refine keepsStrand_updCtx (fun k => ?_) s c x
  exact ⟨rfl, rfl⟩

theorem keepsStrand_entersStoring (s : State) (i : Instr) (sh : Shape) (mode : Mode) (caps : Caps) (n : Nat) :
    KeepsStrand s (s.entersStoring i sh mode caps n) := by
  unfold State.entersStoring
  exact ((keepsStrand_entersUnit s i sh mode caps n).trans (keepsStrand_updDet ..)).trans (keepsStrand_rollsBack ..)

/-! How a tile instruction ends. -/

/-- Once its checks pass it detaches with effect `e`; the shape's fault comes first, then the first kind of its operands' faults; a
full unit holds it back (R184, R186, R191). -/
def TileDetaches (i : Instr) (f : Fields) (sc : Nat) (faults : State → List Flt) (e : State → Shape → State) : Prop :=
  Does i (fun s => (tileAt f s).fault s.cur sc = none ∧ faults s = [] ∧ s.myCore.mtx.length < 16) e ∧
  (∀ c a, Faults i (fun s => (tileAt f s).fault s.cur sc = some (c, a)) c (fun _ => a)) ∧
  (∀ c a, Faults i (fun s => (tileAt f s).fault s.cur sc = none ∧ firstKind (faults s) = some (c, a)) c (fun _ => a)) ∧
  Awaits i (fun s => (tileAt f s).fault s.cur sc = none ∧ faults s = [] ∧ 16 ≤ s.myCore.mtx.length) (fun _ => .tileQueue)

theorem firstKind_nil : firstKind [] = none := rfl

/-- The order of the checks: the shape, the operands, the room in the unit. -/
def tileEff (shape operands : Option Flt) (queued : Nat) (t : State) : Eff :=
  match shape with
  | some (c, a) => .flt c a
  | none =>
    match operands with
    | some (c, a) => .flt c a
    | none => if 16 ≤ queued then .wait .tileQueue else .done t

section
variable {operands : Option Flt} {queued : Nat} {t : State}

theorem tileEff_misshapen (c : Nat) (a : Word) : tileEff (some (c, a)) operands queued t = .trap c a 0 0 := rfl

theorem tileEff_unsound (c : Nat) (a : Word) : tileEff none (some (c, a)) queued t = .trap c a 0 0 := rfl

theorem tileEff_full (full : 16 ≤ queued) : tileEff none none queued t = .wait .tileQueue := if_pos full

theorem tileEff_room (room : queued < 16) : tileEff none none queued t = .done t := if_neg (Nat.not_le.2 room)

end

/-- A tile instruction with operands `caps` has left the pipeline. -/
def State.tileEntered (s : State) (i : Instr) (sh : Shape) (mode : Mode) (caps : Caps) (n : Nat) : State :=
  if sh.op = 0x2D1 then s.entersStoring i sh mode caps n else s.entersUnit i sh mode caps n

theorem tileIssue_eq (i : Instr) (f : Fields) (faults : Tile → List Flt) (caps : Tile → Caps) (s : State) (sh : Shape) {t : Tile}
    (ht : tileOf (s.gOp 0 f.d) = t) :
    tileIssue i f faults caps s sh = tileEff (t.fault s.cur (tileSc sh.op (fld f.imm 0 4))) (firstKind (faults t)) s.myCore.mtx.length
      (s.tileEntered i sh (s.modeOf (rmOf f)) { caps t with od := s.opnd 0 f.d.toNat } (tilePer sh.op t)) := by
  unfold tileIssue State.tileEntered
  rw [ht]
  dsimp only
  generalize t.fault s.cur (tileSc sh.op (fld f.imm 0 4)) = shape
  generalize firstKind (faults t) = operands
  cases shape with
  | some e => rfl
  | none =>
    cases operands with
    | some e => rfl
    | none =>
      refine if_congr Iff.rfl rfl ?_
      by_cases store : sh.op = 0x2D1
      · rw [if_pos store, if_neg fun other => bne_iff_ne.1 other store, State.entersStoring, State.rollsBack]
        split
        · rename_i listed
          rw [State.entersUnit, listed]
        · rename_i gone
          rw [State.entersUnit, gone]
      · rw [if_neg store, if_pos (bne_iff_ne.2 store)]
        rfl

/-- What a tile instruction comes to whose C elements are `sc` bytes and whose operands meet the faults `flts`, with `t` after it. -/
def State.tileJudged (s : State) (f : Fields) (sc : Nat) (flts : List Flt) (t : State) : Eff :=
  tileEff ((tileAt f s).fault s.cur sc) (firstKind flts) s.myCore.mtx.length t

section
variable {i : Instr} {f : Fields} {sh : Shape} {s : State} (h : Issues i sh s) {sc n : Nat} {faults : Tile → List Flt} {caps : Tile → Caps}
  {flts : List Flt} {cs : Caps} (size : tileSc sh.op (fld f.imm 0 4) = sc) (met : faults (tileAt f (s.begun sh)) = flts)
  (kept : caps (tileAt f (s.begun sh)) = cs) (time : tilePer sh.op (tileAt f (s.begun sh)) = n)
include h size met kept time

/-- A tile instruction that issues goes by what its registers hold. -/
theorem Issues.tileIssue : tileIssue i f faults caps (s.begun sh) sh = (s.begun sh).tileJudged f sc flts
    ((s.begun sh).tileEntered i sh (roundMode f (s.begun sh)) ((s.begun sh).captured f cs) n) := by
  rw [tileIssue_eq i f faults caps _ _ (t := tileAt f (s.begun sh)) (by rw [h.gOp, tileAt]), size, met, kept, time, h.opnd, modeOf_rmOf,
    State.tileJudged, State.captured]

end

/-- What the checks of an instruction come to, and its effect, decide how it ends. -/
theorem tileDetaches_of {i : Instr} {f : Fields} {sc : Nat} {faults : State → List Flt} {e : State → Shape → State} {body : State → Shape → Eff}
    (hx : ∀ s, exec i s = issue i s body)
    (hb : ∀ sh s, Issues i sh s → body (s.begun sh) sh = (s.begun sh).tileJudged f sc (faults (s.begun sh)) (e (s.begun sh) sh))
    (hk : ∀ s sh, KeepsStrand s (e s sh)) : TileDetaches i f sc faults e := by
  refine ⟨does_kept hx ?enters fun sh s => hk s sh, fun c a => faults_of hx ?misshapen, fun c a => faults_of hx ?unsound, awaits_of hx ?full⟩
  case enters =>
    rintro sh s h ⟨fits, sound, room⟩
    rw [hb sh s h, State.tileJudged, fits, sound, firstKind_nil, tileEff_room room]
  case misshapen =>
    intro sh s h bad
    rw [hb sh s h, State.tileJudged, bad, tileEff_misshapen]
  case unsound =>
    rintro sh s h ⟨fits, bad⟩
    rw [hb sh s h, State.tileJudged, fits, bad, tileEff_unsound]
  case full =>
    rintro sh s h ⟨fits, sound, full⟩
    rw [hb sh s h, State.tileJudged, fits, sound, firstKind_nil, tileEff_full full]

/-! The instructions. -/

/-- An `mma` spans its enabled rows of A and its enabled columns of B, over all k (R186). -/
def mmaFaults (m : Nat) (f : Fields) (s : State) : List Flt :=
  match rowSpan f s, colSpan f s with
  | some r, some c => s.pairFaults f.a (mmaTy m).1 (some r) (kSpan f s) false ++ s.pairFaults f.b (mmaTy m).2.1 (kSpan f s) (some c) false
  | _, _ => []

/-- It captures both operands and the scales of its third (R189, R369). -/
def mmaCaps (f : Fields) (s : State) : Caps :=
  { o1 := s.capturedPair f.a (tileMasks f s).1, o2 := s.capturedPair f.b (tileMasks f s).2, o3 := s.reg s.cur s.cx (0x40 + f.c.toNat) }

/-- A row block of it takes its products at the minor's rate (R190). -/
def mmaTime (m : Nat) (f : Fields) (s : State) : Nat := (8 * (tileAt f s).n * (tileAt f s).k + mmaRate m - 1) / mmaRate m

/-- The effect of a tile instruction that does not store. -/
def tileEffect (i : Instr) (f : Fields) (caps : State → Caps) (n : State → Nat) (s : State) (sh : Shape) : State :=
  s.entersUnit i sh (roundMode f s) (s.captured f (caps s)) (n s)

section
variable {i : Instr} {f : Fields} {m : Nat} (hm : m < 16) (hs : ∀ u, (i.shape u).map (·.op) = some (0x2C0 + m))
include hm hs

theorem mmaIssue_begun {sh : Shape} {s : State} (h : Issues i sh s) : mmaIssue i f (s.begun sh) sh =
    (s.begun sh).tileJudged f (tyBits (mmaTy m).2.2 / 8) (mmaFaults m f (s.begun sh)) (tileEffect i f (mmaCaps f) (mmaTime m f) (s.begun sh) sh) := by
  have op := h.op hs
  have minor : (0x2C0 + m) % 16 = m := by omega
  have load : ¬sh.op = 0x2D1 := by omega
  unfold mmaIssue
  rw [h.pairOp, h.pairOp, h.opnd, op, minor]
  rcases types : mmaTy m with ⟨ta, tb, tc⟩
  rcases masks : (s.begun sh).pairMasks (fld f.imm 7 2) with ⟨rm, cm⟩
  dsimp only
  have size : tileSc sh.op (fld f.imm 0 4) = tyBits tc / 8 := by rw [op, tileSc_mma hm, types]
  refine (h.tileIssue (flts := mmaFaults m f (s.begun sh)) (cs := mmaCaps f (s.begun sh)) size ?met ?kept (op ▸ tilePer_mma hm _)).trans ?_
  case met =>
    unfold mmaFaults rowSpan colSpan kSpan tileMasks
    rw [masks, types]
    cases ends (enabledOf rm (tileAt f (s.begun sh)).m) with
    | none => rfl
    | some r =>
      cases ends (enabledOf cm (tileAt f (s.begun sh)).n) with
      | none => rfl
      | some c =>
        by_cases empty : (tileAt f (s.begun sh)).k = 0
        · simp only [empty, if_true, State.pairFaults_no_row, State.pairFaults_no_column, List.append_nil]
        · simp only [empty, if_false]
          rfl
  case kept => rw [mmaCaps, tileMasks, masks, State.capturedPair, State.capturedPair]
  rw [State.tileEntered, if_neg load, tileEffect, mmaTime]

theorem tileDetaches_mma (hx : ∀ s, exec i s = issue i s (mmaIssue i f)) :
    TileDetaches i f (tyBits (mmaTy m).2.2 / 8) (mmaFaults m f) (tileEffect i f (mmaCaps f) (mmaTime m f)) :=
  tileDetaches_of hx (fun _ _ h => mmaIssue_begun hm hs h) fun _ _ => keepsStrand_entersUnit ..

end

/-- `tld` and `tst` span the enabled rows and columns in memory (R186, R197). -/
def memoryFaults (f : Fields) (write : Bool) (s : State) : List Flt :=
  s.pairFaults f.a (fld f.imm 9 4) (rowSpan f s) (colSpan f s) write

/-- They capture the memory operand with the row mask, and the column mask alone. -/
def memoryCaps (f : Fields) (s : State) : Caps := { o1 := s.capturedPair f.a (tileMasks f s).1, o2 := packOp 0 0 (tileMasks f s).2 }

theorem tmemIssue_begun {i : Instr} {sh : Shape} {s : State} (h : Issues i sh s) (access : sh.op = 0x2D0 ∨ sh.op = 0x2D1) (f : Fields) (write : Bool) :
    tmemIssue i f write (s.begun sh) sh = (s.begun sh).tileJudged f (tyBits (fld f.imm 0 4) / 8) (memoryFaults f write (s.begun sh))
      ((s.begun sh).tileEntered i sh (roundMode f (s.begun sh)) ((s.begun sh).captured f (memoryCaps f (s.begun sh))) 8) := by
  have size (ty : Nat) : tileSc sh.op ty = tyBits ty / 8 := by rcases access with op | op <;> rw [op] <;> rfl
  have time (t : Tile) : tilePer sh.op t = 8 := by rcases access with op | op <;> rw [op] <;> rfl
  unfold tmemIssue
  rw [h.pairOp]
  rcases masks : (s.begun sh).pairMasks (fld f.imm 7 2) with ⟨rm, cm⟩
  dsimp only
  refine h.tileIssue (size _) ?met ?kept (time _)
  case met =>
    unfold memoryFaults rowSpan colSpan tileMasks
    rw [masks, fld_eq f.imm 9 4]
    cases ends (enabledOf rm (tileAt f (s.begun sh)).m) with
    | none => rfl
    | some r => cases ends (enabledOf cm (tileAt f (s.begun sh)).n) <;> rfl
  case kept => rw [memoryCaps, tileMasks, masks, State.capturedPair]

theorem tileDetaches_tld (f : Fields) :
    TileDetaches (.tld f) f (tyBits (fld f.imm 0 4) / 8) (memoryFaults f false) (tileEffect (.tld f) f (memoryCaps f) fun _ => 8) :=
  tileDetaches_of (fun _ => rfl) (fun sh s h => by
    have op := h.op (op := 0x2D0) fun _ => rfl
    have load : ¬sh.op = 0x2D1 := by omega
    rw [tmemIssue_begun h (.inl op), State.tileEntered, if_neg load, tileEffect]) fun _ _ => keepsStrand_entersUnit ..

/-- The effect of a `tst`. -/
def storingEffect (f : Fields) (s : State) (sh : Shape) : State :=
  s.entersStoring (.tst f) sh (roundMode f s) (s.captured f (memoryCaps f s)) 8

theorem tileDetaches_tst (f : Fields) :
    TileDetaches (.tst f) f (tyBits (fld f.imm 0 4) / 8) (memoryFaults f true) (storingEffect f) :=
  tileDetaches_of (fun _ => rfl) (fun sh s h => by
    have op := h.op (op := 0x2D1) fun _ => rfl
    rw [tmemIssue_begun h (.inr op), State.tileEntered, if_pos op, storingEffect]) fun _ _ => keepsStrand_entersStoring ..

/-- `tzero` captures its masks alone. -/
def zeroCaps (f : Fields) (s : State) : Caps := { o1 := packOp 0 0 (tileMasks f s).1, o2 := packOp 0 0 (tileMasks f s).2 }

theorem tileDetaches_tzero (f : Fields) :
    TileDetaches (.tzero f) f (tyBits (fld f.imm 0 4) / 8) (fun _ => []) (tileEffect (.tzero f) f (zeroCaps f) fun _ => 1) :=
  tileDetaches_of (fun _ => rfl) (fun sh s h => by
    have op := h.op (op := 0x2D2) fun _ => rfl
    have load : ¬sh.op = 0x2D1 := by omega
    have size : tileSc sh.op (fld f.imm 0 4) = tyBits (fld f.imm 0 4) / 8 := by rw [op]; rfl
    have time : tilePer sh.op (tileAt f (s.begun sh)) = 1 := by rw [op]; rfl
    refine (h.tileIssue (flts := []) (cs := zeroCaps f (s.begun sh)) size rfl rfl time).trans ?_
    rw [State.tileEntered, if_neg load, tileEffect]) fun _ _ => keepsStrand_entersUnit ..

/-- `tout` spans its enabled columns of B over all k, where a row is enabled (R186, R199). -/
def toutFaults (f : Fields) (s : State) : List Flt :=
  match rowSpan f s with
  | some _ => s.pairFaults f.a (mmaTy (fld f.imm 0 4)).2.1 (kSpan f s) (colSpan f s) false
  | none => []

/-- It captures B with the row mask, its list with the masks, and the scales. -/
def toutCaps (f : Fields) (s : State) : Caps where
  o1 := s.capturedPair f.a (tileMasks f s).1
  o2 := packOp (s.gr f.b) 0 (tileMasks f s).1 ||| BitVec.ofNat 1024 ((tileMasks f s).2.toNat * 2 ^ 256)
  o3 := s.reg s.cur s.cx (0x40 + f.c.toNat)

/-- The model's body of `tout`. -/
def toutIssue (f : Fields) (s : State) (sh : Shape) : Eff :=
  let (rm, cm) := s.pairMasks (fld f.imm 7 2)
  let (b, sb) := s.pairOp 1 f.a
  let (_, tb, _) := mmaTy (fld f.imm 0 4)
  tileIssue (.tout f) f
    (fun t => match ends (enabledOf cm t.n) with
      | some (c0, c1) => if t.k = 0 ∨ enabledOf rm t.m = [] then [] else s.spanFaults (s.myWho .matrix) b sb (tyBits tb / 8) 0 (t.k - 1) c0 c1 false
      | none => [])
    (fun _ => { o1 := packOp b sb rm
                o2 := packOp (s.gOp 2 f.b) 0 rm ||| BitVec.ofNat 1024 (cm.toNat * 2 ^ 256), o3 := s.opnd 3 (0x40 + f.c.toNat) }) s sh

theorem exec_tout (f : Fields) (s : State) : exec (.tout f) s = issue (.tout f) s (toutIssue f) := rfl

theorem ends_eq_none_iff (l : List Nat) : ends l = none ↔ l = [] := by cases l <;> simp [ends]

theorem toutIssue_begun {f : Fields} {sh : Shape} {s : State} (h : Issues (.tout f) sh s) : toutIssue f (s.begun sh) sh =
    (s.begun sh).tileJudged f (tyBits (mmaTy (fld f.imm 0 4)).2.2 / 8) (toutFaults f (s.begun sh))
      (tileEffect (.tout f) f (toutCaps f) (fun _ => 0) (s.begun sh) sh) := by
  have op := h.op (op := 0x2D3) fun _ => rfl
  have load : ¬sh.op = 0x2D1 := by omega
  have size : tileSc sh.op (fld f.imm 0 4) = tyBits (mmaTy (fld f.imm 0 4)).2.2 / 8 := by rw [op, tileSc_tout (BitVec.isLt _)]
  have time : tilePer sh.op (tileAt f (s.begun sh)) = 0 := by rw [op]; rfl
  unfold toutIssue
  rw [h.pairOp, h.opnd, h.gOp]
  rcases types : mmaTy (fld f.imm 0 4) with ⟨ta, tb, tc⟩
  rw [types] at size
  rcases masks : (s.begun sh).pairMasks (fld f.imm 7 2) with ⟨rm, cm⟩
  dsimp only
  refine (h.tileIssue (flts := toutFaults f (s.begun sh)) (cs := toutCaps f (s.begun sh)) size ?met ?kept time).trans ?_
  case met =>
    unfold toutFaults rowSpan colSpan kSpan tileMasks
    rw [masks, types]
    simp only [← ends_eq_none_iff]
    cases ends (enabledOf cm (tileAt f (s.begun sh)).n) with
    | none => cases ends (enabledOf rm (tileAt f (s.begun sh)).m) <;> simp only [State.pairFaults_no_column]
    | some c =>
      cases ends (enabledOf rm (tileAt f (s.begun sh)).m) with
      | none => simp only [or_true, if_true]
      | some r =>
        by_cases empty : (tileAt f (s.begun sh)).k = 0
        · simp only [empty, true_or, if_true, State.pairFaults_no_row]
        · simp only [empty, false_or, reduceCtorEq, if_false]
          rfl
  case kept => rw [toutCaps, tileMasks, masks, State.capturedPair]
  rw [State.tileEntered, if_neg load, tileEffect]

theorem tileDetaches_tout (f : Fields) :
    TileDetaches (.tout f) f (tyBits (mmaTy (fld f.imm 0 4)).2.2 / 8) (toutFaults f) (tileEffect (.tout f) f (toutCaps f) fun _ => 0) :=
  tileDetaches_of (exec_tout f) (fun _ _ h => toutIssue_begun h) fun _ _ => keepsStrand_entersUnit ..

/-- Settles O38: every tile instruction is a `tileIssue` with its own faults and captures; `tprog` detaches at once. -/
theorem tileInstructions : Obligations.TileInstructions := by
  intro f
  obtain ⟨stores, checks⟩ := tileDetaches_tst f
  refine ⟨tileDetaches_mma (m := 0) (by decide) (fun _ => rfl) fun _ => rfl, tileDetaches_mma (m := 1) (by decide) (fun _ => rfl) fun _ => rfl,
    tileDetaches_mma (m := 2) (by decide) (fun _ => rfl) fun _ => rfl, tileDetaches_mma (m := 3) (by decide) (fun _ => rfl) fun _ => rfl,
    tileDetaches_mma (m := 4) (by decide) (fun _ => rfl) fun _ => rfl, tileDetaches_mma (m := 5) (by decide) (fun _ => rfl) fun _ => rfl,
    tileDetaches_mma (m := 6) (by decide) (fun _ => rfl) fun _ => rfl, tileDetaches_mma (m := 7) (by decide) (fun _ => rfl) fun _ => rfl,
    tileDetaches_mma (m := 8) (by decide) (fun _ => rfl) fun _ => rfl, tileDetaches_mma (m := 9) (by decide) (fun _ => rfl) fun _ => rfl,
    tileDetaches_mma (m := 10) (by decide) (fun _ => rfl) fun _ => rfl, tileDetaches_mma (m := 11) (by decide) (fun _ => rfl) fun _ => rfl,
    tileDetaches_mma (m := 12) (by decide) (fun _ => rfl) fun _ => rfl, tileDetaches_tld f, ⟨fun sh s h ok => ?store, checks⟩, tileDetaches_tzero f,
    tileDetaches_tout f, does_kept (fun _ => rfl) (fun _ _ _ _ => rfl) fun _ _ => keepsStrand_detach ..⟩
  case store =>
    rw [stores sh s h ok, storingEffect, State.entersStoring]
    refine congrArg (fun t : State => Host.Outcome.next (t.goesTo s.succ)) ?_
    dsimp only
    split
    · rename_i o listed
      exact State.rollsBack_some listed
    · rename_i gone
      exact State.rollsBack_none gone

end Sys2Proof.Machine
end

section
/-!
SUPPORT. Tile tasks (R203): a task of which two sub-tiles stand on one unit. The scheduler never brings one about, as a unit takes a sub-tile only
while none is on it, but the statement speaks of every state.
-/
namespace Sys2Proof.Machine

/-- A task of 1 by 33 elements of `.f64` over one k. Its sub-tile 0 has 33 operand elements, which take two messages of 256 bytes; its
sub-tile 1 has two, which take one. Both stand on core 0, and nothing of them is on its way. -/
def twinTask : TileTask where
  ticket := 1
  core := 0
  ctx := 0
  addr := 0x1000
  st := .running
  rcd := BitVec.ofNat 1024 (1 + 33 * 2 ^ 16 + 2 ^ 32)
  next := 2
  subs := [{ num := 0, core := 0 }, { num := 1, core := 0 }]

def twinState : State := { clusters := [(0, { tasks := [twinTask] })] }

/-- How many operand messages of each sub-tile of task 0 of cluster 0 have been sent. -/
def sentMsgs (o : Host.Outcome State Fault Refusal) : List Nat :=
  match o with
  | .next t => ((t.task 0 0).map (fun d => d.subs.map (·.sent))).getD []
  | _ => []

/-- Each sub-tile on the unit is sent the messages of its own stream. -/
theorem sentMsgs_twinState : sentMsgs (exec .subtileComplete twinState) = [2, 1] := by decide +kernel

/-- Refutes O40: where two sub-tiles stand on one unit, the statement has the second sent as many messages as the first one's stream
has, and the model as many as its own. In `twinState` that is two messages, and one. -/
theorem not_tileTasks : ¬Obligations.TileTasks := by
  intro h
  obtain ⟨-, -, -, -, -, -, -, running, -⟩ := h.2 twinState { id := 0, i := .nop, pc := 0, issuedAt := 0 } twinTask
  obtain ⟨-, -, sends, -⟩ := running rfl rfl rfl
  have stated := sends { num := 0, core := 0 } rfl rfl (by decide +kernel) rfl
  have sent : sentMsgs (exec .subtileComplete twinState) = [2, 2] := by
    rw [stated]
    decide +kernel
  rw [sentMsgs_twinState] at sent
  exact absurd sent (by decide)

end Sys2Proof.Machine
end

section
/-!
SUPPORT. Stream instructions at issue (R206 to R221): the turn of a handle, the stream that it is bound to, and how each instruction ends.
-/
namespace Sys2Proof.Machine

/-! Streams are no part of their strand. -/

theorem keepsStrand_putStrm (s : State) (c k : Nat) (t : Option Strm) : KeepsStrand s (s.putStrm c k t) := keepsStrand_updCore s c _ rfl

theorem keepsStrand_updStrm (s : State) (c k : Nat) (g : Strm → Strm) : KeepsStrand s (s.updStrm c k g) := keepsStrand_putStrm ..

theorem keepsStrand_aliasRoll (s : State) (hit : Nat → Bool) : KeepsStrand s (s.aliasRoll hit) := keepsStrand_updCore s _ _ rfl

theorem keepsStrand_sendReqAt (s : State) (snap : List (Nat × Nat)) (op : Nat) (r : MemReq) (extra : Nat) :
    KeepsStrand s (s.sendReqAt snap op r extra) := by
  unfold State.sendReqAt
  refine KeepsStrand.trans ?filtered (keepsStrand_send _ ..)
  split
  · exact keepsStrand_aliasRoll ..
  · exact KeepsStrand.refl s

/-- The stores of an `ssave` that the acting context sends. -/
theorem keepsStrand_sendSave {s : State} {c x : Nat} (hc : s.cur = c) (hx : s.cx = x) (d : DetOp) (t : Option Strm) :
    KeepsStrand s (s.sendSave c x d t) := by
  subst hc hx
  exact (KeepsStrand.foldl (fun _ _ => keepsStrand_sendReqAt ..) _ s).trans (keepsStrand_updDet ..)

@[simp] theorem State.updStrm_cycles (s : State) (c k : Nat) (g : Strm → Strm) : (s.updStrm c k g).cycles = s.cycles := rfl

/-! The turn of a handle (R206, R212). -/

section
variable {h k : Nat} {t : Strm} {s : State} {body : State → Option (Nat × Strm) → Eff}

theorem strmIssue_waits (busy : s.strmWait h = true) : strmIssue h body s = .wait (.stream h) := if_pos busy

theorem strmIssue_bound (bound : Bound s h k t) : strmIssue h body s = body s (some (k, t)) := by
  rw [strmIssue, bound.1, bound.2, if_neg Bool.false_ne_true]

theorem strmIssue_unbound (turn : s.strmWait h = false) (unbound : s.myCore.strmOf s.cx h = none) : strmIssue h body s = body s none := by
  rw [strmIssue, turn, unbound, if_neg Bool.false_ne_true]

/-- The handle is bound to an open stream (R213). -/
abbrev Opened (s : State) (h k : Nat) (t : Strm) : Prop := Bound s h k t ∧ t.isOpen = true

theorem openIssue_opened {body : State → Nat → Strm → Eff} (opened : Opened s h k t) : openIssue h body s = body s k t := by
  rw [openIssue, strmIssue_bound opened.1]
  exact if_pos opened.2

end

/-! `sdef` and `sload` (R206, R208, R219, R222). -/

/-- No check of R143 stops the access of `n` bytes to the descriptor or the save area in memory. -/
abbrev AreaSound (f : Fields) (s : State) (n : Nat) (write : Bool) : Prop :=
  s.issueFault (s.myWho .strand) (s.gr f.a) n n write = none

/-- The read of `n` bytes at `a` detaches. -/
def State.readsArea (s : State) (i : Instr) (sh : Shape) (a : Word) (n : Nat) : State :=
  (s.detach i sh (fun d => { d with left := 1 })).sendReq s.me.nextId (s.reqOf .load a n) 0

theorem keepsStrand_readsArea (s : State) (i : Instr) (sh : Shape) (a : Word) (n : Nat) : KeepsStrand s (s.readsArea i sh a n) :=
  (keepsStrand_detach ..).trans (keepsStrand_sendReq ..)

section
variable {i : Instr} {f : Fields} {n k : Nat} (hx : ∀ s, exec i s = issue i s (defIssue i f n))
include hx

/-- A bound handle keeps its context, whose stream is closed. -/
theorem does_define_bound {t : Strm} : Does i (fun s => Bound s f.d.toNat k t ∧ AreaSound f s n false)
    (fun s sh => (s.updStrm s.cur k (·.close s.cycles)).readsArea i sh (s.gr f.a) n) :=
  does_kept hx (fun sh s h ⟨bound, sound⟩ => by
    rw [defIssue, strmIssue_bound bound, h.gOp]
    dsimp only
    rw [sound]
    rfl) fun _ _ => (keepsStrand_updStrm ..).trans (keepsStrand_readsArea ..)

theorem does_define_free : Does i (fun s => s.strmWait f.d.toNat = false ∧ s.myCore.strmOf s.cx f.d.toNat = none ∧
      s.myCore.freeStrm = some k ∧ AreaSound f s n false)
    (fun s sh => (s.putStrm s.cur k (some { ctx := s.cx, handle := f.d.toNat, desc := 0, st := .taken })).readsArea i sh (s.gr f.a) n) :=
  does_kept hx (fun sh s h ⟨turn, unbound, free, sound⟩ => by
    rw [defIssue, strmIssue_unbound turn unbound, h.gOp]
    dsimp only
    rw [sound, free]
    rfl) fun _ _ => (keepsStrand_putStrm ..).trans (keepsStrand_readsArea ..)

theorem awaits_define_pool : Awaits i (fun s => s.strmWait f.d.toNat = false ∧ s.myCore.strmOf s.cx f.d.toNat = none ∧
    s.myCore.freeStrm = none ∧ AreaSound f s n false) (fun _ => .streamPool) :=
  awaits_of hx fun sh s h ⟨turn, unbound, full, sound⟩ => by
    rw [defIssue, strmIssue_unbound turn unbound, h.gOp]
    dsimp only
    rw [sound, full]

theorem awaits_define_turn : Awaits i (fun s => s.strmWait f.d.toNat = true) (fun _ => .stream f.d.toNat) :=
  awaits_of hx fun _ _ _ busy => by rw [defIssue, strmIssue_waits busy]

end

/-! Opening, closing, attaching (R213, R217 to R219). -/

section
variable (f : Fields) {k : Nat} {t : Strm}

theorem does_open : Does (.sopen f) (fun s => Bound s f.d.toNat k t ∧ t.st = .defined)
    (fun s sh => s.detach (.sopen f) sh (fun d => { d with due := s.cycles + 8 })) :=
  does_kept (fun _ => rfl) (fun sh s h ⟨bound, defined⟩ => by
    rw [strmIssue_bound bound]
    exact if_pos (beq_iff_eq.2 defined)) fun _ _ => keepsStrand_detach ..

theorem faults_open : Faults (.sopen f) (fun s => Bound s f.d.toNat k t ∧ t.st ≠ .defined) cIllegal (fun _ => 0) :=
  faults_of (fun _ => rfl) fun sh s h ⟨bound, other⟩ => by
    rw [strmIssue_bound bound]
    exact if_neg (mt beq_iff_eq.1 other)

theorem does_close : Does (.sclose f) (fun s => Bound s f.d.toNat k t)
    (fun s sh => (s.updStrm s.cur k (·.close s.cycles)).detach (.sclose f) sh (fun d => { d with due := s.cycles + 48 })) :=
  does_kept (fun _ => rfl) (fun _ _ _ bound => by
    rw [strmIssue_bound bound]
    dsimp only
    rw [State.updStrm_cycles]) fun _ _ => (keepsStrand_updStrm ..).trans (keepsStrand_detach ..)

theorem does_close_unbound : Does (.sclose f) (fun s => s.strmWait f.d.toNat = false ∧ s.myCore.strmOf s.cx f.d.toNat = none)
    (fun s sh => s.detach (.sclose f) sh (fun d => { d with due := s.cycles + 8 })) :=
  does_kept (fun _ => rfl) (fun _ _ _ ⟨turn, unbound⟩ => by
    rw [strmIssue_unbound turn unbound]) fun _ _ => keepsStrand_detach ..

theorem does_attach : Does (.sattach f) (fun s => Bound s f.d.toNat k t ∧ t.st = .defined ∧ t.ty = fld f.imm 0 4)
    (fun s _ => s.updStrm s.cur k (fun u => { u with
      att := true, op := f.o.toNat, mode := roundMode f s
      init := accVal t.ty (if tyInt t.ty then s.gr f.a else s.fr f.a) })) :=
  does_kept (fun _ => rfl) (fun sh s h ⟨bound, defined, typed⟩ => by
    have fits : ¬(t.st != .defined || t.ty != fld f.imm 0 4) = true := by simp [defined, typed]
    rw [strmIssue_bound bound]
    dsimp only
    rw [if_neg fits, h.gOp, h.fOp, typed]
    rfl) fun _ _ => keepsStrand_updStrm ..

/-! `ssave` (R216, R219, R222). -/

/-- An `ssave` has issued: the elements of its line that were read ahead roll back. -/
def State.savesArea (s : State) (f : Fields) (sh : Shape) : State :=
  let u := s.detach (.ssave f) sh (fun d => { d with left := 8, prog := 1, snap := s.snapshot })
  u.aliasRoll (fun l => l == u.lineLoc (u.pidOf u.cur) u.me.asid.toNat (s.gr f.a).toNat)

/-- Operation `id`, an `ssave` that stands in its context's list, sends its stores. -/
def State.sendsSave (s : State) (c x id : Nat) (t : Option Strm) : State :=
  match s.det c x id with
  | some d => s.sendSave c x d t
  | none => s

theorem State.sendsSave_eq {s u : State} {c x id : Nat} {t : Option Strm} (listed : ∀ d, s.det c x id = some d → s.sendSave c x d t = u)
    (gone : s.det c x id = none → s = u) : s.sendsSave c x id t = u := by
  unfold State.sendsSave
  split
  · exact listed _ ‹_›
  · exact gone ‹_›

/-- The stores of an `ssave` leave as it issues, with what the handle is bound to. -/
def State.savesNow (s : State) (f : Fields) (sh : Shape) (t : Option Strm) : State :=
  (s.savesArea f sh).sendsSave s.cur s.cx s.me.nextId t

theorem keepsStrand_savesArea (s : State) (sh : Shape) : KeepsStrand s (s.savesArea f sh) :=
  (keepsStrand_detach ..).trans (keepsStrand_aliasRoll ..)

theorem keepsStrand_savesNow (s : State) (sh : Shape) (t : Option Strm) : KeepsStrand s (s.savesNow f sh t) := by
  have issued : AccessKeeps sh s (s.savesArea f sh) := by
    unfold State.savesArea
    refine AccessKeeps.trans (accessKeeps_detach s _ _ ?dests) (accessKeeps_aliasRoll ..)
    exact fun _ => rfl
  refine (keepsStrand_savesArea f s sh).trans ?_
  unfold State.savesNow State.sendsSave
  split
  · exact keepsStrand_sendSave issued.cur issued.cx ..
  · exact KeepsStrand.refl _

theorem does_save_here : Does (.ssave f) (fun s => Bound s f.d.toNat k t ∧ AreaSound f s 64 true ∧ (t.st = .home ∨ t.isOpen = false))
    (fun s sh => s.savesNow f sh (some t)) :=
  does_kept (fun _ => rfl) (fun sh s h ⟨bound, sound, here⟩ => by
    have here' : (t.st == .home || !t.isOpen) = true := by simpa using here
    rw [strmIssue_bound bound, h.gOp]
    dsimp only
    rw [sound, State.savesNow, State.savesArea]
    dsimp only
    rw [if_pos here']
    exact congrArg Eff.done (State.sendsSave_eq (fun d listed => by rw [listed]) fun gone => by rw [gone]).symm)
    fun sh s => keepsStrand_savesNow f s sh _

/-- A stream away from its core is called Home first. -/
theorem does_save_away : Does (.ssave f)
    (fun s => Bound s f.d.toNat k t ∧ AreaSound f s 64 true ∧ t.st ≠ .home ∧ t.isOpen = true)
    (fun s sh => (s.savesArea f sh).updStrm s.cur k (·.recall (s.cycles + 24))) :=
  does_kept (fun _ => rfl) (fun sh s h ⟨bound, sound, away, opened⟩ => by
    have away' : ¬(t.st == .home || !t.isOpen) = true := by simp [away, opened]
    rw [strmIssue_bound bound, h.gOp]
    dsimp only
    rw [sound]
    exact if_neg away') fun sh s => (keepsStrand_savesArea f s sh).trans (keepsStrand_updStrm ..)

theorem does_save_unbound : Does (.ssave f)
    (fun s => s.strmWait f.d.toNat = false ∧ s.myCore.strmOf s.cx f.d.toNat = none ∧ AreaSound f s 64 true)
    (fun s sh => s.savesNow f sh none) :=
  does_kept (fun _ => rfl) (fun sh s h ⟨turn, unbound, sound⟩ => by
    rw [strmIssue_unbound turn unbound, h.gOp]
    dsimp only
    rw [sound, State.savesNow, State.savesArea]
    dsimp only
    exact congrArg Eff.done (State.sendsSave_eq (fun d listed => by rw [listed]) fun gone => by rw [gone]).symm)
    fun sh s => keepsStrand_savesNow f s sh _

/-! Consuming (R210, R215, R300). -/

/-- Elements of a stream that no instruction has taken. -/
abbrev Strm.untaken (t : Strm) : Nat := t.total - t.pIss

/-- A consuming instruction takes the next `n` elements of stream `t`, in context `k`; a fault that was reported for one of them is
asked for again. -/
def State.takesElements (s : State) (i : Instr) (sh : Shape) (n k : Nat) (t : Strm) : State :=
  let again := t.seen && decide (t.next < t.pIss + n)
  (s.detach i sh (fun d => { d with prog := n })).updStrm s.cur k (fun u => { u with
    pIss := t.pIss + n, pCtx := if u.st == .home then t.pIss + n else u.pCtx
    flt := if again then none else u.flt, seen := u.seen && !again })

theorem keepsStrand_takesElements (s : State) (i : Instr) (sh : Shape) (n k : Nat) (t : Strm) :
    KeepsStrand s (s.takesElements i sh n k t) := (keepsStrand_detach ..).trans (keepsStrand_updStrm ..)

section
variable {i : Instr} {count : Nat} {s : State} {sh : Shape}

theorem consume_takes (some_ : min count t.untaken ≠ 0) :
    consume i count s sh k t = .done (s.takesElements i sh (min count t.untaken) k t) := if_neg some_

theorem consume_nothing (nothing : min count t.untaken = 0) : consume i count s sh k t =
    .done (s.detach i sh (fun d => { d with st := .done, vals := [(codeAt d.iw 0, 0)], due := s.cycles + 8 })) := if_pos nothing

end

theorem does_pop : Does (.spop f) (fun s => Opened s f.a.toNat k t ∧ clsOk f t = true ∧ t.pIss < t.total)
    (fun s sh => s.takesElements (.spop f) sh 1 k t) :=
  does_kept (fun _ => rfl) (fun sh s h ⟨opened, fits, remains⟩ => by
    have one : min 1 t.untaken = 1 := Nat.min_eq_left (Nat.sub_pos_of_lt remains)
    have passes : ¬(!clsOk f t || decide (t.total ≤ t.pIss)) = true := by simp [fits, remains]
    rw [openIssue_opened opened, if_neg passes, consume_takes (by rw [one]; exact one_ne_zero), one])
    fun _ _ => keepsStrand_takesElements ..

theorem faults_pop : Faults (.spop f) (fun s => Opened s f.a.toNat k t ∧ (clsOk f t = false ∨ t.total ≤ t.pIss)) cIllegal (fun _ => 0) :=
  faults_of (fun _ => rfl) fun sh s h ⟨opened, bad⟩ => by
    rw [openIssue_opened opened]
    exact if_pos (by simpa using bad)

/-- How many elements an `sstep` asks for. -/
def stepCount (f : Fields) (s : State) : Nat := if f.o = 1 then f.imm.toNat % 2 ^ 16 else (s.gr f.b).toNat

theorem Issues.stepCount {i : Instr} {sh : Shape} {s : State} (h : Issues i sh s) :
    (if f.o = 1 then fld f.imm 0 16 else ((s.begun sh).gOp 2 f.b).toNat) = stepCount f (s.begun sh) := by
  rw [h.gOp, fld_zero, Machine.stepCount]

theorem does_step {n : Nat} : Does (.sstep f) (fun s => Opened s f.a.toNat k t ∧ n = min (stepCount f s) t.untaken ∧ n ≠ 0)
    (fun s sh => s.takesElements (.sstep f) sh n k t) :=
  does_kept (fun _ => rfl) (fun sh s h ⟨opened, taken, some_⟩ => by
    subst taken
    rw [openIssue_opened opened, h.stepCount f, consume_takes some_]) fun _ _ => keepsStrand_takesElements ..

theorem does_step_nothing : Does (.sstep f) (fun s => Opened s f.a.toNat k t ∧ (stepCount f s = 0 ∨ t.untaken = 0))
    (fun s sh => s.detach (.sstep f) sh (fun d => { d with st := .done, vals := [(codeAt d.iw 0, 0)], due := s.cycles + 8 })) :=
  does_kept (fun _ => rfl) (fun sh s h ⟨opened, nothing⟩ => by
    rw [openIssue_opened opened, h.stepCount f, consume_nothing (Nat.min_eq_zero_iff.2 nothing)]) fun _ _ => keepsStrand_detach ..

/-! The accumulator, movement, the status word (R209, R213, R219 to R221). -/

theorem does_sink : Does (.ssink f) (fun s => Opened s f.a.toNat k t ∧ clsOk f t = true ∧ t.att = true) (fun s sh =>
    s.detach (.ssink f) sh (fun d => { d with
      vals := [(codeAt d.iw 0, (redVal t.ty t.acc.toNat).setWidth 1024)], due := s.cycles + if t.st = .home then 8 else 24 })) :=
  does_kept (fun _ => rfl) (fun sh s h ⟨opened, fits, attached⟩ => by
    have passes : ¬(!clsOk f t || !t.att) = true := by simp [fits, attached]
    rw [openIssue_opened opened, if_neg passes]
    simp only [beq_iff_eq]) fun _ _ => keepsStrand_detach ..

theorem does_float : Does (.sfloat f) (fun s => Opened s f.a.toNat k t) (fun s _ => s.updStrm s.cur k (fun u => { u with pin := false })) :=
  does_kept (fun _ => rfl) (fun _ _ _ opened => openIssue_opened opened) fun _ _ => keepsStrand_updStrm ..

theorem does_recall : Does (.srecall f) (fun s => Opened s f.a.toNat k t)
    (fun s sh => (s.detach (.srecall f) sh id).updStrm s.cur k (fun u => { u with pin := true }.recall (s.cycles + 24))) :=
  does_kept (fun _ => rfl) (fun _ _ _ opened => openIssue_opened opened) fun _ _ => (keepsStrand_detach ..).trans (keepsStrand_updStrm ..)

theorem does_restart : Does (.sres f) (fun s => Opened s f.a.toNat k t ∧ clsOk f t = true)
    (fun s sh => (s.detach (.sres f) sh id).updStrm s.cur k (·.recall (s.cycles + 24))) :=
  does_kept (fun _ => rfl) (fun sh s h ⟨opened, fits⟩ => by
    rw [openIssue_opened opened]
    exact if_neg (by simp [fits])) fun _ _ => (keepsStrand_detach ..).trans (keepsStrand_updStrm ..)

theorem does_status : Does (.sstat f) (fun _ => True)
    (fun s _ => s.wrG f.d (BitVec.ofNat 64 (strmStat ((s.myCore.strmOf s.cx f.a.toNat).map (·.2))))) :=
  does_kept (fun _ => rfl) (fun _ _ _ _ => rfl) fun _ s => (onlyRegs_wrG s f.d _).keepsStrand

end

/-- Settles O35: each clause is one of the outcomes above. -/
theorem streamInstructions : Obligations.StreamInstructions := by
  intro f d a g turn safe reads defines opened left takes count saved saves
  have define {i : Instr} {n : Nat} (hx : ∀ s, exec i s = issue i s (defIssue i f n)) : defines i n :=
    ⟨fun k t => does_define_bound hx, fun k => does_define_free hx, awaits_define_pool hx, awaits_define_turn hx⟩
  have now (s : State) (sh : Shape) (t : Option Strm) : s.savesNow f sh t = saves s sh t := by
    dsimp only [saves, saved, g]
    rw [State.savesNow, State.savesArea]
    exact State.sendsSave_eq (fun d listed => by rw [listed]) fun gone => by rw [gone]
  have stores {ok : State → Prop} (t : Option Strm) (h : Does (.ssave f) ok fun s sh => s.savesNow f sh t) :
      Does (.ssave f) ok fun s sh => saves s sh t := by
    simpa only [now] using h
  exact ⟨define fun _ => rfl, define fun _ => rfl, fun _ _ => does_open f, fun _ _ => faults_open f, fun _ _ => does_close f,
    does_close_unbound f, fun _ _ => does_attach f, fun _ t => stores (some t) (does_save_here f), fun _ _ => does_save_away f,
    stores none (does_save_unbound f), fun _ _ => does_pop f, fun _ _ => faults_pop f, fun _ _ _ => does_step f,
    fun _ _ => does_step_nothing f, fun _ _ => does_sink f, fun _ _ => does_float f, fun _ _ => does_recall f,
    fun _ _ => does_restart f, does_status f⟩

end Sys2Proof.Machine
end

section
/-!
SUPPORT. Streams that run (R208 to R215, R287): addresses and consumption of elements, and what each event leaves of its stream.
-/
namespace Sys2Proof.Machine

/-! Elements (R208 to R210). -/

/-- A field of a descriptor, read as a signed number. -/
theorem signed_fld {w len : Nat} (x : BitVec w) (lo : Nat) (h : 0 < len) : signed (fld x lo len) len = (x.extractLsb' lo len).toInt := by
  have double : 2 ^ len = 2 * 2 ^ (len - 1) := by rw [← Nat.pow_succ', Nat.succ_eq_add_one, Nat.sub_add_cancel h]
  rw [fld, signed_of_lt (BitVec.isLt _), BitVec.toInt_eq_toNat_cond]
  split <;> split <;> omega

theorem Strm.addr_eq (t : Strm) (e : Nat) : t.addr e = BitVec.ofInt 64 ((t.desc.toNat % 2 ^ 64 : Nat) +
    ((e / (t.desc.toNat / 2 ^ 96 % 2 ^ 32) : Nat) : Int) * (t.desc.extractLsb' 128 32).toInt +
    ((e % (t.desc.toNat / 2 ^ 96 % 2 ^ 32) : Nat) : Int) * (t.desc.extractLsb' 64 32).toInt) := by
  have base : (t.desc.extractLsb' 0 64).toNat = t.desc.toNat % 2 ^ 64 := fld_zero t.desc 64
  rw [Strm.addr, wadd, Strm.cnt0, fld_eq, signed_fld _ _ (by decide), signed_fld _ _ (by decide), base, Int.add_assoc]

theorem Strm.fold_unattached {t : Strm} (h : t.att = false) (a x : Word) : t.fold a x = (a, 0) := by
  rw [Strm.fold, h]
  rfl

/-- What consuming `n` elements that have been read leaves. -/
def Strm.eaten (t : Strm) (n : Nat) : Strm :=
  { t with vals := t.vals.drop n, pos := t.pos + n, acc := (t.vals.take n).foldl (fun a x => (t.fold a x).1) t.acc }

theorem Strm.eat_eq_eaten {n : Nat} {t : Strm} (h : n ≤ t.vals.length) : (t.eat n).1 = t.eaten n := by
  induction n generalizing t with
  | zero => rfl
  | succ n ih =>
    unfold Strm.eat Strm.eaten
    split
    · rename_i none_
      rw [none_] at h
      exact absurd h (Nat.not_succ_le_zero n)
    · rename_i x l first
      rw [first] at h ⊢
      rw [ih (Nat.le_of_succ_le_succ h), Strm.eaten, Nat.add_assoc, Nat.add_comm 1 n]
      rfl

/-! A stream's update. -/

section
variable {s : State} {c k : Nat} {t : Strm}

/-- An update says what becomes of the stream that is there. -/
theorem State.updStrm_congr {g g' : Strm → Strm} (h : s.strm c k = some t) (e : g t = g' t) : s.updStrm c k g = s.updStrm c k g' := by
  rw [State.updStrm, State.updStrm, h, Option.map_some, Option.map_some, e]

theorem State.ctx_updStrm (s : State) (c k : Nat) (g : Strm → Strm) (d x : Nat) : (s.updStrm c k g).ctx d x = s.ctx d x :=
  s.ctx_updCore c d x _ rfl

theorem State.ctx_startRead (s : State) (c k n d x : Nat) : (s.startRead c k n).ctx d x = s.ctx d x := s.ctx_updStrm ..

/-- When the next element may be read, an update fixes by the stream that is there. -/
theorem State.exists_ready (s : State) (c k : Nat) (g : Strm → Strm) (r : Strm → Nat) :
    ∃ n, s.updStrm c k (fun t => { g t with ready := r t }) = s.updStrm c k (fun t => { g t with ready := n }) := by
  cases h : s.strm c k with
  | none => exact ⟨0, by rw [State.updStrm, State.updStrm, h, Option.map_none, Option.map_none]⟩
  | some t => exact ⟨r t, State.updStrm_congr h rfl⟩

end

/-! Recalls (R213). -/

section
variable {t : Strm}

theorem Strm.recall_away (h : t.away = true) (n : Nat) : t.recall n = { t with asked := some (min n (t.asked.getD n)) } := if_pos h

theorem Strm.recall_unasked (h : t.away = true) (n : Nat) (unasked : t.asked = none) : t.recall n = { t with asked := some n } := by
  rw [Strm.recall_away h, unasked, Option.getD_none, Nat.min_self]

/-- A recall that has reached a Floating context turns it back. -/
theorem Strm.settled_recalled {now n : Nat} (h : t.st = .floating) (asked : t.asked = some n) (reached : n ≤ now) :
    t.settled now false = t.goBack now := by
  simp [Strm.settled, h, asked, reached]

/-- Any other context goes on. -/
theorem Strm.settled_elsewhere {now n : Nat} (h : t.st ≠ .floating) (asked : t.asked = some n) : t.settled now false = t := by
  simp [Strm.settled, h, asked]

theorem Strm.settled_own (t : Strm) (now : Nat) : t.settled now true = (t.recall now).settled now false := rfl

theorem Strm.away_of_floating (h : t.st = .floating) : t.away = true := by rw [Strm.away, h]; rfl

theorem Strm.away_of_hopping (h : t.st = .hopping) : t.away = true := by rw [Strm.away, h]; rfl

/-- A Floating context that turns back of itself does so at once, whatever recall is on its way. -/
theorem Strm.settled_own_floating (h : t.st = .floating) (now : Nat) : t.settled now true = t.goBack now := by
  rw [Strm.settled_own, Strm.recall_away (Strm.away_of_floating h)]
  exact Strm.settled_recalled h rfl (Nat.min_le_left ..)

theorem Strm.settled_recall_floating (h : t.st = .floating) (unasked : t.asked = none) (n : Nat) :
    (t.recall n).settled (n + 1) false = t.goBack (n + 1) := by
  rw [Strm.recall_unasked (Strm.away_of_floating h) n unasked]
  exact Strm.settled_recalled h rfl (Nat.le_succ n)

theorem Strm.settled_recall_hopping (h : t.st = .hopping) (unasked : t.asked = none) (n : Nat) :
    (t.recall n).settled (n + 1) false = { t with asked := some n } := by
  rw [Strm.recall_unasked (Strm.away_of_hopping h) n unasked]
  exact Strm.settled_elsewhere (fun floating => by simp [h] at floating) rfl

end

/-! Reading ahead (R215, R287). -/

section
variable {s : State} {c k : Nat} {t : Strm}

theorem readElem_refuted (refuted : s.strmRefuted c t = true) : s.readElem c k t = s.updStrm c k (fun u =>
    Strm.settled { u with flt := some (cHypRefuted, t.addr t.next), seen := false } s.cycles true) := by
  rw [State.readElem, refuted]
  rfl

theorem readElem_faults (sound : s.strmRefuted c t = false) {e : Flt}
    (fault : s.issueFault (t.who c) (t.addr t.next) t.size t.size false = some e) : s.readElem c k t = s.updStrm c k (fun u =>
      Strm.settled { u with flt := some (e.1, t.addr t.next), seen := false } s.cycles true) := by
  rw [State.readElem, sound]
  dsimp only
  rw [if_neg Bool.false_ne_true, fault]

theorem readElem_reads (sound : s.strmRefuted c t = false) (allowed : s.issueFault (t.who c) (t.addr t.next) t.size t.size false = none)
    {u : State} {v : Nat} (read : (s.afterOwned (t.who c) (t.addr t.next).toNat).load (t.who c) (t.addr t.next).toNat t.size t.lease
      (t.st == .home) = (u, .ok v)) :
    ∃ n, s.readElem c k t = u.updStrm c k (fun t => { t with vals := t.vals ++ [BitVec.ofNat 64 v], ready := n }) := by
  rw [State.readElem, sound]
  dsimp only
  rw [if_neg Bool.false_ne_true, allowed]
  dsimp only
  rw [read]
  exact u.exists_ready c k (fun t => { t with vals := t.vals ++ [BitVec.ofNat 64 v] }) _

end

/-! What holds a context's events. -/

/-- Every consume message of a stream has been under way for 24 ck. -/
abbrev State.consumesSent (s : State) (c : Nat) (t : Strm) : Prop :=
  (s.ctx c t.ctx).outst.all (fun d => !((d.op == 0x330 || d.op == 0x331) && codeAt d.iw 1 == 0x90 + t.handle) ||
    decide (d.issuedAt + 24 ≤ s.cycles)) = true

/-- The context can be told: it is Home, or has been reached where it is. -/
abbrev State.reached (s : State) (c : Nat) (t : Strm) : Prop :=
  t.st = .home ∨ ((t.st = .floating ∨ t.st = .sinking) ∧ t.due ≤ s.cycles ∧ s.consumesSent c t)

/-! Floating and hopping (R214, R216). -/

section
variable {s : State} {c k : Nat} {t : Strm} (bound : s.strm c k = some t)
include bound

theorem hop_waiting (h : ¬t.due ≤ s.cycles ∨ t.rolled = true) : s.hop c k = s := by
  have waits : (decide (s.cycles < t.due) || t.rolled) = true := by simpa using h
  simp only [State.hop, bound]
  exact if_pos waits

theorem hop_arrives (arrived : t.due ≤ s.cycles) (kept : t.rolled = false) (hopping : t.st = .hopping) :
    s.hop c k = ((s.updStrm c k (fun t => { t with st := .floating })).startRead c k s.cycles).updStrm c k (·.settled s.cycles false) := by
  have goes : ¬(decide (s.cycles < t.due) || t.rolled) = true := by simp [arrived, kept]
  have there : (t.st == .hopping) = true := by simp [hopping]
  simp only [State.hop, bound]
  rw [if_neg goes, if_pos there]

/-- A Floating context whose next element lies at slice `h` of another. -/
theorem hop_elsewhere {h : Nat} (arrived : t.due ≤ s.cycles) (kept : t.rolled = false) (floating : t.st = .floating) (more : t.next < t.total)
    (home : s.elemHome t t.next = some h) (other : h ≠ t.slice) :
    s.hop c k = if 64 ≤ s.floated h then s.updStrm c k (·.settled s.cycles true)
      else s.updStrm c k (fun t => { t with
        st := .hopping, slice := h, hops := t.hops + 1, due := s.cycles + 16 + 24 * dieDist (t.slice / 32) (h / 32) }) := by
  have goes : ¬(decide (s.cycles < t.due) || t.rolled) = true := by simp [arrived, kept]
  have here : ¬(t.st == .hopping) = true := by simp [floating]
  have reads : ¬(t.st != .floating || !decide (t.next < t.total)) = true := by simp [floating, more]
  simp only [State.hop, bound]
  rw [if_neg goes, if_neg here, if_neg reads]
  simp only [home]
  exact if_neg other

/-! Consume messages and recalls that arrive (R213 to R215, R300). -/

theorem tellStrm_eq : s.tellStrm c k = if s.reached c t then s.updStrm c k (fun t => { t with pCtx := t.pIss }) else s := by
  simp only [State.tellStrm, bound, Bool.or_eq_true, Bool.and_eq_true, beq_iff_eq, decide_eq_true_eq, and_assoc]

theorem strmArrive_asked (away : t.st ≠ .recalling) : s.strmArrive c k = s.updStrm c k (fun _ => t.settled s.cycles false) := by
  have here : s.strmArrive c k = s.updStrm c k (·.settled s.cycles false) := by
    simp only [State.strmArrive, bound]
    exact if_pos (bne_iff_ne.2 away)
  exact here.trans (State.updStrm_congr bound rfl)

section
variable (recalling : t.st = .recalling)
include recalling

theorem strmArrive_underway (h : ¬t.due ≤ s.cycles) : s.strmArrive c k = s := by
  simp only [State.strmArrive, bound]
  rw [if_neg (by simp [recalling]), if_pos (Nat.lt_of_not_le h)]

theorem strmArrive_closing (arrived : t.due ≤ s.cycles) (closing : t.closing = true) : s.strmArrive c k =
    if t.ctx = 16 then s.putStrm c k none else s.updStrm c k (fun t => { t with st := .taken, closing := false, vals := [], flt := none }) := by
  simp only [State.strmArrive, bound]
  rw [if_neg (by simp [recalling]), if_neg (Nat.not_lt.2 arrived), if_pos closing]

/-- Home again, with no `ssave` that waits for it. -/
theorem strmArrive_home (arrived : t.due ≤ s.cycles) (stays : t.closing = false) (none_ : (s.ctx c t.ctx).outst = []) :
    s.strmArrive c k = (s.updStrm c k (fun t => { t with st := .home })).startRead c k s.cycles := by
  simp only [State.strmArrive, bound]
  rw [if_neg (by simp [recalling]), if_neg (Nat.not_lt.2 arrived), if_neg (by simp [stays])]
  simp only [State.ctx_startRead, State.ctx_updStrm, none_, List.find?_nil]

end

end

/-! The events. -/

section
variable {s : State} {t : Strm} (bound : s.strm s.ev.core s.ev.k = some t)
include bound

theorem exec_streamFloat {h : Nat} (floats : s.floatTo s.ev.core t = some h) : exec .streamFloat s =
    .next ((s.updStrm s.ev.core s.ev.k (fun t => { t with
      st := .floating, slice := h, floats := t.floats + 1, due := s.cycles + 24 })).startRead s.ev.core s.ev.k (s.cycles + 24)) := by
  change execStreamFloat s = _
  simp only [execStreamFloat, bound, floats]

theorem exec_streamElementRead (readable : s.elemReadable s.ev.core t = true) :
    exec .streamElementRead s = .next (s.readElem s.ev.core s.ev.k t) := by
  change execStreamElementRead s = _
  simp only [execStreamElementRead, bound]
  rw [if_pos readable]

end

/-- Settles O36: elements by `Strm.addr_eq` and `Strm.eat_eq_eaten`, events by what they do to the stream of their context. -/
theorem streamsRun : Obligations.StreamsRun := by
  refine ⟨fun t n e => ⟨t.addr_eq e, fun read => ?eat, Strm.fold_unattached⟩, fun s t => ?events⟩
  case eat =>
    rw [Strm.eat_eq_eaten read]
    exact ⟨rfl, rfl, rfl, rfl, rfl⟩
  case events =>
    intro c k sets a refuted ends arrived sent bound
    have next {u v : State} (h : u = v) : (Host.Outcome.next u : Host.Outcome State Fault Refusal) = .next v := congrArg _ h
    have told := tellStrm_eq bound
    refine ⟨fun h => exec_streamFloat bound, fun h => next (hop_waiting bound (.inl h)), fun h => next (hop_waiting bound (.inr h)),
      fun due kept hopping => next (hop_arrives bound due kept hopping), fun h due kept floating more home other room => next ?hops,
      fun h due kept floating more home other full => next ?full,
      fun readable isRefuted => ?refuted, fun readable sound f fault => ?faults, fun readable sound allowed u v read => ?reads,
      fun h => next (told.trans (if_pos h)), fun h => next (told.trans (if_neg h)),
      fun h => next (strmArrive_asked bound h), fun h due => next (strmArrive_underway bound h due),
      fun h due closing gone => next ((strmArrive_closing bound h due closing).trans (if_pos gone)),
      fun h due closing here => next ((strmArrive_closing bound h due closing).trans (if_neg here)),
      fun h due stays none_ => next (strmArrive_home bound h due stays none_),
      fun n unasked floating => Strm.settled_recall_floating floating unasked n,
      fun n unasked hopping => Strm.settled_recall_hopping hopping unasked n⟩
    case hops =>
      rw [hop_elsewhere bound due kept floating more home other, if_neg (Nat.not_le.2 room)]
      exact State.updStrm_congr bound rfl
    case full =>
      rw [hop_elsewhere bound due kept floating more home other, if_pos full]
      exact State.updStrm_congr bound (Strm.settled_own_floating floating _)
    case refuted =>
      rw [exec_streamElementRead bound readable, readElem_refuted isRefuted]
      exact next (State.updStrm_congr bound rfl)
    case faults =>
      rw [exec_streamElementRead bound readable, readElem_faults sound fault]
      exact next (State.updStrm_congr bound rfl)
    case reads =>
      obtain ⟨n, reads⟩ := readElem_reads (k := k) sound allowed read
      exact ⟨n, by rw [exec_streamElementRead bound readable, reads]⟩

end Sys2Proof.Machine
end

section
/-!
SUPPORT. Bit streams (R246 to R248, R378): what a read of the next bits and a write of more come to.
-/
namespace Sys2Proof.Machine

/-! The streams are no part of their strand. -/

theorem Core.eatBits_ctxs (k : Core) (n : Nat) : (k.eatBits n).ctxs = k.ctxs := by
  unfold Core.eatBits
  dsimp only
  split
  · rfl
  · split <;> rfl

theorem Core.putBits_ctxs (k : Core) (n v : Nat) : (k.putBits n v).ctxs = k.ctxs := by
  unfold Core.putBits
  dsimp only
  split <;> rfl

theorem keepsStrand_wordsDone (s : State) (c : Nat) (xs : List Nat) : KeepsStrand s (s.wordsDone c xs) := by
  refine KeepsStrand.foldl (fun t x => ?_) xs s
  split
  · refine keepsStrand_updCtx (fun k => ?_) t c x
    exact ⟨rfl, rfl⟩
  · exact KeepsStrand.refl t

theorem keepsStrand_eat (s : State) (n : Nat) : KeepsStrand s (s.eat n) :=
  (keepsStrand_updCore s _ _ (Core.eatBits_ctxs _ n)).trans (keepsStrand_wordsDone ..)

theorem keepsStrand_puts (s : State) (n v : Nat) : KeepsStrand s (s.updMyCore (fun k => k.putBits n v)) :=
  keepsStrand_updCore s _ _ (Core.putBits_ctxs _ n v)

theorem keepsStrand_wrG (s : State) (d : BitVec 6) (v : Word) : KeepsStrand s (s.wrG d v) := (onlyRegs_wrG s d v).keepsStrand

/-! The reader as an instruction issues. -/

theorem begun_bitsIn (s : State) (sh : Shape) : (s.begun sh).myCore.bitsIn = s.myCore.bitsIn := by
  simp only [Core.bitsIn, State.myCore, begun_cur, begun_core_rdLeft, begun_core_qin]

theorem begun_bitsBad (s : State) (sh : Shape) (k : Nat) : (s.begun sh).myCore.bitsBad k = s.myCore.bitsBad k := by
  rw [Core.bitsBad, Core.badHead, State.myCore, begun_cur, begun_core_rdLeft, begun_core_badQ]
  rfl

theorem begun_bankSel (s : State) (sh : Shape) (code : Nat) : (s.begun sh).bankSel code = s.bankSel code := by
  rw [State.bankSel, begun_cur, begun_cx, State.bankSel]

/-- The count of a bit-stream instruction (R247). -/
def streamCount (f : Fields) (s : State) : Nat := if f.o.getLsbD 0 then f.imm.toNat % 2 ^ 7 else (s.gr f.b).toNat % 2 ^ 7

theorem Issues.bitCount {i : Instr} {sh : Shape} {s : State} (h : Issues i sh s) (f : Fields) :
    (s.begun sh).bitCount f = streamCount f (s.begun sh) := by
  rw [State.bitCount, h.gOp, fld_zero, fld_zero, streamCount]

/-! Reads of the next bits. -/

/-- What an instruction comes to that reads the next `k` bits, `e` once they are there and pass their check. -/
def State.readsBits (s : State) (k : Nat) (e : Eff) : Eff :=
  if s.myCore.bitsIn < k then .wait (.bits k false) else if s.myCore.bitsBad k then s.bitsFault else e

/-- The next `k` bits are there, and no word they lie in fails its check. -/
abbrev BitsThere (s : State) (k : Nat) : Prop := k ≤ s.myCore.bitsIn ∧ s.myCore.bitsBad k = false

theorem readsBits_few {s : State} {k : Nat} {e : Eff} (few : s.myCore.bitsIn < k) : s.readsBits k e = .wait (.bits k false) := if_pos few

theorem readsBits_there {s : State} {k : Nat} {e : Eff} (there : BitsThere s k) : s.readsBits k e = e := by
  rw [State.readsBits, if_neg (Nat.not_lt.2 there.1), there.2]
  exact if_neg Bool.false_ne_true

/-- Where `ok` holds of the next `k` bits, they are there, and they lie in a word that fails its check, `i` takes DATA-UNCORRECTABLE
(R378). -/
def StopsAtBits (i : Instr) (ok : State → Nat → Prop) : Prop :=
  ∀ sh s k, Issues i sh s → ok (s.begun sh) k → k ≤ s.myCore.bitsIn → s.myCore.bitsBad k = true →
    exec i s = .next (((s.withIw sh).emptyDests sh).issueTrap (some sh) cUncorrectable 0xA6 (s.bankSel 0xA6) 0)

theorem stopsAtBits_of {i : Instr} {body : State → Shape → Eff} {ok : State → Nat → Prop} (hx : ∀ s, exec i s = issue i s body)
    (hb : ∀ sh s k, Issues i sh s → ok (s.begun sh) k → ∃ e, body (s.begun sh) sh = (s.begun sh).readsBits k e) :
    StopsAtBits i ok := fun sh s k h ho there bad => by
  obtain ⟨e, reads⟩ := hb sh s k h ho
  refine exec_trap hx h (reads.trans ?_)
  rw [State.readsBits, begun_bitsIn, if_neg (Nat.not_lt.2 there), begun_bitsBad, if_pos bad, State.bitsFault, begun_bankSel]

/-! `bs.get` and `bs.peek`. -/

section
variable {i : Instr} {f : Fields} {eats : Bool} (hx : ∀ s, exec i s = issue i s (bsRead f eats))

/-- A read of at most 64 bits. -/
theorem Issues.bsRead {i : Instr} {sh : Shape} {s : State} (h : Issues i sh s) (fits : streamCount f (s.begun sh) ≤ 64) :
    bsRead f eats (s.begun sh) sh = (s.begun sh).readsBits (streamCount f (s.begun sh))
      (.done ((if eats then (s.begun sh).eat (streamCount f (s.begun sh)) else s.begun sh).wrG f.d
        (BitVec.ofNat 64 ((s.begun sh).myCore.peekBits (streamCount f (s.begun sh)))))) := by
  rw [Machine.bsRead, h.bitCount]
  exact if_neg (Nat.not_lt.2 fits)

include hx

theorem does_bitRead : Does i (fun s => streamCount f s ≤ 64 ∧ BitsThere s (streamCount f s))
    (fun s _ => (if eats then s.eat (streamCount f s) else s).wrG f.d (BitVec.ofNat 64 (s.myCore.peekBits (streamCount f s)))) := by
  refine does_kept hx (fun sh s h ⟨fits, there⟩ => by rw [h.bsRead fits, readsBits_there there]) fun _ s => ?_
  refine KeepsStrand.trans ?_ (keepsStrand_wrG _ _ _)
  split
  · exact keepsStrand_eat ..
  · exact KeepsStrand.refl s

theorem awaits_bitRead : Awaits i (fun s => streamCount f s ≤ 64 ∧ s.myCore.bitsIn < streamCount f s) (fun s => .bits (streamCount f s) false) :=
  awaits_of hx fun _ _ h ⟨fits, few⟩ => by rw [h.bsRead fits, readsBits_few few]

theorem stops_bitRead : StopsAtBits i (fun s k => k = streamCount f s ∧ k ≤ 64) :=
  stopsAtBits_of hx fun _ _ _ h ⟨count, fits⟩ => by
    subst count
    exact ⟨_, h.bsRead fits⟩

theorem faults_bitRead : Faults i (fun s => 64 < streamCount f s) cIllegal (fun _ => 0) :=
  faults_of hx fun sh s h many => by
    rw [Machine.bsRead, h.bitCount]
    exact if_pos many

end

section
variable (f : Fields)

theorem exec_bsGet (s : State) : exec (.bsGet f) s = issue (.bsGet f) s (bsRead f true) := rfl

theorem exec_bsPeek (s : State) : exec (.bsPeek f) s = issue (.bsPeek f) s (bsRead f false) := rfl

theorem does_bsGet : Does (.bsGet f) (fun s => streamCount f s ≤ 64 ∧ BitsThere s (streamCount f s))
    (fun s _ => (s.eat (streamCount f s)).wrG f.d (BitVec.ofNat 64 (s.myCore.peekBits (streamCount f s)))) := by
  simpa only [if_true] using does_bitRead (exec_bsGet f)

theorem does_bsPeek : Does (.bsPeek f) (fun s => streamCount f s ≤ 64 ∧ BitsThere s (streamCount f s))
    (fun s _ => s.wrG f.d (BitVec.ofNat 64 (s.myCore.peekBits (streamCount f s)))) := by
  simpa only [Bool.false_eq_true, if_false] using does_bitRead (exec_bsPeek f)

end

/-! `bs.put`. -/

/-- A word that `k` more bits complete has room. -/
abbrev BitsRoom (s : State) (k : Nat) : Prop := s.myCore.wrLen + k < 64 ∨ s.myCore.qout.length < 16

theorem bitsRoom_iff (s : State) (k : Nat) : s.myCore.bitsRoom k = true ↔ BitsRoom s k := by simp [Core.bitsRoom]

theorem bsWrite_room {s : State} {k v : Nat} (room : BitsRoom s k) : bsWrite k v s = .done (s.updMyCore (fun c => c.putBits k v)) :=
  if_pos ((bitsRoom_iff s k).2 room)

theorem bsWrite_full {s : State} {k v : Nat} (full : ¬BitsRoom s k) : bsWrite k v s = .wait (.bits k true) :=
  if_neg (mt (bitsRoom_iff s k).1 full)

/-- What `bs.put` comes to. -/
def putBody (f : Fields) (s : State) (_ : Shape) : Eff :=
  if 64 < s.bitCount f then .flt cIllegal 0 else bsWrite (s.bitCount f) (s.gOp 1 f.a).toNat s

theorem exec_bsPut (f : Fields) (s : State) : exec (.bsPut f) s = issue (.bsPut f) s (putBody f) := rfl

theorem Issues.putBody {i : Instr} {sh : Shape} {s : State} (h : Issues i sh s) {f : Fields} (fits : streamCount f (s.begun sh) ≤ 64) :
    putBody f (s.begun sh) sh = bsWrite (streamCount f (s.begun sh)) ((s.begun sh).gr f.a).toNat (s.begun sh) := by
  rw [Machine.putBody, h.bitCount, h.gOp, if_neg (Nat.not_lt.2 fits)]

theorem does_bitWrite (f : Fields) : Does (.bsPut f) (fun s => streamCount f s ≤ 64 ∧ BitsRoom s (streamCount f s))
    (fun s _ => s.updMyCore (fun c => c.putBits (streamCount f s) (s.gr f.a).toNat)) :=
  does_kept (exec_bsPut f) (fun _ _ h ⟨fits, room⟩ => by rw [h.putBody fits, bsWrite_room room]) fun _ _ => keepsStrand_puts ..

theorem awaits_bitWrite (f : Fields) : Awaits (.bsPut f) (fun s => streamCount f s ≤ 64 ∧ ¬BitsRoom s (streamCount f s))
    (fun s => .bits (streamCount f s) true) :=
  awaits_of (exec_bsPut f) fun _ _ h ⟨fits, full⟩ => by rw [h.putBody fits, bsWrite_full full]

/-! `bs.dec` (R248). -/

/-- The table at the source register lies in the core's own window, may be read, and its first word is `n`. -/
abbrev DecTable (f : Fields) (s : State) (n : Nat) : Prop :=
  s.issueFault (s.myWho .strand) (s.gr f.a) 8 8 false = none ∧ spaceOf (s.gr f.a).toNat = .loc s.cur 0 ∧ s.pathClear s.cur = true ∧
    ∃ t, s.readAt (s.myWho .strand) (s.gr f.a).toNat 8 3 = (t, .ok n)

/-- The table's entry for the next `n` bits reads `e`. -/
abbrev DecEntry (f : Fields) (s : State) (n e : Nat) : Prop :=
  ∃ t, s.readChecked (s.myWho .strand) (BitVec.ofNat 64 ((s.gr f.a).toNat + 8 + 4 * s.myCore.peekBits n)) 4 4 3 = (t, .ok e)

/-- What `bs.dec` comes to once it has the entry `e` for the next `n` bits. -/
def decEntry (f : Fields) (s : State) (n e : Nat) : Eff :=
  if bits e 16 5 = 0 ∨ n < bits e 16 5 ∨ bits e 21 11 != 0 then .done (s.wrG f.d (BitVec.allOnes 64))
  else .done ((s.eat (bits e 16 5)).wrG f.d (BitVec.ofNat 64 (bits e 0 16)))

/-- What `bs.dec` comes to once the next `n` bits are there: it reads their entry. -/
def decLookup (f : Fields) (s : State) (n : Nat) : Eff :=
  match s.readChecked (s.myWho .strand) (wadd (s.gOp 1 f.a) (8 + 4 * s.myCore.peekBits n : Nat)) 4 4 3 with
  | (_, .error (c, b)) => .flt c b
  | (_, .ok e) => decEntry f s n e

/-- What `bs.dec` comes to whose table takes `n` bits. -/
def decTable (f : Fields) (s : State) (n : Nat) : Eff :=
  if n = 0 ∨ 12 < n then .done (s.wrG f.d (BitVec.allOnes 64)) else s.readsBits n (decLookup f s n)

/-- What `bs.dec` comes to. -/
def decBody (f : Fields) (s : State) (_ : Shape) : Eff :=
  match s.issueFault (s.myWho .strand) (s.gOp 1 f.a) 8 8 false with
  | some (c, b) => .flt c b
  | none =>
    if spaceOf (s.gOp 1 f.a).toNat != .loc s.cur 0 then .flt cPerm (s.gOp 1 f.a)
    else if !s.pathClear s.cur then .wait .path
    else
      match s.readAt (s.myWho .strand) (s.gOp 1 f.a).toNat 8 3 with
      | (_, .error (c, b)) => .flt c b
      | (_, .ok n) => decTable f s n

theorem exec_bsDec (f : Fields) (s : State) : exec (.bsDec f) s = issue (.bsDec f) s (decBody f) := rfl

theorem Issues.decBody {i : Instr} {sh : Shape} {s : State} (h : Issues i sh s) {f : Fields} {n : Nat} (table : DecTable f (s.begun sh) n) :
    decBody f (s.begun sh) sh = decTable f (s.begun sh) n := by
  obtain ⟨sound, own, clear, t, read⟩ := table
  have own' : ¬(spaceOf ((s.begun sh).gr f.a).toNat != .loc (s.begun sh).cur 0) = true := by rw [own]; simp
  have clear' : ¬(!(s.begun sh).pathClear (s.begun sh).cur) = true := by rw [clear]; simp
  rw [Machine.decBody, h.gOp, sound]
  dsimp only
  rw [if_neg own', if_neg clear', read]

/-- A table of 1 to 12 bits is looked up with the next bits. -/
theorem Issues.decReads {i : Instr} {sh : Shape} {s : State} (h : Issues i sh s) {f : Fields} {n : Nat} (table : DecTable f (s.begun sh) n)
    (some_ : 1 ≤ n) (few : n ≤ 12) : Machine.decBody f (s.begun sh) sh = (s.begun sh).readsBits n (decLookup f (s.begun sh) n) := by
  rw [h.decBody table, decTable, if_neg (by omega)]

theorem Issues.decLookup {i : Instr} {sh : Shape} {s : State} (h : Issues i sh s) {f : Fields} {n e : Nat} (entry : DecEntry f (s.begun sh) n e) :
    decLookup f (s.begun sh) n = decEntry f (s.begun sh) n e := by
  obtain ⟨t, read⟩ := entry
  have address : wadd ((s.begun sh).gr f.a) (8 + 4 * (s.begun sh).myCore.peekBits n : Nat) =
      BitVec.ofNat 64 (((s.begun sh).gr f.a).toNat + 8 + 4 * (s.begun sh).myCore.peekBits n) := by
    rw [wadd, Nat.add_assoc, ← Int.natCast_add, BitVec.ofInt_natCast]
  rw [Machine.decLookup, h.gOp, address, read]

section
variable (f : Fields) (n : Nat)

theorem does_decode_misfit : Does (.bsDec f) (fun s => DecTable f s n ∧ (n = 0 ∨ 12 < n))
    (fun s _ => s.wrG f.d (BitVec.ofNat 64 0xFFFFFFFFFFFFFFFF)) :=
  does_kept (exec_bsDec f) (fun _ _ h ⟨table, misfit⟩ => by
    rw [h.decBody table, decTable, if_pos misfit]
    rfl) fun _ _ => keepsStrand_wrG ..

theorem awaits_decode : Awaits (.bsDec f) (fun s => DecTable f s n ∧ 1 ≤ n ∧ n ≤ 12 ∧ s.myCore.bitsIn < n) (fun _ => .bits n false) :=
  awaits_of (exec_bsDec f) fun _ _ h ⟨table, some_, fits, few⟩ => by rw [h.decReads table some_ fits, readsBits_few few]

theorem stops_decode : StopsAtBits (.bsDec f) (fun s k => DecTable f s k ∧ 1 ≤ k ∧ k ≤ 12) :=
  stopsAtBits_of (exec_bsDec f) fun _ _ _ h ⟨table, some_, fits⟩ => ⟨_, h.decReads table some_ fits⟩

/-- An entry that names 1 to `n` bits and whose other bits are zero is the code of those bits. -/
theorem does_decode (e : Nat) : Does (.bsDec f) (fun s => DecTable f s n ∧ 1 ≤ n ∧ n ≤ 12 ∧ BitsThere s n ∧ DecEntry f s n e ∧
      1 ≤ e / 2 ^ 16 % 2 ^ 5 ∧ e / 2 ^ 16 % 2 ^ 5 ≤ n ∧ e / 2 ^ 21 % 2 ^ 11 = 0)
    (fun s _ => (s.eat (e / 2 ^ 16 % 2 ^ 5)).wrG f.d (BitVec.ofNat 64 (e % 2 ^ 16))) :=
  does_kept (exec_bsDec f) (fun sh s h ⟨table, some_, fits, there, entry, long, short, zero⟩ => by
    have valid : ¬(bits e 16 5 = 0 ∨ n < bits e 16 5 ∨ (bits e 21 11 != 0) = true) := by
      rintro (none_ | many | other)
      · exact Nat.one_le_iff_ne_zero.1 long none_
      · exact Nat.not_lt.2 short many
      · exact bne_iff_ne.1 other zero
    have code : bits e 0 16 = e % 2 ^ 16 := by rw [bits, Nat.pow_zero, Nat.div_one]
    rw [h.decReads table some_ fits, readsBits_there there, h.decLookup entry, decEntry, if_neg valid, code, bits])
    fun _ _ => (keepsStrand_eat ..).trans (keepsStrand_wrG ..)

end

/-! `bs.align` (R247). -/

/-- Bits from `n` to the end of its byte. -/
def toByte (n : BitVec 3) : Nat := (8 - n.toNat) % 8

/-- What `bs.align` comes to. -/
def alignBody (f : Fields) (s : State) (_ : Shape) : Eff :=
  if f.o = 0 then s.readsBits (toByte s.myCore.rdCount) (.done (s.eat (toByte s.myCore.rdCount)))
  else if f.o = 1 then bsWrite (toByte s.myCore.wrCount) 0 s
  else if f.o = 2 then (if s.myCore.wrLen = 0 then .done s else bsWrite (64 - s.myCore.wrLen) 0 s)
  else .done (s.updMyCore (fun k => { k with rdBits := 0, rdLeft := 0, rdCount := 0, wrBits := 0, wrLen := 0, wrCount := 0 }))

theorem exec_bsAlign (f : Fields) (s : State) : exec (.bsAlign f) s = issue (.bsAlign f) s (alignBody f) := rfl

section
variable {f : Fields}

theorem alignBody_reader (form : f.o = 0) (s : State) (sh : Shape) :
    alignBody f s sh = s.readsBits (toByte s.myCore.rdCount) (.done (s.eat (toByte s.myCore.rdCount))) := if_pos form

theorem stops_align (form : f.o = 0) : StopsAtBits (.bsAlign f) (fun s k => k = toByte s.myCore.rdCount) :=
  stopsAtBits_of (exec_bsAlign f) fun _ _ _ _ count => by
    subst count
    exact ⟨_, alignBody_reader form _ _⟩

theorem does_align_reader (form : f.o = 0) : Does (.bsAlign f) (fun s => BitsThere s (toByte s.myCore.rdCount))
    (fun s _ => s.eat (toByte s.myCore.rdCount)) :=
  does_kept (exec_bsAlign f) (fun _ _ _ there => by rw [alignBody_reader form, readsBits_there there]) fun _ _ => keepsStrand_eat ..

theorem does_align_writer (form : f.o = 1) : Does (.bsAlign f) (fun s => BitsRoom s (toByte s.myCore.wrCount))
    (fun s _ => s.updMyCore (fun k => k.putBits (toByte s.myCore.wrCount) 0)) :=
  does_kept (exec_bsAlign f) (fun _ _ _ room => by
    rw [alignBody, form, if_neg (by decide), if_pos rfl, bsWrite_room room]) fun _ _ => keepsStrand_puts ..

theorem does_align_word (form : f.o = 2) : Does (.bsAlign f) (fun s => s.myCore.wrLen ≠ 0 ∧ BitsRoom s (64 - s.myCore.wrLen))
    (fun s _ => s.updMyCore (fun k => k.putBits (64 - s.myCore.wrLen) 0)) :=
  does_kept (exec_bsAlign f) (fun _ _ _ ⟨partial_, room⟩ => by
    rw [alignBody, form, if_neg (by decide), if_neg (by decide), if_pos rfl, if_neg partial_, bsWrite_room room]) fun _ _ => keepsStrand_puts ..

theorem does_align_discard (form : f.o = 3) : Does (.bsAlign f) (fun _ => True) (fun s _ => s.updMyCore (fun k => { k with
    rdBits := 0, rdLeft := 0, rdCount := 0, wrBits := 0, wrLen := 0, wrCount := 0 })) :=
  does_kept (exec_bsAlign f) (fun _ _ _ _ => by
    rw [alignBody, form, if_neg (by decide), if_neg (by decide), if_neg (by decide)]) fun _ s => keepsStrand_updCore s _ _ rfl

end

/-- Settles O31: each clause is one of the outcomes above. -/
theorem bitStreams : Obligations.BitStreams := by
  intro f n there few stops room eats puts bits toByte a table entry length
  exact ⟨does_bsGet f, awaits_bitRead (exec_bsGet f), stops_bitRead (exec_bsGet f), stops_bitRead (exec_bsPeek f), stops_decode f, stops_align,
    faults_bitRead (exec_bsGet f), does_bsPeek f, does_bitWrite f, awaits_bitWrite f, does_decode_misfit f, awaits_decode f, does_decode f,
    does_align_reader, does_align_writer, does_align_word, does_align_discard⟩

end Sys2Proof.Machine
end

section
/-!
SUPPORT. Router reductions (R240 to R243): how their instructions issue and end, and what the steps of routers and rounds come to.
-/
namespace Sys2Proof.Machine

/-! Issue (R240, R242). -/

theorem accesses_redCfg (f : Fields) : Accesses (.redCfg f) (fun s => s.gr f.a) 16 false (fun _ => True) (fun s sh =>
    (s.detach (.redCfg f) sh (fun d => { d with left := 1, mode := s.me.fpmode.toNat % 4 })).sendReq s.me.nextId
      (s.reqOf .load (s.gr f.a) 16) 0) := by
  refine ⟨does_kept (fun _ => rfl) (fun sh s h ok => ?goes) (fun _ _ => (keepsStrand_detach ..).trans (keepsStrand_sendReq ..)),
    fun c b => faults_of (fun _ => rfl) fun sh s h bad => ?faults⟩
  case goes =>
    rw [h.gOp]
    dsimp only
    rw [ok.1, fld_zero]
    rfl
  case faults =>
    rw [h.gOp]
    dsimp only
    rw [bad]
    rfl

/-- The collective that an operand names. -/
def collId (v : Word) : Nat := v.toNat % 16

theorem fld_collId (v : Word) : fld v 0 4 = collId v := fld_zero v 4

section
variable (f : Fields)

/-- What `red.post` comes to. -/
def postBody (s : State) (sh : Shape) : Eff :=
  if s.me.hypCur != 0 then .flt cPerm 0
  else if !s.me.ordered true true then .wait (.order true true)
  else if 4 ≤ s.me.untaken (fld (s.gOp 1 f.a) 0 4) then .wait (.rounds (fld (s.gOp 1 f.a) 0 4))
  else .done (s.detach (.redPost f) sh (fun d => { d with due := s.cycles + 12 }))

theorem exec_redPost (s : State) : exec (.redPost f) s = issue (.redPost f) s (postBody f) := rfl

/-- Under a node a strand neither posts nor gets. -/
theorem not_underNode {s : State} (root : s.me.hypCur = 0) : ¬(s.me.hypCur != 0) = true := by simp [root]

theorem not_unordered {s : State} (ordered : s.me.ordered true true = true) : ¬(!s.me.ordered true true) = true := by simp [ordered]

theorem does_redPost : Does (.redPost f)
    (fun s => s.me.hypCur = 0 ∧ s.me.ordered true true = true ∧ s.me.untaken (collId (s.gr f.a)) < 4)
    (fun s sh => s.detach (.redPost f) sh (fun d => { d with due := s.cycles + 12 })) :=
  does_kept (exec_redPost f) (fun sh s h ⟨root, ordered, room⟩ => by
    rw [postBody, h.gOp, fld_collId, if_neg (not_underNode root), if_neg (not_unordered ordered), if_neg (Nat.not_le.2 room)])
    fun _ _ => keepsStrand_detach ..

theorem faults_redPost : Faults (.redPost f) (fun s => s.me.hypCur ≠ 0) cPerm (fun _ => 0) :=
  faults_of (exec_redPost f) fun _ _ _ under => if_pos (bne_iff_ne.2 under)

theorem awaits_redPost_order : Awaits (.redPost f) (fun s => s.me.hypCur = 0 ∧ s.me.ordered true true = false) (fun _ => .order true true) :=
  awaits_of (exec_redPost f) fun sh s _ ⟨root, unordered⟩ => by
    rw [postBody, if_neg (not_underNode root), unordered]
    rfl

theorem awaits_redPost_rounds : Awaits (.redPost f)
    (fun s => s.me.hypCur = 0 ∧ s.me.ordered true true = true ∧ 4 ≤ s.me.untaken (collId (s.gr f.a))) (fun s => .rounds (collId (s.gr f.a))) :=
  awaits_of (exec_redPost f) fun sh s h ⟨root, ordered, full⟩ => by
    rw [postBody, h.gOp, fld_collId, if_neg (not_underNode root), if_neg (not_unordered ordered), if_pos full]

/-- The place of the oldest round of the collective that no `red.get` has taken. -/
def freeRound (s : State) : Option Nat := findIdx (fun r => r.id == collId (s.gr f.a) && !r.queue && r.op.isNone) s.me.rounds

/-- A `red.get` leaves the pipeline, due at `t` where its round's outcome is here. -/
def State.getsRound (s : State) (sh : Shape) (t : Nat) : State := s.detach (.redGet f) sh (fun d => { d with left := 1, acq := true, due := t })

/-- A `red.get` takes round `j` of its context. -/
def State.takesRound (s : State) (sh : Shape) (j : Nat) : State :=
  (s.getsRound f sh (if (nth s.me.rounds j).any (fun r => r.res.isSome || r.failed) then s.cycles + 8 else 0)).updMe (fun k => { k with
    rounds := updNth (fun r => { r with op := some s.me.nextId }) k.rounds j })

/-- What `red.get` comes to. -/
def getBody (s : State) (sh : Shape) : Eff :=
  if s.me.hypCur != 0 then .flt cPerm 0
  else
    match findIdx (fun r => r.id == fld (s.gOp 1 f.a) 0 4 && !r.queue && r.op.isNone) s.me.rounds with
    | none => if s.me.posting (fld (s.gOp 1 f.a) 0 4) = 0 then .flt cIllegal 0 else .done (s.getsRound f sh 0)
    | some j => .done (s.takesRound f sh j)

theorem exec_redGet (s : State) : exec (.redGet f) s = issue (.redGet f) s (getBody f) := rfl

theorem Issues.getBody {i : Instr} {sh : Shape} {s : State} (h : Issues i sh s) (root : (s.begun sh).me.hypCur = 0) : getBody f (s.begun sh) sh =
    match freeRound f (s.begun sh) with
    | none => if (s.begun sh).me.posting (collId ((s.begun sh).gr f.a)) = 0 then .flt cIllegal 0 else .done ((s.begun sh).getsRound f sh 0)
    | some j => .done ((s.begun sh).takesRound f sh j) := by
  rw [Machine.getBody, h.gOp, fld_collId, if_neg (not_underNode root), freeRound]

theorem does_redGet_taken (j : Nat) : Does (.redGet f) (fun s => s.me.hypCur = 0 ∧ freeRound f s = some j) (fun s sh => s.takesRound f sh j) :=
  does_kept (exec_redGet f) (fun sh s h ⟨root, free⟩ => by rw [h.getBody f root, free]) fun _ _ =>
    (keepsStrand_detach ..).trans (keepsStrand_updMe ⟨rfl, rfl⟩)

theorem does_redGet_posting : Does (.redGet f) (fun s => s.me.hypCur = 0 ∧ freeRound f s = none ∧ s.me.posting (collId (s.gr f.a)) ≠ 0)
    (fun s sh => s.getsRound f sh 0) :=
  does_kept (exec_redGet f) (fun sh s h ⟨root, none_, posting⟩ => by
    rw [h.getBody f root, none_]
    exact if_neg posting) fun _ _ => keepsStrand_detach ..

theorem faults_redGet_unposted :
    Faults (.redGet f) (fun s => s.me.hypCur = 0 ∧ freeRound f s = none ∧ s.me.posting (collId (s.gr f.a)) = 0) cIllegal (fun _ => 0) :=
  faults_of (exec_redGet f) fun sh s h ⟨root, none_, unposted⟩ => by
    rw [h.getBody f root, none_]
    exact if_pos unposted

theorem faults_redGet_node : Faults (.redGet f) (fun s => s.me.hypCur ≠ 0) cPerm (fun _ => 0) :=
  faults_of (exec_redGet f) fun _ _ _ under => if_pos (bne_iff_ne.2 under)

end

/-! Posts and gets end (R242, R243). -/

/-- An operation that is not complete stays as it is. -/
theorem execDetachedCompletion_waits {s : State} {d : DetOp} (hd : s.det s.ev.core s.ev.ctx s.ev.op = some d)
    (he : s.detEnd s.ev.core s.ev.ctx d = none) : exec .detachedCompletion s = .next s := by
  change execDetachedCompletion s = _
  rw [execDetachedCompletion, State.complete, hd]
  simp only [he, Option.getD_none]

section
variable {s : State} {c x : Nat} {d : DetOp}

section
variable (due : d.due ≤ s.cycles) (pending : d.st = .pending)
include due pending

theorem detEnd_redPost (op : d.op = 0x3A1) : s.detEnd c x d = s.redPostEnd c x d := by
  have there : ¬s.cycles < d.due := Nat.not_lt.2 due
  simp [State.detEnd, op, isTile, there, pending]

theorem detEnd_redGet (op : d.op = 0x3A2) : s.detEnd c x d = s.redGetEnd c x d := by
  have there : ¬s.cycles < d.due := Nat.not_lt.2 due
  simp [State.detEnd, op, isTile, there, pending]

end

theorem codeAt_zero (iw : IWord) : codeAt iw 0 = iw.toNat / 2 ^ 76 % 2 ^ 8 := fld_eq iw 76 8

theorem codeAt_two (iw : IWord) : codeAt iw 2 = iw.toNat / 2 ^ 60 % 2 ^ 8 := fld_eq iw 60 8

section
variable (oldest : ∀ e ∈ (s.ctx c x).outst, e.op = 0x3A1 → d.id ≤ e.id)
include oldest

/-- No post of the context that issued before it is outstanding. -/
theorem no_older_post : ¬(s.ctx c x).outst.any (fun e => e.op == 0x3A1 && decide (e.id < d.id)) = true := by
  simpa only [List.any_eq_true, Bool.and_eq_true, beq_iff_eq, decide_eq_true_eq, not_exists, not_and, not_lt] using oldest

theorem redPostEnd_member (member : (s.coll (s.pidOf c) (d.caps.o1.toNat % 16)).member (clusterOf c) = true) :
    s.redPostEnd c x d = some (((s.updCtx c x (fun k => { k with rounds := k.rounds ++
      [{ s.nextRound c (d.caps.o1.toNat % 16) with op := ((s.ctx c x).getsOpen (d.caps.o1.toNat % 16)).head?.map (·.id) }] })).contribute
        (s.pidOf c) (d.caps.o1.toNat % 16) (clusterOf c) d.caps.o2 { core := c, ctx := x }).endPos c x d
      [(d.iw.toNat / 2 ^ 76 % 2 ^ 8, BitVec.ofNat 1024 (roundNum (s.nextRound c (d.caps.o1.toNat % 16)).num))] 0) := by
  have id : fld d.caps.o1 0 4 = d.caps.o1.toNat % 16 := fld_zero d.caps.o1 4
  rw [State.redPostEnd, if_neg (no_older_post oldest), id, member, codeAt_zero]
  rfl

theorem redPostEnd_stranger (stranger : (s.coll (s.pidOf c) (d.caps.o1.toNat % 16)).member (clusterOf c) = false) :
    s.redPostEnd c x d = some (s.failOp c x d cIllegal 0 0 0) := by
  have id : fld d.caps.o1 0 4 = d.caps.o1.toNat % 16 := fld_zero d.caps.o1 4
  rw [State.redPostEnd, if_neg (no_older_post oldest), id, stranger]
  rfl

end

section
variable {r : PostedRound} (taken : (s.ctx c x).rounds.find? (fun r => r.op == some d.id) = some r)
include taken

theorem redGetEnd_failed (failed : r.failed = true) : s.redGetEnd c x d =
    some ((s.updCtx c x (fun k => { k with rounds := k.rounds.filter (fun e => e.op != some d.id) })).failOp c x d cRedTimeout 0 0 0) := by
  rw [State.redGetEnd, taken]
  exact if_pos failed

theorem redGetEnd_open (sound : r.failed = false) (open_ : r.res = none) : s.redGetEnd c x d = none := by
  rw [State.redGetEnd, taken]
  dsimp only
  rw [sound, open_]
  rfl

theorem redGetEnd_result (sound : r.failed = false) {v : Vec} (result : r.res = some v) : s.redGetEnd c x d =
    some ((s.updCtx c x (fun k => { k with rounds := k.rounds.filter (fun e => e.op != some d.id) })).endPos c x d
      [(d.iw.toNat / 2 ^ 76 % 2 ^ 8, v),
        (d.iw.toNat / 2 ^ 60 % 2 ^ 8, BitVec.ofNat 1024 (roundNum r.num + r.flags.toNat * 2 ^ 32))] 0) := by
  rw [State.redGetEnd, taken]
  dsimp only
  rw [sound, result, codeAt_zero, codeAt_two]
  rfl

end

end

/-! Routers and rounds (R241 to R243). -/

theorem Round.open_iff (rd : Round) : rd.open_ = true ↔ rd.result = none ∧ rd.failed = false := by
  simp [Round.open_]

theorem Coll.late_iff (c : Coll) (rd : Round) (now : Nat) : c.late rd now = true ↔
    c.cfg.toNat / 2 ^ 64 % 2 ^ 32 ≠ 0 ∧ rd.started + c.cfg.toNat / 2 ^ 64 % 2 ^ 32 ≤ now := by
  have tmo : c.tmo = c.cfg.toNat / 2 ^ 64 % 2 ^ 32 := fld_eq c.cfg 64 32
  rw [Coll.late, tmo, Bool.and_eq_true, bne_iff_ne, decide_eq_true_eq]

section
variable {s : State} {pid id k : Nat} {rd : Round} (here : nth (s.coll pid id).rounds k = some rd)
include here

section
variable (open_ : rd.open_ = true)
include open_

section
variable {r : Nat} {v : Vec} {t : Nat} {fl : Flags} (first : mget none rd.passed r = none)
  (formed : (s.coll pid id).routed rd r = some (some (v, t), fl)) (now : t ≤ s.cycles)
include first formed now

/-- A router that has formed its value goes on with it unless it is the root and the round's time is up. -/
theorem routeRound_formed : s.routeRound pid id k r =
    if r = (s.coll pid id).rootOf ∧ (s.coll pid id).late rd s.cycles = true then s
    else s.updRound pid id k (fun rd => { rd with
      passed := mset none rd.passed r (some v), times := mset 0 rd.times (512 + r) s.cycles, flags := rd.flags ||| fl
      result := if r = (s.coll pid id).rootOf then some v else none, endAt := s.cycles }) := by
  have free : ¬(!rd.open_ || (mget none rd.passed r).isSome) = true := by simp [open_, first]
  rw [State.routeRound, here]
  dsimp only
  rw [if_neg free, formed]
  refine if_congr ?_ rfl rfl
  simp [Nat.not_lt.2 now]

end

theorem failRound_late (late : (s.coll pid id).late rd s.cycles = true) : s.failRound pid id k = s.updRound pid id k (fun rd => { rd with
    failed := true, contrib := [], passed := [], flags := 0, endAt := s.cycles }) := by
  rw [State.failRound, here]
  exact if_pos (by rw [open_, late]; rfl)

end

theorem deliver_arrives {j : Nat} {p : Poster} (closed : rd.open_ = false) (waits : nth rd.posters j = some p) (plain : p.block = none)
    (stays : p.gone = false) (due : max (rd.endAt + ({ s.coll pid id with cfg := rd.cfg } : Coll).wayDown p.core) (p.came + 12) ≤ s.cycles) :
    s.deliver pid id k j = (s.updRound pid id k (fun rd => { rd with posters := delNth rd.posters j })).updCtx p.core p.ctx (fun x => { x with
      rounds := updIf (fun r => r.id == id && r.num == rd.num && r.ep == rd.ep)
        (fun r => { r with res := rd.result, flags := rd.flags, failed := rd.failed }) x.rounds }) := by
  have round : s.round pid id k = some rd := here
  have arrived : ¬(rd.open_ || decide (s.cycles <
      max (rd.endAt + ({ s.coll pid id with cfg := rd.cfg } : Coll).wayDown p.core) (p.came + 12))) = true := by
    simp only [closed, Bool.false_or, decide_eq_true_eq]
    exact Nat.not_lt.2 due
  rw [State.deliver, round]
  dsimp only
  rw [waits]
  dsimp only
  rw [if_neg arrived, plain, stays]
  rfl

end

/-- Settles O32: instructions by their issue, posts and gets by their ends, the events by the steps of their round. -/
theorem routerReductions : Obligations.RouterReductions := by
  refine ⟨fun f => ?issue, fun s d => ?ends, fun s rd => ?events⟩
  case issue =>
    intro a id posts mine gets
    exact ⟨accesses_redCfg f, does_redPost f, faults_redPost f, awaits_redPost_order f, awaits_redPost_rounds f, does_redGet_taken f,
      does_redGet_posting f, faults_redGet_unposted f, faults_redGet_node f⟩
  case ends =>
    intro c x k id coll num dst ends named due
    refine ⟨fun op pending oldest => ⟨fun member => ?_, fun stranger => ?_⟩,
      fun op pending r taken => ⟨fun failed => ?_, fun sound open_ => ?_, fun v sound result => ?_⟩⟩
    · exact execDetachedCompletion_of named ((detEnd_redPost due pending op).trans (redPostEnd_member oldest member))
    · exact execDetachedCompletion_of named ((detEnd_redPost due pending op).trans (redPostEnd_stranger oldest stranger))
    · exact execDetachedCompletion_of named ((detEnd_redGet due pending op).trans (redGetEnd_failed taken failed))
    · exact execDetachedCompletion_waits named ((detEnd_redGet due pending op).trans (redGetEnd_open taken sound open_))
    · exact execDetachedCompletion_of named ((detEnd_redGet due pending op).trans (redGetEnd_result taken sound result))
  case events =>
    intro pid id c tmo late takes pending here
    have late_iff : c.late rd s.cycles = true ↔ late := Coll.late_iff c rd s.cycles
    have next {u v : State} (h : u = v) : (Host.Outcome.next u : Host.Outcome State Fault Refusal) = .next v := congrArg _ h
    refine ⟨fun v t fl open_ first formed now => ?routes, fun open_ isLate => ?fails, fun p closed waits plain stays due => ?delivers⟩
    case routes =>
      have routed := routeRound_formed here ((Round.open_iff rd).2 open_) first formed now
      exact ⟨fun root isLate => next (routed.trans (if_pos ⟨root, late_iff.2 isLate⟩)),
        fun passes => next (routed.trans (if_neg fun h => passes ⟨h.1, late_iff.1 h.2⟩))⟩
    case fails => exact next (failRound_late here ((Round.open_iff rd).2 open_) (late_iff.2 isLate))
    case delivers =>
      exact next (deliver_arrives here (Bool.eq_false_iff.2 (mt (Round.open_iff rd).1 closed)) waits plain stays due)

end Sys2Proof.Machine
end

section
/-!
SUPPORT. The copy engine (R224 to R237): how its commands issue, and what each step of the engine leaves of a command and its handles.
-/
namespace Sys2Proof.Machine

/-! Issue (R227). -/

section
variable {s : State} {a : Word}

theorem copyFault_unaligned (h : ¬a.toNat % 128 = 0) : s.copyFault a = some (cAlign, a) := if_pos h

theorem copyFault_hole (aligned : a.toNat % 128 = 0) (hole : spaceOf a.toNat = .none) : s.copyFault a = some (cWindow, a) := by
  rw [State.copyFault, if_neg (not_not.2 aligned), if_pos hole]

theorem copyFault_hosted (aligned : a.toNat % 128 = 0) (mapped : ¬spaceOf a.toNat = .none)
    (hosted : s.hostAt (s.myWho .strand) a.toNat = true) : s.copyFault a = some (cPerm, a) := by
  rw [State.copyFault, if_neg (not_not.2 aligned), if_neg mapped, if_pos hosted]

theorem copyFault_sound (aligned : a.toNat % 128 = 0) (mapped : ¬spaceOf a.toNat = .none)
    (local_ : ¬s.hostAt (s.myWho .strand) a.toNat = true) : s.copyFault a = none := by
  rw [State.copyFault, if_neg (not_not.2 aligned), if_neg mapped, if_neg local_]

end

/-- A command whose record can be read. -/
abbrev CopySound (f : Fields) (s : State) : Prop :=
  (s.gr f.a).toNat % 128 = 0 ∧ ¬spaceOf (s.gr f.a).toNat = .none ∧ ¬s.hostAt (s.myWho .strand) (s.gr f.a).toNat = true

theorem keepsStrand_submitCopy (s : State) (minor : Nat) (addr : Word) (op : Option Nat) (bad : Bool) (now : Nat) :
    KeepsStrand s (s.submitCopy minor addr op bad now) := keepsStrand_of_me rfl

section
variable {i : Instr} {f : Fields} {minor : Nat} (hx : ∀ s, exec i s = issue i s (copyIssue i f minor))

/-- An instruction whose record address fails a check. -/
theorem Issues.copyIssue_faults {sh : Shape} {s : State} (h : Issues i sh s) {c : Nat} {b : Word}
    (bad : (s.begun sh).copyFault ((s.begun sh).gr f.a) = some (c, b)) : copyIssue i f minor (s.begun sh) sh = .trap c b 0 0 := by
  rw [copyIssue, h.gOp, bad]
  rfl

/-- One whose record can be read. -/
theorem Issues.copyIssue_sound {sh : Shape} {s : State} (h : Issues i sh s) (sound : CopySound f (s.begun sh)) :
    copyIssue i f minor (s.begun sh) sh = if !(s.begun sh).copyRoom (s.begun sh).cur then .wait .engine
      else .done (((s.begun sh).detach i sh (fun d => { d with left := 1 })).submitCopy minor ((s.begun sh).gr f.a)
        (some (s.begun sh).me.nextId) false (s.begun sh).cycles) := by
  obtain ⟨aligned, mapped, local_⟩ := sound
  rw [copyIssue, h.gOp, copyFault_sound aligned mapped local_]

include hx

theorem does_copy : Does i
    (fun s => (s.gr f.a).toNat % 128 = 0 ∧ ¬spaceOf (s.gr f.a).toNat = .none ∧ ¬s.hostAt (s.myWho .strand) (s.gr f.a).toNat = true ∧
      s.copyRoom s.cur = true)
    (fun s sh => (s.detach i sh (fun d => { d with left := 1 })).submitCopy minor (s.gr f.a) (some s.me.nextId) false s.cycles) :=
  does_kept hx (fun sh s h ⟨aligned, mapped, local_, room⟩ => by
    rw [h.copyIssue_sound ⟨aligned, mapped, local_⟩, room]
    rfl) fun _ _ => (keepsStrand_detach ..).trans (keepsStrand_submitCopy ..)

theorem awaits_copy : Awaits i
    (fun s => (s.gr f.a).toNat % 128 = 0 ∧ ¬spaceOf (s.gr f.a).toNat = .none ∧ ¬s.hostAt (s.myWho .strand) (s.gr f.a).toNat = true ∧
      ¬s.copyRoom s.cur = true) (fun _ => .engine) :=
  awaits_of hx fun sh s h ⟨aligned, mapped, local_, full⟩ => by
    rw [h.copyIssue_sound ⟨aligned, mapped, local_⟩, Bool.eq_false_iff.2 full]
    rfl

theorem faults_copy_unaligned : Faults i (fun s => ¬(s.gr f.a).toNat % 128 = 0) cAlign (fun s => s.gr f.a) :=
  faults_of hx fun _ _ h unaligned => h.copyIssue_faults (copyFault_unaligned unaligned)

theorem faults_copy_hole : Faults i (fun s => (s.gr f.a).toNat % 128 = 0 ∧ spaceOf (s.gr f.a).toNat = .none) cWindow (fun s => s.gr f.a) :=
  faults_of hx fun _ _ h ⟨aligned, hole⟩ => h.copyIssue_faults (copyFault_hole aligned hole)

theorem faults_copy_hosted : Faults i (fun s => (s.gr f.a).toNat % 128 = 0 ∧ ¬spaceOf (s.gr f.a).toNat = .none ∧
    s.hostAt (s.myWho .strand) (s.gr f.a).toNat = true) cPerm (fun s => s.gr f.a) :=
  faults_of hx fun _ _ h ⟨aligned, mapped, hosted⟩ => h.copyIssue_faults (copyFault_hosted aligned mapped hosted)

end

/-! Acceptance, start and runs (R224 to R232). -/

theorem exec_copyCommandAccept {s : State} (h : s.copyAcceptable s.ev.cluster s.ev.i = true) :
    exec .copyCommandAccept s = .next (s.copyAccept s.ev.cluster s.ev.i) := by
  change execCopyCommandAccept s = _
  rw [execCopyCommandAccept, if_pos h]

/-- The state in which a command has taken its source handle, which drains (R237). -/
def State.takesSource (s : State) (d : CopyCmd) : State :=
  match d.hsOf with
  | some (c, h) => s.putHdl c h (mkHdl 3 true (hdlBytes (s.hdl c h)))
  | none => s

/-- The state in which it has taken its destination handles too, which fill. -/
def State.takesHandles (s : State) (d : CopyCmd) : State := d.hdOf.foldl (fun t e => t.putHdl e.1 e.2 (mkHdl 1 true 0)) (s.takesSource d)

@[simp] theorem State.putHdl_cycles (s : State) (core h v : Nat) : (s.putHdl core h v).cycles = s.cycles := by
  rw [State.putHdl]

/-- Taking handles takes no time. -/
theorem takesHandles_cycles (s : State) (d : CopyCmd) : (s.takesHandles d).cycles = s.cycles := by
  have source : (s.takesSource d).cycles = s.cycles := by
    unfold State.takesSource
    split
    · exact State.putHdl_cycles ..
    · rfl
  rw [State.takesHandles, ← source]
  generalize s.takesSource d = t
  induction d.hdOf generalizing t with
  | nil => rfl
  | cons e l ih => rw [List.foldl_cons, ih, State.putHdl_cycles]

/-- The state in which a command has its source handle back: empty once all is copied, full again otherwise (R237, log 82). -/
def State.givesSource (s : State) (d : CopyCmd) : State :=
  match d.hsOf with
  | some (c, h) => s.putHdl c h (mkHdl (if d.final = 0 then 0 else 2) false (hdlBytes (s.hdl c h)))
  | none => s

/-- The state in which it has its destination handles back too. -/
def State.givesHandles (s : State) (d : CopyCmd) : State :=
  d.hdOf.foldl (fun u e => u.putHdl e.1 e.2 (mkHdl (if d.status = 0 then 2 else 1) false (hdlBytes (u.hdl e.1 e.2)))) (s.givesSource d)

section
variable {s : State} {cl i : Nat} {d : CopyCmd} (here : s.cmd cl i = some d)

theorem nextRun_none (last : d.runs ≤ d.run) : s.nextRun cl i d = s.updCmd cl i (fun _ => { d with st := .arriving, due := s.cycles + 20 }) :=
  if_pos last

theorem nextRun_starts {t : State} {pend : List CopyPiece} {fl : Flags} (more : d.run < d.runs) (run : copyRun s d d.run = (t, .ok (pend, fl))) :
    s.nextRun cl i d = t.updCmd cl i (fun _ => { d with
      st := .running, pend, flags := d.flags ||| fl, due := s.cycles + s.runTime d d.run }) := by
  rw [State.nextRun, if_neg (Nat.not_le.2 more), run]

theorem nextRun_fails {t : State} {c : Nat} (more : d.run < d.runs) (run : copyRun s d d.run = (t, .error c)) :
    s.nextRun cl i d = t.updCmd cl i (fun _ => { d with st := .arriving, status := c }) := by
  rw [State.nextRun, if_neg (Nat.not_le.2 more), run]

include here

theorem copyStart_eq : s.copyStart cl i =
    ((s.takesHandles d).updCluster cl (fun c => { c with copyAt := s.cycles + 1 })).nextRun cl i { d with started := true } := by
  rw [← takesHandles_cycles s d, State.copyStart, here]
  rfl

/-- A command that runs does not start. -/
theorem copyStartable_running (running : d.st = .running) : s.copyStartable cl i = false := by
  have other : (d.st == .read) = false := by rw [running]; rfl
  rw [State.copyStartable, here]
  simp only [other, Bool.and_false, Bool.false_and]

section
variable (running : d.st = .running)
include running

theorem copyGo_next {k : Nat} (written : d.pend = []) (free : s.sourceHeld d d.run = false) : s.copyGo cl i k = some (s.nextRun cl i d) := by
  have runs : ¬(d.st != .running) = true := by rw [running]; decide
  rw [State.copyGo, here]
  dsimp only
  rw [if_neg runs, written, free]
  rfl

section
variable (unwritten : d.pend ≠ []) (due : d.due ≤ s.cycles)
include unwritten due

/-- A run whose pieces are all to be written now. -/
theorem copyGo_writes : s.copyGo cl i 0 = match copyWrite d d.pend s with
    | (t, _, some c) => some (t.updCmd cl i (fun _ => { d with st := .arriving, status := c, pend := [] }))
    | (t, left, none) =>
      if left.length = d.pend.length then none
      else if (left ++ d.pend.drop d.pend.length).isEmpty && decide (d.runs ≤ d.run + 1) then
        some (t.updCmd cl i (fun _ => { d with st := .arriving, pend := [], run := d.run + 1, due := s.cycles + 20 }))
      else some (t.updCmd cl i (fun _ => { d with
        pend := left ++ d.pend.drop d.pend.length, run := if (left ++ d.pend.drop d.pend.length).isEmpty then d.run + 1 else d.run })) := by
  have runs : ¬(d.st != .running) = true := by rw [running]; decide
  have some_ : ¬d.pend.isEmpty = true := mt List.isEmpty_iff.1 unwritten
  rw [State.copyGo, here]
  dsimp only
  rw [if_neg runs, if_neg some_, if_neg (Nat.not_lt.2 due)]
  rfl

theorem copyGo_written {t : State} (write : copyWrite d d.pend s = (t, [], none)) : s.copyGo cl i 0 =
    some (t.updCmd cl i (fun _ => if d.runs ≤ d.run + 1
      then { d with st := .arriving, pend := [], run := d.run + 1, due := s.cycles + 20 } else { d with pend := [], run := d.run + 1 })) := by
  have moved : ¬([] : List CopyPiece).length = d.pend.length := fun h => unwritten (List.eq_nil_of_length_eq_zero h.symm)
  have all : ([] : List CopyPiece) ++ d.pend.drop d.pend.length = [] := by rw [List.drop_length]; rfl
  rw [copyGo_writes here running unwritten due, write]
  dsimp only
  rw [if_neg moved, all]
  by_cases last : d.runs ≤ d.run + 1 <;> simp [last]

theorem copyGo_fails {t : State} {l : List CopyPiece} {c : Nat} (write : copyWrite d d.pend s = (t, l, some c)) : s.copyGo cl i 0 =
    some (t.updCmd cl i (fun _ => { d with st := .arriving, status := c, pend := [] })) := by
  rw [copyGo_writes here running unwritten due, write]

end

end

end

/-! Arrivals (R156, R234). -/

/-- The arrival of receiver `j`, whose sync word is at `r`, with `t` the state so far. -/
def State.sendsArrival (t : State) (cl i : Nat) (d : CopyCmd) (r : Word × Word) (j : Nat) : State :=
  if r.2.toNat = 0 then t
  else
    match (if r.2.toNat < 2 ^ 52 ∨ spaceOf r.2.toNat = .none then some (cPerm, r.2)
      else t.engFault { d.who with node := 0 } r.2.toNat 16 true false (t.maskOk d.core r.2.toNat)) with
    | some e => t.updCmd cl i (fun d => { d with fails := d.fails ++ [(j, e.1)] })
    | none => (t.send (16384 + cl) (t.homeOf d.pid r.2.toNat) (t.cycles + 20) (.arrive cl d.cid j r.2 d.bytes)).updCmd cl i
        (fun d => { d with sent := d.sent + 1 })

section
variable {t : State} {cl i : Nat} {d : CopyCmd} {r : Word × Word}

theorem sendsArrival_nowhere (nowhere : r.2 = 0) (j : Nat) : t.sendsArrival cl i d r j = t := by
  rw [State.sendsArrival, nowhere]
  rfl

theorem sendsArrival_sent (somewhere : r.2 ≠ 0) (window : 2 ^ 52 ≤ r.2.toNat) (mapped : spaceOf r.2.toNat ≠ .none)
    (allowed : t.engFault { d.who with node := 0 } r.2.toNat 16 true false (t.maskOk d.core r.2.toNat) = none) (j : Nat) :
    t.sendsArrival cl i d r j = (t.send (16384 + cl) (t.homeOf d.pid r.2.toNat) (t.cycles + 20) (.arrive cl d.cid j r.2 d.bytes)).updCmd cl i
      (fun d => { d with sent := d.sent + 1 }) := by
  have reachable : ¬(r.2.toNat < 2 ^ 52 ∨ spaceOf r.2.toNat = .none) := by
    rintro (virtual | hole)
    · exact Nat.not_le.2 virtual window
    · exact mapped hole
  have placed : ¬r.2.toNat = 0 := BitVec.toNat_ne_iff_ne.2 somewhere
  rw [State.sendsArrival, if_neg placed, if_neg reachable, allowed]

theorem sendsArrival_refused (somewhere : r.2 ≠ 0) (unreachable : r.2.toNat < 2 ^ 52 ∨ spaceOf r.2.toNat = .none)
    (j : Nat) : t.sendsArrival cl i d r j = t.updCmd cl i (fun d => { d with fails := d.fails ++ [(j, cPerm)] }) := by
  have placed : ¬r.2.toNat = 0 := BitVec.toNat_ne_iff_ne.2 somewhere
  rw [State.sendsArrival, if_neg placed, if_pos unreachable]

end

section
variable {s : State} {cl i : Nat} {d : CopyCmd} (here : s.cmd cl i = some d)
include here

theorem copyArrivable_sound (arriving : d.st = .arriving) (started : d.started = true) (sound : d.status = 0) : s.copyArrivable cl i = true := by
  rw [State.copyArrivable, here]
  simp [arriving, started, sound]

/-- A command's arrivals leave one after another, in the order of its receivers. -/
theorem copyArrive_eq : s.copyArrive cl i = (d.recv.foldl (fun (st : State × Nat) r => (st.1.sendsArrival cl i d r st.2, st.2 + 1))
    (s.updCmd cl i (fun d => { d with st := .done }), 0)).1 := by
  rw [State.copyArrive, here]
  dsimp only
  congr 2
  funext ⟨t, j⟩ r
  dsimp only
  unfold State.sendsArrival
  by_cases nowhere : r.2.toNat = 0
  · rw [if_pos nowhere, if_pos nowhere]
  · rw [if_neg nowhere, if_neg nowhere]
    cases (if r.2.toNat < 2 ^ 52 ∨ spaceOf r.2.toNat = .none then some (cPerm, r.2)
      else t.engFault { d.who with node := 0 } r.2.toNat 16 true false (t.maskOk d.core r.2.toNat)) <;> rfl

theorem copyArrive_nowhere (nowhere : ∀ r ∈ d.recv, r.2 = 0) : s.copyArrive cl i = s.updCmd cl i (fun d => { d with st := .done }) := by
  rw [copyArrive_eq here]
  generalize s.updCmd cl i (fun d => { d with st := .done }) = t
  generalize 0 = j
  generalize d.recv = l at nowhere ⊢
  induction l generalizing j with
  | nil => rfl
  | cons r l ih =>
    rw [List.foldl_cons, sendsArrival_nowhere (nowhere r List.mem_cons_self)]
    exact ih (j + 1) (fun q hq => nowhere q (List.mem_cons_of_mem r hq))

theorem copyArrive_single {r : Word × Word} (single : d.recv = [r]) :
    s.copyArrive cl i = (s.updCmd cl i (fun d => { d with st := .done })).sendsArrival cl i d r 0 := by
  rw [copyArrive_eq here, single]
  rfl

end

/-- Serving a waiter takes no time. -/
theorem serve_cycles (s : State) (w : Waiter) (v : Nat) (bad : Bool) : (s.serve w v bad).cycles = s.cycles := by
  unfold State.serve
  split
  · rfl
  · split <;> rfl

theorem swPass_cycles (s : State) (a gen : Nat) : (s.swPass a gen).cycles = s.cycles := by
  unfold State.swPass
  dsimp only
  generalize s.waiters.filter _ = l
  induction l generalizing s with
  | nil => rfl
  | cons w l ih => rw [List.foldl_cons, ih, serve_cycles]

theorem syncArrive_cycles {s t : State} {a n gen : Nat} (h : s.syncArrive a n = some (t, gen)) : t.cycles = s.cycles := by
  unfold State.syncArrive at h
  dsimp only at h
  split at h
  · cases h
  · obtain ⟨rfl, -⟩ := Prod.mk.inj (Option.some.inj h)
    exact swPass_cycles _ _ _

/-- An arrival whose sync word takes it counts as arrived for the command that sent it. -/
theorem arrival_taken {s t : State} {k cl cid j n gen : Nat} {a : Word} {p : Pkt} (packet : nth s.net k = some p)
    (body : p.body = .arrive cl cid j a n) (turn : s.performable k = true) (free : s.cHeld a.toNat 16 p.sentAt 4096 16 = false)
    (sound : s.win.firstBad a.toNat 16 = none) (taken : (s.dropPkt k).syncArrive a.toNat n = some (t, gen)) :
    s.arrival k = t.updCluster cl (fun c => { c with
      cmds := updIf (fun d => d.cid == cid) (fun d => { d with arrived := d.arrived + 1, due := s.cycles + 20 }) c.cmds }) := by
  have now : t.cycles = s.cycles := by
    rw [syncArrive_cycles taken]
    rfl
  rw [State.arrival, packet]
  dsimp only
  rw [body]
  dsimp only
  rw [turn, free, sound, taken]
  simp [now]

/-! Completion (R233, R237). -/

section
variable {s : State} {cl i : Nat} {d : CopyCmd} (here : s.cmd cl i = some d)
include here

/-- A command that is complete gives its handles back, leaves its engine, and reports its element to whoever waits for it. -/
theorem copyDone_eq : s.copyDone cl i =
    let last := (if d.started = true then s.givesHandles d else s).updCluster cl (fun c => { c with cmds := delNth c.cmds i })
    if d.gone then last
    else
      match d.op with
      | some op => last.updDet d.core d.ctx op (fun o => { o with
          st := .done, left := 0, vals := [(codeAt o.iw 0, (BitVec.ofNat 64 d.element).setWidth 1024)] })
      | none => last.element d.core d.ctx 1 true (BitVec.ofNat 64 d.element) := by
  rw [State.copyDone, here]
  dsimp only
  cases d.started <;> rfl

end

section
variable {s : State}

theorem exec_copyRunStart_starts (h : s.copyStartable s.ev.cluster s.ev.i = true) :
    exec .copyRunStart s = .next (s.copyStart s.ev.cluster s.ev.i) := by
  change execCopyRunStart s = _
  rw [execCopyRunStart, if_pos h]

theorem exec_copyRunStart_goes {t : State} (h : s.copyStartable s.ev.cluster s.ev.i = false)
    (goes : s.copyGo s.ev.cluster s.ev.i s.ev.k = some t) : exec .copyRunStart s = .next t := by
  change execCopyRunStart s = _
  rw [execCopyRunStart, h, goes]
  rfl

theorem exec_copyArrivalSend (h : s.copyArrivable s.ev.cluster s.ev.i = true) :
    exec .copyArrivalSend s = .next (s.copyArrive s.ev.cluster s.ev.i) := by
  change execCopyArrivalSend s = _
  rw [execCopyArrivalSend, if_pos h]

theorem exec_copyCompletion (h : s.copyComplete s.ev.cluster s.ev.i = true) :
    exec .copyCompletion s = .next (s.copyDone s.ev.cluster s.ev.i) := by
  change execCopyCompletion s = _
  rw [execCopyCompletion, if_pos h]

end

/-- Settles O41: instructions by the checks of their record's address, the engine by what each of its steps does to the command. -/
theorem copyEngine : Obligations.CopyEngine := by
  refine ⟨fun f => ?issue, fun s d => ?engine⟩
  case issue =>
    intro a room hosted aligned hole copies
    have command {i : Instr} {minor : Nat} (hx : ∀ s, exec i s = issue i s (copyIssue i f minor)) : copies i minor :=
      ⟨does_copy hx, awaits_copy hx, faults_copy_unaligned hx, faults_copy_hole hx, faults_copy_hosted hx⟩
    exact ⟨command fun _ => rfl, command fun _ => rfl, command fun _ => rfl⟩
  case engine =>
    intro cl i p here
    have next {u v : State} (h : u = v) : (Host.Outcome.next u : Host.Outcome State Fault Refusal) = .next v := congrArg _ h
    refine ⟨exec_copyCommandAccept, fun startable => ?starts, nextRun_none, fun t pend fl => nextRun_starts, fun t c => nextRun_fails,
      fun running written free => ?next, fun t running unwritten due all write => ?written, fun t l c running unwritten due all write => ?fails,
      fun arriving started sound => ?arrivals, fun q cid j a n t g packet body turn free sound taken => ?arrival, fun complete => ?completion⟩
    case starts => exact (exec_copyRunStart_starts startable).trans (next (copyStart_eq here))
    case next => exact exec_copyRunStart_goes (copyStartable_running here running) (copyGo_next here running written free)
    case written =>
      refine exec_copyRunStart_goes (copyStartable_running here running) ?_
      rw [all]
      exact copyGo_written here running unwritten due write
    case fails =>
      refine exec_copyRunStart_goes (copyStartable_running here running) ?_
      rw [all]
      exact copyGo_fails here running unwritten due write
    case arrivals =>
      have sends := exec_copyArrivalSend (copyArrivable_sound here arriving started sound)
      exact ⟨fun nowhere => sends.trans (next (copyArrive_nowhere here nowhere)),
        fun r single somewhere window mapped allowed =>
          sends.trans (next ((copyArrive_single here single).trans (sendsArrival_sent somewhere window mapped allowed 0))),
        fun r single somewhere unreachable =>
          sends.trans (next ((copyArrive_single here single).trans (sendsArrival_refused somewhere unreachable 0)))⟩
    case arrival => exact next (arrival_taken packet body turn free sound taken)
    case completion =>
      have completes := (exec_copyCompletion complete).trans (next (copyDone_eq here))
      refine ⟨fun gone => completes.trans (next ?_), fun stays pushed => completes.trans (next ?_),
        fun op stays issued => completes.trans (next ?_)⟩
      · exact if_pos gone
      · rw [stays, pushed]
        rfl
      · rw [stays, issued]
        rfl

end Sys2Proof.Machine
end

section
/-!
SUPPORT. Spawning, joining and ending (R255 to R260): what each instruction does once its operands are read, and the push of a `fork`
at its retirement.
-/
namespace Sys2Proof.Machine

/-! `spawn` and `fork` (R256, R257). -/

theorem accesses_spawn (f : Fields) : Accesses (.spawn f) (fun s => s.gr f.a) 64 false (fun _ => True)
    (fun s sh => s.detachReq (.spawn f) sh (s.reqOf .load (s.gr f.a) 64) 0 false) := by
  refine ⟨does_kept (fun _ => rfl) (fun sh s h ok => ?goes) (fun _ _ => keepsStrand_detachReq ..), fun c b => faults_of (fun _ => rfl) fun sh s h bad => ?faults⟩
  case goes =>
    dsimp only
    rw [h.gOp, ok.1]
  case faults =>
    dsimp only
    rw [h.gOp, bad]
    rfl

/-- The record of a `fork`, from what its registers hold: the counter that it names, if any, and six registers from the first on. -/
def State.forked (f : Fields) (s : State) : Record :=
  mkRecord (branchTarget f s) (f.o.getLsbD 0) false (f.a != 0) s.me.hypCur.toNat
    (if f.a = 0 then 0 else ((s.gr f.a).toNat - clusBase) % 2 ^ 23 / 8) (if f.a = 0 then 0 else ((s.gr f.a).toNat - clusBase) / 2 ^ 23)
    (if f.d = 0 then [] else (List.range 6).map (fun j => (f.d.toNat + j, s.gReg (f.d.toNat + j)))) 0

theorem Issues.forkRecord {i : Instr} {sh : Shape} {s : State} (h : Issues i sh s) (f : Fields) :
    (s.begun sh).forkRecord f = (s.begun sh).forked f := by
  have target : relTarget (s.begun sh).pcNow f.imm = branchTarget f (s.begun sh) := relTarget_eq f ((begun_me_rett s sh).trans h.fresh)
  have first (j : Nat) : (if j = 0 then (s.begun sh).gr f.d else (s.begun sh).gReg (f.d.toNat + j)) = (s.begun sh).gReg (f.d.toNat + j) :=
    ite_eq_right_iff.2 fun zero => by
      rw [zero]
      rfl
  unfold State.forkRecord State.forked
  simp only [h.gOp, first, target, bne_iff_ne, ne_eq, ite_not]

/-- What a `fork` leaves to be pushed once it has left stage 8 (R9, R257). -/
def State.forks (f : Fields) (s : State) (sh : Shape) : State :=
  s.atRetire sh (.fork (s.forked f) { slot := 0, mt := s.me.mt.child, takeable := (s.pushAfter s.cur s.cx s.me.nextId).isEmpty
                                      after := s.pushAfter s.cur s.cx s.me.nextId })

theorem does_fork (f : Fields) : Does (.fork f) (fun s => f.a = 0 ∨ s.counterFault (s.gr f.a) = none) (State.forks f) := by
  refine does_kept (fun _ => rfl) (fun sh s h sound => ?_) (fun sh s => keepsStrand_atRetire s sh _)
  have passes : (if f.a = 0 then none else (s.begun sh).counterFault ((s.begun sh).gr f.a)) = none := by
    rcases sound with plain | sound
    · exact if_pos plain
    · rw [sound, ite_self]
  dsimp only
  rw [h.gOp, passes, h.forkRecord]
  rfl

theorem faults_fork {f : Fields} (counted : f.a ≠ 0) (c : Nat) (b : Word) :
    Faults (.fork f) (fun s => s.counterFault (s.gr f.a) = some (c, b)) c (fun _ => b) :=
  faults_of (fun _ => rfl) fun sh s h bad => by
    dsimp only
    rw [h.gOp, if_neg counted, bad]
    rfl

/-! What has left stage 8 (R251). -/

theorem not_dequeFull_iff (k : Core) : k.dequeFull = false ↔ k.deque.length < k.spawnLim.toNat := by
  rw [Core.dequeFull, decide_eq_false_iff_not, not_le]

theorem State.deque_notRetired (s : State) (c : Nat) (p : Retiring) (code : Nat) (a : Word) :
    ((s.notRetired c p code a).core c).deque = (s.core c).deque := by
  have at_any_ck (u : State) (n : Nat) : ({ u with cycles := n } : State).core c = u.core c := rfl
  rw [State.notRetired_eq, at_any_ck, State.report, State.updCtx_core_deque, at_any_ck, State.uncounted, State.core_updCore_self,
    Core.dropClears, State.updCtx_core_deque]

/-- The fault of an instruction that turns out to fault as it would retire is its own, and is reported in the ck of its stage 8. -/
theorem State.mem_faults_notRetired (s : State) (c : Nat) (p : Retiring) (code : Nat) (a : Word) :
    { p.info with code, addr := a, cyc := s.cycles - 1 } ∈ ((s.notRetired c p code a).ctx c p.ctx).faults :=
  faults_report ({ s.uncounted c p with cycles := s.cycles - 1 : State }) c p.ctx _

section
variable {s : State} {c : Nat} {p : Retiring} {rcd : Record} {ent : DqEnt} (single : (s.core c).retiring = [p]) (due : p.due ≤ s.cycles)
  (act : p.act = .fork rcd ent)
include single due act

theorem actsNow_fork_pushes (room : (s.core c).deque.length < (s.core c).spawnLim.toNat) :
    s.actsNow c = (s.updCore c (fun k => { k with retiring := [] })).pushRec c rcd ent true := by
  have free : ((s.updCore c (fun k => { k with retiring := [] })).core c).dequeFull = false := by
    rw [State.core_updCore_self]
    exact (not_dequeFull_iff _).2 room
  rw [State.actsNow_single single due, State.actNow, act]
  exact if_neg (Bool.eq_false_iff.1 free)

theorem actsNow_fork_full (full : (s.core c).spawnLim.toNat ≤ (s.core c).deque.length) :
    s.actsNow c = (s.updCore c (fun k => { k with retiring := [] })).notRetired c p cSpawnLimit 0 := by
  have stuck : ((s.updCore c (fun k => { k with retiring := [] })).core c).dequeFull = true := by
    rw [State.core_updCore_self]
    exact (dequeFull_iff _).2 (not_lt.2 full)
  rw [State.actsNow_single single due, State.actNow, act]
  exact if_pos stuck

end

/-! `join` (R259). -/

/-- A joining strand has sent its record to the counter at `a`. -/
def State.joinsAt (s : State) (sh : Shape) (a m : Word) : State :=
  (s.send (8192 + s.cur) (s.homeOf (s.pidOf s.cur) a.toNat) (s.cycles + 40) (.join s.cur s.cx a (s.susRecord (maskRegs m 0)) s.me.mt)).updMe
    (fun k => { k with st := .waiting .atHome s.cycles, sent := some (s.issueFaultInfo (some sh) cIllegal a 0 0, s.succ) })

def joinBody (f : Fields) (s : State) (sh : Shape) : Eff :=
  if overMask (s.gOp 2 f.b) 6 0 then .flt cIllegal 0
  else
    match s.counterFault (s.gOp 1 f.a) with
    | some (c, b) => .flt c b
    | none => s.suspending (maskRegs (s.gOp 2 f.b) 0) (.left (s.joinsAt sh (s.gOp 1 f.a) (s.gOp 2 f.b)))

theorem exec_join (f : Fields) (s : State) : exec (.join f) s = issue (.join f) s (joinBody f) := rfl

/-- Whether a `join` passes its checks. -/
abbrev Joins (f : Fields) (s : State) : Prop := overMask (s.gr f.b) 6 0 = false ∧ s.counterFault (s.gr f.a) = none

/-- A `join` that passes its checks suspends. -/
theorem joinBody_suspends {i : Instr} {sh : Shape} {s : State} (h : Issues i sh s) {f : Fields} (joins : Joins f (s.begun sh)) :
    joinBody f (s.begun sh) sh = (s.begun sh).suspending (maskRegs ((s.begun sh).gr f.b) 0)
      (.left ((s.begun sh).joinsAt sh ((s.begun sh).gr f.a) ((s.begun sh).gr f.b))) := by
  obtain ⟨fits, sound⟩ := joins
  rw [joinBody, h.gOp, h.gOp, if_neg (Bool.eq_false_iff.1 fits), sound]

theorem departs_join (f : Fields) : Departs (.join f)
    (fun s => Joins f s ∧ s.me.settled = true ∧ s.badCarried (maskRegs (s.gr f.b) 0) = none)
    (fun s sh => s.joinsAt sh (s.gr f.a) (s.gr f.b)) :=
  departs_of (exec_join f) fun sh s h ⟨joins, settled, sound⟩ => by rw [joinBody_suspends h joins, suspending_sound _ settled sound]

theorem carriesSound_join (f : Fields) :
    CarriesSound (.join f) (fun s => Joins f s ∧ s.me.settled = true) (fun s => maskRegs (s.gr f.b) 0) :=
  carriesSound_of (leave := fun s sh => .left (s.joinsAt sh (s.gr f.a) (s.gr f.b))) (exec_join f)
    fun _ _ h ⟨joins, settled⟩ => ⟨settled, joinBody_suspends h joins⟩

theorem awaits_join (f : Fields) : Awaits (.join f) (fun s => Joins f s ∧ s.me.settled = false) (fun _ => .settle) :=
  awaits_of (exec_join f) fun sh s h ⟨joins, unsettled⟩ => by rw [joinBody_suspends h joins, suspending_unsettled _ unsettled]

theorem faults_join_mask (f : Fields) : Faults (.join f) (fun s => overMask (s.gr f.b) 6 0 = true) cIllegal (fun _ => 0) :=
  faults_of (exec_join f) fun sh s h many => by
    rw [joinBody, h.gOp, if_pos many]
    rfl

/-! `jinit` (R258). -/

/-- The word of a `jinit` has the form of a counter, at an address that may hold one. -/
abbrev CounterSound (f : Fields) (s : State) : Prop := (s.gr f.b).toNat / 2 ^ 49 % 2 ^ 14 = 0 ∧ s.counterFault (s.gr f.a) = none

theorem counterForm {v : Word} (form : v.toNat / 2 ^ 49 % 2 ^ 14 = 0) : ¬(fld v 49 14 != 0) = true := by
  rw [fld_eq, form]
  exact Bool.false_ne_true

theorem does_jinit (f : Fields) : Does (.jinit f) (fun s => CounterSound f s ∧ s.me.hypCur = 0 ∧ s.me.posted.length < 32)
    (fun s sh => s.postReq (.jinit f) sh { s.reqOf .store (s.gr f.a) 8 with data := setFld (s.gr f.b) 63 1 0 }) :=
  does_kept (fun _ => rfl) (fun sh s h ⟨⟨form, sound⟩, root, room⟩ => by
    dsimp only
    rw [h.gOp, h.gOp, if_neg (counterForm form), sound, root, bne_self_eq_false, if_neg Bool.false_ne_true, if_neg (Nat.not_le.2 room)]) fun _ _ => keepsStrand_postReq ..

theorem faults_jinit_node (f : Fields) : Faults (.jinit f) (fun s => CounterSound f s ∧ s.me.hypCur ≠ 0) cPerm (fun s => s.gr f.a) :=
  faults_of (fun _ => rfl) fun sh s h ⟨⟨form, sound⟩, node⟩ => by
    dsimp only
    rw [h.gOp, h.gOp, if_neg (counterForm form), sound]
    exact if_pos (bne_iff_ne.2 node)

/-! `exit` and `halt` (R260, R324): a strand that ends has nothing outstanding. -/

theorem drained_iff (k : Ctx) : k.drained = true ↔ k.outst = [] ∧ k.posted = [] := by
  rw [Ctx.drained, Bool.and_eq_true, List.isEmpty_iff, List.isEmpty_iff]

section
variable {i : Instr} {decrement : Bool} (hx : ∀ s, exec i s = issue i s (fun s _ =>
  if s.me.drained then .left (s.exitStrand s.cur s.cx decrement) else .wait .drain))
include hx

theorem departs_ending : Departs i (fun s => s.me.outst = [] ∧ s.me.posted = []) (fun s _ => s.exitStrand s.cur s.cx decrement) :=
  departs_of hx fun _ _ _ quiet => if_pos ((drained_iff _).2 quiet)

theorem awaits_ending : Awaits i (fun s => ¬(s.me.outst = [] ∧ s.me.posted = [])) (fun _ => .drain) :=
  awaits_of hx fun _ _ _ busy => if_neg (busy ∘ (drained_iff _).1)

end

/-- Settles O22: instructions by what their operands allow, `fork` once more by what its retirement finds of the deque. -/
theorem spawnForkJoinExit : Obligations.SpawnForkJoinExit := by
  intro f
  refine ⟨accesses_spawn f, does_fork f, faults_fork, fun s c p rcd ent single due act => ⟨actsNow_fork_pushes single due act, fun full => ?full⟩,
    departs_join f, carriesSound_join f, awaits_join f, faults_join_mask f, does_jinit f, faults_jinit_node f, departs_ending fun _ => rfl,
    awaits_ending fun _ => rfl⟩
  case full =>
    rw [actsNow_fork_full single due act full]
    refine ⟨?_, _, State.mem_faults_notRetired _ c p cSpawnLimit 0, rfl, rfl, rfl, rfl⟩
    rw [State.deque_notRetired, State.core_updCore_self]

end Sys2Proof.Machine
end

section
/-!
SUPPORT. Migration (R263 to R265): an `ld.m` by where its address lies, and a `mig` by the core that it names.
-/
namespace Sys2Proof.Machine

/-! `ld.m` (R263, R264). -/

/-- The address of an `ld.m`: a base and a signed immediate. -/
def ldmAddress (f : Fields) (s : State) : Word := BitVec.ofInt 64 ((s.gr f.a).toNat + f.imm.toInt)

/-- An address in the local memory of core `c`, another one than the strand's, and not in its system part. -/
def LiesAt (s : State) (ea : Word) (c : Nat) : Prop := ∃ w, spaceOf ea.toNat = .loc c w ∧ c ≠ s.cur ∧ w ≠ 3

/-- A load in place, once the checks of the address alone have passed. -/
def ldmHere (f : Fields) (ea : Word) (s : State) (sh : Shape) : Eff :=
  match s.windowBad ea.toNat (2 ^ f.o.toNat) false with
  | some b => .flt cUncorrectable b
  | none => .done (s.detachReq (.ldM f) sh (s.reqOf .load ea (2 ^ f.o.toNat)) 0 false)

/-- The strand leaves for its data, with the load that its packet completes. -/
def State.leavesForData (f : Fields) (ea m pc : Word) (s : State) (sh : Shape) (c : Nat) : State :=
  s.leaveFor sh c 0 ea f.d.toNat f.o.toNat (maskRegs m f.d.toNat) (some { code := 0, pc, iw := s.iw, caps := s.capture sh })

/-- A load of what another core holds. -/
def ldmAway (f : Fields) (ea m pc : Word) (s : State) (sh : Shape) (c : Nat) : Eff :=
  if overMask m 8 f.d.toNat then .flt cIllegal 0
  else s.suspending (maskRegs m f.d.toNat) (.left (s.leavesForData f ea m pc sh c))

/-- An `ld.m` with its operands read. -/
def ldmOn (f : Fields) (ea m pc : Word) (s : State) (sh : Shape) : Eff :=
  match s.accessFault (s.myWho .strand) ea (2 ^ f.o.toNat) (2 ^ f.o.toNat) false with
  | some (c, b) => .flt c b
  | none =>
    match spaceOf ea.toNat with
    | .loc c b => if c = s.cur || b = 3 then ldmHere f ea s sh else ldmAway f ea m pc s sh c
    | _ => ldmHere f ea s sh

def ldmBody (f : Fields) (s : State) (sh : Shape) : Eff := ldmOn f (s.gOp 1 f.a + immS f) (s.gOp 2 f.b) s.pcNow s sh

theorem exec_ldM (f : Fields) (s : State) : exec (.ldM f) s = issue (.ldM f) s (ldmBody f) := rfl

theorem Issues.ldmBody {i : Instr} {sh : Shape} {s : State} (h : Issues i sh s) (f : Fields) :
    ldmBody f (s.begun sh) sh = ldmOn f (ldmAddress f (s.begun sh)) ((s.begun sh).gr f.b) (s.begun sh).me.pc (s.begun sh) sh := by
  have address : (s.begun sh).gOp 1 f.a + immS f = ldmAddress f (s.begun sh) := by
    rw [h.gOp, immS_eq, ldmAddress, BitVec.ofInt_add, BitVec.ofInt_natCast, BitVec.ofNat_toNat, BitVec.setWidth_eq]
  rw [Machine.ldmBody, address, h.gOp, State.pcNow, h.replay]

section
variable {f : Fields} {ea m pc : Word} {s : State} {sh : Shape}

theorem ldmOn_faults {e : Flt} (bad : s.accessFault (s.myWho .strand) ea (2 ^ f.o.toNat) (2 ^ f.o.toNat) false = some e) :
    ldmOn f ea m pc s sh = .flt e.1 e.2 := by rw [ldmOn, bad]

theorem ldmOn_away (ok : s.accessFault (s.myWho .strand) ea (2 ^ f.o.toNat) (2 ^ f.o.toNat) false = none) {c : Nat} (away : LiesAt s ea c) :
    ldmOn f ea m pc s sh = ldmAway f ea m pc s sh c := by
  obtain ⟨w, space, other, user⟩ := away
  rw [ldmOn, ok, space]
  exact if_neg (by simp [other, user])

/-- What no other core holds in reach is loaded in place, or faults there. -/
theorem ldmOn_here (near : ¬∃ c, LiesAt s ea c) : ldmOn f ea m pc s sh =
    match s.issueFault (s.myWho .strand) ea (2 ^ f.o.toNat) (2 ^ f.o.toNat) false with
    | some (c, b) => .flt c b
    | none => .done (s.detachReq (.ldM f) sh (s.reqOf .load ea (2 ^ f.o.toNat)) 0 false) := by
  have stays (c w : Nat) (space : spaceOf ea.toNat = .loc c w) : (decide (c = s.cur) || decide (w = 3)) = true := by
    by_contra out
    rw [Bool.or_eq_true, decide_eq_true_eq, decide_eq_true_eq, not_or] at out
    exact near ⟨c, w, space, out⟩
  have inPlace : (match spaceOf ea.toNat with
      | .loc c b => if c = s.cur || b = 3 then ldmHere f ea s sh else ldmAway f ea m pc s sh c
      | _ => ldmHere f ea s sh) = ldmHere f ea s sh := by
    split
    case h_1 c w space => exact if_pos (stays c w space)
    case h_2 => rfl
  rw [ldmOn, State.issueFault]
  cases s.accessFault (s.myWho .strand) ea (2 ^ f.o.toNat) (2 ^ f.o.toNat) false with
  | some e => rfl
  | none =>
    refine inPlace.trans ?_
    rw [ldmHere]
    cases s.windowBad ea.toNat (2 ^ f.o.toNat) false <;> rfl

theorem ldmAway_suspends (fits : overMask m 8 f.d.toNat = false) {c : Nat} :
    ldmAway f ea m pc s sh c = s.suspending (maskRegs m f.d.toNat) (.left (s.leavesForData f ea m pc sh c)) :=
  if_neg (Bool.eq_false_iff.1 fits)

end

section
variable (f : Fields)

/-- The checks of the address alone pass. -/
abbrev LdmSound (s : State) : Prop := s.accessFault (s.myWho .strand) (ldmAddress f s) (2 ^ f.o.toNat) (2 ^ f.o.toNat) false = none

/-- An `ld.m` that leaves for its data once its strand is settled. -/
abbrev LdmLeaves (s : State) : Prop :=
  LdmSound f s ∧ (∃ c, LiesAt s (ldmAddress f s) c) ∧ overMask (s.gr f.b) 8 f.d.toNat = false

theorem does_ldM : Does (.ldM f)
    (fun s => s.issueFault (s.myWho .strand) (ldmAddress f s) (2 ^ f.o.toNat) (2 ^ f.o.toNat) false = none ∧ ¬∃ c, LiesAt s (ldmAddress f s) c)
    (fun s sh => s.detachReq (.ldM f) sh (s.reqOf .load (ldmAddress f s) (2 ^ f.o.toNat)) 0 false) :=
  does_kept (exec_ldM f) (fun sh s h ⟨allowed, near⟩ => by rw [h.ldmBody, ldmOn_here near, allowed]) fun _ _ => keepsStrand_detachReq ..

theorem faults_ldM_here (c : Nat) (b : Word) : Faults (.ldM f)
    (fun s => s.issueFault (s.myWho .strand) (ldmAddress f s) (2 ^ f.o.toNat) (2 ^ f.o.toNat) false = some (c, b) ∧
      ¬∃ c, LiesAt s (ldmAddress f s) c) c (fun _ => b) :=
  faults_of (exec_ldM f) fun sh s h ⟨bad, near⟩ => by
    rw [h.ldmBody, ldmOn_here near, bad]
    rfl

theorem faults_ldM_address (c : Nat) (b : Word) : Faults (.ldM f)
    (fun s => s.accessFault (s.myWho .strand) (ldmAddress f s) (2 ^ f.o.toNat) (2 ^ f.o.toNat) false = some (c, b)) c (fun _ => b) :=
  faults_of (exec_ldM f) fun sh s h bad => by
    rw [h.ldmBody, ldmOn_faults bad]
    rfl

theorem departs_ldM (c : Nat) : Departs (.ldM f)
    (fun s => LdmLeaves f s ∧ LiesAt s (ldmAddress f s) c ∧ s.me.settled = true ∧ s.badCarried (maskRegs (s.gr f.b) f.d.toNat) = none)
    (fun s sh => s.leavesForData f (ldmAddress f s) (s.gr f.b) s.me.pc sh c) :=
  departs_of (exec_ldM f) fun sh s h ⟨⟨ok, _, fits⟩, away, settled, sound⟩ => by
    rw [h.ldmBody, ldmOn_away ok away, ldmAway_suspends fits, suspending_sound _ settled sound]

theorem faults_ldM_mask : Faults (.ldM f)
    (fun s => LdmSound f s ∧ (∃ c, LiesAt s (ldmAddress f s) c) ∧ overMask (s.gr f.b) 8 f.d.toNat = true) cIllegal (fun _ => 0) :=
  faults_of (exec_ldM f) fun sh s h ⟨ok, ⟨c, away⟩, many⟩ => by
    rw [h.ldmBody, ldmOn_away ok away, ldmAway, if_pos many]
    rfl

theorem awaits_ldM : Awaits (.ldM f) (fun s => LdmLeaves f s ∧ s.me.settled = false) (fun _ => .settle) :=
  awaits_of (exec_ldM f) fun sh s h ⟨⟨ok, ⟨c, away⟩, fits⟩, unsettled⟩ => by
    rw [h.ldmBody, ldmOn_away ok away, ldmAway_suspends fits, suspending_unsettled _ unsettled]

/-- The data's core decides where the strand goes, not whether a register fails. -/
theorem carriesSound_ldM :
    CarriesSound (.ldM f) (fun s => LdmLeaves f s ∧ s.me.settled = true) (fun s => maskRegs (s.gr f.b) f.d.toNat) := by
  intro sh s j h ⟨⟨ok, ⟨c, away⟩, fits⟩, settled⟩ bad
  have sel : (s.begun sh).bankSel j = s.bankSel j := begun_bankSel s sh j
  exact exec_trap (exec_ldM f) h (by rw [h.ldmBody, ldmOn_away ok away, ldmAway_suspends fits, suspending_unsound _ settled bad, sel])

end

/-! `mig` (R265). -/

def migBody (f : Fields) (s : State) (sh : Shape) : Eff :=
  if fld (s.gOp 1 f.a) 0 12 = s.cur then .done s
  else if overMask (s.gOp 2 f.b) 8 0 then .flt cIllegal 0
  else if s.unavail (fld (s.gOp 1 f.a) 0 12) then .flt cWindow (BitVec.ofNat 64 (locBase + fld (s.gOp 1 f.a) 0 12 * 2 ^ 20))
  else if !s.inPart (s.pidOf s.cur) (fld (s.gOp 1 f.a) 0 12) then .flt cPerm (BitVec.ofNat 64 (locBase + fld (s.gOp 1 f.a) 0 12 * 2 ^ 20))
  else s.suspending (maskRegs (s.gOp 2 f.b) 0) (.left (s.leaveFor sh (fld (s.gOp 1 f.a) 0 12) 1 0 0 0 (maskRegs (s.gOp 2 f.b) 0) none))

theorem exec_mig (f : Fields) (s : State) : exec (.mig f) s = issue (.mig f) s (migBody f) := rfl

section
variable (f : Fields)

/-- The core that a `mig` names. -/
def migCore (s : State) : Nat := (s.gr f.a).toNat % 2 ^ 12

/-- A `mig` that leaves once its strand is settled. -/
abbrev Migrates (s : State) : Prop :=
  migCore f s ≠ s.cur ∧ overMask (s.gr f.b) 8 0 = false ∧ s.unavail (migCore f s) = false ∧ s.inPart (s.pidOf s.cur) (migCore f s) = true

theorem migBody_suspends {i : Instr} {sh : Shape} {s : State} (h : Issues i sh s) (away : Migrates f (s.begun sh)) :
    migBody f (s.begun sh) sh = (s.begun sh).suspending (maskRegs ((s.begun sh).gr f.b) 0)
      (.left ((s.begun sh).leaveFor sh (migCore f (s.begun sh)) 1 0 0 0 (maskRegs ((s.begun sh).gr f.b) 0) none)) := by
  obtain ⟨other, fits, up, inside⟩ := away
  rw [migCore] at *
  rw [migBody, h.gOp, h.gOp, fld_zero, if_neg other, if_neg (Bool.eq_false_iff.1 fits), if_neg (Bool.eq_false_iff.1 up), inside,
    Bool.not_true, if_neg Bool.false_ne_true]

theorem does_mig_own : Does (.mig f) (fun s => migCore f s = s.cur) (fun s _ => s) :=
  does_kept (exec_mig f) (fun sh s h own => by
    rw [migBody, h.gOp, fld_zero]
    exact if_pos own) fun _ s => KeepsStrand.refl s

theorem departs_mig : Departs (.mig f)
    (fun s => Migrates f s ∧ s.me.settled = true ∧ s.badCarried (maskRegs (s.gr f.b) 0) = none)
    (fun s sh => s.leaveFor sh (migCore f s) 1 0 0 0 (maskRegs (s.gr f.b) 0) none) :=
  departs_of (exec_mig f) fun sh s h ⟨away, settled, sound⟩ => by rw [migBody_suspends f h away, suspending_sound _ settled sound]

theorem carriesSound_mig : CarriesSound (.mig f) (fun s => Migrates f s ∧ s.me.settled = true) (fun s => maskRegs (s.gr f.b) 0) :=
  carriesSound_of (leave := fun s sh => .left (s.leaveFor sh (migCore f s) 1 0 0 0 (maskRegs (s.gr f.b) 0) none)) (exec_mig f)
    fun _ _ h ⟨away, settled⟩ => ⟨settled, migBody_suspends f h away⟩

theorem awaits_mig : Awaits (.mig f) (fun s => Migrates f s ∧ s.me.settled = false) (fun _ => .settle) :=
  awaits_of (exec_mig f) fun sh s h ⟨away, unsettled⟩ => by rw [migBody_suspends f h away, suspending_unsettled _ unsettled]

end

/-- Settles O24: each clause is one of the outcomes above. -/
theorem migration : Obligations.Migration := fun f =>
  ⟨does_ldM f, faults_ldM_here f, faults_ldM_address f, departs_ldM f, faults_ldM_mask f, carriesSound_ldM f, awaits_ldM f, does_mig_own f,
    carriesSound_mig f, departs_mig f, awaits_mig f⟩

end Sys2Proof.Machine
end

section
/-!
SUPPORT. Hypothesis instructions (R288 to R292): changes of the node table are submitted by detached instructions, and what reads the
core's copy of the table retires.
-/
namespace Sys2Proof.Machine

/-! Changes of the table are no part of a strand. -/

theorem keepsStrand_updPart (s : State) (pid : Nat) (g : Part → Part) : KeepsStrand s (s.updPart pid g) := ⟨rfl, rfl⟩

theorem keepsStrand_hypValue (s : State) (r : Resolve) (v extra : Nat) (st : OpSt) : KeepsStrand s (s.hypValue r v extra st) :=
  keepsStrand_updDet ..

theorem keepsStrand_startResolve (pid fuel : Nat) : ∀ s : State, KeepsStrand s (s.startResolve pid fuel) := by
  induction fuel with
  | zero => exact KeepsStrand.refl
  | succ fuel ih =>
    intro s
    rw [State.startResolve]
    split
    case h_1 => exact KeepsStrand.refl s
    case h_2 p _ =>
      split
      case h_1 => exact KeepsStrand.refl s
      case h_2 r rest _ =>
        dsimp only
        split
        case h_1 => exact ((keepsStrand_updDet ..).trans (keepsStrand_updPart ..)).trans (ih _)
        case h_2 => exact ((keepsStrand_hypValue ..).trans (keepsStrand_updPart ..)).trans (ih _)
        case h_3 => exact (keepsStrand_hypValue ..).trans (keepsStrand_updPart ..)

theorem keepsStrand_endResolve (s : State) (pid : Nat) : KeepsStrand s (s.endResolve pid) := by
  unfold State.endResolve
  split
  case h_1 => exact KeepsStrand.refl s
  case h_2 =>
    split
    case h_1 => exact KeepsStrand.refl s
    case h_2 =>
      split
      · exact ((keepsStrand_updDet ..).trans (keepsStrand_updPart ..)).trans (keepsStrand_startResolve ..)
      · exact KeepsStrand.refl s

theorem keepsStrand_submitChange (s : State) (asid node kind op : Nat) : KeepsStrand s (s.submitChange asid node kind op) := by
  unfold State.submitChange
  dsimp only
  split
  · exact ((keepsStrand_updPart ..).trans (keepsStrand_startResolve ..)).trans (keepsStrand_endResolve ..)
  · exact keepsStrand_updPart ..

/-! Detached changes (R289, R291). -/

@[simp] theorem begun_hasTable (s : State) (sh : Shape) : (s.begun sh).hasTable = s.hasTable := by
  rw [State.hasTable, begun_me_asid, begun_cur, begun_pidOf, State.allotted, State.part, begun_parts]
  rfl

/-- The id that an instruction names: bits 7:0 of ga (R288). -/
def hypId (f : Fields) (s : State) : Nat := (s.gr f.a).toNat % 2 ^ 8

theorem Issues.idOp {i : Instr} {sh : Shape} {s : State} (h : Issues i sh s) (f : Fields) : (s.begun sh).idOp f = hypId f (s.begun sh) := by
  rw [State.idOp, h.gOp, fld_zero]
  rfl

/-- A detached change of the node table has been submitted. -/
def State.submits (i : Instr) (f : Fields) (kind n : Nat) (acq : Bool) (s : State) (sh : Shape) : State :=
  (s.detach i sh (fun d => { d with left := 1, acq, due := s.cycles + s.hypFig n })).submitChange s.me.asid.toNat (hypId f s) kind s.me.nextId

theorem keepsStrand_submits (i : Instr) (f : Fields) (kind n : Nat) (acq : Bool) (s : State) (sh : Shape) :
    KeepsStrand s (s.submits i f kind n acq sh) := (keepsStrand_detach ..).trans (keepsStrand_submitChange ..)

/-- Without a table every change is ILLEGAL. -/
theorem hypDet_untabled {i : Instr} {f : Fields} {kind n : Nat} {s : State} {sh : Shape} (none_ : s.hasTable = false) :
    hypDet i f kind n s sh = .flt cIllegal 0 := by
  rw [hypDet, none_]
  rfl

/-- A new node and a reclaimed one wait for nothing (kinds 0 and 4). -/
theorem Issues.hypDet_nodes {i j : Instr} {f : Fields} {kind n : Nat} {s : State} {sh : Shape} (h : Issues j sh s)
    (nodes : kind = 0 ∨ kind = 4) (table : (s.begun sh).hasTable = true) :
    hypDet i f kind n (s.begun sh) sh = .done ((s.begun sh).submits i f kind n false sh) := by
  have plain : (kind != 0 && kind != 4) = false := by rcases nodes with rfl | rfl <;> rfl
  rw [hypDet, table, plain, h.idOp]
  rfl

theorem does_hnew (f : Fields) : Does (.hnew f) (fun s => s.hasTable = true) (fun s sh => s.submits (.hnew f) f 0 120 false sh) :=
  does_kept (fun _ => rfl) (fun _ _ h table => h.hypDet_nodes (.inl rfl) table) fun _ _ => keepsStrand_submits ..

theorem exec_hnewRcl_submits {sh : Shape} {s : State} (h : Issues .hnewRcl sh s) (table : s.hasTable = true) :
    exec .hnewRcl s = .next (((s.begun sh).submits .hnewRcl sh.f 4 120 false sh).goesTo s.succ) :=
  exec_done (fun _ => rfl) h (h.hypDet_nodes (.inr rfl) ((begun_hasTable s sh).trans table)) (keepsStrand_submits ..)

section
variable {i : Instr} {f : Fields} {kind : Nat} (hx : ∀ s, exec i s = issue i s (hypDet i f kind 160)) (resolve : kind = 1 ∨ kind = 2 ∨ kind = 3)
include hx resolve

/-- What a resolve comes to, where there is a table: it names no root, and is a release (R291). -/
theorem resolves_eq {sh : Shape} {s : State} (h : Issues i sh s) (table : (s.begun sh).hasTable = true) :
    hypDet i f kind 160 (s.begun sh) sh =
      if hypId f (s.begun sh) = 0 then .flt cIllegal 0
      else if (s.begun sh).me.ordered true true = false then .wait (.order true true)
      else .done ((s.begun sh).submits i f kind 160 true sh) := by
  have change : (kind != 0 && kind != 4) = true := by rcases resolve with rfl | rfl | rfl <;> rfl
  rw [hypDet, table, change, h.idOp]
  cases (s.begun sh).me.ordered true true <;> simp [State.submits]

theorem does_resolve : Does i (fun s => s.hasTable = true ∧ hypId f s ≠ 0 ∧ s.me.ordered true true = true)
    (fun s sh => s.submits i f kind 160 true sh) :=
  does_kept hx (fun sh s h ⟨table, node, released⟩ => by
    rw [resolves_eq hx resolve h table, if_neg node, if_neg (by rw [released]; exact Bool.noConfusion)]) fun _ _ => keepsStrand_submits ..

theorem awaits_resolve : Awaits i (fun s => s.hasTable = true ∧ hypId f s ≠ 0 ∧ s.me.ordered true true = false) (fun _ => .order true true) :=
  awaits_of hx fun sh s h ⟨table, node, early⟩ => by rw [resolves_eq hx resolve h table, if_neg node, if_pos early]

theorem faults_resolve : Faults i (fun s => s.hasTable = false ∨ hypId f s = 0) cIllegal (fun _ => 0) :=
  faults_of hx fun sh s h unfit => by
    rcases table : (s.begun sh).hasTable with _ | _
    · exact hypDet_untabled table
    · rw [resolves_eq hx resolve h table, if_pos (unfit.resolve_left (by rw [table]; exact Bool.noConfusion))]
      rfl

end

/-! Entering, leaving, the status word (R290, R292). -/

/-- Node 0, the root, and every entry that is not Free are live (R276). -/
def LiveNode (s : State) (n : Nat) : Prop := n = 0 ∨ (nodeAt s.myNodes s.me.asid.toNat n).st ≠ .free

section
variable (f : Fields)

def henterBody (s : State) (_ : Shape) : Eff :=
  if !s.hasTable then .flt cIllegal 0
  else if s.idOp f ≠ 0 ∧ (nodeAt s.myNodes s.me.asid.toNat (s.idOp f)).st = .free then .flt cIllegal 0
  else if (eff s.myNodes s.me.asid.toNat (s.idOp f)).isNone then .flt cHypRefuted (BitVec.ofNat 64 (s.idOp f))
  else .done (s.updMe (fun k => { k with hypCur := BitVec.ofNat 8 (s.idOp f) }))

theorem exec_henter (s : State) : exec (.henter f) s = issue (.henter f) s (henterBody f) := rfl

/-- An `henter` of a live node goes by the node's effective one. -/
theorem Issues.henterBody_live {i : Instr} {sh : Shape} {s : State} (h : Issues i sh s) (table : (s.begun sh).hasTable = true)
    (live : LiveNode (s.begun sh) (hypId f (s.begun sh))) : henterBody f (s.begun sh) sh =
      if (eff (s.begun sh).myNodes (s.begun sh).me.asid.toNat (hypId f (s.begun sh))).isNone then
        .flt cHypRefuted (BitVec.ofNat 64 (hypId f (s.begun sh)))
      else .done ((s.begun sh).updMe (fun k => { k with hypCur := BitVec.ofNat 8 (hypId f (s.begun sh)) })) := by
  rw [henterBody, table, h.idOp, Bool.not_true, if_neg Bool.false_ne_true, if_neg fun ⟨node, free⟩ => live.elim node (absurd free)]

theorem does_henter : Does (.henter f)
    (fun s => s.hasTable = true ∧ LiveNode s (hypId f s) ∧ (eff s.myNodes s.me.asid.toNat (hypId f s)).isSome = true)
    (fun s _ => s.updMe (fun k => { k with hypCur := BitVec.ofNat 8 (hypId f s) })) :=
  does_kept (exec_henter f) (fun sh s h ⟨table, live, stands⟩ => by
    rw [h.henterBody_live f table live, if_neg (by rw [Option.isNone_eq_false_iff.2 stands]; exact Bool.false_ne_true)])
    fun _ _ => keepsStrand_updMe ⟨rfl, rfl⟩

theorem faults_henter_free : Faults (.henter f) (fun s => s.hasTable = false ∨ ¬LiveNode s (hypId f s)) cIllegal (fun _ => 0) :=
  faults_of (exec_henter f) fun sh s h unfit => by
    rw [henterBody]
    rcases table : (s.begun sh).hasTable with _ | _
    · rfl
    · have dead := unfit.resolve_left (by rw [table]; exact Bool.noConfusion)
      rw [LiveNode, not_or, not_not, ← h.idOp] at dead
      rw [Bool.not_true, if_neg Bool.false_ne_true, if_pos dead]
      rfl

theorem faults_henter_refuted : Faults (.henter f)
    (fun s => s.hasTable = true ∧ LiveNode s (hypId f s) ∧ eff s.myNodes s.me.asid.toNat (hypId f s) = none) cHypRefuted
    (fun s => BitVec.ofNat 64 (hypId f s)) :=
  faults_of (exec_henter f) fun sh s h ⟨table, live, refuted⟩ => by
    rw [h.henterBody_live f table live, refuted]
    rfl

theorem does_hleave_root : Does .hleave (fun s => s.hasTable = true ∧ s.me.hypCur = 0) (fun s _ => s) :=
  does_kept (fun _ => rfl) (fun sh s _ ⟨table, root⟩ => by
    dsimp only
    rw [table, root]
    rfl) fun _ s => KeepsStrand.refl s

theorem does_hleave_node : Does .hleave (fun s => s.hasTable = true ∧ s.me.hypCur ≠ 0) (fun s _ => s.updMe (fun k => { k with
    hypCur := BitVec.ofNat 8 (nodeAt s.myNodes s.me.asid.toNat s.me.hypCur.toNat).link })) :=
  does_kept (fun _ => rfl) (fun sh s _ ⟨table, node⟩ => by
    dsimp only
    rw [table, if_neg (fun root => node (BitVec.eq_of_toNat_eq root) : ¬(s.begun sh).me.hypCur.toNat = 0)]
    rfl) fun _ _ => keepsStrand_updMe ⟨rfl, rfl⟩

/-- The status word of an entry as the spec lays it out (R292). -/
def nodeStatus (t : TMap Node) (asid n : Nat) : Nat :=
  let d := nodeAt t asid n
  if n = 0 then 0 else (if d.st = .free then 0 else if d.st = .openNode then 1 else if d.st = .confirmed then 2 else 3) +
    (if eff t asid n = none then 4 else 0) + d.link * 2 ^ 8 + (eff t asid n).getD 0 * 2 ^ 16 + d.depth * 2 ^ 24

theorem hnStatus_eq (t : TMap Node) (asid n : Nat) : hnStatus t asid n = nodeStatus t asid n := by
  unfold hnStatus nodeStatus
  obtain ⟨st, link, depth⟩ := nodeAt t asid n
  rcases eff t asid n with _ | e <;> cases st <;> rfl

theorem does_hnstat : Does (.hnstat f) (fun s => s.hasTable = true)
    (fun s _ => s.wrG f.d (BitVec.ofNat 64 (nodeStatus s.myNodes s.me.asid.toNat (hypId f s)))) :=
  does_kept (fun _ => rfl) (fun sh s h table => by
    rw [table, h.idOp, hnStatus_eq]
    rfl) fun _ _ => keepsStrand_wrG ..

end

/-- Settles O33: each clause is one of the outcomes above. -/
theorem hypothesisInstructions : Obligations.HypothesisInstructions := by
  intro f
  have resolves (i : Instr) (kind : Nat) (hx : ∀ s, exec i s = issue i s (hypDet i f kind 160)) (resolve : kind = 1 ∨ kind = 2 ∨ kind = 3) :=
    And.intro (does_resolve hx resolve) (And.intro (awaits_resolve hx resolve) (faults_resolve hx resolve))
  have confirms : (if f.o = 1 then 2 else 1) = 1 ∨ (if f.o = 1 then 2 else 1) = 2 ∨ (if f.o = 1 then 2 else 1) = 3 := by
    split
    · exact .inr (.inl rfl)
    · exact .inl rfl
  exact ⟨does_hnew f, faults_of (fun _ => rfl) fun _ _ _ none_ => hypDet_untabled none_, fun _ _ h table => exec_hnewRcl_submits h table,
    does_henter f, faults_henter_free f, faults_henter_refuted f, does_hleave_root, does_hleave_node,
    resolves _ _ (fun _ => rfl) confirms, resolves _ _ (fun _ => rfl) (.inr (.inr rfl)), does_hnstat f⟩

end Sys2Proof.Machine
end

section
/-!
SUPPORT. Node tables (R276, R282 to R284, R289): what each change makes of a table, entry by entry; and the broadcast of a change, and
the end of an allotment, to slices and cores.
-/
namespace Sys2Proof.Machine

/-! Maps whose entries are changed or dropped. -/

section
variable {α : Type} (d : α)

theorem mget_of_absent {m : TMap α} {k : Nat} (absent : ∀ e ∈ m, e.1 ≠ k) : mget d m k = d := by
  induction m with
  | nil => rfl
  | cons e m ih =>
    obtain ⟨j, v⟩ := e
    rw [mget, if_neg (absent (j, v) List.mem_cons_self)]
    exact ih fun e he => absent e (List.mem_cons_of_mem _ he)

/-- An entry that is listed is changed where it stands. -/
theorem mget_map_of_ne (g : Nat → α → α) {m : TMap α} {k : Nat} (listed : mget d m k ≠ d) :
    mget d (m.map (fun e => (e.1, g e.1 e.2))) k = g k (mget d m k) := by
  induction m with
  | nil => exact absurd rfl listed
  | cons e m ih =>
    obtain ⟨j, v⟩ := e
    rw [List.map_cons, mget, mget]
    rw [mget] at listed
    by_cases here : j = k
    · rw [if_pos here, if_pos here, here]
    · rw [if_neg here, if_neg here]
      exact ih (by rwa [if_neg here] at listed)

theorem mget_foldl_mset_default [DecidableEq α] (l : List Nat) (m : TMap α) (k : Nat) :
    mget d (l.foldl (fun t v => mset d t v d) m) k = if k ∈ l then d else mget d m k := by
  induction l generalizing m with
  | nil => rw [if_neg List.not_mem_nil, List.foldl_nil]
  | cons j l ih =>
    rw [List.foldl_cons, ih, mget_mset]
    by_cases first : k = j <;> by_cases later : k ∈ l <;> simp [first, later]

end

/-! Entries of a table. -/

theorem nodeKey_inj {asid i j : Nat} : nodeKey asid i = nodeKey asid j ↔ i = j := Nat.add_left_cancel_iff

theorem nodeAt_mset (t : TMap Node) (asid i j : Nat) (d : Node) :
    nodeAt (mset {} t (nodeKey asid i) d) asid j = if j = i then d else nodeAt t asid j := by
  rw [nodeAt, mget_mset]
  simp only [nodeKey_inj]
  rfl

theorem nodeKey_div {asid n : Nat} (small : n < 256) : nodeKey asid n / 256 = asid := by
  rw [nodeKey]
  omega

theorem nodeKey_mod {asid n : Nat} (small : n < 256) : nodeKey asid n % 256 = n := by
  rw [nodeKey]
  omega

section
variable {t : TMap Node} {asid n : Nat} (small : n < 256)
include small

/-- An entry that is not Free stands in its table, and is changed there. -/
theorem nodeAt_mapNodes (g : Nat → Node → Node) (used : (nodeAt t asid n).st ≠ .free) :
    nodeAt (mapNodes t asid g) asid n = g n (nodeAt t asid n) := by
  have listed : mget {} t (nodeKey asid n) ≠ {} := fun default => used (by rw [nodeAt, default])
  have form : mapNodes t asid g = t.map (fun e => (e.1, if e.1 / 256 = asid then g (e.1 % 256) e.2 else e.2)) := by
    refine List.map_congr_left fun e _ => ?_
    split <;> rfl
  have changed := mget_map_of_ne ({} : Node) (fun k d => if k / 256 = asid then g (k % 256) d else d) listed
  rw [nodeKey_div small, if_pos rfl, nodeKey_mod small] at changed
  rw [nodeAt, form, changed]
  rfl

theorem refuteTab_keeps_confirmed (m : Nat) (confirmed : (nodeAt t asid n).st = .confirmed) :
    (nodeAt (refuteTab t asid m) asid n).st = .confirmed := by
  have closed : ¬((nodeAt t asid n).st = .openNode ∧ (n = m ∨ below t asid m n)) := by simp [confirmed]
  rw [refuteTab, nodeAt_mapNodes small _ (by rw [confirmed]; exact NodeSt.noConfusion), if_neg closed, confirmed]

theorem refuteTab_refutes (isOpen : (nodeAt t asid n).st = .openNode) : (nodeAt (refuteTab t asid n) asid n).st = .refuted := by
  rw [refuteTab, nodeAt_mapNodes small _ (by rw [isOpen]; exact NodeSt.noConfusion), if_pos ⟨isOpen, .inl rfl⟩]

theorem foldl_refuteTab_keeps_confirmed (l : List Nat) (confirmed : (nodeAt t asid n).st = .confirmed) :
    (nodeAt (l.foldl (fun t m => refuteTab t asid m) t) asid n).st = .confirmed := by
  induction l generalizing t with
  | nil => exact confirmed
  | cons m l ih => exact ih (refuteTab_keeps_confirmed small m confirmed)

/-- The confirmed node stays Confirmed while its siblings are refuted. -/
theorem confirmTab_confirms (excl : Bool) (isOpen : (nodeAt t asid n).st = .openNode) :
    (nodeAt (confirmTab t asid n excl) asid n).st = .confirmed := by
  unfold confirmTab
  refine foldl_refuteTab_keeps_confirmed small _ ?_
  rw [nodeAt_mapNodes small _ (by rw [isOpen]; exact NodeSt.noConfusion), if_pos rfl]

theorem nodeAt_filter_asid (t : TMap Node) : nodeAt (t.filter (fun e => e.1 / 256 != asid)) asid n = {} := by
  refine mget_of_absent _ fun e kept same => ?_
  have other := (List.mem_filter.1 kept).2
  rw [same, nodeKey_div small, bne_self_eq_false] at other
  exact Bool.noConfusion other

end

/-! Changes. -/

/-- A new node is the lowest Free id, Open below the effective parent (R289). -/
theorem hnewOf_to {t u : TMap Node} {asid p v : Nat} (changes : hnewOf t asid p = .to v u) : ∃ j e, v = j + 1 ∧ j < 255 ∧
    (nodeAt t asid v).st = .free ∧ (∀ i, i < j → (nodeAt t asid (i + 1)).st ≠ .free) ∧ eff t asid p = some e ∧
    ∃ depth, u = mset {} t (nodeKey asid v) { st := .openNode, link := e, depth } := by
  unfold hnewOf at changes
  split at changes
  case isTrue => exact Change.noConfusion changes
  case isFalse =>
    split at changes
    case h_1 => exact Change.noConfusion changes
    case h_2 e parent =>
      dsimp only at changes
      generalize (if e = 0 then 0 else (nodeAt t asid e).depth) = depth at changes
      split at changes
      case h_1 => exact Change.noConfusion changes
      case h_2 j found =>
        split at changes
        case isTrue => exact Change.noConfusion changes
        case isFalse =>
          obtain ⟨rfl, rfl⟩ := Change.to.inj changes
          obtain ⟨free, inRange, lowest⟩ := List.find?_range_eq_some.1 found
          exact ⟨j, e, rfl, List.mem_range.1 inRange, eq_of_beq free, fun i hi isFree => by simpa [isFree] using lowest i hi, parent, _, rfl⟩

theorem reclaimOf_to {t u : TMap Node} {asid i v : Nat} (changes : reclaimOf t asid i = .to v u) :
    ((nodeAt t asid i).st = .confirmed ∨ (nodeAt t asid i).st = .refuted) ∧ u = mset {} t (nodeKey asid i) {} := by
  unfold reclaimOf at changes
  dsimp only at changes
  split at changes
  case isTrue reclaims => exact ⟨reclaims.2.1, (Change.to.inj changes).2.symm⟩
  case isFalse => exact Change.noConfusion changes

theorem resolveOf_open {t : TMap Node} {asid n : Nat} (kind : Nat) (isOpen : (nodeAt t asid n).st = .openNode) :
    resolveOf t asid n kind = .to 0 (if kind = 3 then refuteTab t asid n else confirmTab t asid n (kind == 2)) := by rw [resolveOf, isOpen]

theorem resolveOf_closed {t : TMap Node} {asid n : Nat} (kind : Nat) (closed : (nodeAt t asid n).st ≠ .openNode) :
    resolveOf t asid n kind =
      .same (if (nodeAt t asid n).st = .confirmed then 1 else if (nodeAt t asid n).st = .refuted then 2 else 3) := by
  rw [resolveOf]
  cases state : (nodeAt t asid n).st with
  | openNode => exact absurd state closed
  | free => rfl
  | confirmed => rfl
  | refuted => rfl

theorem changeOf_resolve {r : Resolve} (t : TMap Node) (resolve : r.kind = 1 ∨ r.kind = 2 ∨ r.kind = 3) :
    changeOf t r = resolveOf t r.asid r.node r.kind := by
  unfold changeOf
  rcases resolve with kind | kind | kind <;> rw [kind] <;> rfl

/-! The broadcast. -/

theorem State.part_updPart (s : State) (p q : Nat) (g : Part → Part) :
    (s.updPart p g).part q = if q = p then (s.part p).map g else s.part q := mget_mset ..

/-- The dies of a partition are those of its units, whatever else of it changes. -/
theorem State.diesOf_updPart (s : State) (p q : Nat) {g : Part → Part} (spec : ∀ p, (g p).spec = p.spec) : (s.updPart p g).diesOf q = s.diesOf q := by
  rw [State.diesOf, State.diesOf, State.part_updPart]
  by_cases same : q = p
  · subst same
    rw [if_pos rfl]
    cases s.part q with
    | none => rfl
    | some p => simp only [Option.map_some, spec]
  · rw [if_neg same]

theorem State.verSlice_updPart (s : State) (p vk : Nat) {g : Part → Part} (spec : ∀ p, (g p).spec = p.spec) :
    (s.updPart p g).verSlice vk = s.verSlice vk := by
  rw [State.verSlice, State.verSlice, State.homeSlice, State.homeSlice, s.diesOf_updPart p _ spec]

theorem State.vers_startResolve (pid fuel : Nat) : ∀ s : State, (s.startResolve pid fuel).vers = s.vers := by
  induction fuel with
  | zero => exact fun _ => rfl
  | succ fuel ih =>
    intro s
    rw [State.startResolve]
    split
    case h_1 => rfl
    case h_2 =>
      split
      case h_1 => rfl
      case h_2 =>
        dsimp only
        split
        case h_1 => exact ih _
        case h_2 => exact ih _
        case h_3 => rfl

theorem State.vers_endResolve (s : State) (pid : Nat) : (s.endResolve pid).vers = s.vers := by
  unfold State.endResolve
  split
  case h_1 => rfl
  case h_2 =>
    split
    case h_1 => rfl
    case h_2 =>
      split
      · exact State.vers_startResolve ..
      · rfl

section
variable {s : State} {pid slice : Nat} {p : Part} {r : Resolve} {rest : List Resolve} (part : s.part pid = some p)
  (resolves : p.resolves = r :: rest)
include part resolves

theorem resolveSlice_done (done : r.slicesLeft.contains slice = false) : s.resolveSlice pid slice = s := by
  simp only [State.resolveSlice, part, resolves, done]
  rfl

theorem resolveCore_waits {core : Nat} (waits : core ∈ r.coresLeft) : s.resolveCore pid core = (s.updPart pid (fun p => { p with
    resolves := { r with coresLeft := r.coresLeft.filter (· != core) } :: rest })).endResolve pid := by
  simp only [State.resolveCore, part, resolves, List.contains_iff_mem.2 waits]
  rfl

/-- What a slice that holds no version line does of a change is to acknowledge it. -/
theorem resolveSlice_unversioned (waits : slice ∈ r.slicesLeft) (none_ : s.vers = []) : s.resolveSlice pid slice =
    (s.updPart pid (fun p => { p with resolves := { r with slicesLeft := r.slicesLeft.filter (· != slice) } :: rest })).endResolve pid := by
  simp only [State.resolveSlice, part, resolves, List.contains_iff_mem.2 waits, Bool.not_true, if_neg Bool.false_ne_true, State.updPart_vers,
    none_, List.map_nil, List.filter_nil, ite_self, List.foldl_nil]
  rw [← none_]
  rfl

/-- The versions of the nodes that a resolve refutes are gone from the slices that have applied it (R283). -/
theorem resolveSlice_refutes (waits : slice ∈ r.slicesLeft) (refutes : r.kind = 3) {vk : Nat}
    (acted : verOf pid r.asid (actedNodes r.old p.nodes r.asid r.node 3) vk = true) (here : s.verSlice vk = slice) :
    mget none (s.resolveSlice pid slice).vers vk = none := by
  simp only [State.resolveSlice, part, resolves, List.contains_iff_mem.2 waits, Bool.not_true, if_neg Bool.false_ne_true, refutes,
    State.updPart_vers, bne_self_eq_false, Bool.false_and, Bool.not_false, List.filter_true, State.vers_endResolve]
  rw [if_neg (by decide), List.foldl_nil, mget_foldl_mset_default, State.updPart_vers]
  split
  · rfl
  · rename_i unlisted
    refine mget_of_absent _ fun e listed same => unlisted ?_
    rw [← same] at acted here ⊢
    exact List.mem_filter.2 ⟨List.mem_map_of_mem listed, Bool.and_eq_true_iff.2 ⟨acted, beq_iff_eq.2 (Eq.trans (s.verSlice_updPart pid e.1 (g := _) fun _ => rfl) here)⟩⟩

/-- A change of a table whose allotment has ended is a fault of its instruction (R275). -/
theorem startResolve_unallotted (fuel : Nat) (ended : s.allotted pid r.asid = false) : s.startResolve pid (fuel + 1) =
    ((s.updDet r.core r.ctx r.op (fun d => { d with st := .fault cIllegal 0 0 0 })).updPart pid
      (fun p => { p with resolves := rest })).startResolve pid fuel := by
  simp only [State.startResolve, part, resolves, ended]
  rfl

end

theorem tlb_dropSpace (s : State) (pid asid : Nat) :
    (s.dropSpace pid asid).tlb.all (fun e => !(e.pid == pid && e.asid == asid)) = true :=
  List.all_eq_true.2 fun _ kept => (List.mem_filter.1 kept).2

theorem nodeAt_dropHyp (s : State) (pid asid c : Nat) {n : Nat} (small : n < 256) :
    nodeAt ((s.dropHyp pid asid).nodesAtCore pid c) asid n = {} := by
  have part : (s.dropHyp pid asid).part pid = (s.part pid).map (fun p => { p with
      nodes := p.nodes.filter (fun e => e.1 / 256 != asid)
      resolves := p.resolves.map (fun (r : Resolve) => { r with old := r.old.filter (fun e => e.1 / 256 != asid) }) }) := by
    rw [State.dropHyp, State.part_updPart, if_pos rfl]
    rfl
  rw [State.nodesAtCore, part]
  cases s.part pid with
  | none => rfl
  | some p =>
    cases changes : p.resolves with
    | nil =>
      simp only [Option.map_some, changes, List.map_nil]
      exact nodeAt_filter_asid small _
    | cons r rest =>
      simp only [Option.map_some, changes, List.map_cons]
      split
      · exact nodeAt_filter_asid small _
      · exact nodeAt_filter_asid small _

/-- Settles O34: a change of a table by its kind, its broadcast by what a slice or a core does of it. -/
theorem nodeTables : Obligations.NodeTables := by
  refine ⟨fun t r _ small => ⟨fun kind v u changes => ?new, fun kind v u changes => ?reclaimed, fun kind isOpen => ?confirmed,
    fun kind isOpen => ?refuted, fun kind closed => ?same⟩, fun s p r rest => ⟨fun part resolves done => ?left, fun part resolves waits => ?core,
    fun part resolves waits none_ => ?slice, fun part resolves waits refutes => ?gone, rfl, fun asid n c fuel part resolves ended => ?ended⟩⟩
  case new =>
    rw [changeOf, kind] at changes
    obtain ⟨j, e, rfl, inRange, free, lowest, parent, depth, rfl⟩ := hnewOf_to changes
    have new := (nodeAt_mset t r.asid (j + 1) (j + 1) { st := .openNode, link := e, depth }).trans (if_pos rfl)
    refine ⟨Nat.le_add_left 1 j, inRange, free, fun i first before => ?_, congrArg Node.st new, by rw [parent, new],
      fun i other => (nodeAt_mset ..).trans (if_neg other)⟩
    obtain ⟨i, rfl⟩ := Nat.exists_eq_add_of_le' first
    exact lowest i (Nat.lt_of_succ_lt_succ before)
  case reclaimed =>
    rw [changeOf, kind] at changes
    obtain ⟨resolved, rfl⟩ := reclaimOf_to changes
    exact ⟨resolved, congrArg Node.st ((nodeAt_mset ..).trans (if_pos rfl)), fun j other => (nodeAt_mset ..).trans (if_neg other)⟩
  case confirmed =>
    have refutesNot : r.kind ≠ 3 := by rcases kind with kind | kind <;> rw [kind] <;> decide
    have change := (changeOf_resolve t (kind.imp_right .inl)).trans (resolveOf_open r.kind isOpen)
    exact ⟨_, ⟨0, change.trans (congrArg (Change.to 0) (if_neg refutesNot))⟩, confirmTab_confirms small _ isOpen⟩
  case refuted =>
    have change := (changeOf_resolve t (.inr (.inr kind))).trans (resolveOf_open r.kind isOpen)
    exact ⟨_, ⟨0, change.trans (congrArg (Change.to 0) (if_pos kind))⟩, refuteTab_refutes small isOpen⟩
  case same => exact ⟨_, (changeOf_resolve t kind).trans (resolveOf_closed r.kind closed), rfl⟩
  case left => exact congrArg Host.Outcome.next (resolveSlice_done part resolves done)
  case core => exact congrArg Host.Outcome.next (resolveCore_waits part resolves waits)
  case slice => exact congrArg Host.Outcome.next (resolveSlice_unversioned part resolves waits none_)
  case gone => exact ⟨_, rfl, fun vk acted here => resolveSlice_refutes part resolves waits refutes acted here⟩
  case ended => exact ⟨startResolve_unallotted part resolves fuel ended, tlb_dropSpace s _ asid, nodeAt_dropHyp s _ asid c⟩

end Sys2Proof.Machine
end

section
/-!
SUPPORT. Installing a cell map (R331, R273): the strand that installs it can itself be one whose position the new map gives to another core. It departs
as the `cellset` retires, and so does not only go on at its successor.
-/
namespace Sys2Proof.Machine

/-- Positions whose coordinates are 0 to 63, hosted by `core`. -/
def hostedBy (core : Nat) : CellMap where
  cells := [{ core, lo := 0, hi := BitVec.ofNat 64 (64 * (1 + 2 ^ 21 + 2 ^ 42)) }]
  standby := []
  halo := 0
  split := 1

/-- A strand of core 0, bound to position 0 with its coordinate in g7, and with the address of a map in g1. -/
def installer : Ctx where
  st := .ready
  pc := 0x100002
  g := [(1, BitVec.ofNat 64 clusBase)]
  pos := some { crd := 7, tag := 1, live := 0 }

/-- That strand is resident at core 0, which hosts its position; the map in memory has core 1 host it (R331). -/
def installing : State where
  cores := [(0, { ctxs := [(0, installer)], postab := [{ tag := 1, pos := 0, ctx := 0 }] })]
  parts := [(0, some {
    spec := { pid := 0, clusterGrain := true, units := [0], asids := [0], hostAsid := 0, ctrl := 0x100000, asdir := 0 }
    cells := some (hostedBy 0) })]
  win := Mem.write {} clusBase (1 + 2 ^ 32 + 2 ^ 128 * (1 + 2 ^ 128 * 64 * (1 + 2 ^ 21 + 2 ^ 42))) 48

/-- The map is read from g1, the status goes to g9. -/
def install : Fields := { d := 9, a := 1 }

def installShape : Shape := { f := install, op := 0x3E8, d := { cls := .g, wr := true }, a := { cls := .g, rd := true } }

theorem issues_install : Issues (.cellset install) installShape installing where
  shape := by decide +kernel
  here := .inl (by decide +kernel)
  fresh := by decide +kernel
  due := by decide +kernel
  legal := by decide +kernel
  sound := by decide +kernel
  calm := by decide +kernel
  quiet := by decide +kernel
  free := by decide +kernel

/-- What `cellset` reads at g1. -/
def State.newMap (s : State) : State × Except Flt CellMap := s.readMap (s.myWho .strand) (s.pidOf s.cur) (s.gr install.a).toNat

theorem newMap_installing : (installing.begun installShape).newMap.2 = .ok (hostedBy 1) := by decide +kernel

/-- Whether the strand of core 0's context 0 departs. -/
def departing (o : Host.Outcome State Fault Refusal) : Bool :=
  match o with
  | .next t => ((t.ctx 0 0).pos.map (·.departing)).getD false
  | _ => false

theorem departing_installing : departing (exec (.cellset install) installing) = true := by decide +kernel

/-- Refutes O43: in `installing` the map that `cellset` installs gives the position of its own strand to core 1. The statement has that strand only go on
at its successor, but as the instruction retires the strand departs (R331, R273). -/
theorem not_masksMapsTestsAndContexts : ¬Obligations.MasksMapsTestsAndContexts := by
  intro h
  obtain ⟨-, -, installs, -⟩ := h install
  have stated := installs (installing.begun installShape).newMap.1 (hostedBy 1) installShape installing issues_install
    ⟨by decide +kernel, by decide +kernel, by decide +kernel, Prod.ext rfl newMap_installing, by decide +kernel⟩
  have stays : departing (exec (.cellset install) installing) = false := by
    rw [stated]
    decide +kernel
  rw [departing_installing] at stays
  exact absurd stays (by decide)

end Sys2Proof.Machine
end

section
/-!
SUPPORT. Page modes (R327): a page that takes a mode has its lines swept or recalled, and no context changes.
-/
namespace Sys2Proof.Machine

theorem sameCtxs_mergeHome (s : State) (key : Nat) (dirty : BitVec 64) : SameCtxs s (s.mergeHome key dirty) := by
  have brought := sameCtxs_bringLine s (keyPid key) (keyAsid key) (keyVa key) .writeBack false 3
  unfold State.mergeHome
  split
  · exact SameCtxs.refl s
  · split
    · rename_i h
      exact brought.of_fst h
    · rename_i h
      exact (brought.of_fst h).trans (sameCtxs_post _ _ _)

theorem sameCtxs_l1Drop (s : State) (c key : Nat) : SameCtxs s (s.l1Drop c key) := by
  have shed := sameCtxs_shed s key c
  unfold State.l1Drop
  dsimp only
  split
  · exact shed
  · rename_i l _
    have merged := (shed.trans (sameCtxs_putL1 _ c key none)).trans (sameCtxs_mergeHome _ key l.dirty)
    split
    · exact merged
    · exact merged.trans (sameCtxs_putSlice _ _ _)

/-- A step that carries a result beside the state, taken along a list. -/
theorem sameCtxs_foldl_fst {α β : Type} {g : State × β → α → State × β} (h : ∀ p a, SameCtxs p.1 (g p a).1) (l : List α) (p : State × β) :
    SameCtxs p.1 (l.foldl g p).1 := by
  induction l generalizing p with
  | nil => exact SameCtxs.refl p.1
  | cons a l ih => exact (h p a).trans (ih _)

theorem sameCtxs_sweepLine (s : State) (key : Nat) : SameCtxs s (s.sweepLine key).1 := by
  refine sameCtxs_foldl_fst (fun p c => ?_) _ (s, false, 0, 0)
  dsimp only
  split
  · exact SameCtxs.refl _
  · exact sameCtxs_l1Drop _ c key

theorem sameCtxs_setMode (s : State) (pid asid p : Nat) (sw : Bool) : SameCtxs s (s.setMode pid asid p sw).1 := by
  unfold State.setMode
  split
  · exact SameCtxs.refl s
  · refine SameCtxs.trans (sameCtxs_foldl_fst (fun q k => ?_) (s.pageLines pid asid p) (s, none)) ⟨rfl, rfl, rfl, fun _ _ => rfl⟩
    split
    · exact sameCtxs_recall _ _
    · exact sameCtxs_sweepLine _ _

/-- The pages of a range take a mode in ascending order; the first line with conflicting bytes, if any. -/
def State.setModes (s : State) (pid asid a n : Nat) (sw : Bool) : State × Option Nat :=
  (List.range (n / 2 ^ 16)).foldl (fun (st : State × Option Nat) j =>
    let r := st.1.setMode pid asid (a / 2 ^ 16 + j) sw
    (r.1, st.2.orElse (fun _ => r.2))) (s, none)

theorem sameCtxs_setModes (s : State) (pid asid a n : Nat) (sw : Bool) : SameCtxs s (s.setModes pid asid a n sw).1 := by
  unfold State.setModes
  refine sameCtxs_foldl_fst (fun p j => ?_) _ (s, none)
  exact sameCtxs_setMode ..

/-- The same, with its report (R327). -/
def State.takesMode (s : State) (sw : Bool) (a n : Nat) : State :=
  match (s.setModes (s.pidOf s.cur) s.me.asid.toNat a n sw).2 with
  | some k => (s.setModes (s.pidOf s.cur) s.me.asid.toNat a n sw).1.post (s.pidOf s.cur) { kind := 3, addr := BitVec.ofNat 64 (keyVa k) }
  | none => (s.setModes (s.pidOf s.cur) s.me.asid.toNat a n sw).1

theorem sameCtxs_takesMode (s : State) (sw : Bool) (a n : Nat) : SameCtxs s (s.takesMode sw a n) := by
  have modes := sameCtxs_setModes s (s.pidOf s.cur) s.me.asid.toNat a n sw
  unfold State.takesMode
  split
  · exact modes.trans (sameCtxs_post _ _ _)
  · exact modes

theorem SameCtxs.keepsStrand {s t : State} (h : SameCtxs s t) : KeepsStrand s t := keepsStrand_of_me h.me

end Sys2Proof.Machine
end

section
/-!
SUPPORT. Traps, interrupts and translations (R324 to R328).
-/
namespace Sys2Proof.Machine

/-! A minor that is a release and an acquire (R324). -/

theorem sysOp_released {s : State} {sh : Shape} {body : State → Shape → Eff} (released : s.me.ordered true true = true) :
    sysOp body s sh = body s sh := if_pos released

theorem awaits_system {i : Instr} {body : State → Shape → Eff} (hx : ∀ s, exec i s = issue i s (sysOp body)) :
    Awaits i (fun s => ¬s.me.ordered true true = true) (fun _ => .system) :=
  awaits_of hx fun _ _ _ busy => if_neg busy

/-- An instruction that issues runs at its context's level (R373). -/
theorem Issues.level {i : Instr} {sh : Shape} {s : State} (h : Issues i sh s) : (s.begun sh).me.level = (s.begun sh).me.lvl := by
  rw [Ctx.level, begun_me_rett, h.fresh]
  rfl

/-! `ipi` (R328). -/

/-- The effect of `ipi`, once it is released. -/
def ipiBody (f : Fields) (s : State) (sh : Shape) : Eff :=
  if s.unavail (fld (s.gOp 1 f.a) 0 12) then .flt cWindow 0
  else if s.me.level = 1 && !s.inPart (s.pidOf s.cur) (fld (s.gOp 1 f.a) 0 12) then .flt cPerm 0
  else .done (s.atRetire sh (.ipi (fld (s.gOp 1 f.a) 0 12) (fld (s.gOp 1 f.a) 12 4) (s.gOp 2 f.b) f.d.toNat))

theorem exec_ipi (f : Fields) (s : State) : exec (.ipi f) s = issue (.ipi f) s (sysOp (ipiBody f)) := rfl

section
variable {f : Fields} {sh : Shape} {s : State} (h : Issues (.ipi f) sh s)
include h

theorem ipiBody_eq : ipiBody f (s.begun sh) sh =
    if (s.begun sh).unavail (((s.begun sh).gr f.a).toNat % 2 ^ 12) then .flt cWindow 0
    else if (s.begun sh).me.lvl = 1 ∧ (s.begun sh).inPart ((s.begun sh).pidOf (s.begun sh).cur) (((s.begun sh).gr f.a).toNat % 2 ^ 12) = false then
      .flt cPerm 0
    else .done ((s.begun sh).atRetire sh (.ipi (((s.begun sh).gr f.a).toNat % 2 ^ 12) (((s.begun sh).gr f.a).toNat / 2 ^ 12 % 2 ^ 4)
      ((s.begun sh).gr f.b) f.d.toNat)) := by
  unfold ipiBody
  simp only [h.gOp, h.level, fld_zero, Bool.and_eq_true, decide_eq_true_eq, Bool.not_eq_true']
  rw [fld_eq]

end

/-- The core that `ipi` names, its context, and whether the level allows it (R328). -/
abbrev ipiCore (f : Fields) (s : State) : Nat := (s.gr f.a).toNat % 2 ^ 12
abbrev ipiCtx (f : Fields) (s : State) : Nat := (s.gr f.a).toNat / 2 ^ 12 % 2 ^ 4

theorem does_ipi (f : Fields) : Does (.ipi f)
    (fun s => (s.me.ordered true true = true ∧ (s.me.lvl ≠ 1 ∨ s.inPart (s.pidOf s.cur) (ipiCore f s) = true)) ∧ s.unavail (ipiCore f s) = false)
    (fun s sh => s.atRetire sh (.ipi (ipiCore f s) (ipiCtx f s) (s.gr f.b) f.d.toNat)) :=
  does_kept (exec_ipi f) (fun sh s h ⟨⟨released, allowed⟩, there⟩ => by
    rw [sysOp_released released, ipiBody_eq h, if_neg (Bool.eq_false_iff.1 there), if_neg fun barred => ?_]
    rcases allowed with level | inside
    · exact level barred.1
    · exact Bool.noConfusion (inside.symm.trans barred.2)) fun _ _ => keepsStrand_atRetire ..

theorem faults_ipi_unavailable (f : Fields) : Faults (.ipi f) (fun s => s.me.ordered true true = true ∧ s.unavail (ipiCore f s) = true) cWindow
    (fun _ => 0) :=
  faults_of (exec_ipi f) fun sh s h ⟨released, gone⟩ => by
    rw [sysOp_released released, ipiBody_eq h, if_pos gone]
    rfl

theorem faults_ipi_outside (f : Fields) : Faults (.ipi f) (fun s => s.me.ordered true true = true ∧ s.unavail (ipiCore f s) = false ∧ s.me.lvl = 1 ∧
    s.inPart (s.pidOf s.cur) (ipiCore f s) = false) cPerm (fun _ => 0) :=
  faults_of (exec_ipi f) fun sh s h ⟨released, there, level, outside⟩ => by
    rw [sysOp_released released, ipiBody_eq h, if_neg (Bool.eq_false_iff.1 there), if_pos ⟨level, outside⟩]
    rfl

section
variable {s : State} {c : Nat} {p : Retiring} {core ctx dst : Nat} {mask : Word} (act : p.act = .ipi core ctx mask dst)
include act

/-- No strand hears it. -/
theorem State.actNow_ipi_gone (gone : ctx = 15 ∨ (s.ctx core ctx).st = .free) :
    s.actNow c p = (s.putReg c p.ctx dst ((0 : Word).setWidth 1024)).setFull c p.ctx dst true := by
  have gone' : ((s.ctx core ctx).st == .free || ctx == 15) = true := by
    rw [Bool.or_eq_true, beq_iff_eq, beq_iff_eq]
    exact gone.symm
  simp [State.actNow, act, gone']

theorem State.actNow_ipi_heard (real : ctx ≠ 15) (held : (s.ctx core ctx).st ≠ .free) :
    s.actNow c p = ((s.updCtx core ctx (fun k => { k with ipend := true, kipi := k.kipi ||| mask })).putReg c p.ctx dst
      ((1 : Word).setWidth 1024)).setFull c p.ctx dst true := by
  simp [State.actNow, act, real, held]

end

/-! `xinv` (R326). -/

section
variable {i : Instr} {all : Bool} {f : Fields} {sh : Shape} {s : State} (h : Issues i sh s)
include h

theorem xinvOf_done (some_ : 0 < ((s.begun sh).gr f.b).toNat)
    (within : ((s.begun sh).gr f.a).toNat + ((s.begun sh).gr f.b).toNat ≤ 2 ^ 52) : xinvOf all f (s.begun sh) sh =
    .done ((s.begun sh).dropTrans ((s.begun sh).pidOf (s.begun sh).cur) all (s.begun sh).me.asid.toNat ((s.begun sh).gr f.a).toNat
      ((s.begun sh).gr f.b).toNat) := by
  unfold xinvOf
  simp only [h.gOp]
  rw [if_neg (Nat.ne_of_gt some_), if_neg (Nat.not_lt.2 within)]

theorem xinvOf_none (none_ : ((s.begun sh).gr f.b).toNat = 0) : xinvOf all f (s.begun sh) sh = .done (s.begun sh) := by
  unfold xinvOf
  simp only [h.gOp]
  exact if_pos none_

theorem xinvOf_beyond (some_ : 0 < ((s.begun sh).gr f.b).toNat)
    (beyond : 2 ^ 52 < ((s.begun sh).gr f.a).toNat + ((s.begun sh).gr f.b).toNat) : xinvOf all f (s.begun sh) sh =
    .flt cWindow (BitVec.ofNat 64 (max ((s.begun sh).gr f.a).toNat (2 ^ 52))) := by
  unfold xinvOf
  simp only [h.gOp]
  rw [if_neg (Nat.ne_of_gt some_), if_pos beyond]

end

theorem keepsStrand_dropTrans (s : State) (pid : Nat) (all : Bool) (asid a n : Nat) : KeepsStrand s (s.dropTrans pid all asid a n) := .refl s

/-! `rmode` (R327). -/

section
variable {i : Instr} {sw : Bool} {f : Fields} {sh : Shape} {s : State} (h : Issues i sh s)
include h

/-- Of pages it takes the mode; an empty range has none. -/
theorem rmodeOf_pages (first : ((s.begun sh).gr f.a).toNat % 2 ^ 16 = 0) (whole : ((s.begun sh).gr f.b).toNat % 2 ^ 16 = 0)
    (within : ((s.begun sh).gr f.a).toNat + ((s.begun sh).gr f.b).toNat ≤ 2 ^ 52) : rmodeOf sw f (s.begun sh) sh =
    .done ((s.begun sh).takesMode sw ((s.begun sh).gr f.a).toNat ((s.begun sh).gr f.b).toNat) := by
  unfold rmodeOf
  simp only [h.gOp, first, whole]
  rw [if_neg (by decide), if_neg (Nat.not_lt.2 within)]
  split
  · rename_i none_
    rw [none_]
    rfl
  · rfl

theorem rmodeOf_align (misaligned : ((s.begun sh).gr f.a).toNat % 2 ^ 16 ≠ 0 ∨ ((s.begun sh).gr f.b).toNat % 2 ^ 16 ≠ 0) :
    rmodeOf sw f (s.begun sh) sh = .flt cAlign 0 := by
  unfold rmodeOf
  simp only [h.gOp]
  rw [if_pos]
  simpa using misaligned

theorem rmodeOf_none (first : ((s.begun sh).gr f.a).toNat % 2 ^ 16 = 0) (none_ : ((s.begun sh).gr f.b).toNat = 0) :
    rmodeOf sw f (s.begun sh) sh = .done (s.begun sh) := by
  unfold rmodeOf
  simp only [h.gOp, first, none_]
  rfl

end

/-- Settles O42: a minor that is released by its operands, an interrupt once more by the context that it finds as it retires. -/
theorem trapsInterruptsTranslations : Obligations.TrapsInterruptsTranslations := by
  intro f
  refine ⟨?trap, departs_ending fun _ => rfl, awaits_ending fun _ => rfl, does_ipi f,
    fun s c p core ctx dst mask single due act => ⟨fun gone => ?gone, fun real held => ?heard⟩, faults_ipi_unavailable f, faults_ipi_outside f,
    awaits_system (exec_ipi f), ?drop, ?keep, ?beyond, fun sh s h released some_ within => ?all, ?coherent, ?align,
    fun sh s h at_ released pages _ => ?managed, fun sh s h at_ released first none_ => ?empty⟩
  case trap =>
    refine faults_of (fun _ => rfl) fun sh s h _ => ?_
    rw [h.replay, fld_zero]
    rfl
  case gone =>
    rw [State.actsNow_single single due, State.actNow_ipi_gone act (by rwa [State.ctx_updCore _ _ _ _ _ rfl])]
  case heard =>
    rw [State.actsNow_single single due, State.actNow_ipi_heard act real (by rwa [State.ctx_updCore _ _ _ _ _ rfl])]
  case drop =>
    exact does_kept (fun _ => rfl) (fun sh s h ⟨released, some_, within⟩ => (sysOp_released released).trans (xinvOf_done h some_ within))
      fun _ _ => keepsStrand_dropTrans ..
  case keep => exact does_kept (fun _ => rfl) (fun sh s h ⟨released, none_⟩ => (sysOp_released released).trans (xinvOf_none h none_)) fun _ s => .refl s
  case beyond => exact faults_of (fun _ => rfl) fun sh s h ⟨released, some_, beyond⟩ => (sysOp_released released).trans (xinvOf_beyond h some_ beyond)
  case all =>
    have body := xinvOf_done (all := true) (f := sh.f) h (by rwa [begun_gr]) (by rwa [begun_gr, begun_gr])
    rw [begun_gr, begun_gr, begun_pidOf, begun_cur, begun_me_asid] at body
    exact exec_done (fun _ => rfl) h ((sysOp_released released).trans body) (keepsStrand_dropTrans ..)
  case coherent =>
    exact does_kept (fun _ => rfl) (fun sh s h ⟨released, first, whole, within⟩ =>
      (sysOp_released released).trans (rmodeOf_pages h first whole within)) fun _ _ => (sameCtxs_takesMode ..).keepsStrand
  case align => exact faults_of (fun _ => rfl) fun sh s h ⟨released, misaligned⟩ => (sysOp_released released).trans (rmodeOf_align h misaligned)
  case managed =>
    subst at_
    obtain ⟨first, whole, within⟩ := pages
    exact exec_done (fun _ => rfl) h ((sysOp_released released).trans (rmodeOf_pages h first whole within)) (sameCtxs_takesMode ..).keepsStrand
  case empty =>
    subst at_
    exact exec_done (fun _ => rfl) h ((sysOp_released released).trans (rmodeOf_none h first none_)) (.refl _)

end Sys2Proof.Machine
end

section
/-!
SUPPORT. Trap entry with one record (R322, R368, R369).
-/
namespace Sys2Proof.Machine

/-- A fault that is no failed check is recorded as it is: its entry marks no selector (R377). -/
theorem noSelector {f : FaultInfo} (sound : f.code ≠ cUncorrectable) :
    (f.code == cUncorrectable && f.aux == 0) = false ∧ ¬(f.code = cUncorrectable ∧ f.aux = 0) :=
  ⟨by rw [beq_eq_false_iff_ne.2 sound, Bool.false_and], fun both => sound both.1⟩

/-- Settles O44: neither a replay nor the limit of records nor a failed check changes what the entry writes. -/
theorem trapEntrySavesAndVectors : Obligations.TrapEntrySavesAndVectors := by
  intro s t f rpc k d device fresh below recorded room sound written
  obtain ⟨unmarked, kept⟩ := noSelector sound
  replace fresh : s.me.rett = none := fresh
  replace written : writeChain s s.me.depth.toNat false rpc [f] = (t, none) := written
  have fits : (s.me.sat || s.me.noFrec || decide (16 < s.me.depth.toNat + 1)) = false := by
    rw [below, recorded, decide_eq_false (Nat.not_lt.2 room)]
    rfl
  have level : (s.me.level == 2 || decide (s.me.depth.toNat + 1 = 16)) = decide device := by
    rw [Bool.decide_or]
    rfl
  unfold State.enterTrap
  simp only [List.any_cons, List.any_nil, unmarked, List.map_cons, List.map_nil, if_neg kept, Bool.or_self, Bool.false_eq_true, if_false, fresh,
    List.length_cons, List.length_nil, Nat.zero_add, fits, written, level, decide_eq_true_eq]
  rfl

end Sys2Proof.Machine
end

section
/-!
SUPPORT. Two changes of one context in turn.
-/
namespace Sys2Proof.Machine

section
variable {α : Type}

theorem mdel_mins_self (k : Nat) (v : α) (m : TMap α) : mdel (mins k v m) k = mdel m k := by
  induction m with
  | nil => simp [mdel, mins]
  | cons e m ih =>
    obtain ⟨j, w⟩ := e
    rw [mins]
    split
    · simp [mdel]
    · unfold mdel at ih ⊢
      rw [List.filter_cons, List.filter_cons, ih]

theorem mdel_mdel (m : TMap α) (k : Nat) : mdel (mdel m k) k = mdel m k := by
  unfold mdel
  rw [List.filter_filter]
  simp

variable [DecidableEq α] (d : α)

theorem mdel_mset_self (m : TMap α) (k : Nat) (v : α) : mdel (mset d m k v) k = mdel m k := by
  unfold mset
  split
  · exact mdel_mdel m k
  · rw [mdel_mins_self, mdel_mdel]

/-- Of two writes at one key the second stands. -/
theorem mset_mset_self (m : TMap α) (k : Nat) (v w : α) : mset d (mset d m k v) k w = mset d m k w := by
  conv_lhs => rw [mset, mdel_mset_self]
  rfl

end

theorem State.updCore_updCore (s : State) (c : Nat) (f g : Core → Core) : (s.updCore c f).updCore c g = s.updCore c (g ∘ f) := by
  conv_lhs => rw [State.updCore, State.core_updCore_self]
  simp only [State.updCore, State.setCore, mset_mset_self, Function.comp_apply]

theorem State.updCtx_updCtx (s : State) (c x : Nat) (f g : Ctx → Ctx) : (s.updCtx c x f).updCtx c x g = s.updCtx c x (g ∘ f) := by
  conv_lhs => rw [State.updCtx, State.ctx_updCtx_self]
  rw [State.updCtx, State.setCtx, State.setCtx, State.updCore_updCore]
  simp only [State.updCtx, State.setCtx, Function.comp_def, mset_mset_self]

theorem State.updMe_updMe (s : State) (f g : Ctx → Ctx) : (s.updMe f).updMe g = s.updMe (g ∘ f) := s.updCtx_updCtx s.cur s.cx f g

end Sys2Proof.Machine
end

section
/-!
SUPPORT. Return from a trap (R325, R373).
-/
namespace Sys2Proof.Machine

/-- The effect of `rett`. -/
def rettBody (s : State) (_ : Shape) : Eff :=
  if s.me.depth = 0 && !s.me.sat then .flt cIllegal 0
  else if !s.me.posted.isEmpty then .wait .handler
  else
    match s.popRecords 16 with
    | (_, some (c, a)) => .flt c a
    | (t, none) => .left (t.updMe (fun k => { k with st := .ready, busyTill := s.cycles + 8 }))

theorem exec_rett (s : State) : exec .rett s = issue .rett s rettBody := rfl

theorem outside_iff (k : Ctx) : (k.depth = 0 && !k.sat) = true ↔ ¬(k.depth ≠ 0 ∨ k.sat = true) := by
  simp

theorem faults_rett : Faults .rett (fun s => s.me.depth = 0 ∧ s.me.sat = false) cIllegal (fun _ => 0) :=
  faults_of exec_rett fun sh s _ ⟨none_, unsaturated⟩ => by
    rw [rettBody, if_pos (by rw [none_, unsaturated]; rfl)]
    rfl

theorem awaits_rett : Awaits .rett (fun s => (s.me.depth ≠ 0 ∨ s.me.sat = true) ∧ s.me.posted ≠ []) (fun _ => .handler) :=
  awaits_of exec_rett fun sh s _ ⟨entered, busy⟩ => by
    rw [rettBody, if_neg (fun out => (outside_iff _).1 out entered), if_pos (by simpa using busy)]

theorem departs_rett (t : State) : Departs .rett (fun s => (s.me.depth ≠ 0 ∨ s.me.sat = true) ∧ s.me.posted = [] ∧ s.popRecords 16 = (t, none))
    (fun s _ => t.updMe (fun k => { k with st := .ready, busyTill := s.cycles + 8 })) :=
  departs_of exec_rett fun sh s _ ⟨entered, quiet, popped⟩ => by
    rw [rettBody, if_neg (fun out => (outside_iff _).1 out entered), if_neg (by simp [quiet]), popped]

/-- The slot of the topmost record (R368, R373). -/
abbrev Ctx.topSlot (k : Ctx) : Nat := (if k.sat then 16 else k.depth.toNat) - 1

section
variable {s t : State} {r : RecIn} (found : s.readRecord s.me.topSlot = (t, .ok r)) (n : Nat)
include found

/-- A record that replays nothing ends a chain that it does not continue. -/
theorem popRecords_plain (plain : r.f.skip = true ∨ r.f.iw = 0) (last : r.chn = false) : s.popRecords (n + 1) = (t.updMe (fun k => { k with
    sat := false, depth := BitVec.ofNat 4 s.me.topSlot, hypCur := r.hyp, rett := none, lvl := k.plvl, ien := true, pc := r.rpc }), none) := by
  have skips : (r.f.skip || r.f.iw == 0) = true := by
    rw [Bool.or_eq_true, beq_iff_eq]
    exact plain
  simp only [State.popRecords, found, skips, last, if_true, Bool.false_eq_true, if_false, State.updMe_updMe]
  rfl

/-- One that names an instruction is replayed. -/
theorem popRecords_replays (kept : r.f.skip = false) (real : r.f.iw ≠ 0) : s.popRecords (n + 1) = (t.updMe (fun k => { k with
    sat := false, depth := BitVec.ofNat 4 s.me.topSlot, hypCur := r.hyp, rett := some { now := some r.f, chn := r.chn, rpc := r.rpc } }), none) := by
  have replays : (r.f.skip || r.f.iw == 0) = false := by
    rw [kept, Bool.false_or]
    exact beq_eq_false_iff_ne.2 real
  simp only [State.popRecords, found, replays, Bool.false_eq_true, if_false, State.updMe_updMe]
  rfl

end

/-- Settles O45: `rett` by what it finds of entries and posted operations, a pop by what its record replays. -/
theorem returnFromTrap : Obligations.ReturnFromTrap :=
  ⟨⟨faults_rett, awaits_rett, departs_rett⟩,
    fun _ _ _ n found => ⟨popRecords_plain found n, popRecords_replays found n⟩⟩

end Sys2Proof.Machine
end

section
/-!
SUPPORT. Join counters at their home (R259, R260) and the record of a `park` (R261).
-/
namespace Sys2Proof.Machine

/-! A context that becomes Free (R29). -/

theorem State.win_unpublishMoved (s : State) (c x : Nat) : (s.unpublishMoved c x).win = s.win := by
  unfold State.unpublishMoved
  induction s.cores.map (·.1) generalizing s with
  | nil => rfl
  | cons d l ih =>
    rw [List.foldl_cons, ih]
    split <;> rfl

theorem State.joinMeta_unpublishMoved (s : State) (c x : Nat) : (s.unpublishMoved c x).joinMeta = s.joinMeta := by
  unfold State.unpublishMoved
  induction s.cores.map (·.1) generalizing s with
  | nil => rfl
  | cons d l ih =>
    rw [List.foldl_cons, ih]
    split <;> rfl

/-- It leaves window memory and what stands beside counters alone. -/
theorem State.win_freeCtx (s : State) (c x : Nat) : (s.freeCtx c x).win = s.win := by
  rw [State.freeCtx, State.setCtx_win, State.updCore_win, State.win_unpublishMoved]
  rfl

theorem State.joinMeta_freeCtx (s : State) (c x : Nat) : (s.freeCtx c x).joinMeta = s.joinMeta := by
  rw [State.freeCtx, State.setCtx_joinMeta, State.updCore_joinMeta, State.joinMeta_unpublishMoved]
  rfl

theorem State.st_freeCtx (s : State) (c x : Nat) : ((s.freeCtx c x).ctx c x).st = .free := by
  rw [State.freeCtx, State.ctx_setCtx, if_pos ⟨rfl, rfl⟩]

/-! The word of a counter (R258): its count, the waiting record's slot, and whether one waits. -/

theorem bits_zero (x n : Nat) : bits x 0 n = x % 2 ^ n := by rw [bits, pow_zero, Nat.div_one]

/-- One less, with bit 63 set. -/
theorem armed_word {w : Nat} (word : w < 2 ^ 64) (many : 1 < w % 2 ^ 32) : w - 1 - bits w 63 1 * 2 ^ 63 + 2 ^ 63 = (w - 1) % 2 ^ 63 + 2 ^ 63 := by
  unfold bits
  omega

/-- Where the record stands that the word of the counter at `a` names (R259). -/
abbrev counterSlot (a w : Nat) : Nat := a / 2 ^ 23 * 2 ^ 23 + 64 * (w / 2 ^ 32 % 2 ^ 17)

/-- An earlier `join` leaves its record, and its strand (R259). -/
def State.leavesRecord (s : State) (c x a w : Nat) (rcd : Record) (m : Meta) : State :=
  (({ ({ s with win := s.win.store (counterSlot a w) rcd.toNat 64 } : State).putCounter a (w - 1 - bits w 63 1 * 2 ^ 63 + 2 ^ 63) with
    joinMeta := mset none s.joinMeta a (some m) }) : State).freeCtx c x

/-- The last decrement sends the record that waits (R260). -/
def State.sendsRecord (s : State) (c a w : Nat) (m : Meta) : State :=
  ({ s.putCounter a (w - 1 - 2 ^ 63) with joinMeta := mset none s.joinMeta a none } : State).offer c
    { src := c, pkt := kind3 (BitVec.ofNat 512 (s.win.read (counterSlot a w) 64)), mt := (mget none s.joinMeta a).getD m
      since := s.cycles + 24, ra := counterSlot a w }

theorem State.win_sendsRecord (s : State) (c a w : Nat) (m : Meta) : (s.sendsRecord c a w m).win = s.win.write a (w - 1 - 2 ^ 63) 8 := rfl

theorem State.offers_sendsRecord (s : State) (c a w : Nat) (m : Meta) : ((s.sendsRecord c a w m).core c).offers = (s.core c).offers ++
    [{ src := c, pkt := kind3 (BitVec.ofNat 512 (s.win.read (counterSlot a w) 64)), mt := (mget none s.joinMeta a).getD m
       since := s.cycles + 24, ra := counterSlot a w }] := by
  have core (v : Nat) : (({ s.putCounter a v with joinMeta := mset none s.joinMeta a none } : State).core c) = s.core c := rfl
  rw [State.sendsRecord, State.offer, State.core_updCore_self, core]

section
variable {s : State} {p : Pkt} {c x : Nat} {a : Word} {rcd : Record} {m : Meta} (next : nth s.net s.ev.k = some p)
  (turn : s.counterTurn s.ev.k = true) (sound : s.win.isBad a.toNat = false)
include next turn sound

/-- What a `join` does at its counter, by the count. -/
theorem joinStep_eq (join : p.body = .join c x a rcd m) : s.joinStep s.ev.k =
    some (if s.win.read a.toNat 8 % 2 ^ 32 = 0 then (s.dropPkt s.ev.k).sentFault c x cIllegal a 0
      else if s.win.read a.toNat 8 % 2 ^ 32 = 1 then ((s.dropPkt s.ev.k).putCounter a.toNat (s.win.read a.toNat 8 - 1)).goOn c x
      else (s.dropPkt s.ev.k).leavesRecord c x a.toNat (s.win.read a.toNat 8) rcd m) := by
  have sound' : (s.dropPkt s.ev.k).win.isBad a.toNat = false := sound
  cases p
  subst join
  simp only [State.joinStep, next, turn, sound', bits_zero, Bool.not_true, Bool.false_eq_true, if_false]
  rw [apply_ite some, apply_ite some]
  rfl

/-- What a decrement does at its counter, by the count and whether a record waits. -/
theorem decStep_eq (decrement : p.body = .decrement c a m) : s.decStep s.ev.k =
    some (if s.win.read a.toNat 8 % 2 ^ 32 = 0 then s.dropPkt s.ev.k
      else if s.win.read a.toNat 8 % 2 ^ 32 = 1 ∧ s.win.read a.toNat 8 / 2 ^ 63 % 2 = 1 then
        (s.dropPkt s.ev.k).sendsRecord c a.toNat (s.win.read a.toNat 8) m
      else (s.dropPkt s.ev.k).putCounter a.toNat (s.win.read a.toNat 8 - 1)) := by
  have sound' : (s.dropPkt s.ev.k).win.isBad a.toNat = false := sound
  cases p
  subst decrement
  simp only [State.decStep, next, turn, sound', bits_zero, Bool.not_true, Bool.false_eq_true, if_false, Bool.or_false, Bool.and_eq_true,
    decide_eq_true_eq, beq_iff_eq]
  rw [apply_ite some, apply_ite some]
  rfl

end

/-- What the record of a `park` does by the answer of its word (R261). -/
def parkAnswered (c x : Nat) (r : MemReq) (rcd : Record) (m : Meta) : State × Done → Option State
  | (s, .flt code a) => some (s.sentFault c x code a 0)
  | (s, .ok _ _) => some ((s.offer c { src := c, pkt := kind3 rcd, mt := m, since := s.cycles + 24 }).freeCtx c x)
  | (s, .wait loc) => some (({ s with
      waiters := s.waiters ++ [{ loc, kind := .park, core := c, ctx := x, op := 0, r, rcd, mt := m }] } : State).freeCtx c x)
  | (_, .hold) => none

theorem parkStep_eq {s : State} {p : Pkt} {c x : Nat} {r : MemReq} {rcd : Record} {m : Meta} (mine : IsNext s p)
    (park : p.body = .parkRec c x r rcd m) :
    s.parkStep s.ev.k = parkAnswered c x r rcd m (performFe (s.dropPkt s.ev.k) (r.who c .strand) r) := by
  obtain ⟨next, first⟩ := mine
  cases p
  subst park
  simp only [State.parkStep, next, first, Bool.not_true, Bool.false_eq_true, if_false]
  generalize performFe (s.dropPkt s.ev.k) (r.who c .strand) r = answer
  obtain ⟨t, v | code | loc | _⟩ := answer <;> rfl

/-- An event whose step applies. -/
theorem next_of_step {o : Option State} {s u : State} (step : o = some u) :
    (.next (o.getD s) : Host.Outcome State Fault Refusal) = .next u := by rw [step, Option.getD_some]

/-- Settles O26: a join and a decrement by the count that they find, the record of a `park` by the answer of its word. -/
theorem joinCountersAndParkedRecords : Obligations.JoinCountersAndParkedRecords := by
  refine ⟨fun s p c x a rcd m => ?counter, fun s t p c x r rcd m mine park => ?parked⟩
  case parked =>
    have step := parkStep_eq mine park
    exact ⟨fun v fl answer => next_of_step (step.trans (by rw [answer]; rfl)), fun code a answer => next_of_step (step.trans (by rw [answer]; rfl)),
      fun loc answer => next_of_step (step.trans (by rw [answer]; rfl))⟩
  intro t w n armed slot next turn sound word
  refine ⟨fun join => ?joins, fun decrement => ?decrements⟩
  case joins =>
    have step := joinStep_eq next turn sound join
    refine ⟨fun none_ => next_of_step (step.trans (congrArg some (if_pos none_))), fun one => next_of_step (step.trans ?last), fun many => ?earlier⟩
    case last => rw [if_neg (ne_of_eq_of_ne one one_ne_zero), if_pos one]
    case earlier =>
      rw [if_neg (Nat.ne_of_gt (Nat.lt_trans Nat.zero_lt_one many)), if_neg (Nat.ne_of_gt many)] at step
      refine ⟨_, next_of_step step, State.st_freeCtx _ c x, ?_, ?_⟩
      · rw [State.leavesRecord, State.win_freeCtx, armed_word word many]
        rfl
      · rw [State.leavesRecord, State.joinMeta_freeCtx, mget_mset_self]
  case decrements =>
    have step := decStep_eq next turn sound decrement
    refine ⟨fun none_ => next_of_step (step.trans (congrArg some (if_pos none_))), fun one waits => ?sends, fun more => next_of_step (step.trans ?counts)⟩
    case sends =>
      rw [if_neg (ne_of_eq_of_ne one one_ne_zero), if_pos ⟨one, waits⟩] at step
      exact ⟨_, next_of_step step, State.win_sendsRecord .., State.offers_sendsRecord ..⟩
    case counts =>
      rw [if_neg, if_neg]
      · rintro ⟨one, waits⟩
        rcases more with many | ⟨-, alone⟩
        · exact Nat.ne_of_gt many one
        · exact alone waits
      · rcases more with many | ⟨one, -⟩ <;> omega

end Sys2Proof.Machine
end

section
/-!
SUPPORT. What binds first at a core (R250, R344): of the entries that may bind, after a met pre-emption request those of the highest priority.
-/
namespace Sys2Proof.Machine

theorem le_foldl_max (l : List Nat) (a : Nat) : a ≤ l.foldl max a ∧ ∀ x ∈ l, x ≤ l.foldl max a := by
  induction l generalizing a with
  | nil => exact ⟨le_rfl, fun _ h => absurd h List.not_mem_nil⟩
  | cons y l ih =>
    obtain ⟨start, rest⟩ := ih (max a y)
    refine ⟨(le_max_left a y).trans start, fun x h => ?_⟩
    rcases List.mem_cons.1 h with rfl | h
    · exact (le_max_right a x).trans start
    · exact rest x h

theorem foldl_max_le {l : List Nat} {a b : Nat} (start : a ≤ b) (rest : ∀ x ∈ l, x ≤ b) : l.foldl max a ≤ b := by
  induction l generalizing a with
  | nil => exact start
  | cons y l ih => exact ih (max_le start (rest y List.mem_cons_self)) fun x h => rest x (List.mem_cons_of_mem y h)

/-- A listed number bounds the list just where it is the maximum. -/
theorem eq_foldl_max_iff {l : List Nat} {q : Nat} (listed : q ∈ l) : q = l.foldl max 0 ↔ ∀ x ∈ l, x ≤ q := by
  obtain ⟨-, above⟩ := le_foldl_max l 0
  refine ⟨fun top x h => top ▸ above x h, fun bound => le_antisymm (above q listed) (foldl_max_le (Nat.zero_le q) bound)⟩

/-- The first element of a list that a test picks. -/
theorem head?_filter_of_first {α : Type} {p : α → Bool} {l r : List α} {e : α} (before : ∀ d ∈ l, p d = false) (here : p e = true) :
    ((l ++ e :: r).filter p).head? = some e := by
  rw [List.filter_append, List.filter_eq_nil_iff.2 fun d h => Bool.eq_false_iff.1 (before d h), List.filter_cons_of_pos here]
  rfl

/-- The arrivals that may bind, oldest first, and the entries of the deque, youngest first (R250). -/
abbrev State.heldReady (s : State) (c : Nat) : List SorEnt := (s.core c).sorus.filter (s.sorBindable c)
abbrev State.pushedReady (s : State) (c : Nat) : List DqEnt := (s.core c).deque.reverse.filter (·.takeable)

/-- Whether an entry of a priority is one of those that a met pre-emption request was for, or none was met (R344). -/
def State.first (s : State) (c p : Nat) : Bool :=
  !(s.core c).preemptMet || ((s.heldReady c).all (fun e => decide (e.mt.prio ≤ p)) && (s.pushedReady c).all (fun e => decide (e.mt.prio ≤ p)))

theorem first_iff (s : State) (c p : Nat) : s.first c p = true ↔
    ((s.core c).preemptMet = true → (∀ e ∈ s.heldReady c, e.mt.prio ≤ p) ∧ ∀ e ∈ s.pushedReady c, e.mt.prio ≤ p) := by
  unfold State.first
  cases (s.core c).preemptMet <;> simp only [Bool.not_true, Bool.not_false, Bool.true_or, Bool.false_or, Bool.and_eq_true, List.all_eq_true,
    decide_eq_true_eq, forall_const, Bool.false_eq_true, false_implies]

/-- Those are what binds. -/
theorem bindable_eq (s : State) (c : Nat) : s.bindable c =
    ((s.heldReady c).filter (fun e => s.first c e.mt.prio), (s.pushedReady c).filter (fun e => s.first c e.mt.prio)) := by
  unfold State.bindable
  dsimp only
  split
  case isFalse unmet =>
    have all (p : Nat) : s.first c p = true := (first_iff s c p).2 fun met => absurd met unmet
    simp only [all, List.filter_true]
  case isTrue met =>
    have top (q : Nat) (listed : q ∈ (s.heldReady c).map (·.mt.prio) ++ (s.pushedReady c).map (·.mt.prio)) :
        (q == ((s.heldReady c).map (·.mt.prio) ++ (s.pushedReady c).map (·.mt.prio)).foldl max 0) = s.first c q := by
      rw [Bool.eq_iff_iff, beq_iff_eq, eq_foldl_max_iff listed, List.forall_mem_append, List.forall_mem_map, List.forall_mem_map, first_iff]
      exact ⟨fun bound _ => bound, fun bound => bound met⟩
    exact Prod.ext (List.filter_congr fun e h => top _ (List.mem_append_left _ (List.mem_map_of_mem h)))
      (List.filter_congr fun e h => top _ (List.mem_append_right _ (List.mem_map_of_mem h)))

/-- The oldest arrival that binds, and the youngest entry. -/
theorem head?_bindable_held {s : State} {c : Nat} {l r : List SorEnt} {e : SorEnt} (held : s.heldReady c = l ++ e :: r)
    (first : s.first c e.mt.prio = true) (before : ∀ d ∈ l, ¬s.first c d.mt.prio = true) : (s.bindable c).1.head? = some e := by
  rw [bindable_eq]
  dsimp only
  rw [held]
  exact head?_filter_of_first (fun d h => Bool.eq_false_iff.2 (before d h)) first

theorem head?_bindable_pushed {s : State} {c : Nat} {l r : List DqEnt} {e : DqEnt} (young : s.pushedReady c = l ++ e :: r)
    (first : s.first c e.mt.prio = true) (before : ∀ d ∈ l, ¬s.first c d.mt.prio = true) : (s.bindable c).2.head? = some e := by
  rw [bindable_eq]
  dsimp only
  rw [young]
  exact head?_filter_of_first (fun d h => Bool.eq_false_iff.2 (before d h)) first

/-- No arrival binds. -/
theorem bindable_held_none {s : State} {c : Nat} (none_ : ∀ d ∈ s.heldReady c, ¬s.first c d.mt.prio = true) : (s.bindable c).1.head? = none := by
  rw [bindable_eq]
  dsimp only
  rw [List.filter_eq_nil_iff.2 none_]
  rfl

end Sys2Proof.Machine
end

section
/-!
SUPPORT. Binding, stealing and arrivals (R250 to R252, R263, R309).
-/
namespace Sys2Proof.Machine

/-- A core may bind into context `x` in this ck (R250). -/
abbrev State.MayBind (s : State) (c x : Nat) : Prop :=
  (s.core c).unavailable = false ∧ (s.core c).boundIn ≠ s.cycles + 1 ∧ s.freeContext c = some x

/-- The core has bound in this ck. -/
abbrev State.bindsNow (s : State) (c : Nat) : State := s.updCore c (fun k => { k with boundIn := s.cycles + 1, probe := 0, preemptMet := false })

/-- An entry leaves its deque through the port (R252). -/
abbrev State.popsEntry (t s : State) (v : Nat) (e : DqEnt) : State :=
  t.updCore v (fun k => { k with deque := k.deque.filter (fun d => d.slot != e.slot), portAt := s.cycles + 1 })

/-- An entry of core `v`'s deque binds at core `c` (R250, R252). -/
abbrev State.bindsPushed (t s : State) (c x v : Nat) (e : DqEnt) : State :=
  t.bindEntry c x (s.dqRecord v e.slot) (e.ra.getD (bufAddr v 3 + 64 * e.slot)) e.mt e.launchEntry

section
variable {s : State} {c x : Nat} (may : s.MayBind c x)
include may

theorem bindOne_held {e : SorEnt} (first : (s.bindable c).1.head? = some e) : s.bindOne c = some ((s.bindsNow c).bindSor c x e) := by
  obtain ⟨there, unbound, free⟩ := may
  simp [State.bindOne, there, unbound, free, first]

theorem bindOne_pushed {e : DqEnt} (none_ : (s.bindable c).1.head? = none) (port : s.portUsed c = false)
    (first : (s.bindable c).2.head? = some e) : s.bindOne c = some (((s.bindsNow c).popsEntry s c e).bindsPushed s c x c e) := by
  obtain ⟨there, unbound, free⟩ := may
  simp [State.bindOne, there, unbound, free, none_, port, first]

section
variable {v : Nat} {e : DqEnt} (noneHeld : (s.core c).sorus = []) (nonePushed : (s.core c).deque = [])
  (probed : neighbour c (s.core c).probe = some v) (oldest : (s.core v).deque.head? = some e) (there : (s.core v).unavailable = false)
  (takeable : e.takeable = true) (near : s.stealOk e.mt.dom c v = true)
include noneHeld nonePushed probed oldest there takeable near

/-- What a probe finds at a neighbour whose oldest entry the core may take. -/
theorem stealOne_eq : s.stealOne c = if s.portUsed v || s.ownerPops v then none
    else some (((s.popsEntry s v e).updCore c (fun k => { k with boundIn := s.cycles + 1, probe := 0 })).bindsPushed s c x v e) := by
  obtain ⟨here, unbound, free⟩ := may
  simp [State.stealOne, here, unbound, free, noneHeld, nonePushed, probed, oldest, there, takeable, near]
end
end

theorem entryTakeable_over {s : State} {c i : Nat} {e : DqEnt} (at_ : nth (s.core c).deque i = some e) (waits : e.takeable = false)
    (ended : e.after.all s.opOver = true) (owed : s.oweOver e = true) : s.entryTakeable c i = some (s.updCore c (fun k => { k with
      deque := updNth (fun d => { d with takeable := true, after := [], owe := none }) k.deque i })) := by
  simp only [State.entryTakeable, at_, waits, ended, owed, Bool.not_true, Bool.or_self, Bool.false_eq_true, if_false]

theorem entryTakeable_waits {s : State} {c i : Nat} {e : DqEnt} (at_ : nth (s.core c).deque i = some e)
    (waits : e.after.all s.opOver = false ∨ s.oweOver e = false) : s.entryTakeable c i = none := by
  rcases waits with open_ | owed
  · simp only [State.entryTakeable, at_, open_, Bool.not_false, Bool.or_true, Bool.true_or, if_true]
  · simp only [State.entryTakeable, at_, owed, Bool.not_false, Bool.or_true, if_true]

/-! Arrivals. -/

/-- The arrival that a core judges next, as its sorus keeps it, and the core that it has left Offered for (R263). -/
abbrev Offer.entry (o : Offer) : SorEnt := { slot := 0, mt := o.mt, held := o.held, ra := o.ra }
abbrev State.takesIn (s : State) (c : Nat) (o : Offer) : State := (s.updCore c (fun k => { k with offers := k.offers.erase o })).senderLeaves o

/-- A sorus that is full, or something Spilled. -/
theorem not_holds {k : Core} (full : k.sorusDepth.toNat ≤ k.sorus.length ∨ k.spilled ≠ []) :
    ¬(decide (k.sorus.length < k.sorusDepth.toNat) && k.spilled.isEmpty) = true := by
  rw [Bool.and_eq_true, decide_eq_true_eq, List.isEmpty_iff]
  rintro ⟨room, none_⟩
  rcases full with full | some_
  · exact Nat.not_lt.2 full room
  · exact some_ none_

section
variable {s : State} {c : Nat} {o : Offer} (due : s.refillDue c = false) (bound : s.sorusBinds c = false)
  (next : nextOffer s.cycles (s.core c).offers = some o)
include due bound next

theorem sorusArrive_held (room : (s.core c).sorus.length < (s.core c).sorusDepth.toNat) (none_ : (s.core c).spilled = []) :
    s.sorusArrive c = some ((s.takesIn c o).holdPkt c o.pkt o.entry) := by
  simp [State.sorusArrive, due, bound, next, room, none_]

section
variable (full : (s.core c).sorusDepth.toNat ≤ (s.core c).sorus.length ∨ (s.core c).spilled ≠ [])
include full

theorem sorusArrive_spilled {n : Nat} (space : (s.core c).spilled.length < (s.core c).spillCap.toNat)
    (slot : (List.range (s.core c).spillCap.toNat).find? (fun n => (s.core c).spilled.all (fun d => d.slot != n)) = some n) :
    s.sorusArrive c = some (((s.takesIn c o).winStore ((s.takesIn c o).spillAddr c n) o.pkt.toNat 96).updCore c (fun k => { k with
      spilled := k.spilled ++ [{ o.entry with slot := n, ready := s.cycles + 40 }] })) := by
  simp only [State.sorusArrive, due, bound, next, Bool.or_self, Bool.false_eq_true, if_false, if_neg (not_holds full), space, if_true, slot]

theorem sorusArrive_full (none_ : (s.core c).spillCap.toNat ≤ (s.core c).spilled.length) : s.sorusArrive c = none := by
  simp only [State.sorusArrive, due, bound, next, Bool.or_self, Bool.false_eq_true, if_false, if_neg (not_holds full),
    if_neg (Nat.not_lt.2 none_)]

end
end

section
variable {s : State} {c : Nat} {d : SorEnt} {rest : List SorEnt} (oldest : (s.core c).spilled = d :: rest)
include oldest

theorem sorusRefill_starts (idle : (s.core c).refill = none) (ready : d.ready ≤ s.cycles)
    (room : (s.core c).sorus.length < (s.core c).sorusDepth.toNat) :
    s.sorusRefill c = some (s.updCore c (fun k => { k with refill := some (s.cycles + 40) })) := by
  simp [State.sorusRefill, State.refillDue, oldest, idle, ready, room]

theorem sorusRefill_ends {t : Nat} (busy : (s.core c).refill = some t) (ended : t ≤ s.cycles) : s.sorusRefill c =
    some ((s.updCore c (fun k => { k with spilled := rest, refill := none })).holdPkt c
      (BitVec.ofNat 768 (s.win.read (s.spillAddr c d.slot) 96)) d) := by
  simp [State.sorusRefill, State.refillDue, oldest, busy, ended]

end

/-- An offer that has run out at the end of a ck. -/
theorem offerExpire_over {s : State} {c i x : Nat} {o : Offer} (at_ : nth (s.core c).offers i = some o) (sender : o.sender = some x)
    (limited : (s.ctx o.src x).wlimit ≠ 0) (ended : o.since + (s.ctx o.src x).wlimit.toNat ≤ s.cycles) : s.offerExpire c i =
    some ((s.updCore c (fun k => { k with offers := delNth k.offers i })).sentFault o.src x cWaitLimit (o.pkt.extractLsb' 64 64) 0) := by
  have limit : (s.ctx o.src x).wlimit.toNat ≠ 0 := fun h => limited (BitVec.eq_of_toNat_eq (by simpa using h))
  simp only [State.offerExpire, at_, sender, limit, Nat.not_lt.2 ended, or_self, if_false]

theorem execSorusOfferExpiry_of {s t : State} (expires : ({ s with cycles := s.cycles - 1 } : State).offerExpire s.ev.core s.ev.i = some t) :
    exec .sorusOfferExpiry s = .next { t with cycles := s.cycles } := by
  change execSorusOfferExpiry s = _
  rw [execSorusOfferExpiry, State.lastCk, expires]
  rfl

/-- Settles O25: a binding by what may bind first, a probe by its neighbour's oldest entry, an arrival by the room that the sorus has. -/
theorem bindingStealingAndArrivals : Obligations.BindingStealingAndArrivals := by
  refine ⟨fun s x => ?binds, fun s o => ?arrives⟩
  case binds =>
    have picks (p : Nat) := first_iff s s.ev.core p
    refine ⟨fun may l e r held first before => next_of_step (bindOne_held may
        (head?_bindable_held held ((picks _).2 first) fun d h => before d h ∘ (picks _).1)),
      fun may none_ port l e r young first before => next_of_step (bindOne_pushed may (bindable_held_none fun d h => none_ d h ∘ (picks _).1) port
        (head?_bindable_pushed young ((picks _).2 first) fun d h => before d h ∘ (picks _).1)),
      fun may noneHeld nonePushed v e probed oldest there takeable near => ?steals,
      fun e at_ waits ended owed => next_of_step (entryTakeable_over at_ waits ended owed), fun e at_ waits => ?stays⟩
    case steals =>
      have step := stealOne_eq may noneHeld nonePushed probed oldest there takeable near
      refine ⟨fun used => ?_, fun port owner => next_of_step (step.trans (if_neg (by rw [port, owner]; exact Bool.false_ne_true)))⟩
      rw [if_pos used] at step
      exact congrArg (fun t : Option State => Host.Outcome.next (t.getD s)) step
    case stays => exact congrArg (fun t : Option State => Host.Outcome.next (t.getD s)) (entryTakeable_waits at_ waits)
  case arrives =>
    refine ⟨fun ⟨due, bound, next⟩ room none_ => next_of_step (sorusArrive_held due bound next room none_),
      fun ⟨due, bound, next⟩ full space n slot => next_of_step (sorusArrive_spilled due bound next full space slot),
      fun ⟨due, bound, next⟩ full none_ => congrArg (fun t : Option State => Host.Outcome.next (t.getD s)) (sorusArrive_full due bound next full none_),
      fun d rest oldest idle ready room => next_of_step (sorusRefill_starts oldest idle ready room),
      fun d rest t oldest busy ended => next_of_step (sorusRefill_ends oldest busy ended), fun x at_ sender limited ended => ?expires⟩
    case expires =>
      exact execSorusOfferExpiry_of (offerExpire_over (s := { s with cycles := s.cycles - 1 }) at_ sender limited (Nat.le_sub_one_of_lt ended))

end Sys2Proof.Machine
end

section
/-!
SUPPORT. Strands bound to positions (R268 to R272), at issue.
-/
namespace Sys2Proof.Machine

/-! Position tables are no part of a context (R269). -/

theorem sameCtxs_unpublish (s : State) (c x : Nat) : SameCtxs s (s.updCore c (fun k => k.unpublish x)) := sameCtxs_updCore s c _ rfl

theorem sameCtxs_unpublishMoved (s : State) (c x : Nat) : SameCtxs s (s.unpublishMoved c x) :=
  sameCtxs_foldl (fun s d => by
    split
    · exact sameCtxs_unpublish s d _
    · exact SameCtxs.refl s) _ s

/-! `pbind` (R268, R269). -/

/-- The binding that `pbind` makes. -/
def pbindOf (f : Fields) (s : State) (away : Bool) (k : Ctx) : PosBind where
  crd := f.a.toNat
  tag := (s.gr f.d).setWidth 32
  live := BitVec.ofNat 64 ((maskRegs (s.gr f.b) f.a.toNat).foldl (fun n j => n + 2 ^ j) 0)
  departing := away
  depth := k.trapDepth

/-- The old binding goes, and the new one stands (R269). -/
def State.rebinds (s : State) (f : Fields) (away : Bool) : State :=
  ((s.updMyCore (fun k => k.unpublish s.cx)).unpublishMoved s.cur s.cx).updMe (fun k => { k with pos := some (pbindOf f s away k) })

/-- It is published at its core (R269). -/
def State.bindsHere (s : State) (f : Fields) : State :=
  (s.rebinds f false).updMyCore (fun k => { k with postab := k.postab ++ [{ tag := (s.gr f.d).setWidth 32, pos := s.gr f.a, ctx := s.cx }] })

/-- The effect of `pbind`. -/
def pbindBody (f : Fields) (s : State) (_ : Shape) : Eff :=
  match s.cellCore (s.pidOf s.cur) (s.gOp 1 f.a) with
  | none => .flt cWindow (s.gOp 1 f.a)
  | some c =>
    if c ≠ s.cur ∧ overMask (s.gOp 2 f.b) 7 f.a.toNat then .flt cIllegal 0
    else
      let tag : BitVec 32 := (s.gOp 0 f.d).setWidth 32
      let live : Word := BitVec.ofNat 64 ((maskRegs (s.gOp 2 f.b) f.a.toNat).foldl (fun n j => n + 2 ^ j) 0)
      let t := (s.updMyCore (fun k => k.unpublish s.cx)).unpublishMoved s.cur s.cx
      let t := t.updMe (fun k => { k with pos := some { crd := f.a.toNat, tag, live, departing := c != t.cur, depth := k.trapDepth } })
      .done (if c = t.cur then t.updMyCore (fun k => { k with postab := k.postab ++ [{ tag, pos := s.gOp 1 f.a, ctx := t.cx }] }) else t)

theorem exec_pbind (f : Fields) (s : State) : exec (.pbind f) s = issue (.pbind f) s (pbindBody f) := rfl

theorem sameCtxs_unbound (s : State) : SameCtxs s ((s.updMyCore (fun k => k.unpublish s.cx)).unpublishMoved s.cur s.cx) :=
  (sameCtxs_unpublish s s.cur s.cx).trans (sameCtxs_unpublishMoved _ _ _)

theorem me_updMyCore_of {g : Core → Core} (keeps : ∀ k, (g k).ctxs = k.ctxs) (s : State) : (s.updMyCore g).me = s.me :=
  (sameCtxs_updCore s s.cur g (keeps _)).me

theorem me_unpublish (s : State) (x : Nat) : (s.updMyCore (fun k => k.unpublish x)).me = s.me := (sameCtxs_unpublish s s.cur x).me

theorem me_bindsHere (s : State) (f : Fields) : (s.bindsHere f).me = (s.rebinds f false).me := by
  rw [State.bindsHere, me_updMyCore_of]
  intro k
  rfl

/-- What its strand is left with decides nothing else: `pbind` writes no register. -/
theorem pbind_retires {f : Fields} {sh : Shape} {s t : State} (h : Issues (.pbind f) sh s) {away : Bool} (binds : t.me = ((s.begun sh).rebinds f away).me) :
    t.me.pos.all (stays sh) = true ∧ t.me.rett = none := by
  have shape := Option.some.inj ((show some _ = (Instr.pbind f).shape s.flds from rfl).trans h.shape)
  rw [binds, State.rebinds, State.me_updMe, (sameCtxs_unbound _).me]
  have fresh : (s.begun sh).me.rett = none := (begun_me_rett s sh).trans h.fresh
  constructor
  · subst shape
    rfl
  · dsimp only
    exact fresh

section
variable {f : Fields} {sh : Shape} {s : State} (h : Issues (.pbind f) sh s)
include h

theorem pbindBody_hosted {c : Nat} (host : (s.begun sh).cellCore ((s.begun sh).pidOf (s.begun sh).cur) ((s.begun sh).gr f.a) = some c) :
    pbindBody f (s.begun sh) sh = if c ≠ (s.begun sh).cur ∧ overMask ((s.begun sh).gr f.b) 7 f.a.toNat then .flt cIllegal 0
      else .done (if c = (s.begun sh).cur then (s.begun sh).bindsHere f else (s.begun sh).rebinds f true) := by
  obtain ⟨cur, cx, -, -⟩ := sameCtxs_unbound (s.begun sh)
  unfold pbindBody
  simp only [h.gOp, host, cur, cx, State.updMe_cur, State.updMe_cx]
  split
  · rfl
  · rename_i allowed
    by_cases here : c = (s.begun sh).cur
    · have home : (c != (s.begun sh).cur) = false := by rw [here, bne_self_eq_false]
      rw [if_pos here, if_pos here, home]
      rfl
    · rw [if_neg here, if_neg here, bne_iff_ne.2 here]
      rfl

theorem pbindBody_nowhere (host : (s.begun sh).cellCore ((s.begun sh).pidOf (s.begun sh).cur) ((s.begun sh).gr f.a) = none) :
    pbindBody f (s.begun sh) sh = .flt cWindow ((s.begun sh).gr f.a) := by
  unfold pbindBody
  simp only [h.gOp, host]

end

/-- The core that hosts the position in g`a` (R268). -/
abbrev hostOf (f : Fields) (s : State) : Option Nat := s.cellCore (s.pidOf s.cur) (s.gr f.a)

theorem does_pbind_here (f : Fields) : Does (.pbind f) (fun s => hostOf f s = some s.cur) (fun s _ => s.bindsHere f) :=
  does_of (exec_pbind f) (fun sh s h here => by rw [pbindBody_hosted h here, if_neg (fun away => away.1 rfl), if_pos rfl]) fun _ _ h _ =>
    pbind_retires h (me_bindsHere _ f)

theorem does_pbind_away (f : Fields) (c : Nat) : Does (.pbind f) (fun s => overMask (s.gr f.b) 7 f.a.toNat = false ∧ hostOf f s = some c ∧ c ≠ s.cur)
    (fun s _ => s.rebinds f true) :=
  does_of (exec_pbind f) (fun sh s h ⟨few, host, away⟩ => by
    rw [pbindBody_hosted h host, if_neg (fun many => Bool.false_ne_true (few.symm.trans many.2)), if_neg away]) fun sh s h _ => pbind_retires h (away := true) rfl

theorem faults_pbind_mask (f : Fields) (c : Nat) : Faults (.pbind f) (fun s => overMask (s.gr f.b) 7 f.a.toNat = true ∧ hostOf f s = some c ∧ c ≠ s.cur)
    cIllegal (fun _ => 0) :=
  faults_of (exec_pbind f) fun sh s h ⟨many, host, away⟩ => by
    rw [pbindBody_hosted h host, if_pos ⟨away, many⟩]
    rfl

theorem faults_pbind_nowhere (f : Fields) : Faults (.pbind f) (fun s => hostOf f s = none) cWindow (fun s => s.gr f.a) :=
  faults_of (exec_pbind f) fun sh s h host => by
    rw [pbindBody_nowhere h host]
    rfl

theorem does_punbind : Does .punbind (fun _ => True) (fun s _ => (s.updMyCore (fun k => k.unpublish s.cx)).updMe (fun k => { k with pos := none })) :=
  does_of (fun _ => rfl) (fun _ _ _ _ => rfl) fun sh s h _ => by
    have fresh : (s.begun sh).me.rett = none := (begun_me_rett s sh).trans h.fresh
    rw [State.me_updMe, me_unpublish]
    dsimp only
    exact ⟨rfl, fresh⟩

/-! `ppub` (R269). -/

/-- The effect of `ppub`. -/
def ppubBody (s : State) (sh : Shape) : Eff :=
  match s.me.pos with
  | none => .flt cIllegal 0
  | some b =>
    if !s.full s.cur s.cx b.crd then .wait (.reg b.crd)
    else
      match s.badCarried [b.crd] with
      | some j => .trap cUncorrectable (BitVec.ofNat 64 j) (s.bankSel j) 0
      | none => if 32 ≤ s.me.posted.length then .wait .posted else .done (s.postPub sh (s.gReg b.crd))

theorem exec_ppub (s : State) : exec .ppub s = issue .ppub s ppubBody := rfl

theorem keepsStrand_postPub (s : State) (sh : Shape) (v : Word) : KeepsStrand s (s.postPub sh v) :=
  (keepsStrand_postOp ..).trans (keepsStrand_send ..)

theorem ppubBody_bound {s : State} {sh : Shape} {b : PosBind} (bound : s.me.pos = some b) (full : s.full s.cur s.cx b.crd = true) : ppubBody s sh =
    match s.badCarried [b.crd] with
    | some j => .trap cUncorrectable (BitVec.ofNat 64 j) (s.bankSel j) 0
    | none => if 32 ≤ s.me.posted.length then .wait .posted else .done (s.postPub sh (s.gReg b.crd)) := by
  unfold ppubBody
  rw [bound]
  simp only [full, Bool.not_true, Bool.false_eq_true, if_false]

theorem does_ppub (b : PosBind) : Does .ppub (fun s => s.me.pos = some b ∧ s.full s.cur s.cx b.crd = true ∧ s.badCarried [b.crd] = none ∧ s.me.posted.length < 32)
    (fun s sh => s.postPub sh (s.gReg b.crd)) :=
  does_kept exec_ppub (fun sh s h ⟨bound, full, sound, room⟩ => by rw [ppubBody_bound bound full, sound]; exact if_neg (Nat.not_le.2 room)) fun _ _ =>
    keepsStrand_postPub ..

theorem awaits_ppub (b : PosBind) : Awaits .ppub (fun s => s.me.pos = some b ∧ s.full s.cur s.cx b.crd = false) (fun _ => .reg b.crd) :=
  awaits_of exec_ppub fun sh s h ⟨bound, empty⟩ => by
    rw [ppubBody, bound]
    simp only [empty, Bool.not_false, if_true]

theorem carriesSound_ppub : CarriesSound .ppub (fun s => (s.me.pos.map (fun b => s.full s.cur s.cx b.crd)) = some true)
    (fun s => (s.me.pos.map (·.crd)).toList) := fun sh s j h full bad => by
  obtain ⟨b, bound, full⟩ := Option.map_eq_some_iff.1 full
  have bad : (s.begun sh).badCarried [b.crd] = some j := by simpa only [bound, Option.map_some, Option.toList_some] using bad
  refine exec_trap exec_ppub h ?_
  rw [ppubBody_bound bound full, bad]
  dsimp only
  rw [begun_bankSel]

theorem faults_ppub : Faults .ppub (fun s => s.me.pos = none) cIllegal (fun _ => 0) :=
  faults_of exec_ppub fun sh s h unbound => by
    rw [ppubBody, unbound]
    rfl

/-- A publication at its core: no C buffer keeps it waiting (R194, R269). -/
theorem perform_ppub (s : State) (c x sent : Nat) {r : MemReq} (kind : r.kind = .ppub) (at_ : r.ea = 0) : s.perform c x sent .strand r =
    (s.updCore c (fun k => { k with postab := k.postab.map (fun e => if e.ctx = x then { e with pos := r.data } else e) }), .ok 0 0) := by
  have free : s.cHeld r.ea.toNat r.n sent c x = false := by rw [at_]; rfl
  simp only [State.perform, free, kind, Bool.false_eq_true, if_false]

/-! `nbr` and `cellq` (R271, R272). -/

theorem toNat_mul_two_pow (p : Prop) [Decidable p] : (decide p).toNat * 2 ^ 62 = if p then 2 ^ 62 else 0 := by
  split <;> rename_i h <;> simp [h]

theorem does_nbr (f : Fields) (b : PosBind) (m : CellMap) : Does (.nbr f) (fun s => s.me.pos = some b ∧ (s.part (s.pidOf s.cur)).bind (·.cells) = some m ∧
      (s.gr f.a).toNat % 16 = 0 ∧ s.full s.cur s.cx b.crd = true ∧ s.badCarried [b.crd] = none)
    (fun s sh => s.detach (.nbr f) sh (fun d => { d with
      acq := true, tabs := haloCores m s.cur, snap := [(0, (s.gReg b.crd).toNat)], due := s.cycles + 24
      prog := if m.halo < (s.gr f.b).toNat % 2 ^ 22 then 2 ^ 62 else 0 })) :=
  does_kept (fun _ => rfl) (fun sh s h ⟨bound, mapped, aligned, full, sound⟩ => by
    have low : fld ((s.begun sh).gr f.a) 0 4 = 0 := (fld_zero _ _).trans aligned
    dsimp only
    rw [bound, mapped]
    simp only [h.gOp, low, full, sound, fld_zero, toNat_mul_two_pow]
    rfl) fun _ _ => keepsStrand_detach ..

theorem faults_nbr (f : Fields) (b : PosBind) (m : CellMap) : Faults (.nbr f) (fun s => s.me.pos = some b ∧
    (s.part (s.pidOf s.cur)).bind (·.cells) = some m ∧ (s.gr f.a).toNat % 16 ≠ 0) cAlign (fun s => s.gr f.a) :=
  faults_of (fun _ => rfl) fun sh s h ⟨bound, mapped, misaligned⟩ => by
    dsimp only
    rw [bound, mapped]
    simp only [h.gOp, fld_zero]
    exact if_pos (bne_iff_ne.2 misaligned)

theorem does_cellq (f : Fields) : Does (.cellq f) (fun _ => True) (fun s _ => s.wrG f.d (match hostOf f s with
    | some c => BitVec.ofNat 64 c
    | none => BitVec.ofNat 64 0xFFFFFFFFFFFFFFFF)) :=
  does_kept (fun _ => rfl) (fun sh s h _ => by
    rw [h.gOp]
    rfl) fun _ _ => keepsStrand_wrG ..

end Sys2Proof.Machine
end

section
/-!
SUPPORT. The search of a position (R271), and the split of a cell (R273).
-/
namespace Sys2Proof.Machine

/-! `nbr` (R271). -/

theorem detEnd_nbr {s : State} {c x : Nat} {d : DetOp} (op : d.op = 0x3CC) (pending : d.st = .pending) (due : d.due ≤ s.cycles) :
    s.detEnd c x d = s.nbrStep c x d := by
  have there : ¬s.cycles < d.due := Nat.not_lt.2 due
  simp [State.detEnd, op, isTile, there, pending]

theorem nbrStep_table {s : State} {c x k : Nat} {l : List Nat} {d : DetOp} (tables : d.tabs = k :: l) : s.nbrStep c x d =
    let found := d.found ++ s.nbrTable c x k (BitVec.ofNat 64 ((d.snap.head?.map (·.2)).getD 0)) (d.caps.o2.toNat % 2 ^ 22)
    let n := min found.length (min (d.caps.o3.toNat % 2 ^ 64) 65535)
    some (s.updDet c x d.id (fun e => { e with
      tabs := l, found, st := if l = [] ∧ n = 0 then .done else .pending
      prog := if l = [] then found.length % 2 ^ 32 + n * 2 ^ 32 + e.prog else e.prog })) := by
  unfold State.nbrStep
  rw [tables]
  simp only [fld_zero, BitVec.toNat_setWidth, Bool.and_eq_true, List.isEmpty_iff, beq_iff_eq]

theorem mem_nbrTable {s : State} {c x k r : Nat} {p : Word} {e : Nat × PosEnt} : e ∈ s.nbrTable c x k p r ↔
    e.1 = k ∧ e.2 ∈ (s.core k).postab ∧ ¬(k = c ∧ e.2.ctx = x) ∧ e.2.ctx ≠ movedCtx c x ∧ dist2 e.2.pos p ≤ (r * r : Nat) := by
  obtain ⟨j, e⟩ := e
  simp only [State.nbrTable, List.mem_map, List.mem_filter, Prod.mk.injEq, Bool.and_eq_true, Bool.not_eq_true', Bool.and_eq_false_iff,
    beq_eq_false_iff_ne, bne_iff_ne, decide_eq_true_eq]
  grind

/-! Splits (R273). -/

section
variable {s : State} {sh : Shape} {b : PosBind} (bound : s.me.pos = some b) (moved : b.moved = true) (whole : sh.det = false)
include bound moved whole

/-- An instruction that retires sends its strand away once a split has moved its position. -/
theorem me_posMove_moved : (s.posMove sh).me = s.me.goAway := by
  have away := s.me_updMe Ctx.goAway
  unfold State.posMove
  rw [bound]
  simp only [whole, moved, Bool.false_eq_true, if_false, if_true]
  split
  · exact away
  · exact ((sameCtxs_unpublish (s.updMe Ctx.goAway) _ _).me).trans away

end

theorem goAway_pos {k : Ctx} {b : PosBind} (bound : k.pos = some b) : ∃ e, k.goAway.pos = some e ∧ e.departing = true ∧ e.moved = false ∧ e.crd = b.crd := by
  unfold Ctx.goAway
  rw [bound]
  exact ⟨_, rfl, rfl, rfl, rfl⟩

/-- A binding whose position a split moves. -/
def PosBind.away (b : PosBind) : PosBind := { b with moved := true }

/-- Strands of a core whose position a split moves. -/
def State.movesAway (s : State) (c : Nat) (l : List PosEnt) : State :=
  l.foldl (fun s e => s.updCtx c e.ctx (fun k => { k with pos := k.pos.map PosBind.away })) s

theorem State.part_movesAway (s : State) (c pid : Nat) (l : List PosEnt) : (s.movesAway c l).part pid = s.part pid := by
  induction l generalizing s with
  | nil => rfl
  | cons e l ih => exact (ih _).trans rfl

theorem State.pos_movesAway (s : State) (c x : Nat) (l : List PosEnt) : ((s.movesAway c l).ctx c x).pos =
    if (l.any (fun e => e.ctx == x)) = true then (s.ctx c x).pos.map PosBind.away else (s.ctx c x).pos := by
  induction l generalizing s with
  | nil => rfl
  | cons e l ih =>
    refine (ih _).trans ?_
    rw [State.ctx_updCtx]
    by_cases here : e.ctx = x
    · subst here
      simp only [and_self, if_true, List.any_cons, beq_self_eq_true, Bool.true_or, Option.map_map]
      split <;> rfl
    · have other : ¬(c = c ∧ x = e.ctx) := fun h => here h.2.symm
      rw [if_neg other]
      simp only [List.any_cons, beq_eq_false_iff_ne.2 here, Bool.false_or]

/-- The half of a cell that a split gives to another core, and the map that it leaves (R273). -/
def upperHalf (cell : Cell) (new : Nat) : Cell := { core := new, lo := withCoord cell.lo (cutOf cell).1 (cutOf cell).2.1, hi := cell.hi }

def CellMap.cut (m : CellMap) (cell : Cell) (c new : Nat) : CellMap := { m with
  cells := (m.cells.map (fun e => if e.core = c then { cell with hi := withCoord cell.hi (cutOf cell).1 (cutOf cell).2.1 } else e)) ++ [upperHalf cell new]
  standby := m.standby.filter (· != new) }

/-- The entries that a split moves. -/
def State.movedEntries (s : State) (c : Nat) (upper : Cell) : List PosEnt :=
  (s.core c).postab.filter (fun e => inCell upper e.pos && decide (e.ctx < 16))

/-- The map is cut, and the tables' entries have moved. -/
def State.cutsCell (s : State) (pid c new : Nat) (m : CellMap) (cell : Cell) : State :=
  ((s.updPart pid (fun p => { p with cells := some (m.cut cell c new), splitting := true })).updCore c (fun k => { k with
      postab := k.postab.filter (fun e => !(s.movedEntries c (upperHalf cell new)).contains e) })).updCore new (fun k => { k with
    postab := k.postab ++ (s.movedEntries c (upperHalf cell new)).map (fun e => { e with ctx := movedCtx c e.ctx }) })

theorem sameCtxs_cutsCell (s : State) (pid c new : Nat) (m : CellMap) (cell : Cell) : SameCtxs s (s.cutsCell pid c new m cell) :=
  ((show SameCtxs s (s.updPart pid _) from ⟨rfl, rfl, rfl, fun _ _ => rfl⟩).trans (sameCtxs_updCore _ c _ rfl)).trans (sameCtxs_updCore _ new _ rfl)

section
variable {s : State} {p : Part} {m : CellMap} {pid c : Nat} (part : s.part pid = some p)
include part

section
variable (mapped : p.cells = some m)
include mapped

theorem splitCell_splits {cell : Cell} {new : Nat} (whole : p.splitting = false) (host : m.cells.find? (fun e => e.core == c) = some cell)
    (standby : standbyFor m c = some new) (crowded : m.split < (s.core c).postab.length) (long : 1 < (cutOf cell).2.2) :
    s.splitCell pid c = some ((s.cutsCell pid c new m cell).movesAway c (s.movedEntries c (upperHalf cell new))) := by
  have limits : ((s.core c).postab.length ≤ m.split || (cutOf cell).2.2 ≤ 1) = false := by
    rw [decide_eq_false (Nat.not_le.2 crowded), decide_eq_false (Nat.not_le.2 long)]
    rfl
  unfold State.splitCell
  simp only [part, Option.bind_some, whole, mapped, host, standby, limits, Bool.false_eq_true, if_false]
  rfl

end

theorem part_cutsCell (new : Nat) (cell : Cell) : (s.cutsCell pid c new m cell).part pid = some { p with cells := some (m.cut cell c new), splitting := true } := by
  refine (State.part_updPart s pid pid _).trans ?_
  rw [if_pos rfl, part]
  rfl

/-- While a split is under way none begins; it ends once no entry stands in another core's table. -/
theorem splitCell_splitting (splitting : p.splitting = true) : s.splitCell pid c = none := by
  unfold State.splitCell
  simp only [part, Option.bind_some, splitting, if_true]

theorem splitEnd_ends (splitting : p.splitting = true)
    (gone : s.cores.all (fun e => !s.inPart pid e.1 || e.2.postab.all (fun x => decide (x.ctx < 16))) = true) :
    s.splitEnd pid = some (s.updPart pid (fun p => { p with splitting := false })) := by
  unfold State.splitEnd
  simp only [part, splitting, gone, Bool.and_self, if_true]

end

/-- Settles O27: instructions by what they find of a binding and a host, the search table by table, a split from its cut to its end. -/
theorem positionBoundStrands : Obligations.PositionBoundStrands := by
  refine ⟨fun f => ⟨does_pbind_here f, does_pbind_away f, faults_pbind_mask f, faults_pbind_nowhere f, does_punbind, does_ppub, awaits_ppub, carriesSound_ppub,
    fun s c x sent r kind at_ => perform_ppub s c x sent kind at_, faults_ppub, does_nbr f, faults_nbr f, does_cellq f⟩,
    fun s d k l => ?search, fun s p m cell new => ?split⟩
  case search =>
    intro c x at_ r found n listed op pending due tables
    exact ⟨execDetachedCompletion_of listed ((detEnd_nbr op pending due).trans (nbrStep_table tables)), fun e => mem_nbrTable⟩
  case split =>
    intro pid c k cut upper part mapped
    refine ⟨fun whole host standby crowded long => ?begins, fun sh b bound moved whole => ?departs, fun splitting gone => ?ends⟩
    case begins =>
      have step := splitCell_splits part mapped whole host standby crowded long
      refine ⟨(s.cutsCell pid c new m cell).movesAway c (s.movedEntries c (upperHalf cell new)), _,
        congrArg (fun t : Option State => Host.Outcome.next ((t.orElse fun _ => s.splitEnd pid).getD s)) step,
        (State.part_movesAway ..).trans (part_cutsCell part new cell), rfl, rfl, fun e listed inside low => ?_⟩
      have moves : (s.movedEntries c (upperHalf cell new)).any (fun d => d.ctx == e.ctx) = true :=
        List.any_eq_true.2 ⟨e, List.mem_filter.2 ⟨listed, by rw [Bool.and_eq_true, decide_eq_true_eq]; exact ⟨inside, low⟩⟩, beq_self_eq_true _⟩
      obtain ⟨-, -, -, same⟩ := sameCtxs_cutsCell s pid c new m cell
      rw [State.pos_movesAway, if_pos moves, same, Option.map_map]
      rfl
    case departs =>
      rw [me_posMove_moved bound moved whole]
      exact goAway_pos bound
    case ends =>
      have step := (congrArg (Option.orElse · fun _ => s.splitEnd pid) (splitCell_splitting (c := c) part splitting)).trans (splitEnd_ends part splitting gone)
      exact next_of_step step

end Sys2Proof.Machine
end

section
/-!
SUPPORT. Launches (R335 to R343): acceptance, distribution, prefetch, end, and the events of the host.
-/
namespace Sys2Proof.Machine

/-! Acceptance (R336, R339). -/

/-- The launch that a queue takes next, and where its record stands (R336). -/
abbrev State.nextSeq (s : State) (pid : Nat) : Nat := (s.ctrl pid 128 32 + 1) % 2 ^ 32
abbrev State.nextSlot (s : State) (pid : Nat) : Nat := s.ctrl pid 0 64 + 128 * (s.nextSeq pid % 2 ^ s.ctrl pid 64 5)

theorem acceptNext_valid {s t : State} {pid v : Nat} {p : Part} (part : s.part pid = some p)
    (reached : seqReached (s.ctrl pid 96 32) (s.nextSeq pid) = true) (read : s.readAt (s.rhizoid pid false) (s.nextSlot pid) 128 3 = (t, .ok v))
    (valid : v % 2 ^ 32 = s.nextSeq pid) : s.acceptNext pid = some ((t.putCtrl pid 16 4 (s.nextSeq pid)).acceptRecord pid (BitVec.ofNat 1024 v)) := by
  unfold State.acceptNext
  simp only [part, reached, read, valid, Option.isNone_some, Bool.not_true, Bool.false_eq_true, if_false, bne_self_eq_false]

theorem launchPc_eq (l : BitVec 1024) : (l.extractLsb' 64 52).setWidth 64 = BitVec.ofNat 64 (fld l 64 52) := (BitVec.ofNat_toNat 64 _).symm

/-- Conditions of the record alone under which it is refused (R339). -/
theorem launchBad_of {l : BitVec 1024} (refused : fld l 128 32 = 0 ∨ 2 ≤ fld l 37 2 ∨ fld l 45 19 ≠ 0 ∨ ¬targetOk (BitVec.ofNat 64 (fld l 64 52)) ∨
    (l.getLsbD 40 = true ∧ l.getLsbD 44 = false)) : launchBad l = true := by
  unfold launchBad
  simp only [Bool.or_eq_true, bne_iff_ne, decide_eq_true_eq, beq_iff_eq, Bool.not_eq_true', Bool.and_eq_true]
  rcases refused with none_ | level | reserved | target | ⟨paced, unlisted⟩
  · exact .inl (.inl (.inl (.inl (.inr none_))))
  · exact .inl (.inl (.inl (.inl (.inl (.inr level)))))
  · exact .inl (.inl (.inl (.inl (.inl (.inl (.inl (.inl (.inl (.inl reserved)))))))))
  · rw [← pcOk_iff, ← launchPc_eq] at target
    exact .inl (.inl (.inl (.inr (Bool.eq_false_iff.2 target))))
  · exact .inl (.inl (.inr ⟨paced, unlisted⟩))

theorem acceptRecord_refused {l : BitVec 1024} (s : State) (pid : Nat) (bad : launchBad l = true) :
    s.acceptRecord pid l = s.post pid { kind := 2, status := 1, lseq := fld l 0 32 } := if_pos bad

/-! Distribution (R341). -/

/-- The record of a launch's strand, which binds with g3 beside it. -/
abbrev Launch.first (l : Launch) : Record := mkRecord ((l.rcd.extractLsb' 64 52).setWidth 64) false false false 0 0 0 [] 0

section
variable {s : State} {pid seq : Nat} {l : Launch} (found : s.launchAt pid seq = some l)
include found

section
variable {c : Nat} (running : l.ended = false) (left : l.pushed < lrCount l.rcd) (core : s.nextCore pid l = some c)
include running left core

theorem pushEntry_strand (plain : lrKind1 l.rcd = false) (room : (s.core c).deque.length < 256) : s.pushEntry pid seq =
    some ((s.putLaunch pid seq { l with pushed := l.pushed + 1 }).pushRec c l.first { slot := 0, mt := lrMeta pid l.rcd, launchEntry := true } true) := by
  unfold State.pushEntry
  simp only [found, running, core, plain, decide_eq_false (Nat.not_le.2 left), Nat.not_le.2 room, Bool.or_self, Bool.false_eq_true, if_false]

theorem pushEntry_program (kind1 : lrKind1 l.rcd = true) (free : s.ctxFree c 15 = true) : s.pushEntry pid seq =
    some ((s.putLaunch pid seq { l with pushed := l.pushed + 1 }).bindRecord c 15 l.first 0 (lrMeta pid l.rcd) [(3, l.rcd.extractLsb' 256 64)]) := by
  unfold State.pushEntry
  simp only [found, running, core, kind1, free, decide_eq_false (Nat.not_le.2 left), Bool.or_self, Bool.not_true, Bool.false_eq_true, if_false, if_true]

end

/-! Prefetch and end (R340, R343). -/

/-- Who the Rhizoid acts as for a launch. -/
abbrev State.launcher (s : State) (pid : Nat) (l : Launch) : Who := s.rhizoid pid (fld l.rcd 37 2 == 0)

theorem prefetchAll_once (fresh : l.prefetched = false) (running : l.ended = false) : s.prefetchAll pid seq = some (eachEntry
    (fun u e => (rangeOf (e % 2 ^ 64) (e / 2 ^ 64 % 2 ^ 32)).foldl
      (fun u a => u.prefetchLine (s.launcher pid l) a (Nat.xor (e / 2 ^ 96 % 2 ^ 3) 3)) u)
    (s.launcher pid l) (fld l.rcd 512 64) (s.putLaunch pid seq { l with prefetched := true }) 0 (fld l.rcd 576 16)) := by
  unfold State.prefetchAll
  simp only [found, fresh, running, Bool.or_self, Bool.false_eq_true, if_false, bits_zero]
  rfl

section
variable (running : l.ended = false) (pushed : lrCount l.rcd ≤ l.pushed) (none_ : s.strandLeft pid seq = false)
include running pushed none_

theorem endLaunch_ends : s.endLaunch pid seq =
    let r := deadRanges (s.launcher pid l) (fld l.rcd 640 64) (s.putLaunch pid seq { l with ended := true }, 0) 0 (fld l.rcd 592 16)
    some (r.1.post pid { kind := 1, status := r.2, flags := l.flags, lseq := seq }) := by
  unfold State.endLaunch
  simp only [found, running, none_, decide_eq_false (Nat.not_lt.2 pushed), Bool.or_self, Bool.false_eq_true, if_false]

theorem endLaunch_plain (list : l.rcd.toNat / 2 ^ 592 % 2 ^ 16 = 0) : s.endLaunch pid seq =
    some ((s.putLaunch pid seq { l with ended := true }).post pid { kind := 1, status := 0, flags := l.flags, lseq := seq }) := by
  rw [endLaunch_ends found running pushed none_, fld_eq l.rcd 592, list]
  rfl

end
end

theorem prefetchLine_mapped {u : State} {w : Who} {va asid : Nat} (lease : Nat) (virt : va < 2 ^ 52)
    (place : u.redirect w.pid w.asid va .read w.user = (u, .ok (asid, va))) : u.prefetchLine w va lease =
    if u.lineTgt (lineKey w.pid asid va) = 2 ∨ leaseSlice lease = none then u else (u.bringLine w.pid asid va .read w.user lease).1 := by
  unfold State.prefetchLine
  simp only [Nat.not_le.2 virt, place, if_false, Bool.or_eq_true, decide_eq_true_eq, Option.isNone_iff_eq_none]

/-- A dead range in which a line faults is skipped whole. -/
theorem deadRange_faults {u : State} {w : Who} {e c : Nat} (code : Nat) (some_ : e / 2 ^ 64 % 2 ^ 32 ≠ 0) (first : e % 2 ^ 6 = 0)
    (whole : e / 2 ^ 64 % 2 ^ 6 = 0) (sound : u.issueFault w (BitVec.ofNat 64 (e % 2 ^ 64)) (e / 2 ^ 64 % 2 ^ 32) 64 true = none)
    (line : (discLines w u (rangeOf (e % 2 ^ 64) (e / 2 ^ 64 % 2 ^ 32))).2 = some c) : deadRange w (u, code) e = (u, if code = 0 then c else code) := by
  have first' : (e % 2 ^ 64 % 64 != 0) = false := by
    rw [bne_eq_false_iff_eq]
    omega
  have whole' : (e / 2 ^ 64 % 2 ^ 32 % 64 != 0) = false := by
    rw [bne_eq_false_iff_eq]
    omega
  have parts : bits e 64 32 = e / 2 ^ 64 % 2 ^ 32 := rfl
  unfold deadRange
  simp only [bits_zero, parts, some_, first', whole', sound, Bool.or_self, Bool.false_eq_true, if_false]
  generalize discLines w u (rangeOf (e % 2 ^ 64) (e / 2 ^ 64 % 2 ^ 32)) = r at line
  obtain ⟨t, d⟩ := r
  dsimp only at line
  rw [line]

/-! Events (R337). -/

/-- The numbers of the launches that are over, the event's with them. -/
abbrev Part.overWith (p : Part) (e : HostEvt) : List Nat := p.doneSeqs ++ if e.kind = 1 ∨ e.kind = 2 then [e.lseq] else []

/-- The event stands in its slot, and the ring has moved on. -/
def State.writesEvent (s : State) (pid : Nat) (e : HostEvt) : State :=
  let k := (s.ctrl pid 288 32 + 1) % 2 ^ 32
  let seen := if e.kind = 1 ∨ e.kind = 2 then s.hostSeenOf pid e.lseq else s
  (seen.putEvent pid (seen.ctrl pid 192 64 + 32 * (k % 2 ^ s.ctrl pid 256 5)) k (e.pack k)).putCtrl pid 36 4 k

theorem postEvent_room {s : State} {pid : Nat} {p : Part} {e : HostEvt} (part : s.part pid = some p)
    (oldest : p.events.find? (fun e => !(e.kind == 1 && s.storesLeft pid e.lseq)) = some e)
    (room : (s.ctrl pid 288 32 + 2 ^ 32 - s.ctrl pid 320 32) % 2 ^ 32 < 2 ^ s.ctrl pid 256 5) : s.postEvent pid =
    let fin := complete32 (p.overWith e).length ((s.writesEvent pid e).ctrl pid 160 32) (p.overWith e)
    some (((s.writesEvent pid e).putCtrl pid 20 4 fin.1).updPart pid (fun p => { p with events := p.events.erase e, doneSeqs := fin.2 })) := by
  have numbers : (if e.kind = 1 ∨ e.kind = 2 then p.doneSeqs ++ [e.lseq] else p.doneSeqs) = p.overWith e := by
    unfold Part.overWith
    split
    · rfl
    · rw [List.append_nil]
  unfold State.postEvent
  simp only [part, oldest, Nat.not_le.2 room, if_false, numbers]
  rfl

/-- Settles O48: each step of a launch by what its record, its core and its ring allow. -/
theorem launchesRun : Obligations.LaunchesRun := by
  refine ⟨fun s p l => ?runs, fun s pid l refused => acceptRecord_refused s pid (launchBad_of refused)⟩
  intro pid seq n slot m first who part
  refine ⟨fun t v reached read valid => ?accepts, fun c found running left core plain room => next_of_step (pushEntry_strand found running left core plain room),
    fun c found running left core kind1 free => next_of_step (pushEntry_program found running left core kind1 free),
    fun found fresh running => next_of_step (prefetchAll_once found fresh running), fun u w va lease tgt asid virt place target => ?line,
    fun found running pushed none_ list => next_of_step (endLaunch_plain found running pushed none_ list),
    fun found running pushed none_ => next_of_step (endLaunch_ends found running pushed none_),
    fun u w code e c some_ firstLine whole sound line => deadRange_faults code some_ firstLine whole sound line,
    fun e oldest room => next_of_step (postEvent_room part oldest room)⟩
  case accepts => exact ⟨next_of_step (acceptNext_valid part reached read valid), next_of_step (acceptNext_valid part reached read valid)⟩
  case line => rw [prefetchLine_mapped lease virt place, target]

end Sys2Proof.Machine
end

section
/-!
SUPPORT. L1 copies (R358, R359): what brings or evicts a line takes copies away and gives none.
-/
namespace Sys2Proof.Machine

/-! Translation changes no core. -/

theorem cores_setPhys (s : State) (tgt : Nat) (m : Mem) : (s.setPhys tgt m).cores = s.cores := by
  unfold State.setPhys
  split
  · rfl
  · split <;> rfl

theorem cores_newPage (s : State) (pid asid va : Nat) (lf : Leaf) : (s.newPage pid asid va lf).cores = s.cores := by
  unfold State.newPage
  dsimp only
  split
  · rfl
  · split
    · rfl
    · rw [cores_setPhys]

theorem cores_leaf (s : State) (pid asid va : Nat) : (s.leaf pid asid va).1.cores = s.cores := by
  unfold State.leaf
  dsimp only
  split
  · rfl
  · split
    · split <;> rfl
    · have held (t : State) (l : List TlbEnt) (w : List WalkEnt) : ({ t with tlb := l, wcache := w } : State).cores = t.cores := rfl
      exact (held _ _ _).trans (cores_newPage s pid asid va _)

theorem cores_setAD (s : State) (pte : Nat) (d : Bool) : (s.setAD pte d).cores = s.cores := by
  unfold State.setAD
  dsimp only
  generalize (if d then 0x180 else 0x80 : Word) = m
  split <;> rfl

theorem cores_translate (s : State) (pid asid va : Nat) (acc : AccKind) (user : Bool) : (s.translate pid asid va acc user).1.cores = s.cores := by
  have walked := cores_leaf s pid asid va
  unfold State.translate
  grind [cores_setAD]

theorem cores_toMemory (s : State) (key : Nat) (sl : SLine) : (s.toMemory key sl).cores = s.cores := by
  have walked := cores_translate s (keyPid key) (keyAsid key) (keyVa key) .writeBack false
  unfold State.toMemory State.post
  grind [cores_setPhys, State.updPart_cores]

/-! A core's L1 without a copy stays so. -/

/-- Where `s` holds no copy of a line in a core's L1, `t` holds none. -/
def GivesNone (c key : Nat) (s t : State) : Prop := s.l1 c key = none → t.l1 c key = none

section
variable {c key : Nat} {s t u : State}

theorem GivesNone.trans (h : GivesNone c key s t) (k : GivesNone c key t u) : GivesNone c key s u := k ∘ h

theorem givesNone_of_cores (h : t.cores = s.cores) : GivesNone c key s t := fun none_ => by
  rw [State.l1, State.core, h]
  exact none_

theorem givesNone_foldl {α : Type} {g : State → α → State} (h : ∀ s x, GivesNone c key s (g s x)) (l : List α) (s : State) :
    GivesNone c key s (l.foldl g s) := by
  induction l generalizing s with
  | nil => exact id
  | cons x l ih => exact (h s x).trans (ih _)

end

variable (c key : Nat)

theorem State.l1_putL1 (s : State) (c key d k : Nat) (l : Option L1Line) : (s.putL1 d k l).l1 c key = if c = d ∧ key = k then l else s.l1 c key := by
  rw [State.putL1, State.l1, State.core_updCore]
  by_cases here : c = d
  · subst here
    rw [if_pos rfl]
    simp only [mget_mset, true_and]
    rfl
  · rw [if_neg here, if_neg (here ∘ And.left)]
    rfl

theorem givesNone_putL1 (s : State) (d k : Nat) : GivesNone c key s (s.putL1 d k none) := fun none_ => by
  rw [State.l1_putL1, none_, ite_self]

theorem givesNone_shed (s : State) (k d : Nat) : GivesNone c key s (s.shed k d) := fun none_ => by
  unfold State.shed
  split
  · rename_i l held
    split
    · change (s.putL1 d k _).l1 c key = none
      rw [State.l1_putL1, if_neg, none_]
      rintro ⟨rfl, rfl⟩
      rw [none_] at held
      cases held
    · exact none_
  · exact none_

theorem givesNone_recall (s : State) (k : Nat) : GivesNone c key s (s.recall k) := by
  have shed : GivesNone c key s (s.shedOthers k Config.nCores) := givesNone_foldl (fun s d => by
    split
    · exact id
    · exact givesNone_shed c key s k d) _ s
  unfold State.recall
  dsimp only
  split
  · exact shed
  · exact (shed.trans (givesNone_foldl (fun s d => givesNone_putL1 c key s d k) _ _)).trans (givesNone_of_cores rfl)

theorem givesNone_evict (s : State) (k : Nat) : GivesNone c key s (s.evict k) := by
  unfold State.evict
  dsimp only
  split
  · exact givesNone_recall c key s k
  · exact ((givesNone_recall c key s k).trans (givesNone_of_cores (cores_toMemory _ _ _))).trans (givesNone_of_cores rfl)

theorem givesNone_sliceRoom (s : State) (k : Nat) : GivesNone c key s (s.sliceRoom k) := by
  unfold State.sliceRoom
  dsimp only
  split
  · exact id
  · split
    · exact givesNone_evict c key s _
    · exact id

theorem givesNone_settleLine (s : State) (k lease : Nat) : GivesNone c key s (s.settleLine k lease) := by
  unfold State.settleLine
  split
  · exact givesNone_sliceRoom c key s k
  · exact id

theorem givesNone_bringLine (s : State) (pid asid va : Nat) (acc : AccKind) (user : Bool) (lease : Nat) :
    GivesNone c key s (s.bringLine pid asid va acc user lease).1 := by
  have translated (a : AccKind) := givesNone_of_cores (c := c) (key := key) (cores_translate s pid asid va a user)
  have room (s : State) := givesNone_sliceRoom c key s
  have settled (s : State) := givesNone_settleLine c key s
  have put (s : State) (k : Nat) (l : Option SLine) : GivesNone c key s (s.putSlice k l) := givesNone_of_cores rfl
  unfold GivesNone at *
  unfold State.bringLine
  grind

theorem givesNone_mergeHome (s : State) (k : Nat) (dirty : BitVec 64) : GivesNone c key s (s.mergeHome k dirty) := by
  have brought := givesNone_bringLine c key s (keyPid k) (keyAsid k) (keyVa k) .writeBack false 3
  have posted (s : State) (pid : Nat) (e : HostEvt) : GivesNone c key s (s.post pid e) := givesNone_of_cores rfl
  unfold GivesNone at *
  unfold State.mergeHome
  grind

/-- A copy that is dropped is gone (R359). -/
theorem l1_l1Drop (s : State) : (s.l1Drop c key).l1 c key = none := by
  unfold State.l1Drop
  dsimp only
  split
  · assumption
  · have gone : ((s.shed key c).putL1 c key none).l1 c key = none := by rw [State.l1_putL1, if_pos ⟨rfl, rfl⟩]
    split
    · exact givesNone_mergeHome c key _ key _ gone
    · exact givesNone_mergeHome c key _ key _ gone

end Sys2Proof.Machine
end

section
/-!
SUPPORT. What controllers do for a request that has arrived (R143, R355 to R357): walks, fetches and synonyms.
-/
namespace Sys2Proof.Machine

/-! The leaf of an address (R356). -/

section
variable {s : State} {pid asid va : Nat} (missed : s.tlb.find? (fun t => t.die == s.homeSlice pid va / 32 && t.pid == pid && t.asid == asid &&
  t.page == va / 2 ^ lvlShift t.level) = none)
include missed

theorem tlb_leaf_walked {lf : Leaf} {ups : List WalkEnt} (found : walk s (s.homeSlice pid va / 32) pid asid va = .ok (lf, ups)) :
    (s.leaf pid asid va).1.tlb = lastNOf 4096 (s.homeSlice pid va / 32) (·.die) ((s.newPage pid asid va lf).tlb ++
      [{ die := s.homeSlice pid va / 32, pid, asid, level := lf.level, page := va / 2 ^ lvlShift lf.level, leaf := lf.e, pteAddr := lf.pte }]) := by
  unfold State.leaf
  simp only [missed, found]

theorem leaf_failed {e : Nat} (failed : walk s (s.homeSlice pid va / 32) pid asid va = .error e) :
    s.leaf pid asid va = (if e = cXlate then s.noPage pid asid va else s, .error e) := by
  unfold State.leaf
  simp only [missed, failed]

end

/-- One whose walk finds no leaf waits for nothing (R144, R356). -/
theorem awaits_failed {s : State} {c : Nat} {r : MemReq} (none_ : (s.leaf r.pid r.asid r.ea.toNat).2.toOption = none) : s.awaits c r = 0 := by
  unfold State.awaits
  exact if_pos (.inr (.inr (.inr (.inr none_))))

/-! Lines that are brought (R143). -/

theorem slice_putSlice (s : State) (key k : Nat) (l : Option SLine) : (s.putSlice key l).slice k = if k = key then l else s.slice k := mget_mset ..

theorem slice_bringLine {s t : State} {pid asid va : Nat} {acc : AccKind} {user : Bool} {lease : Nat}
    (brought : s.bringLine pid asid va acc user lease = (t, .ok ())) : (t.slice (lineKey pid asid va)).isSome = true := by
  have put (u : State) (l : SLine) : ((u.putSlice (lineKey pid asid va) (some l)).slice (lineKey pid asid va)).isSome = true := by
    rw [slice_putSlice, if_pos rfl]
    rfl
  unfold State.bringLine at brought
  grind

theorem slice_reach {s t : State} {w : Who} {va : Nat} {acc : AccKind} {lease : Nat} {p : Nat × Nat} (reached : s.reach w va acc lease = (t, .ok p)) :
    (t.slice p.1).isSome = true := by
  unfold State.reach at reached
  grind [slice_bringLine]

/-! Synonyms (R357). -/

/-- The entry that a synonym's access gives the remap filter. -/
def remapEntry (home pid asid va : Nat) (lf : Leaf) (pasid pva : Nat) (pe : Word) : RemapEnt where
  home := home
  pid := pid
  asid := asid
  level := lf.level
  page := va / 2 ^ lvlShift lf.level
  primAsid := pasid
  primVa := BitVec.ofNat 64 pva
  leaf := lf.e &&& (pe ||| ~~~0x3C)
  pteAddr := lf.pte

theorem pva_primary {s t : State} {pid pasid pva : Nat} {lf : Leaf} {pe : Word} (named : s.primary pid lf = (t, .ok (pasid, pva, pe))) : pva < 2 ^ 64 := by
  have small : fld lf.e 16 36 < 2 ^ 36 := (lf.e.extractLsb' 16 36).isLt
  unfold State.primary at named
  have : pva = fld lf.e 16 36 * 2 ^ 16 := by grind
  omega

/-- An access through a synonym that the filter does not hold gives it an entry, marked as accessed. -/
theorem remap_redirect {s u v : State} {pid asid va pasid pva : Nat} {a : AccKind} {user : Bool} {lf : Leaf} {pe : Word}
    (missed : ∀ e ∈ s.remap, ¬(e.home = s.homeSlice pid va ∧ e.pid = pid ∧ e.asid = asid ∧ e.page = va / 2 ^ lvlShift e.level))
    (unheld : s.heldLine pid asid va a user = none) (walked : s.leaf pid asid va = (u, .ok lf)) (synonym : fld lf.e 9 2 = 3)
    (named : u.primary pid lf = (v, .ok (pasid, pva, pe))) (allowed : leafOk (lf.e &&& (pe ||| ~~~0x3C)) a user = true)
    (filled : a = .write → v.slice (lineKey pid pasid (pva + va % 2 ^ lvlShift lf.level)) = none →
      leafOk (lf.e &&& (pe ||| ~~~0x3C)) .atomic user = true) :
    ∃ d, { remapEntry (s.homeSlice pid va) pid asid va lf pasid pva pe with aSet := true, dSet := d } ∈ (s.redirect pid asid va a user).1.remap := by
  have unlisted : s.remap.find? (fun r => r.home == s.homeSlice pid va && r.pid == pid && r.asid == asid && r.page == va / 2 ^ lvlShift r.level) = none := by
    rw [List.find?_eq_none]
    intro e listed
    simpa [and_assoc] using missed e listed
  have whole : (BitVec.ofNat 64 pva).toNat = pva := by rw [BitVec.toNat_ofNat, Nat.mod_eq_of_lt (pva_primary named)]
  unfold State.redirect
  simp only [unheld, unlisted, walked, synonym, named, whole, bne_self_eq_false, Bool.false_eq_true, if_false]
  generalize (if (List.filter (fun x => x.home == s.homeSlice pid va) v.remap).length < 256 then v.remap else
    List.filter (fun x => x.home != s.homeSlice pid va) v.remap ++ List.drop 1 (List.filter (fun x => x.home == s.homeSlice pid va) v.remap)) = rest
  have lets : leafOk (lf.e &&& (pe ||| ~~~0x3C))
      (if a = .write ∧ (v.slice (lineKey pid pasid (pva + va % 2 ^ lvlShift lf.level))).isNone = true then .atomic else a) user = true := by
    split
    · rename_i fills
      obtain ⟨write, none_⟩ := fills
      exact filled write (Option.isNone_iff_eq_none.mp none_)
    · exact allowed
  refine ⟨isWrite a, ?_⟩
  rw [if_neg (by rw [Bool.not_eq_true', Bool.not_eq_false]; exact lets), if_neg (by simp)]
  refine List.mem_map.mpr ⟨remapEntry (s.homeSlice pid va) pid asid va lf pasid pva pe, List.mem_append_right _ (List.mem_singleton.mpr rfl), ?_⟩
  rw [if_pos (by simp [remapEntry])]
  rfl

end Sys2Proof.Machine
end

section
/-!
SUPPORT. Directory transactions of a request that has arrived (R358 to R361).
-/
namespace Sys2Proof.Machine

/-- What a coherent request names is the line of its address, as its slice holds it. -/
theorem slice_of_cohReq {s : State} {k c key : Nat} {r : MemReq} {a : AccKind} {sl : SLine} (coherent : s.cohReq k = some (c, key, r, a, sl)) :
    key = lineKey r.pid r.asid r.ea.toNat ∧ s.slice key = some sl := by
  unfold State.cohReq at coherent
  grind

section
variable {s : State} {c key : Nat} {sl : SLine} (held : s.slice key = some sl)
include held

theorem readMiss_idle (lease : Nat) (absent : (s.holders key sl).contains c = false) (dir : sl.dir = .I) :
    s.readMiss c key lease = (s.putSlice key (some { sl.addSharer c with dir := .E, owner := some c })).l1Alloc c key lease
      { st := .E, mask := BitVec.allOnes 64, data := s.view key sl, bad := s.viewBad key sl } := by
  unfold State.readMiss
  simp only [held, absent, Bool.false_eq_true, if_false, dir]

theorem readMiss_shared (lease : Nat) (absent : (s.holders key sl).contains c = false) (dir : sl.dir = .S) :
    s.readMiss c key lease = (s.putSlice key (some { sl.addSharer c with dir := .S, owner := none })).l1Alloc c key lease
      { st := .S, mask := BitVec.allOnes 64, data := s.view key sl, bad := s.viewBad key sl } := by
  unfold State.readMiss
  simp only [held, absent, Bool.false_eq_true, if_false, dir]

theorem readMiss_owned (lease : Nat) (absent : (s.holders key sl).contains c = false) (dir : sl.dir = .O) :
    s.readMiss c key lease = (s.putSlice key (some { sl.addSharer c with dir := .O, owner := sl.owner })).l1Alloc c key lease
      { st := .S, mask := BitVec.allOnes 64, data := s.view key sl, bad := s.viewBad key sl } := by
  unfold State.readMiss
  simp only [held, absent, Bool.false_eq_true, if_false, dir]

/-- An extension whose bytes no other copy holds widens the copy's mask (R360). -/
theorem extend_widens {l : L1Line} {mask : BitVec 64} (lease : Nat) (privatised : sl.dir = .P) (copied : s.l1 c key = some l)
    (lacks : l.mask &&& mask ≠ mask) (apart : s.otherMasks c key sl &&& mask = 0) :
    s.extend c key mask lease =
      s.putL1 c key (some { l with mask := l.mask ||| mask, data := mergeLine (mask &&& ~~~l.mask) (s.view key sl) l.data }) := by
  unfold State.extend
  simp [held, copied, privatised, lacks, apart]

end

/-! A line taken for its core alone. -/

/-- The state in which a core has taken a line as its only copy, modified (R359). -/
def State.takesM (s : State) (c key lease : Nat) (sl : SLine) : State :=
  let t := s.shedOthers key c
  let merged := t.putSlice key (some (t.pulled key sl))
  let u := ((merged.holders key sl).filter (· != c)).foldl (fun s k => s.putL1 k key none) merged
  let v := match u.slice key with
    | some x => u.putSlice key (some { x with dir := .M, sharers := [c], dies := 0, owner := some c })
    | none => u
  v.l1Alloc c key lease
    { st := .M, mask := BitVec.allOnes 64, dirty := ((t.l1 c key).map (·.dirty)).getD 0, data := t.view key sl, bad := ((t.l1 c key).map (·.bad)).getD 0 }

theorem ownLine_takesM {s : State} {key : Nat} {sl : SLine} (held : s.slice key = some sl) (c : Nat) (mask : BitVec 64) (lease : Nat)
    (dir : sl.dir = .I ∨ sl.dir = .S ∨ sl.dir = .E) : s.ownLine c key mask lease = s.takesM c key lease sl := by
  unfold State.ownLine State.takesM
  rcases dir with dir | dir | dir <;> simp only [held, dir] <;> rfl

/-! What shedding and dropping other copies leaves: the L1 of the core, and the slices. -/

theorem State.slice_putL1 (s : State) (d k key : Nat) (l : Option L1Line) : (s.putL1 d k l).slice key = s.slice key := rfl

theorem State.slice_shed (s : State) (k d key : Nat) : (s.shed k d).slice key = s.slice key := by
  unfold State.shed
  split
  · split
    · rfl
    · rfl
  · rfl

/-- A core's L1 as it was in another state, which holds a line as it did there. -/
structure SameL1 (c : Nat) (key : Nat) (s t : State) : Prop where
  core : (t.core c).l1 = (s.core c).l1
  line : t.slice key = s.slice key

section
variable {c key : Nat}

theorem SameL1.refl (s : State) : SameL1 c key s s := ⟨rfl, rfl⟩

theorem SameL1.trans {s t u : State} (h : SameL1 c key s t) (k : SameL1 c key t u) : SameL1 c key s u := ⟨k.core.trans h.core, k.line.trans h.line⟩

theorem SameL1.set {s t : State} (h : SameL1 c key s t) (k : Nat) : t.l1Set c k = s.l1Set c k := by
  unfold State.l1Set
  rw [h.core]

theorem sameL1_putL1 (s : State) {d : Nat} (other : d ≠ c) (k : Nat) (l : Option L1Line) : SameL1 c key s (s.putL1 d k l) :=
  ⟨by rw [State.putL1, State.core_updCore, if_neg (Ne.symm other)], rfl⟩

theorem sameL1_shed (s : State) {d : Nat} (other : d ≠ c) (k : Nat) : SameL1 c key s (s.shed k d) := by
  unfold State.shed
  split
  · split
    · exact ⟨(sameL1_putL1 (key := key) s other k _).core, rfl⟩
    · exact .refl s
  · exact .refl s

theorem sameL1_foldl {g : State → Nat → State} (l : List Nat) (each : ∀ s, ∀ d ∈ l, SameL1 c key s (g s d)) (s : State) : SameL1 c key s (l.foldl g s) := by
  induction l generalizing s with
  | nil => exact .refl s
  | cons d l ih =>
    have rest (s : State) (e : Nat) (listed : e ∈ l) := each s e (List.mem_cons_of_mem _ listed)
    exact (each s d List.mem_cons_self).trans (ih rest _)

theorem sameL1_shedOthers (s : State) : SameL1 c key s (s.shedOthers key c) :=
  sameL1_foldl _ (fun s d _ => by
    split
    · exact .refl s
    · rename_i other
      exact sameL1_shed s other key) s

theorem sameL1_dropOthers (l : List Nat) (s : State) : SameL1 c key s ((l.filter (· != c)).foldl (fun s k => s.putL1 k key none) s) :=
  sameL1_foldl _ (fun s d listed => sameL1_putL1 s (by simpa using (List.mem_filter.mp listed).2) key none) s

end

theorem retainL1_state (s : State) (c key lease : Nat) (fresh : Bool) (l : L1Line) :
    (s.retainL1 c key lease fresh l).st = l.st ∧ (s.retainL1 c key lease fresh l).data = l.data := by
  unfold State.retainL1
  split
  · exact ⟨rfl, rfl⟩
  · dsimp only
    split
    · exact ⟨rfl, rfl⟩
    · exact ⟨rfl, rfl⟩

/-- A copy installed in a set with room drops none. -/
theorem l1Alloc_room {s : State} {c key : Nat} (lease : Nat) (l : L1Line) (room : (s.l1Set c key).length < 16) :
    ∃ m : L1Line, s.l1Alloc c key lease l = s.putL1 c key (some m) ∧ m.st = l.st ∧ m.data = l.data := by
  unfold State.l1Alloc State.l1Put
  dsimp only
  rw [if_pos (by simp [room])]
  refine ⟨_, rfl, ?_⟩
  split
  · exact retainL1_state s c key lease _ _
  · exact retainL1_state s c key lease _ _

/-- A core that takes a line has its only copy, modified, with the newest bytes; so has the slice (R359). -/
theorem takesM_only {s : State} {c key : Nat} (lease : Nat) (sl : SLine) (room : (s.l1Set c key).length < 16) : ∃ l x,
    (s.takesM c key lease sl).l1 c key = some l ∧ l.st = .M ∧ l.data = (s.shedOthers key c).view key sl ∧ (s.takesM c key lease sl).slice key = some x ∧
      x.dir = .M ∧ x.sharers = [c] ∧ x.dies = 0 ∧ x.owner = some c ∧ x.data = (s.shedOthers key c).view key sl := by
  unfold State.takesM
  dsimp only
  generalize shed : s.shedOthers key c = t
  have same : SameL1 c key s t := shed ▸ sameL1_shedOthers s
  generalize dropped : List.foldl (fun s k => s.putL1 k key none) (t.putSlice key (some (t.pulled key sl)))
    (((t.putSlice key (some (t.pulled key sl))).holders key sl).filter (· != c)) = u
  have kept : SameL1 c key (t.putSlice key (some (t.pulled key sl))) u := dropped ▸ sameL1_dropOthers _ _
  have line : u.slice key = some (t.pulled key sl) := by rw [kept.line, slice_putSlice, if_pos rfl]
  rw [line]
  have roomy : ((u.putSlice key (some { t.pulled key sl with dir := .M, sharers := [c], dies := 0, owner := some c })).l1Set c key).length < 16 := by
    have sameSet : u.l1Set c key = s.l1Set c key := (kept.set key).trans (same.set key)
    exact sameSet ▸ room
  obtain ⟨m, put, st, data⟩ := l1Alloc_room lease
    { st := .M, mask := BitVec.allOnes 64, dirty := ((t.l1 c key).map (·.dirty)).getD 0, data := t.view key sl, bad := ((t.l1 c key).map (·.bad)).getD 0 } roomy
  refine ⟨m, { t.pulled key sl with dir := .M, sharers := [c], dies := 0, owner := some c }, ?_, st, data, ?_, rfl, rfl, rfl, rfl, rfl⟩
  · rw [put, State.l1_putL1, if_pos ⟨rfl, rfl⟩]
  · rw [put, State.slice_putL1, slice_putSlice, if_pos rfl]

/-- The rotating pointer changes no line (R361). -/
theorem pointerUsed_lines (s t : State) (k : Nat) : (s.pointerUsed t k).slices = t.slices ∧ (s.pointerUsed t k).cores = t.cores := by
  unfold State.pointerUsed
  split
  · split
    · exact ⟨rfl, rfl⟩
    · exact ⟨rfl, rfl⟩
  · exact ⟨rfl, rfl⟩

end Sys2Proof.Machine
end

section
/-!
SUPPORT. Lines that the host snoops, evictions, and requests of the host (R359, R363, R365, R366).
-/
namespace Sys2Proof.Machine

section
variable (key : Nat)

theorem slice_evict (s : State) : (s.evict key).slice key = none := by
  unfold State.evict
  dsimp only
  split
  · assumption
  · rw [slice_putSlice, if_pos rfl]

/-! Where a slice holds a line, cleaning copies of it leaves it there. -/

theorem held_foldl {g : State → Nat → State} (each : ∀ s d, (s.slice key).isSome → ((g s d).slice key).isSome) (l : List Nat) {s : State}
    (held : (s.slice key).isSome) : ((l.foldl g s).slice key).isSome := by
  induction l generalizing s with
  | nil => exact held
  | cons d l ih => exact ih (each s d held)

theorem held_recall {s : State} (held : (s.slice key).isSome) : ((s.recall key).slice key).isSome := by
  unfold State.recall
  dsimp only
  split
  · exact held_foldl key (fun s d h => by
      split
      · exact h
      · rwa [State.slice_shed]) _ held
  · rw [slice_putSlice, if_pos rfl, Option.isSome_some]

theorem mergeHome_held {s : State} (held : (s.slice key).isSome) (dirty : BitVec 64) : s.mergeHome key dirty = s := by
  unfold State.mergeHome
  exact if_pos (by simp [held])

theorem held_l1Clean {s : State} (held : (s.slice key).isSome) (c : Nat) : ((s.l1Clean c key).slice key).isSome := by
  have shed : ((s.shed key c).slice key).isSome := by rwa [State.slice_shed]
  unfold State.l1Clean
  dsimp only
  rw [mergeHome_held key shed]
  split
  · rw [slice_putSlice, if_pos rfl, Option.isSome_some]
  · exact shed

/-- A downgrade of the host leaves the line clean, with no owner (R366). -/
theorem hostSnoop_downgrade {s : State} {sl : SLine} (held : s.slice key = some sl) (ofHost : s.lineTgt key = 2) :
    ∃ t x, s.hostSnoop key false = some t ∧ t.slice key = some x ∧ x.dirty = 0 ∧ x.owner = none ∧ (x.dir = .S ∨ x.dir = .I) := by
  unfold State.hostSnoop
  simp only [held, ofHost, bne_self_eq_false, Bool.false_eq_true, if_false]
  generalize cleaned : (if (sl.dir == DirSt.P) = true then s.recall key else _) = u
  have stays : (u.slice key).isSome := by
    have here : (s.slice key).isSome := by rw [held, Option.isSome_some]
    rw [← cleaned]
    split
    · exact held_recall key here
    · refine held_foldl key (fun s d h => ?_) _ here
      have clean := held_l1Clean key h d
      split
      · exact clean
      · exact clean
  obtain ⟨x, line⟩ := Option.isSome_iff_exists.mp stays
  rw [line]
  refine ⟨_, { x with dirty := 0, dir := if x.alone then .I else .S, owner := none }, rfl, ?_, rfl, rfl, ?_⟩
  · rw [slice_putSlice, if_pos rfl]
  · dsimp only
    split
    · exact .inr rfl
    · exact .inl rfl

end

/-! Requests of the host (R365). -/

section
variable {s t : State} {pid va : Nat} {p : Part} {image : List Byte} (of : s.part pid = some p) (up : s.hostUp = true) (inside : va < p.spec.hdm)
include of up inside

theorem hostReq_refused {code : Nat} (refused : s.reach { pid, asid := p.spec.hostAsid, engine := true } va .read 3 = (t, .error code)) :
    s.hostReq pid va .read image = some (t.post pid { kind := 4, status := code, addr := BitVec.ofNat 64 va }) := by
  unfold State.hostReq
  simp [of, up, inside, refused]

variable {q : Nat × Nat} {sl : SLine}

theorem hostReq_reads (reached : s.reach { pid, asid := p.spec.hostAsid, engine := true } va .read 3 = (t, .ok q))
    (held : (t.recall q.1).slice q.1 = some sl) (sound : sl.bad = 0) :
    s.hostReq pid va .read image = some ((t.recall q.1).putSlice q.1 (some { sl with hostBit := true })) := by
  obtain ⟨key, at_⟩ := q
  have read : (AccKind.read == AccKind.write) = false := rfl
  unfold State.hostReq
  simp [of, up, inside, reached, read, held, sound]

theorem hostReq_writes (whole : image.length = 64) (reached : s.reach { pid, asid := p.spec.hostAsid, engine := true } va .write 3 = (t, .ok q))
    (held : ((t.recall q.1).keepRecords q.1 t.cycles).slice q.1 = some sl)
    (unread : ((t.recall q.1).keepRecords q.1 t.cycles).recordHeld q.1 ((t.recall q.1).keepRecords q.1 t.cycles).cycles = false) :
    s.hostReq pid va .write image = some ((((t.recall q.1).keepRecords q.1 t.cycles).sliceWrite q.1 0 64 (ofBytes (image.map (·.toNat)))).passStore
      { pid, asid := keyAsid q.1, engine := true } (q.2 / 64 * 64) 64) := by
  obtain ⟨key, at_⟩ := q
  unfold State.hostReq
  simp [of, up, inside, reached, whole, held, unread]

end

end Sys2Proof.Machine
end

section
/-!
SUPPORT. The events of the memory system (R355 to R367).
-/
namespace Sys2Proof.Machine

/-! A request that has arrived. -/

section
variable {s : State} {c : Nat} {r : MemReq} {a : AccKind} (arrived : s.netReq s.ev.k = some (c, r, a))
include arrived

theorem execPageWalk_arrived : exec .pageWalk s = .next (s.walkTo s.ev.k c r) :=
  next_of_step (show s.walkFor s.ev.k = some _ by unfold State.walkFor; rw [arrived]; rfl)

theorem execRemapFilterMiss_arrived : exec .remapFilterMiss s = .next (s.redirect r.pid r.asid r.ea.toNat a r.user).1 :=
  next_of_step (show s.remapFor s.ev.k = some _ by unfold State.remapFor; rw [arrived]; rfl)

theorem execLineFetchArrival_fetches (fetches : leaseSlice r.lease ≠ none ∧ r.kind ≠ .disc ∧ ¬(r.node ≠ 0 ∧ r.kind = .store)) :
    exec .lineFetchArrival s = .next (s.reach (r.who c .strand) r.ea.toNat a r.lease).1 := by
  obtain ⟨allocates, notDisc, plain⟩ := fetches
  refine next_of_step (show s.fetchFor s.ev.k = some _ from ?_)
  unfold State.fetchFor
  rw [arrived]
  exact if_neg (by simpa [allocates, notDisc] using plain)

theorem execLineFetchArrival_else (keeps : ¬(leaseSlice r.lease ≠ none ∧ r.kind ≠ .disc ∧ ¬(r.node ≠ 0 ∧ r.kind = .store))) :
    exec .lineFetchArrival s = .next s := by
  have unfetched : s.fetchFor s.ev.k = none := by
    unfold State.fetchFor
    rw [arrived]
    refine if_pos ?_
    simpa [or_assoc, imp_iff_not_or] using keeps
  change Host.Outcome.next ((s.fetchFor s.ev.k).getD s) = _
  rw [unfetched]
  rfl

section
variable (missed : s.tlb.find? (fun t => t.die == s.homeSlice r.pid r.ea.toNat / 32 && t.pid == r.pid && t.asid == r.asid &&
  t.page == r.ea.toNat / 2 ^ lvlShift t.level) = none)
include missed

/-- A walk that finds no leaf leaves the request with no wait of its own (R356). -/
theorem execPageWalk_failed {e : Nat} (failed : walk s (s.homeSlice r.pid r.ea.toNat / 32) r.pid r.asid r.ea.toNat = .error e) :
    exec .pageWalk s = .next { (if e = cXlate then s.noPage r.pid r.asid r.ea.toNat else s) with
      net := updNth (fun p => if p.walked then p else { p with walked := true, due := s.cycles }) s.net s.ev.k } := by
  have leaf := leaf_failed missed failed
  rw [execPageWalk_arrived arrived]
  unfold State.walkTo
  rw [awaits_failed (by rw [leaf]; rfl), leaf]
  split
  · rfl
  · rfl

end
end

/-! A coherent request. -/

section
variable {s : State} {c key : Nat} {r : MemReq} {sl : SLine}

theorem execDirectoryReadMiss_load (coherent : s.cohReq s.ev.k = some (c, key, r, .read, sl)) (load : r.kind = .load)
    (absent : (s.holders key sl).contains c = false) : exec .directoryReadMiss s = .next (s.readMiss c key r.lease) := by
  refine next_of_step (show s.readFor s.ev.k = some _ from ?_)
  unfold State.readFor
  rw [coherent]
  exact if_neg (by simpa [load] using absent)

section
variable (coherent : s.cohReq s.ev.k = some (c, key, r, .write, sl))
include coherent

theorem execOwnershipRequest_waits (later : s.ownTurn s.ev.k = false) : exec .ownershipRequest s = .next s := by
  have unserved : s.ownFor s.ev.k = none := by
    unfold State.ownFor
    rw [coherent]
    exact if_pos (by simp [later])
  change Host.Outcome.next ((s.ownFor s.ev.k).getD s) = _
  rw [unserved]
  rfl

variable (store : r.kind = .store)
include store

theorem execOwnershipRequest_asks (turn : s.ownTurn s.ev.k = true) (host : sl.hostBit = true) :
    exec .ownershipRequest s = .next (s.putSlice key (some { sl with snooping := some c })) := by
  refine next_of_step (show s.ownFor s.ev.k = some _ from ?_)
  unfold State.ownFor
  simp [coherent, store, turn, host]

theorem execOwnershipRequest_owns (turn : s.ownTurn s.ev.k = true) (host : sl.hostBit = false) :
    exec .ownershipRequest s = .next (s.pointerUsed (s.ownLine c key (byteMask (r.ea.toNat % 64) r.n) r.lease) s.ev.k) := by
  refine next_of_step (show s.ownFor s.ev.k = some _ from ?_)
  unfold State.ownFor
  simp [coherent, store, turn, host]

theorem ownershipRequest_only (turn : s.ownTurn s.ev.k = true) (host : sl.hostBit = false) (dir : sl.dir = .I ∨ sl.dir = .S ∨ sl.dir = .E)
    (room : (s.l1Set c key).length < 16) : ∃ t l x, exec .ownershipRequest s = .next t ∧
      t.l1 c key = some l ∧ l.st = .M ∧ l.data = (s.shedOthers key c).view key sl ∧
      t.slice key = some x ∧ x.dir = .M ∧ x.sharers = [c] ∧ x.dies = 0 ∧ x.owner = some c ∧ x.data = (s.shedOthers key c).view key sl := by
  obtain ⟨-, held⟩ := slice_of_cohReq coherent
  obtain ⟨slices, cores⟩ := pointerUsed_lines s (s.takesM c key r.lease sl) s.ev.k
  obtain ⟨l, x, copy, st, data, line, facts⟩ := takesM_only r.lease sl room
  have owns := execOwnershipRequest_owns coherent store turn host
  rw [ownLine_takesM held c _ r.lease dir] at owns
  refine ⟨_, l, x, owns, ?_, st, data, ?_, facts⟩
  · rw [State.l1, State.core, cores]
    exact copy
  · rw [State.slice, slices]
    exact line

end

theorem execExtensionRequest_extends {a : AccKind} (coherent : s.cohReq s.ev.k = some (c, key, r, a, sl)) (privatised : sl.dir = .P)
    (holds : c ∈ s.holders key sl) (kind : r.kind = .load ∨ r.kind = .store) :
    exec .extensionRequest s = .next (s.extend c key (byteMask (r.ea.toNat % 64) r.n) r.lease) := by
  refine next_of_step (show s.extendFor s.ev.k = some _ from ?_)
  unfold State.extendFor
  rw [coherent]
  exact if_neg (by rcases kind with kind | kind <;> simp [privatised, holds, kind])

end

/-! Copies and lines that go, and what the host and the expanders ask for. -/

section
variable {s : State} {sl : SLine}

theorem execL1WriteBack_drops {l : L1Line} (copied : s.l1 s.ev.core s.ev.key = some l) (drop : s.ev.flag = true) (free : l.pinned = false) :
    exec .l1WriteBack s = .next (s.l1Drop s.ev.core s.ev.key) := by
  refine next_of_step (show s.l1Back s.ev.core s.ev.key s.ev.flag = some _ from ?_)
  unfold State.l1Back
  simp [copied, drop, free]

theorem execL1WriteBack_cleans {l : L1Line} (copied : s.l1 s.ev.core s.ev.key = some l) (keep : s.ev.flag = false) (dirty : l.dirty ≠ 0) :
    exec .l1WriteBack s = .next (s.l1Clean s.ev.core s.ev.key) := by
  refine next_of_step (show s.l1Back s.ev.core s.ev.key s.ev.flag = some _ from ?_)
  unfold State.l1Back
  simp only [copied, keep, Bool.false_eq_true, if_false]
  exact if_neg dirty

variable (held : s.slice s.ev.key = some sl)
include held

theorem execSliceEviction_pinned (pinned : sl.pinned = true) : exec .sliceEviction s = .next s := by
  have stays : s.evictLine s.ev.key = none := by
    unfold State.evictLine
    simp [held, pinned]
  change Host.Outcome.next ((s.evictLine s.ev.key).getD s) = _
  rw [stays]
  rfl

theorem execSliceEviction_free (free : sl.pinned = false) : exec .sliceEviction s =
    .next (if sl.hostBit then s.putSlice s.ev.key (some { sl with snooping := some Config.nCores }) else s.evict s.ev.key) := by
  refine next_of_step (show s.evictLine s.ev.key = some _ from ?_)
  unfold State.evictLine
  simp only [held, free, Bool.false_eq_true, if_false]
  split
  · rfl
  · rfl

theorem execHostBisnpReply_asked (asked : sl.snooping.isSome = true) :
    exec .hostBisnpReply s = .next (s.putSlice s.ev.key (some { sl with hostBit := false, snooping := none })) := by
  refine next_of_step (show s.hostReply s.ev.key = some _ from ?_)
  unfold State.hostReply
  simp only [held]
  exact if_neg (by simpa [Option.isSome_iff_ne_none] using asked)

theorem execH2dSnoop_invalidates (ofHost : s.lineTgt s.ev.key = 2) (inval : s.ev.flag = true) : exec .h2dSnoop s = .next (s.evict s.ev.key) := by
  refine next_of_step (show s.hostSnoop s.ev.key s.ev.flag = some _ from ?_)
  unfold State.hostSnoop
  simp [held, ofHost, inval]

theorem execExpanderBisnp_far (far : s.lineTgt s.ev.key = 1) : exec .expanderBisnp s =
    .next (if sl.hostBit then s.putSlice s.ev.key (some { sl with snooping := some Config.nCores }) else s.evict s.ev.key) := by
  refine next_of_step (show s.expanderSnoop s.ev.key = some _ from ?_)
  unfold State.expanderSnoop
  simp only [held, far, bne_self_eq_false, Bool.false_eq_true, if_false]
  split
  · rfl
  · rfl

end

theorem execHostM2sRequest_of {s u : State} {acc : AccKind} (kind : s.ev.acc = acc)
    (step : s.hostReq s.ev.pid s.ev.va.toNat acc s.ev.image = some u) : exec .hostM2sRequest s = .next u :=
  next_of_step (show s.hostReq s.ev.pid s.ev.va.toNat s.ev.acc s.ev.image = some u by rw [kind]; exact step)

/-- Settles O49, event by event: each one's condition holds, and the operation that it then makes says the rest. -/
theorem memorySystemEvents : Obligations.MemorySystemEvents := by
  unfold Obligations.MemorySystemEvents
  intro s sl
  refine ⟨?request, ?read, ?waits, ?owns, ?asks, ?extends_, ?drops, ?cleans, ?pinned, ?evicts, ?askedFirst, ?reply, ?refused, ?reads, ?writes,
    ?invalidated, ?downgraded, ?expander, ?expanderAsks⟩
  case request =>
    intro c r a arrived
    refine ⟨execPageWalk_arrived arrived, execRemapFilterMiss_arrived arrived, execLineFetchArrival_fetches arrived, execLineFetchArrival_else arrived,
      fun missed => ⟨fun lf ups found => ?_, fun e failed => execPageWalk_failed arrived missed failed⟩, fun t p fetches reached => ?_, ?_⟩
    · exact ⟨_, execPageWalk_arrived arrived, tlb_leaf_walked missed found⟩
    · have fetched := execLineFetchArrival_fetches arrived fetches
      rw [reached] at fetched
      exact ⟨fetched, slice_reach reached⟩
    · intro u v lf pasid pva pe missed unheld walked synonym named allowed filled
      obtain ⟨d, entered⟩ := remap_redirect missed unheld walked synonym named allowed filled
      exact ⟨_, _, execRemapFilterMiss_arrived arrived, entered, rfl, rfl, rfl, rfl⟩
  case read =>
    intro c key r sl coherent load absent
    obtain ⟨-, held⟩ := slice_of_cohReq coherent
    have served := execDirectoryReadMiss_load coherent load absent
    exact ⟨served, fun dir => served.trans (congrArg _ (readMiss_idle held _ absent dir)), fun dir => served.trans (congrArg _ (readMiss_shared held _ absent dir)),
      fun dir => served.trans (congrArg _ (readMiss_owned held _ absent dir))⟩
  case waits => exact fun c key r sl coherent _ => execOwnershipRequest_waits coherent
  case owns =>
    exact fun c key r sl coherent store turn host =>
      ⟨execOwnershipRequest_owns coherent store turn host, ownershipRequest_only coherent store turn host⟩
  case asks => exact fun c key r sl => execOwnershipRequest_asks
  case extends_ =>
    intro c key r a sl coherent privatised holds kind
    obtain ⟨-, held⟩ := slice_of_cohReq coherent
    have asked := execExtensionRequest_extends coherent privatised holds kind
    exact ⟨asked, fun l copied lacks apart => asked.trans (congrArg _ (extend_widens held _ privatised copied lacks apart))⟩
  case drops => exact fun l copied drop free => ⟨execL1WriteBack_drops copied drop free, l1_l1Drop _ _ s⟩
  case cleans => exact fun l => execL1WriteBack_cleans
  case pinned => exact execSliceEviction_pinned
  case evicts =>
    intro held free host
    exact ⟨(execSliceEviction_free held free).trans (congrArg _ (if_neg (Bool.eq_false_iff.mp host))), slice_evict _ s⟩
  case askedFirst =>
    intro held free host
    exact (execSliceEviction_free held free).trans (congrArg _ (if_pos host))
  case reply => exact execHostBisnpReply_asked
  case refused => exact fun p t c of up inside read refused => execHostM2sRequest_of read (hostReq_refused of up inside refused)
  case reads => exact fun p t q of up inside read reached held sound => execHostM2sRequest_of read (hostReq_reads of up inside reached held sound)
  case writes =>
    exact fun p t q of up inside write whole reached held unread => execHostM2sRequest_of write (hostReq_writes of up inside whole reached held unread)
  case invalidated => exact execH2dSnoop_invalidates
  case downgraded =>
    intro held ofHost keep
    obtain ⟨t, x, step, line, facts⟩ := hostSnoop_downgrade s.ev.key held ofHost
    exact ⟨t, x, next_of_step (show s.hostSnoop s.ev.key s.ev.flag = some t by rw [keep]; exact step), line, facts⟩
  case expander =>
    intro held far host
    exact (execExpanderBisnp_far held far).trans (congrArg _ (if_neg (Bool.eq_false_iff.mp host)))
  case expanderAsks =>
    intro held far host
    exact (execExpanderBisnp_far held far).trans (congrArg _ (if_pos host))

end Sys2Proof.Machine
end

section
/-!
SUPPORT. Packets that are sent again (R379): what a resend leaves of each packet, and what it logs.
-/
namespace Sys2Proof.Machine

/-! One packet. -/

/-- A strand's request that has been sent again as often as it may be. -/
def Pkt.spent (p : Pkt) : Bool := !p.received && p.body.ofStrand && decide (8 ≤ p.resends)

/-- A packet after a resend. -/
def Pkt.sentAgain (now : Nat) (p : Pkt) : Pkt :=
  if p.received || p.spent then p else { p with received := true, resends := p.resends + 1, again := now }

/-- What a resend logs. -/
def Pkt.resendLog (p : Pkt) : Option LogEnt := if p.spent then none else some { kind := 3, what := p.src * 2 ^ 16 + p.dst }

section
variable (p : Pkt) (now : Nat)

theorem Pkt.spent_fewer (fewer : p.resends < 8) : p.spent = false := by simp [Pkt.spent, Nat.not_le.mpr fewer]

theorem Pkt.sentAgain_of_received (received : p.received = true) : p.sentAgain now = p := if_pos (by rw [received, Bool.true_or])

theorem Pkt.sentAgain_of_missing (missing : p.received = false) (left : p.spent = false) :
    p.sentAgain now = { p with received := true, resends := p.resends + 1, again := now } :=
  if_neg (by rw [missing, left]; decide)

theorem Pkt.sentAgain_twice : (p.sentAgain now).sentAgain now = p.sentAgain now := by
  unfold Pkt.sentAgain
  grind [Pkt.spent]

theorem Pkt.resendLog_sentAgain : (p.sentAgain now).resendLog = p.resendLog := by
  unfold Pkt.sentAgain Pkt.resendLog
  grind [Pkt.spent]

theorem Pkt.received_sentAgain (left : p.received = true ∨ p.spent = false) : (p.sentAgain now).received = true := by
  unfold Pkt.sentAgain
  grind

theorem Pkt.body_sentAgain : (p.sentAgain now).body = p.body := by
  unfold Pkt.sentAgain
  split
  · rfl
  · rfl

end

/-! The network. -/

section
variable (s : State)

/-- The resend of one packet. -/
theorem sendAgain_one (k : Nat) : (s.sendAgain [k]).cycles = s.cycles ∧
    (∀ j, nth (s.sendAgain [k]).net j = if j = k then (nth s.net j).map (Pkt.sentAgain s.cycles) else nth s.net j) ∧
    (s.sendAgain [k]).log = s.log ++ ((nth s.net k).bind Pkt.resendLog).toList := by
  unfold State.sendAgain
  simp only [List.foldl_cons, List.foldl_nil]
  split
  · rename_i out
    refine ⟨rfl, fun j => ?_, by simp [out]⟩
    split
    · rename_i here
      rw [here, out]
      rfl
    · rfl
  · rename_i p found
    split
    · rename_i spent
      have given : p.spent = true := spent
      refine ⟨rfl, fun j => ?_, by simp [found, Pkt.resendLog, given]⟩
      split
      · rename_i here
        simp [here, found, Pkt.sentAgain, given]
      · rfl
    · rename_i spent
      have left : p.spent = false := by simpa [Pkt.spent] using spent
      refine ⟨rfl, fun j => ?_, by simp [found, Pkt.resendLog, left, State.logged]⟩
      rw [State.logged, nth_updNth]
      split
      · rename_i here
        simp [here, found, Pkt.sentAgain, left]
      · rfl

theorem sendAgain_cons (k : Nat) (l : List Nat) : s.sendAgain (k :: l) = (s.sendAgain [k]).sendAgain l := rfl

/-- A resend changes the packets that it names, each as if it were named alone. -/
theorem nth_sendAgain (l : List Nat) (j : Nat) : nth (s.sendAgain l).net j = if j ∈ l then (nth s.net j).map (Pkt.sentAgain s.cycles) else nth s.net j := by
  induction l generalizing s with
  | nil => rfl
  | cons k l ih =>
    obtain ⟨cycles, net, -⟩ := sendAgain_one s k
    rw [sendAgain_cons, ih, cycles, net]
    have twice : (Pkt.sentAgain s.cycles ∘ Pkt.sentAgain s.cycles) = Pkt.sentAgain s.cycles := funext fun p => p.sentAgain_twice s.cycles
    by_cases here : j = k
    · by_cases later : j ∈ l
      · simp [here, here ▸ later, Option.map_map, twice]
      · simp [here, here ▸ later]
    · by_cases later : j ∈ l
      · simp [here, later]
      · simp [here, later]

theorem log_sendAgain (l : List Nat) : (s.sendAgain l).log = s.log ++ l.filterMap (fun k => (nth s.net k).bind Pkt.resendLog) := by
  induction l generalizing s with
  | nil => exact (List.append_nil _).symm
  | cons k l ih =>
    obtain ⟨-, net, log⟩ := sendAgain_one s k
    have same : (fun j => (nth (s.sendAgain [k]).net j).bind Pkt.resendLog) = fun j => (nth s.net j).bind Pkt.resendLog := by
      funext j
      rw [net]
      split
      · cases nth s.net j with
        | none => rfl
        | some p => exact p.resendLog_sentAgain s.cycles
      · rfl
    rw [sendAgain_cons, ih, log, same, List.append_assoc]
    cases h : (nth s.net k).bind Pkt.resendLog with
    | none => simp [h]
    | some e => simp [h]

end

/-! The packets of a pair from one on. -/

section
variable {s : State} {k : Nat} {p : Pkt} (found : nth s.net k = some p)
include found

theorem mem_follows {j : Nat} {q : Pkt} (there : nth s.net j = some q) :
    j ∈ (List.range s.net.length).filter (s.follows k) ↔ k ≤ j ∧ q.src = p.src ∧ q.dst = p.dst := by
  have inside : j < s.net.length := by
    rw [nth_eq_getElem?] at there
    exact (List.getElem?_eq_some_iff.mp there).1
  rw [List.mem_filter, List.mem_range]
  simp only [State.follows, found, there, inside, Bool.and_eq_true, decide_eq_true_eq, beq_iff_eq, true_and, and_assoc, eq_comm (a := p.src),
    eq_comm (a := p.dst)]

theorem log_follows : ∀ e ∈ ((List.range s.net.length).filter (s.follows k)).filterMap (fun j => (nth s.net j).bind Pkt.resendLog),
    e = { kind := 3, what := p.src * 2 ^ 16 + p.dst } := by
  intro e logged
  obtain ⟨j, listed, of⟩ := List.mem_filterMap.mp logged
  obtain ⟨q, there, entry⟩ := Option.bind_eq_some_iff.mp of
  obtain ⟨-, src, dst⟩ := (mem_follows found there).mp listed
  unfold Pkt.resendLog at entry
  split at entry
  · cases entry
  · rw [src, dst] at entry
    exact (Option.some.inj entry).symm

/-- A lost packet that may be sent again is, with those of its pair after it. -/
theorem resend_follows (lost : p.received = false) (left : p.spent = false) :
    s.resend k = some (s.sendAgain ((List.range s.net.length).filter (s.follows k))) := by
  have open_ : ¬(p.body.ofStrand && decide (8 ≤ p.resends)) = true := by
    unfold Pkt.spent at left
    rw [lost] at left
    exact Bool.eq_false_iff.mp left
  unfold State.resend
  simp only [found, lost, Bool.false_eq_true, if_false]
  exact if_neg open_

theorem log_follows_ne_nil (left : p.spent = false) :
    ((List.range s.net.length).filter (s.follows k)).filterMap (fun j => (nth s.net j).bind Pkt.resendLog) ≠ [] := by
  have named := (mem_follows found found).mpr ⟨le_rfl, rfl, rfl⟩
  have logs : (nth s.net k).bind Pkt.resendLog = some { kind := 3, what := p.src * 2 ^ 16 + p.dst } := by
    simp [found, Pkt.resendLog, left]
  exact List.ne_nil_of_mem (List.mem_filterMap.mpr ⟨k, named, logs⟩)

end

end Sys2Proof.Machine
end

section
/-!
SUPPORT. Link registers, and dies that fail a step of bring-up (R386 to R388).
-/
namespace Sys2Proof.Machine

/-! A link register (R387). -/

theorem fld_linkReg {lanes spare st : Nat} (spared : Nat) (fewLanes : lanes < 32) (fewSpares : spare < 4) (state : st < 4) :
    fld (linkReg lanes spare st spared) 0 5 = lanes ∧ fld (linkReg lanes spare st spared) 5 2 = spare ∧ fld (linkReg lanes spare st spared) 7 2 = st := by
  have counted : min spared 0xFFFFFFFF < 2 ^ 32 := by omega
  unfold linkReg
  generalize min spared 0xFFFFFFFF = n at counted
  rw [fld_zero, fld_eq, fld_eq, BitVec.toNat_ofNat]
  omega

theorem links_laneFail {s : State} {n : Nat} (left : 0 < fld (mget linkReset s.links n) 5 2) (trained : fld (mget linkReset s.links n) 7 2 < 2) :
    (s.laneFail n).1.links = mset linkReset s.links n (linkReg (fld (mget linkReset s.links n) 0 5) (fld (mget linkReset s.links n) 5 2 - 1)
      (fld (mget linkReset s.links n) 7 2) (fld (mget linkReset s.links n) 32 32 + 1)) := by
  unfold State.laneFail
  dsimp only
  rw [if_neg (Nat.not_le.mpr trained), if_pos left]

/-- With a spare left, a lane that fails takes it and leaves the rest of its link as it is (R386). -/
theorem laneFail_spare {s : State} {n : Nat} (left : 1 ≤ fld (mget linkReset s.links n) 5 2) (trained : fld (mget linkReset s.links n) 7 2 < 2) :
    let r := mget linkReset (s.laneFail n).1.links n
    fld r 0 5 = fld (mget linkReset s.links n) 0 5 ∧ fld r 5 2 = fld (mget linkReset s.links n) 5 2 - 1 ∧
      fld r 7 2 = fld (mget linkReset s.links n) 7 2 ∧ ∀ j, j ≠ n → mget linkReset (s.laneFail n).1.links j = mget linkReset s.links j := by
  rw [links_laneFail left trained, mget_mset_self]
  have lanes : fld (mget linkReset s.links n) 0 5 < 32 := (BitVec.extractLsb' 0 5 _).isLt
  have spares : fld (mget linkReset s.links n) 5 2 < 4 := (BitVec.extractLsb' 5 2 _).isLt
  obtain ⟨kept, fewer, still⟩ := fld_linkReg (fld (mget linkReset s.links n) 32 32 + 1) lanes
    (spare := fld (mget linkReset s.links n) 5 2 - 1) (st := fld (mget linkReset s.links n) 7 2) (by omega) (by omega)
  exact ⟨kept, fewer, still, fun j other => mget_mset_ne _ _ _ other⟩

/-! A die that is held (R388). -/

/-- Cores of a list that are made unavailable, and no other. -/
theorem core_unavailable (l : List Nat) (s : State) (c : Nat) :
    (l.foldl (fun s c => s.updCore c (fun k => { k with unavailable := true })) s).core c =
      if c ∈ l then { s.core c with unavailable := true } else s.core c := by
  induction l generalizing s with
  | nil => rfl
  | cons d l ih =>
    rw [List.foldl_cons, ih, State.core_updCore]
    by_cases here : c = d
    · subst here
      simp
    · simp [here]

theorem edges_log_unavailable (l : List Nat) (s : State) :
    let t := l.foldl (fun s c => s.updCore c (fun k => { k with unavailable := true })) s
    t.edges = s.edges ∧ t.log = s.log := by
  induction l generalizing s with
  | nil => exact ⟨rfl, rfl⟩
  | cons d l ih => exact ih _

theorem fld_setFld_one (r : Word) : fld (setFld r 0 2 1) 0 2 = 1 := by
  rw [setFld_eq_ofNat, fld_zero, BitVec.toNat_ofNat]
  omega

/-- Edges of a list that leave the mesh: each is out of service after, and every edge that was out stays so. -/
theorem edges_out (l : List Nat) (m : TMap Word) (e : Nat) (out : e ∈ l ∨ fld (mget 0 m e) 0 2 ≠ 0) :
    fld (mget 0 (l.foldl (fun m n => mset 0 m n (setFld (mget 0 m n) 0 2 1)) m) e) 0 2 ≠ 0 := by
  induction l generalizing m with
  | nil => simpa using out
  | cons n l ih =>
    refine ih _ ?_
    by_cases here : e = n
    · subst here
      rw [mget_mset_self, fld_setFld_one]
      exact .inr one_ne_zero
    · rw [mget_mset_ne _ _ _ here]
      simpa [here] using out

/-- A state whose cores of a list are unavailable, and whose edges of die `d` are out of the mesh: die `d` has failed a step. -/
def State.heldWith (s : State) (l : List Nat) (d step : Nat) : State :=
  let t := l.foldl (fun s c => s.updCore c (fun k => { k with unavailable := true })) s
  let out := (List.range 24).filter (fun n => ((edgeDies n).1 == d || (edgeDies n).2 == d) && fld (mget 0 t.edges n) 0 2 == 0)
  let edges := out.foldl (fun m n => mset 0 m n (setFld (mget 0 m n) 0 2 1)) t.edges
  ({ t with bring := mset 0 t.bring d (16 + step), edges } : State).logged 5 (256 * d + step)

theorem holdDie_eq (s : State) (d step : Nat) : s.holdDie d step = s.heldWith ((List.range 256).map (· + 256 * d)) d step := rfl

section
variable (s : State) (l : List Nat) (d step : Nat)

theorem core_heldWith (c : Nat) : (s.heldWith l d step).core c = if c ∈ l then { s.core c with unavailable := true } else s.core c :=
  core_unavailable l s c

theorem log_heldWith : (s.heldWith l d step).log = s.log ++ [{ kind := 5, what := 256 * d + step }] := by
  obtain ⟨-, log⟩ := edges_log_unavailable l s
  exact congrArg (· ++ [({ kind := 5, what := 256 * d + step } : LogEnt)]) log

theorem edges_heldWith {e : Nat} (few : e < 24) (die : (edgeDies e).1 = d ∨ (edgeDies e).2 = d) : fld (mget 0 (s.heldWith l d step).edges e) 0 2 ≠ 0 := by
  refine edges_out _ _ e ?_
  by_cases inMesh : fld (mget 0 (l.foldl (fun s c => s.updCore c (fun k => { k with unavailable := true })) s).edges e) 0 2 = 0
  · refine .inl (List.mem_filter.mpr ⟨List.mem_range.mpr few, ?_⟩)
    rw [inMesh]
    simpa using die
  · exact .inr inMesh

theorem mem_dieCores (c : Nat) : c ∈ (List.range 256).map (· + 256 * d) ↔ c / 256 = d := by
  simp only [List.mem_map, List.mem_range]
  constructor
  · rintro ⟨a, few, rfl⟩
    omega
  · intro die
    exact ⟨c % 256, by omega, by omega⟩

/-- A die that fails a step: its cores are unavailable, its edges out of the mesh, and it goes no further. -/
theorem holdDie_holds : mget 0 (s.holdDie d step).bring d = 16 + step ∧
    (s.holdDie d step).log = s.log ++ [{ kind := 5, what := 256 * d + step }] ∧
    (∀ c, c / 256 = d → ((s.holdDie d step).core c).unavailable = true) ∧ (∀ c, c / 256 ≠ d → (s.holdDie d step).core c = s.core c) ∧
    (∀ e, e < 24 → (edgeDies e).1 = d ∨ (edgeDies e).2 = d → fld (mget 0 (s.holdDie d step).edges e) 0 2 ≠ 0) := by
  rw [holdDie_eq]
  refine ⟨mget_mset_self .., log_heldWith .., fun c die => ?_, fun c die => ?_, fun e few die => edges_heldWith s _ d step few die⟩
  · rw [core_heldWith, if_pos ((mem_dieCores d c).mpr die)]
  · rw [core_heldWith, if_neg (mt (mem_dieCores d c).mp die)]

end

end Sys2Proof.Machine
end

section
/-!
SUPPORT. The events of the fabric (R376 to R391).
-/
namespace Sys2Proof.Machine

/-! Errors and their tests, and spares (R376, R378). -/

section
variable {s : State} {sel : Word} (given : s.ev.data = some sel) (kind : sel.toNat % 2 ^ 8 ≤ 6) (short : sel.toNat < 2 ^ 32)
include given kind short

/-- A selector that names a structure (R332). -/
theorem execSoftErrorDetected_named : exec .softErrorDetected s =
    if s.ev.k = 0 then .next (s.softError s.ev sel) else .next ((s.runTest sel).getD s) := by
  have named : ¬(6 < fld sel 0 8 ∨ fld sel 32 32 ≠ 0) := by
    rw [fld_zero, fld_eq]
    omega
  change execSoftErrorDetected s = _
  unfold execSoftErrorDetected
  simp only [given]
  exact if_neg named

theorem execSoftErrorDetected_corrected (first : s.ev.k = 0) (corrected : s.ev.unit = 0) :
    exec .softErrorDetected s = .next (if sel ∈ s.tests then s else { s with tests := s.tests ++ [sel] }) := by
  have unspoiled : s.spoil s.ev = s := by
    unfold State.spoil
    rw [corrected]
    rfl
  rw [execSoftErrorDetected_named given kind short, if_pos first, State.softError, unspoiled]
  simp only [List.contains_iff_mem]

theorem execSoftErrorDetected_tests (run : s.ev.k ≠ 0) (pending : sel ∈ s.tests) :
    let r := ({ s with tests := s.tests.filter (· != sel) } : State).selfTest sel false
    exec .softErrorDetected s = .next (if r.2 = 1 then r.1.logged 2 sel.toNat else r.1) := by
  rw [execSoftErrorDetected_named given kind short, if_neg run]
  refine next_of_step (show s.runTest sel = some _ from ?_)
  unfold State.runTest
  exact if_neg (by simpa using pending)

end

section
variable {s : State} (serves : s.unavail s.ev.core = false)
include serves

theorem execCoreRetirement_serving : exec .coreRetirement s = .next (s.retireRunning s.ev.core s.ev.group) :=
  congrArg Host.Outcome.next (if_neg (Bool.eq_false_iff.mp serves))

theorem execCoreRetirement_unspared (used : (s.cluster (clusterOf s.ev.core)).spareUsed = true) :
    exec .coreRetirement s = .next (s.updCore s.ev.core (fun k => { k with unavailable := true })) := by
  rw [execCoreRetirement_serving serves, State.retireRunning, State.retireCore, if_pos used]
  rfl

theorem execCoreRetirement_spared (ready : (s.cluster (clusterOf s.ev.core)).spareUsed = false) (whole : s.ev.group = []) :
    exec .coreRetirement s = .next (s.updCluster (clusterOf s.ev.core) (fun k => { k with spareUsed := true })) := by
  rw [execCoreRetirement_serving serves, State.retireRunning, State.retireCore, if_neg (Bool.eq_false_iff.mp ready), whole]
  rfl

end

/-! Packets (R379, R384). -/

theorem mirrinHead_invalid (w : Word) : (mirrinHead (w.setWidth 128)).invalid = decide (8 < w.toNat / 4 % 16) := by
  have len : (mirrinHead (w.setWidth 128)).len.toNat = w.toNat / 4 % 16 := by
    change ((w.setWidth 128).extractLsb' 2 4).toNat = _
    rw [BitVec.extractLsb'_toNat, BitVec.toNat_setWidth, Nat.shiftRight_eq_div_pow]
    omega
  rw [MirrinHead.invalid, len]

/-- A packet has been taken in, by `how` it came: its header corrected, or its acknowledgement lost. -/
def State.taken (s : State) (how port : Nat) (p : Pkt) : State :=
  let t := if how = 1 then s.logged 7 port else s
  if how = 4 then { t with unacked := t.unacked ++ [{ src := p.src, dst := p.dst, seq := p.seq, sentAt := t.cycles }] } else t

theorem missing_taken (s : State) (how port k : Nat) (p : Pkt) : (s.taken how port p).missing k = s.missing k := by
  have net : (s.taken how port p).net = s.net := by
    unfold State.taken
    dsimp only
    split
    · split
      · rfl
      · rfl
    · split
      · rfl
      · rfl
  unfold State.missing
  rw [net]

section
variable {s : State} {p : Pkt} (net : s.ev.slot = 0) (found : nth s.net s.ev.k = some p)
include net found

section
variable (received : p.received = true)
include received

/-- A packet that is lost on its way, or dropped for its header, is missing. -/
theorem execTransportPacketReceive_drops (how : s.ev.n ≠ 2)
    (dropped : s.ev.n = 3 ∨ (s.ev.data.map (fun w => (mirrinHead (w.setWidth 128)).invalid)).getD false = true) :
    exec .transportPacketReceive s = .next { s with net := updNth (fun p => { p with received := false }) s.net s.ev.k } := by
  refine next_of_step ?_
  rw [net]
  change s.receive s.ev.k s.ev.n s.ev.unit s.ev.data = _
  unfold State.receive
  simp only [found, received, Bool.not_true, Bool.false_eq_true, if_false]
  rw [if_pos (by simpa [how] using dropped), if_neg how]

omit net in
theorem receive_sound (plain : s.ev.data = none) (how : s.ev.n ≠ 2 ∧ s.ev.n ≠ 3) : s.receive s.ev.k s.ev.n s.ev.unit s.ev.data =
    some (((s.missing s.ev.k).bind (s.taken s.ev.n s.ev.unit p).resend).getD (s.taken s.ev.n s.ev.unit p)) := by
  unfold State.receive
  simp only [found, received, plain, Bool.not_true, Bool.false_eq_true, if_false]
  refine (if_neg (by simp [how])).trans ?_
  change (match (s.taken s.ev.n s.ev.unit p).missing s.ev.k with
    | some j => some (((s.taken s.ev.n s.ev.unit p).resend j).getD (s.taken s.ev.n s.ev.unit p))
    | none => some (s.taken s.ev.n s.ev.unit p)) = _
  rw [missing_taken]
  split
  · rename_i gap
    rw [gap]
    rfl
  · rename_i noGap
    rw [noGap]
    rfl

theorem execTransportPacketReceive_sound (plain : s.ev.data = none) (how : s.ev.n ≠ 2 ∧ s.ev.n ≠ 3) : exec .transportPacketReceive s =
    .next (((s.missing s.ev.k).bind (s.taken s.ev.n s.ev.unit p).resend).getD (s.taken s.ev.n s.ev.unit p)) := by
  refine next_of_step ?_
  rw [net]
  exact receive_sound found received plain how

theorem execTransportPacketReceive_whole (plain : s.ev.data = none) (noGap : s.missing s.ev.k = none) :
    (s.ev.n = 0 → exec .transportPacketReceive s = .next s) ∧
    (s.ev.n = 1 → exec .transportPacketReceive s = .next (s.logged 7 s.ev.unit)) ∧
    (s.ev.n = 4 → exec .transportPacketReceive s =
      .next { s with unacked := s.unacked ++ [{ src := p.src, dst := p.dst, seq := p.seq, sentAt := s.cycles }] }) := by
  have sound (how : s.ev.n ≠ 2 ∧ s.ev.n ≠ 3) : exec .transportPacketReceive s = .next (s.taken s.ev.n s.ev.unit p) := by
    rw [execTransportPacketReceive_sound net found received plain how, noGap]
    rfl
  refine ⟨fun how => ?_, fun how => ?_, fun how => ?_⟩
  all_goals
    rw [sound (by omega), how]
    rfl

theorem execTransportPacketReceive_gap {j : Nat} (plain : s.ev.data = none) (sound : s.ev.n = 0) (gap : s.missing s.ev.k = some j) :
    exec .transportPacketReceive s = .next ((s.resend j).getD s) := by
  rw [execTransportPacketReceive_sound net found received plain (by omega), gap, sound]
  rfl

end

end

end Sys2Proof.Machine
end

section
/-!
SUPPORT. Resends that are due, firmware, bring-up, partitions and power (R379, R386 to R391).
-/
namespace Sys2Proof.Machine

section
variable {s : State} {p : Pkt} (net : s.ev.slot = 0) (found : nth s.net s.ev.k = some p) (lost : p.received = false)
  (due : max p.sentAt p.again + 2048 ≤ s.cycles)
include net found lost due

omit lost in
theorem execTransportResendTimeout_due {t : State} (step : s.resend s.ev.k = some t) : exec .transportResendTimeout s = .next t := by
  refine next_of_step ?_
  rw [net]
  change s.resendDue s.ev.k = some t
  unfold State.resendDue
  simp only [found]
  exact (if_neg (Nat.not_lt.mpr due)).trans step

/-- A packet without acknowledgement is sent again, with those of its pair after it. -/
theorem transportResendTimeout_again (left : p.body.ofStrand = true → p.resends < 8) : ∃ t l, exec .transportResendTimeout s = .next t ∧
    nth t.net s.ev.k = some { p with received := true, resends := p.resends + 1, again := s.cycles } ∧
    t.log = s.log ++ l ∧ l ≠ [] ∧ (∀ e ∈ l, e = { kind := 3, what := p.src * 2 ^ 16 + p.dst }) ∧
    (∀ j q, nth s.net j = some q → j < s.ev.k ∨ q.src ≠ p.src ∨ q.dst ≠ p.dst ∨ q.received = true → nth t.net j = some q) ∧
    (∀ j q, s.ev.k ≤ j → nth s.net j = some q → q.src = p.src → q.dst = p.dst → q.resends < 8 →
      ∃ r, nth t.net j = some r ∧ r.received = true ∧ r.body = q.body) := by
  have unspent : p.spent = false := by simpa [Pkt.spent, lost] using left
  refine ⟨_, _, execTransportResendTimeout_due net found due (resend_follows found lost unspent), ?_, log_sendAgain .., log_follows_ne_nil found unspent,
    log_follows found, fun j q there kept => ?_, fun j q after there src dst fewer => ?_⟩
  · rw [nth_sendAgain, if_pos ((mem_follows found found).mpr ⟨le_rfl, rfl, rfl⟩), found, Option.map_some, p.sentAgain_of_missing _ lost unspent]
  · rw [nth_sendAgain]
    split
    · rename_i named
      obtain ⟨after, src, dst⟩ := (mem_follows found there).mp named
      have received : q.received = true := by
        rcases kept with before | other | other | received
        · exact absurd after (Nat.not_le.mpr before)
        · exact absurd src other
        · exact absurd dst other
        · exact received
      rw [there, Option.map_some, q.sentAgain_of_received _ received]
    · exact there
  · rw [nth_sendAgain, if_pos ((mem_follows found there).mpr ⟨after, src, dst⟩), there, Option.map_some]
    exact ⟨_, rfl, q.received_sentAgain _ (.inr (q.spent_fewer fewer)), q.body_sentAgain _⟩

/-- A strand's request that has been sent again eight times is given up. -/
theorem transportResendTimeout_givesUp {c x op : Nat} {r : MemReq} (request : p.body = .mem c x op r) (spent : 8 ≤ p.resends) :
    exec .transportResendTimeout s = .next ((s.dropPkt s.ev.k).answerFault c x op r cTransport r.ea ((s.dropPkt s.ev.k).replyAt c r)) := by
  refine execTransportResendTimeout_due net found due ?_
  unfold State.resend
  simp only [found, lost, Bool.false_eq_true, if_false]
  refine (if_pos (by simp [request, Msg.ofStrand, spent])).trans ?_
  rw [request]
  rfl

end

theorem execLaneFailure_link {s : State} (link : s.ev.k ≠ 1) (real : s.ev.n < 32) : exec .laneFailure s = .next (s.laneFail s.ev.n).1 :=
  congrArg Host.Outcome.next ((if_neg link).trans (if_pos real))

/-! Firmware (R388 to R390). -/

section
variable {s : State}

theorem runSwitch_held {r : FwReq} (only : s.fwPending = [r]) (accepting : s.accepting r.agent = true) : s.runSwitch = none := by
  unfold State.runSwitch
  simp only [only, List.find?_cons, accepting, Bool.not_true, List.find?_nil]

theorem runSwitch_free {r : FwReq} {kind : Nat} (only : s.fwPending = [r]) (accepting : s.accepting r.agent = false) (named : agentKind r.agent = some kind) :
    s.runSwitch = some (({ s with fwPending := [] } : State).takeImage r.agent kind
      ((List.range r.len).map (fun j => BitVec.ofNat 8 (bits (s.dramRead r.addr r.len) (8 * j) 8)))) := by
  unfold State.runSwitch
  simp only [only, List.find?_cons, accepting, Bool.not_false, named, List.erase_cons_head]
  rfl

section
variable {kind : Nat} (first : s.ev.k = 0) (named : agentKind s.ev.unit = some kind) (inDram : s.ev.va.toNat + s.ev.n ≤ 2 ^ 40)
include first named inDram

theorem execFirmwareSwitch_asks : exec .firmwareSwitch s =
    (let t : State := { s with fwPending := s.fwPending ++ [{ agent := s.ev.unit, addr := s.ev.va.toNat, len := s.ev.n }] }
    .next (t.runSwitch.getD t)) := by
  refine next_of_step ?_
  rw [first]
  exact if_neg (by rw [named, decide_eq_false (Nat.not_lt.mpr inDram)]; exact Bool.false_ne_true)

variable (none_ : s.fwPending = [])
include none_

theorem execFirmwareSwitch_takes (accepting : s.accepting s.ev.unit = false) : exec .firmwareSwitch s = .next (s.takeImage s.ev.unit kind
    ((List.range s.ev.n).map (fun j => BitVec.ofNat 8 (bits (s.dramRead s.ev.va.toNat s.ev.n) (8 * j) 8)))) := by
  have same : ({ s with fwPending := [] } : State) = s := by rw [← none_]
  rw [execFirmwareSwitch_asks first named inDram, none_, List.nil_append]
  have taken := runSwitch_free (s := { s with fwPending := [{ agent := s.ev.unit, addr := s.ev.va.toNat, len := s.ev.n }] }) rfl accepting named
  dsimp only at taken ⊢
  rw [taken, same]
  rfl

theorem execFirmwareSwitch_waits (accepting : s.accepting s.ev.unit = true) : exec .firmwareSwitch s =
    .next { s with fwPending := [{ agent := s.ev.unit, addr := s.ev.va.toNat, len := s.ev.n }] } := by
  rw [execFirmwareSwitch_asks first named inDram, none_, List.nil_append]
  have held := runSwitch_held (s := { s with fwPending := [{ agent := s.ev.unit, addr := s.ev.va.toNat, len := s.ev.n }] }) rfl accepting
  dsimp only
  rw [held]
  rfl

end

theorem execFirmwareSwitch_recovers (recovery : 1 < s.ev.k) (held : 16 ≤ mget 0 s.bring 1) :
    exec .firmwareSwitch s = .next { s with recovery := some s.ev.image } := by
  refine next_of_step ?_
  split
  · rename_i first
    omega
  · rename_i second
    omega
  · exact if_pos held

/-! Bring-up (R388). -/

section
variable (step : s.ev.slot ≠ 1) (real : s.ev.unit < 16) (start : mget 0 s.bring s.ev.unit = 0)
include step real start

theorem execColdReset_first {t : State} (next_ : (match imageVer 0 (if s.ev.unit = 1 then s.recovery.getD s.ev.image else s.ev.image) with
    | some v => some { s with fwVer := mset 0 s.fwVer s.ev.unit v, bring := mset 0 s.bring s.ev.unit 1 }
    | none => some (s.holdDie s.ev.unit 1)) = some t) : exec .coldReset s = .next t := by
  have up : s.bringUp s.ev.unit s.ev = some t := by
    unfold State.bringUp
    simp only [start]
    rw [if_neg (by omega)]
    exact next_
  exact (if_neg step).trans (congrArg (fun o => Host.Outcome.next (o.getD s)) up)

end

/-! Partitions (R388). -/

theorem execHostPartitionCreate_made {p : PartSpec} (asked : s.ev.spec = some p) (ok : s.specOk p = true) :
    exec .hostPartitionCreate s = .next (s.createPart p) := by
  change execHostPartitionCreate s = _
  unfold execHostPartitionCreate
  simp only [asked, ok, if_true]

/-! Power (R391). -/

theorem execPowerSample_due (due : s.sampledAt + 1500 ≤ s.cycles) :
    exec .powerSample s = .next { s with power := (s.ev.n :: s.power).take 10000, sampledAt := s.cycles } :=
  congrArg Host.Outcome.next (if_neg (Nat.not_lt.mpr due))

section
variable (due : s.throttledAt + 15000 ≤ s.cycles)
include due

theorem execThrottleStep_takes (hot : 5500000 * s.power.length < s.power.foldl (· + ·) 0) (left : s.throttle < 4) :
    exec .throttleStep s = .next { s with throttle := s.throttle + 1, throttledAt := s.cycles } := by
  refine next_of_step (show s.throttleMove = some _ from ?_)
  unfold State.throttleMove
  simp [Nat.not_lt.mpr due, State.powerAbove, hot, left]

theorem execThrottleStep_releases (cool : s.power = [] ∨ s.power.foldl (· + ·) 0 < 5200000 * s.power.length) (taken : 0 < s.throttle) :
    exec .throttleStep s = .next { s with throttle := s.throttle - 1, throttledAt := s.cycles } := by
  have notAbove : s.powerAbove 5500000 = false := by
    refine decide_eq_false ?_
    rcases cool with empty | cool
    · rw [empty]
      decide
    · omega
  have below : s.powerBelow 5200000 = true := by simpa [State.powerBelow] using cool
  have moved : s.throttle - 1 ≠ s.throttle := by omega
  refine next_of_step (show s.throttleMove = some _ from ?_)
  unfold State.throttleMove
  simp [Nat.not_lt.mpr due, notAbove, below, moved]

end

end

end Sys2Proof.Machine
end

section
/-!
SUPPORT. The fabric (R376 to R391) as a whole.
-/
namespace Sys2Proof.Machine

/-- Settles O50, event by event: each one's condition holds, and the operation that it then makes says the rest. -/
theorem fabricEvents : Obligations.FabricEvents := by
  unfold Obligations.FabricEvents
  intro s
  refine ⟨?corrected, ?tested, ?unspared, ?spared, ?badHeader, ?whole, ?gap, ?lost, ?again, ?lane, ?switch, ?recovers, ?starts, ?ends, ?cold, ?bringUp,
    ?create, ?sample, ?takes, ?releases⟩
  case corrected => exact fun sel given kind short first corrected => execSoftErrorDetected_corrected given kind short first corrected
  case tested => exact fun sel given kind short run pending => execSoftErrorDetected_tests given kind short run pending
  case unspared => exact execCoreRetirement_unspared
  case spared => exact execCoreRetirement_spared
  case badHeader =>
    intro p w net found received how given long
    refine execTransportPacketReceive_drops net found received (by omega) (.inr ?_)
    rw [given, Option.map_some, Option.getD_some, mirrinHead_invalid]
    exact decide_eq_true long
  case whole => exact fun p net found received plain noGap => execTransportPacketReceive_whole net found received plain noGap
  case gap => exact fun p j net found received plain sound gap => execTransportPacketReceive_gap net found received plain sound gap
  case lost => exact fun p net found received lost => execTransportPacketReceive_drops net found received (by omega) (.inl lost)
  case again =>
    exact fun p net found lost due =>
      ⟨transportResendTimeout_again net found lost due, fun c x op r request spent => transportResendTimeout_givesUp net found lost due request spent⟩
  case lane => exact fun link real left trained => ⟨_, execLaneFailure_link link real, laneFail_spare left trained⟩
  case switch =>
    exact fun kind first named inDram none_ =>
      ⟨execFirmwareSwitch_takes first named inDram none_, execFirmwareSwitch_waits first named inDram none_⟩
  case recovers => exact execFirmwareSwitch_recovers
  case starts =>
    intro starts fresh
    exact congrArg Host.Outcome.next ((if_pos starts).trans (if_neg (by simpa using fresh)))
  case ends => exact fun ends => congrArg Host.Outcome.next (if_neg (Bool.eq_false_iff.mp ends))
  case cold => exact fun cold => if_pos cold
  case bringUp =>
    intro step real start
    refine ⟨fun v accepted => execColdReset_first step real start ?_, fun refused => ?_⟩
    · rw [accepted]
    · exact ⟨_, execColdReset_first step real start (by rw [refused]), holdDie_holds s s.ev.unit 1⟩
  case create => exact fun p asked ok => ⟨_, execHostPartitionCreate_made asked ok, mget_mset_self none s.parts p.pid (some { spec := p }), rfl, rfl⟩
  case sample => exact execPowerSample_due
  case takes => exact execThrottleStep_takes
  case releases => exact execThrottleStep_releases

end Sys2Proof.Machine
end
